-- ==== Sys2Proof/Word.lean ====
section
/-! DEFINITION. The word types of the VXN-8800 (R5, R27-R29), the sparse store that every large memory
is held in, and the data that commands carry: modes, Pass frames and bus accesses. -/

namespace Sys2Proof

/-- One byte. -/
abbrev Byte := BitVec 8

/-- A 32-bit lane word (R28) or register (R421). -/
abbrev Word := BitVec 32

/-- A 64-bit word: Manager registers, Basin and SPAD words. -/
abbrev DWord := BitVec 64

/-- A four-state position, `(u, v)` with `u` the higher bit (R27). -/
abbrev Pos := BitVec 2

/-- A 512-byte step word (R64). -/
abbrev StepWord := BitVec 4096

/-- A store over a large index range: pairs of index and content in strictly rising index order,
none of which holds what an unlisted index reads as. -/
abbrev Sparse (α : Type) := List (Nat × α)

/-- `lane(0b10)`: every position X (R28, R29). -/
abbrev laneX : Word := 0xAAAAAAAA#32

/-- The twelve operating modes of a Plain (R23, R367). -/
inductive Mode where
  | valley | boot | load | hold | run | step | replay | bridge | transact | checked | quarantine | test
deriving DecidableEq, Repr

/-- The states of a Pass link (R167). -/
inductive LinkState where
  | off | train | openWait | active | retrain | drain | closed
deriving DecidableEq, Repr

/-- A Pass frame whose check holds (R152): header fields, then the 24 payload bytes, byte `i` at
bits `8 * i + 7 : 8 * i`. -/
structure Frame where
  /-- TYPE (R153). -/
  typ : BitVec 4 := 0
  /-- CHAN. -/
  chan : BitVec 6 := 0
  /-- SEQ. -/
  seq : BitVec 12 := 0
  /-- LEN. -/
  len : BitVec 3 := 0
  /-- FLAGS, header bits 31:25. -/
  flags : BitVec 7 := 0
  /-- Payload bytes 27:4 of the frame. -/
  payload : BitVec 192 := 0
deriving DecidableEq, Repr

/-- A codeword as a lane of a link receives it (R149, R150): the ACK of its link-control bytes, the lane, and how many of its
bytes are bad. -/
structure LaneCodeword where
  ack : BitVec 12
  lane : Nat
  bad : Nat
deriving DecidableEq, Repr

/-- A codeword with the CODE of its link-control bytes (R150). -/
structure ControlCodeword extends LaneCodeword where
  code : BitVec 4
deriving DecidableEq, Repr

/-- A Pass link, with the number of lanes that a retraining attempt has trained (R160). -/
structure TrainedLink where
  link : Fin 8
  width : Nat
deriving DecidableEq, Repr

/-- The agent that makes a register access: the masters of R307 that reach registers, the host through the
Plain's function and through PF0, and the management slave of R413. -/
inductive Agent where
  | hostFn | hostPf0 | mgrMachine | mgrSupervisor | mgrUser | loader | testPort | i2c
deriving DecidableEq, Repr

/-- One access that a master issues to a Plain's bus matrix (R307, R313). -/
structure BusReq where
  /-- Master M0-M7. -/
  master : Fin 8
  /-- Manager level of M0 and M1: 0 user, 1 supervisor, 2 machine. -/
  lvl : Fin 3
  /-- A write. -/
  write : Bool
  /-- Plain internal address. -/
  addr : BitVec 40
  /-- Bytes of the access. -/
  size : Nat
  /-- Bytes of a write, lowest address first. -/
  data : List Byte
  /-- The DMA channel of M2 and M3, whose QoS is their rank (R301, R313); for M6 at T9 the tile of the loader's private
  select (R425). -/
  tag : Nat
deriving DecidableEq, Repr

end Sys2Proof
end

