-- ==== Sys2Proof/Syntax.lean ====
section
/-! DEFINITION. The commands of the block: one constructor per row of the opcode table, in the table's order.
`p` is the Plain (PL0-PL7), `l` a Pass link, `t` a virtual tile 8r + c, `r` a ring, `c` a DMA channel, `e` a PIO
engine, `who` the agent that makes a register access, `v` a register value. Where the spec's step depends on a
measurement or on something that arrives from outside, the operand carries it. -/

namespace Sys2Proof

inductive Instr where
  | stepRelease (p : Fin 8) (lastCols : BitVec 9)
  | backPressureStallEnd (p : Fin 8)
  | boundarySequence (p : Fin 8)
  | captureRoomFreed (p : Fin 8)
  | cycleRelease (p : Fin 8)
  | stallTimeout (p : Fin 8)
  | captureQ7Pop (p : Fin 8) (t : Fin 64)
  | captureDrain (p : Fin 8)
  | checkpointDrainDone (p : Fin 8)
  | mmRequestTake (p : Fin 8) (t : Fin 64)
  | mmRequestComplete (p : Fin 8) (t : Fin 64)
  | patrolScrub (p : Fin 8) (word : Nat)
  | basinTempSample (p : Fin 8) (temp : Byte)
  | passTxTake (p l : Fin 8)
  | frameSend (p l : Fin 8)
  | dataFrameRx (p l : Fin 8) (f : Frame)
  | cycleFrameRx (p l : Fin 8) (f : Frame)
  | creditFrameRx (p l : Fin 8) (f : Frame)
  | openFrameRx (p l : Fin 8) (f : Frame)
  | refuseFrameRx (p l : Fin 8) (f : Frame)
  | closingFrameRx (p l : Fin 8) (f : Frame)
  | returnFrameRx (p l : Fin 8) (f : Frame)
  | trainFrameRx (p l : Fin 8) (f : Frame)
  | reservedFrameRx (p l : Fin 8) (f : Frame)
  | ackRx (p l : Fin 8) (rx : ControlCodeword)
  | nakRx (p l : Fin 8) (rx : LaneCodeword)
  | replayTimeout (p l : Fin 8)
  | creditReturnTimeout (p l : Fin 8)
  | passRxPush (p l : Fin 8) (chan : Fin 64)
  | laneFail (p l : Fin 8) (working : Nat)
  | retrainDone (p : Fin 8) (l : TrainedLink)
  | retrainAttemptFail (p l : Fin 8) (working : Nat)
  | linkTrained (p l : Fin 8) (width : Nat)
  | openResend (p l : Fin 8)
  | heldRepeat (p : Fin 8)
  | syncLost (p l : Fin 8)
  | closeDeliveryEnd (p l : Fin 8)
  | closeTimeout (p l : Fin 8)
  | linkCtlEn (p l : Fin 8) (v : Word)
  | linkCtlRetrain (p l : Fin 8)
  | linkCtlClose (p l : Fin 8)
  | linkCtlRetRel (p l : Fin 8)
  | linkCtlOpen (p l : Fin 8)
  | capCtlStart (p : Fin 8) (v : Word)
  | capCtlStop (p : Fin 8) (v : Word)
  | ckptCtlNow (p : Fin 8) (v : Word)
  | rplCtlGo (p : Fin 8) (v : Word)
  | replayLogInject (p : Fin 8)
  | colCtlClr (p : Fin 8) (v : Word)
  | qsCtlClr (p : Fin 8) (v : Word)
  | basinCtlClr (p : Fin 8) (v : Word)
  | spadCtlClr (p : Fin 8)
  | colHopsRead (p : Fin 8)
  | nvsWrRead (p : Fin 8)
  | rcCounterRead (p : Fin 8) (off : BitVec 28)
  | basinRsvWrite (p : Fin 8) (k : Fin 5) (v : Word)
  | paceCtlWrite (p : Fin 8) (v : Word)
  | jobLoad (p : Fin 8) (seq : Word) (addr len : DWord) (vplain : BitVec 16) (bind : DWord)
  | loadCommit (p : Fin 8)
  | jobMode (p : Fin 8) (seq : Word) (code : Byte)
  | jobHold (p : Fin 8) (seq : Word)
  | jobStep (p : Fin 8) (seq n : Word)
  | jobCheckpoint (p : Fin 8) (seq : Word)
  | jobReplay (p : Fin 8) (seq : Word) (slot : BitVec 4) (restore : Bool) (stop : BitVec 48)
  | jobReset (p : Fin 8) (seq : Word)
  | jobLinkOpen (p : Fin 8) (seq : Word) (link : Byte)
  | jobLinkClose (p : Fin 8) (seq : Word) (link : Byte)
  | jobLinkRetrain (p : Fin 8) (seq : Word) (link : Byte)
  | jobLinkRetRel (p : Fin 8) (seq : Word) (link : Byte)
  | epochSwitch (p : Fin 8) (seq : Word) (target : BitVec 48) (addr : DWord) (len : Word)
  | regWrite (p : Fin 8) (seq : Word) (pairs : List (Word × Word))
  | xactAdvance (p : Fin 8) (seq : Word) (cycle : BitVec 48)
  | xactWrite (p : Fin 8) (seq : Word) (cycle : BitVec 48) (haddr : DWord) (woff len : Word)
  | xactRead (p : Fin 8) (seq : Word) (cycle : BitVec 48) (haddr : DWord) (woff len : Word)
  | xactTransferDone (p : Fin 8)
  | bulkCopy (p : Fin 8) (seq : Word) (src dst : DWord) (len : Word)
  | bulkFill (p : Fin 8) (seq : Word) (dst : DWord) (len : Word) (pattern : DWord)
  | bulkCompare (p : Fin 8) (seq : Word) (src dst : DWord) (len : Word)
  | ringDb (p : Fin 8) (r : Fin 4) (v : Word)
  | descriptorAccept (p : Fin 8) (r : Fin 4)
  | ringAbort (p : Fin 8) (q : Word)
  | fwStart (p : Fin 8) (v : Word)
  | fwPost (p : Fin 8) (v : Word)
  | ringInit (p : Fin 8) (r : Fin 4) (v : Word)
  | ringCfgWrite (p : Fin 8) (r : Fin 4) (v : Word)
  | cqCseqWrite (p : Fin 8) (v : Word)
  | completionRecordWrite (p : Fin 8)
  | statusBlockWrite (p : Fin 8)
  | descriptorReread (p : Fin 8) (r : Fin 4)
  | functionLevelReset (p : Fin 8)
  | mbGo (p : Fin 8) (m : Fin 4) (who : Agent) (v : Word)
  | mbAck (p : Fin 8) (m : Fin 4) (v : Word)
  | mbLockRead (p : Fin 8) (m : Fin 4) (who : Agent)
  | mbLockRelease (p : Fin 8) (m : Fin 4) (who : Agent)
  | dbSet (p : Fin 8) (v : Word)
  | dbStatClear (p : Fin 8) (v : Word)
  | dbMaskWrite (p : Fin 8) (host : Bool) (v : Word)
  | managerInstruction (p : Fin 8) (lockstep : BitVec 2)
  | longResult (p : Fin 8)
  | loadDataReturn (p : Fin 8)
  | managerStoreAccept (p : Fin 8)
  | blockOpDone (p : Fin 8)
  | lockstepSelfTest (p : Fin 8) (detected realMismatch : Bool)
  | progressWarn (p : Fin 8)
  | progressTimeout (p : Fin 8)
  | chCtlGo (p : Fin 8) (c : Fin 16) (v : Word)
  | chCtlCancel (p : Fin 8) (c : Fin 16) (v : Word)
  | dmaStartEvent (p : Fin 8)
  | dmaDescriptorFetch (p : Fin 8) (c : Fin 16)
  | dmaDescriptorComplete (p : Fin 8) (c : Fin 16)
  | timerFire (p n : Fin 8)
  | timerPeriodWrite (p n : Fin 8) (v : Word)
  | chCfgWrite (p : Fin 8) (c : Fin 16) (v : Word)
  | busAccessServed (p : Fin 8) (waiting : List BusReq)
  | hostBar0Access (p : Fin 9) (off : BitVec 28) (size : Nat) (write : Bool) (data : List Byte)
  | bmCtlRecovery (p : Fin 8) (who : Agent) (v : Word)
  | spadCeWriteback (p : Fin 8)
  | nvsLineWriteDone (p : Fin 8)
  | secureWipeDone (p : Fin 8)
  | pioBr (p : Fin 8) (e : Fin 4) (pads : BitVec 48)
  | pioDrv (p : Fin 8) (e : Fin 4)
  | pioXfer (p : Fin 8) (e : Fin 4) (pads : BitVec 48)
  | pioLdsh (p : Fin 8) (e : Fin 4)
  | pioStsh (p : Fin 8) (e : Fin 4)
  | pioCtr (p : Fin 8) (e : Fin 4)
  | pioAwait (p : Fin 8) (e : Fin 4) (pads : BitVec 48)
  | pioSigEvt (p : Fin 8) (e : Fin 4)
  | pioSigPace (p : Fin 8) (e : Fin 4)
  | pioSigDma (p : Fin 8) (e : Fin 4)
  | pioSigHalt (p : Fin 8) (e : Fin 4)
  | pioSigDelay (p : Fin 8) (e : Fin 4)
  | pioReservedInstr (p : Fin 8) (e : Fin 4)
  | pioTxWrite (p : Fin 8) (e : Fin 4) (who : Agent) (v : Word)
  | pioRxRead (p : Fin 8) (e : Fin 4) (who : Agent)
  | pioStart (p : Fin 8) (v : Word)
  | pioStop (p : Fin 8) (v : Word)
  | pioBankWrite (p : Fin 8) (v : Word)
  | pioCfgWrite (p : Fin 8) (e : Fin 4) (k : Fin 33) (v : Word)
  | grantInterval
  | powerMeasure (p : Fin 8) (qw : Word)
  | throttleEnd (p : Fin 8) (cause : Fin 4)
  | vinSample (mv iinMa : Nat)
  | supplyReset
  | supplyResetRelease
  | railFault (p : Fin 9)
  | thermalSample (temps : List Nat)
  | tamperDetect (sensor : Fin 5)
  | arbHostWrite (v : Word)
  | baseReservationGrant (p : Fin 8)
  | domainSwitchDone (p : Fin 8) (dom : Fin 10)
  | coldStart
  | rstNAssert
  | devRstWarm
  | pcieHotReset
  | plainCtlWake (p : Fin 8) (who : Agent)
  | plainCtlReset (p : Fin 8) (who : Agent)
  | plainCtlMgrReset (p : Fin 8) (who : Agent)
  | plainCtlColReset (p : Fin 8) (who : Agent) (col : Nat)
  | plainCtlReady (p : Fin 8) (who : Agent)
  | plainCtlFaultAck (p : Fin 8) (who : Agent)
  | rejoinGo (p : Fin 8) (v : Word)
  | bootRomInstall (p : Fin 8)
  | fltCtlClose (p : Fin 8) (who : Agent)
  | fltCtlClr (p : Fin 8)
  | tapReset
  | tapIdcode
  | tapSamplePreload
  | tapExtest
  | tapClamp
  | tapHighz
  | tapBypass
  | tapAuth (token : BitVec 1664)
  | authVerifyDone
  | authLockoutEnd
  | testctlRead (p : Fin 8) (addr : BitVec 40) (sizeCode : BitVec 2)
  | testctlWrite (p : Fin 8) (addr : BitVec 40) (sizeCode : BitVec 2) (data : DWord)
  | testctlPoll
  | bistGo (v : Word)
  | bistDone (results : List Word)
  | devRstTestWrite (v : Word)
  | obsWrite (p : Fin 9) (who : Agent) (off : BitVec 28) (v : Word)
  | i2cWrite (off : BitVec 24) (v : Word)
  | i2cRead (off : BitVec 24)
  | registerWrite (p : Fin 9) (who : Agent) (off : BitVec 28) (v : Word)
  | frameCheckFail (p l : Fin 8)
deriving DecidableEq, Repr

end Sys2Proof
end

