-- ==== Sys2Proof/Decode.lean ====
section
/-! DEFINITION. Decoding of a command word. The opcode table gives its rows no bits, so no word spells a command. -/

namespace Sys2Proof

/-- The command that a word spells by the table's bits: none, since no row of the table has bits. -/
def decodeTableWord (_nbits _w : Nat) : Option Instr := none

end Sys2Proof
end

