-- ==== Sys2Proof/Config.lean ====
section
/-! DEFINITION. What an implementation fixes and the spec leaves open: free values (no body, so no proof
can see them), and the standards the spec names without restating (SHA-384, ECDSA P-384, AES-256-GCM). -/

namespace Sys2Proof.Config

/-- SHA-384 of a byte string, byte 0 of the digest in bits 7:0 (R200, R203; DESIGN CHOICE, log entry 4). -/
opaque sha384 : List Byte → BitVec 384

/-- ECDSA P-384 verification: key (x then y), digest, signature (r then s) (R200, R376, R398; DESIGN CHOICE, log entry 4). -/
opaque ecdsaVerify : List Byte → BitVec 384 → List Byte → Bool

/-- AES-256-GCM decryption under a key: initialisation vector, additional data, ciphertext, tag
(R201; DESIGN CHOICE, log entry 4). `none` when the tag does not verify. -/
opaque aesGcmDecrypt : List Byte → List Byte → List Byte → List Byte → List Byte → Option (List Byte)

/-- Unwrapping of a wrapped key slot under the fuse-held device key (R376 step 5; DESIGN CHOICE, log entry 4). -/
opaque unwrapKey : List Byte → Option (List Byte)

/-- What a Basin byte in free space reads as before it is written (R134; DESIGN CHOICE, log entry 5). -/
opaque basinFree : Nat → Byte

/-- What a byte of host memory reads as where the state lists none (DESIGN CHOICE, log entry 6). -/
opaque hostFree : Nat → Byte

/-- The contents of the boot ROM (R309 names it and gives no content; DESIGN CHOICE, log entry 7). -/
opaque romByte : Nat → Byte

/-- A fresh random challenge (R398; DESIGN CHOICE, log entry 8). -/
opaque freshChallenge : Nat → Word

/-- The pattern that BIST leaves in a schedule store (R401, R426; DESIGN CHOICE, log entry 9). -/
opaque bistPattern : Nat → StepWord

/-- The line of the fetch buffer that a new line replaces when all 16 are in use (R231; DESIGN CHOICE, log entry 10). -/
opaque fetchVictim : Nat → Fin 16

/-- The pattern that a link's TRAIN frames carry (R153; DESIGN CHOICE, log entry 11). -/
opaque trainPattern : Nat → BitVec 192

/-- The two Reed-Solomon check bytes over the other 126 bytes of a codeword: R149 gives the field and no generator
polynomial (DESIGN CHOICE, log entry 51). -/
opaque rsCheck : List Byte → BitVec 16

/-- The step period of a region at a core voltage in mV, in ps, before the grade's bound (R26, R345; DESIGN CHOICE, log entry 12). -/
opaque regionPs : Nat → Nat → Nat

/-- With adaptive voltage, the core voltage in mV of the Plain-core domain of a Plain, or of the always-on domain for 8, before the
limits of R344 and R345 (DESIGN CHOICE, log entry 12). -/
opaque regionMv : Nat → Nat

/-- The data writes of the `n`th DMA descriptor with BARRIER = 0 arrive after its write-back where they go to another target
(14 R296; DESIGN CHOICE, log entry 58). -/
opaque dmaLate : Nat → Bool

/-- ns that a select change of an observation tree settles, at most 100 (R399; DESIGN CHOICE, log entry 59). -/
opaque obsSettle : Nat

/-- Palerku's PCI vendor identifier (R255; DESIGN CHOICE, log entry 57). -/
opaque vendorId : BitVec 16

/-- RATE that link training gives: 0 to 2 (22 R423; DESIGN CHOICE, log entry 15). -/
opaque hostLinkRate : Fin 3

/-- Link training gives 16 lanes, else 8 (R423; DESIGN CHOICE, log entry 15). -/
opaque hostLinkWide : Bool

/-- The levels of the board's I2C_ADR[2:0] straps (21 R412; DESIGN CHOICE, log entry 15). -/
opaque i2cStraps : BitVec 3

/-- Link training below 64 GT/s gives FLIT mode; at 64 GT/s it always does (R255, R423; DESIGN CHOICE, log entry 15). -/
opaque hostLinkFlit : Bool

/-- The levels from outside of the pins of the boundary register that the device does not drive, at the `n`th boundary scan (20 R395;
a free value, log entry 49). -/
opaque scanOutside : Nat → BitVec 465

/-- The levels that the `n`th boundary scan shifts into the boundary register (20 R395; a free value, log entry 49). -/
opaque scanLevel : Nat → BitVec 465

/-- The pins that the contents which the `n`th boundary scan shifts in drive (20 R395; a free value, log entry 49). -/
opaque scanDrive : Nat → BitVec 465

/-- The `n`th reset of the TAP is made by TRST_N, which stays low after it, and not by five TCK periods (20 R394, 21 R412; a free
value, log entry 49). -/
opaque trstHeld : Nat → Bool

end Sys2Proof.Config
end

