-- ==== Sys2Proof/Machine/State.lean ====
section
/-! DEFINITION. Everything the spec gives the module: eight Plains, the device-wide controllers, the fuses, and the
queue of waiting commands. Plain data throughout. A field's docstring gives its width, the rule that names it and
its reset value; a field's default is its value right after reset. `Sparse` fields list only what differs from the
value an unlisted index reads as, which the docstring names. -/

namespace Sys2Proof.Machine

/-! ## Tiles (03, 04, 05, 06) -/

/-- A memory-model request in q0 (R86). -/
structure MmReq where
  /-- MM.WR. -/
  write : Bool
  /-- MM.RG. -/
  rg : Word
  /-- MM.AH. -/
  ah : Word
  /-- MM.AL. -/
  al : Word
  /-- The datum of MM.WR. -/
  data : Word
deriving DecidableEq, Repr

/-- A Pass word in q6 (R90), stamped with the executed-step count at its push (R165). -/
structure PxWord where
  link : Fin 8
  chan : Fin 64
  data : Word
  stamp : Nat
deriving DecidableEq, Repr

/-- A capture entry in q7 (R92). -/
structure CapEntry where
  tag : BitVec 16
  data : Word
deriving DecidableEq, Repr

/-- A result on its way to a result port (R58, R73). -/
structure InFlight where
  /-- Result port. -/
  port : Nat
  /-- Word that arrives. -/
  value : Word
  /-- Step from which moves see it. -/
  due : Nat
  /-- Trigger step. -/
  trig : Nat
  /-- Lowest slot that started the operation. -/
  slot : Nat
deriving DecidableEq, Repr

/-- One virtual tile T(r, c), index 8r + c. -/
structure Tile where
  /-- Near file nf0-nf255, 32 bits each; 03 R55, R60; reset lane(0b10), 18 R371; unlisted reads lane(0b10). -/
  nf : Sparse Word := []
  /-- Far store, 32,768 words of 32 bits; 04 R83; reset lane(0b10), 18 R371; unlisted reads lane(0b10). -/
  fs : Sparse Word := []
  /-- Schedule store, 8,192 words of 4,096 bits; 03 R46, R64; reset 0, 22 R426; unlisted reads 0. -/
  store : Sparse StepWord := []
  /-- Schedule-store 64-bit words (index 64 × step + n) with an uncorrectable error; 03 R69; reset none. -/
  storeUe : Sparse Bool := []
  /-- Schedule-store 64-bit words with a correctable error; 03 R69; reset none. -/
  storeCe : Sparse Bool := []
  /-- Patch overlay entries at 8,192 × bank + step index, four banks of 64; 10 R216; reset empty. -/
  overlay : Sparse StepWord := []
  /-- Snapshot buffer, the near file's copy; 09 R192; reset 0, 22 R426; unlisted reads 0. -/
  snapNf : Sparse Word := []
  /-- Snapshot buffer, the far store's copy; 09 R192; reset 0, 22 R426; unlisted reads 0. -/
  snapFs : Sparse Word := []
  /-- Operand and result ports by port identifier, 32 bits each; 03 R55, R58; reset lane(0b10), R62; unlisted reads lane(0b10). -/
  ports : Sparse Word := []
  /-- Results in flight; 03 R58, R59; reset none. -/
  inflight : List InFlight := []
  /-- Guards gd1-gd7, 2 bits each; 03 R51; reset X, R51; unlisted reads 0b10. -/
  gd : Sparse Pos := []
  /-- Router input register IN_N, 32 bits; 05 R99; reset lane(0b10), 03 R62. -/
  inN : Word := laneX
  /-- Router input register IN_E, 32 bits; 05 R99; reset lane(0b10), 03 R62. -/
  inE : Word := laneX
  /-- Router input register IN_S, 32 bits; 05 R99; reset lane(0b10), 03 R62. -/
  inS : Word := laneX
  /-- Router input register IN_W, 32 bits; 05 R99; reset lane(0b10), 03 R62. -/
  inW : Word := laneX
  /-- Router local output register LOC_OUT, 32 bits; 05 R99; reset lane(0b10), 03 R62. -/
  locOut : Word := laneX
  /-- Queue q0, 16 memory-model requests, head first; 06 R113; reset empty, R123. -/
  q0 : List MmReq := []
  /-- Queue q1, 16 responses; 06 R113; reset empty, R123. -/
  q1 : List Word := []
  /-- Queue q2, 8 inbound Pass words; 06 R113; reset empty, R123. -/
  q2 : List Word := []
  /-- Queue q3, 8 inbound Pass words; 06 R113; reset empty, R123. -/
  q3 : List Word := []
  /-- Queue q4, 8 inbound Pass words; 06 R113; reset empty, R123. -/
  q4 : List Word := []
  /-- Queue q5, 8 inbound Pass words; 06 R113; reset empty, R123. -/
  q5 : List Word := []
  /-- Queue q6, 16 outbound Pass words; 06 R113; reset empty, R123. -/
  q6 : List PxWord := []
  /-- Queue q7, 32 capture entries; 06 R113; reset empty, R123. -/
  q7 : List CapEntry := []
  /-- A push into q0 that waits for room; 06 R119; reset none. -/
  held0 : Option MmReq := none
  /-- A push into q6 that waits for room; 06 R119; reset none. -/
  held6 : Option PxWord := none
  /-- A push into q7 that waits for room; 06 R119; reset none. -/
  held7 : Option CapEntry := none
  /-- Free q1 response credits, 0-16; 06 R120; reset 16, R123. -/
  credits : Nat := 16
  /-- Requests that have taken effect and are not yet complete, oldest first: the response of a read, none for a write; 04 R86, R88; reset none. -/
  served : List (Option Word) := []
  /-- The last entry of q0 is the push of the last step executed; 06 R114; reset 0. -/
  fresh0 : Bool := false
  /-- The last entry of q7 is the push of the last step executed; 06 R114; reset 0. -/
  fresh7 : Bool := false
  /-- TILE_STAT, 32 bits; 03 R71; reset 0. -/
  stat : Word := 0
  /-- TILE_FAULT, 32 bits; 03 R71; reset 0. -/
  fault : Word := 0
  /-- TILE_OPSTAT, 32 bits; 04 R96; reset 0. -/
  opstat : Word := 0
  /-- TQ_FLAGS, 32 bits; 06 R126; reset 0. -/
  tqFlags : Word := 0
  /-- Result ports that have received a result in the current cycle (hazard detector); 03 R71; reset none. -/
  arrived : List Nat := []
  /-- Capture reference table, 1,024 entries of a 16-bit tag and a 32-bit value at index tag mod 1,024; 09 R182; reset all invalid; unlisted is invalid. -/
  capRef : Sparse (BitVec 16 × Word) := []
  /-- Entries q7 gave the capture engine in the current cycle, oldest first (trigger matching sees every one); 09 R188; reset none. -/
  capSeen : List CapEntry := []
  /-- Selected entries of the current cycle whose records go into its section, oldest first, with the encoded record; 09 R180-R182; reset none. -/
  capRecs : List DWord := []
  /-- Queues of this tile that underran in the current cycle; 09 R183, R186; reset none. -/
  under : List Nat := []
deriving DecidableEq, Repr

/-! ## Col and stall registers (05 R112, 06 R126) -/

/-- Plain-wide Col registers. -/
structure Col where
  /-- COL_CTL.FREEZE, 1 bit; 05 R112; reset 0. -/
  freeze : Bool := false
  /-- COL_FAULT, 32 bits; 05 R112; reset 0. -/
  fault : Word := 0
  /-- COL_DROP_SUM_HI : COL_DROP_SUM, 64 bits; 05 R112; reset 0. -/
  dropSum : DWord := 0
  /-- COL_DROP_CNT, 32 bits; 05 R112; reset 0. -/
  dropCnt : Word := 0
  /-- Count behind COL_HOPS_LO and COL_HOPS_HI, 64 bits; 05 R112; reset 0. -/
  hops : DWord := 0
  /-- COL_HOPS_HI as captured, 32 bits; 05 R112; reset 0. -/
  hopsHi : Word := 0
  /-- COL_LAG0-COL_LAG8, 32 bits each; 05 R112; reset 0; unlisted reads 0. -/
  lag : Sparse Word := []
  /-- Last columns of an executed step that has not completed, to be counted in COL_LAG at its join, 9 bits; 05 R110, R112; reset 0. -/
  lagPend : BitVec 9 := 0
  /-- Physical columns that were last at the last step join, 9 bits; 05 R110, 20 R399; reset 0. -/
  lastJoin : BitVec 9 := 0
deriving DecidableEq, Repr

/-- Stall registers (06 R126) and the measurement behind them (06 R124). -/
structure Stall where
  /-- QS_CTL.FREEZE, 1 bit; 06 R126; reset 0. -/
  freeze : Bool := false
  /-- QS_WAIT_STEPS, 32 bits; 06 R126; reset 0. -/
  waitSteps : Word := 0
  /-- QS_BP_STEPS, 32 bits; 06 R126; reset 0. -/
  bpSteps : Word := 0
  /-- QS_STALL_LAST, 32 bits; 06 R126; reset 0. -/
  last : Word := 0
  /-- QS_STALL_MAX, 32 bits; 06 R126; reset 0. -/
  max : Word := 0
  /-- QS_WAIT_BOUND, 32 bits; 06 R126; reset 0. -/
  bound : Word := 0
  /-- QS_OVER_CNT, 32 bits; 06 R126; reset 0. -/
  overCnt : Word := 0
  /-- Stall total of the running cycle in ns; 06 R124; reset 0. -/
  acc : Nat := 0
  /-- Time at which the present stall began; 06 R124; reset none. -/
  since : Option Nat := none
deriving DecidableEq, Repr

/-! ## Cycle control (01, 18) -/

/-- Where a Plain stands in its design cycle (R20). -/
inductive Phase where
  /-- Not in a cycle: HOLD, or a mode that does not step. -/
  | stopped
  /-- Steps of the cycle are executing; all steps below `Run.step` have been released. -/
  | stepping
  /-- A released step is delayed by back-pressure (R119). -/
  | backPressure
  /-- Row 2 waits for room in the value share (R184). -/
  | row2
  /-- Row 9: waits for the pace, credit, limit, transfers and the sync gate (R21). -/
  | row9
deriving DecidableEq, Repr

/-- What a Plain does once its links have closed (R369 step 2, R372 step 2, R378 step 1, 09 R194 step 1). -/
inductive AfterClose where
  /-- A Plain reset of the given cause code, steps 3 to 5. -/
  | reset (cause : BitVec 4)
  /-- Entry to VALLEY, steps 2 to 4. -/
  | valley
  /-- Entry to QUARANTINE, steps 3 and 4; the boot ROM runs when `boot` (R369, R377). -/
  | quarantine (boot : Bool)
  /-- A replay, with RESTORE of slot `slot` when `restoring`, once the links that it closes have closed (09 R194). -/
  | replay (slot : Nat) (restoring : Bool)
deriving DecidableEq, Repr

/-- Mode, cycle and pace of a Plain. -/
structure Run where
  /-- PLAIN_MODE.MODE, 4-bit code; 18 R367, R382; reset VALLEY (0x0). -/
  mode : Mode := .valley
  /-- PLAIN_MODE.PREV, 4-bit code; 18 R382; reset 0x0. -/
  prev : Mode := .valley
  /-- PLAIN_MODE.ADMITTED, LDR_STAT.ADMITTED, BASIN_STAT.ADMITTED, 1 bit; 18 R382; reset 0. -/
  admitted : Bool := false
  /-- PLAIN_MODE.COL_DIRTY, 1 bit; 18 R373; reset 0. -/
  colDirty : Bool := false
  /-- PLAIN_MODE.REFUSED, 1 bit; 18 R382; reset 0. -/
  refused : Bool := false
  /-- PLAIN_MODE.WAKE_LOCK, 1 bit; 18 R382, 19 R388; reset 0. -/
  wakeLock : Bool := false
  /-- A tamper was detected in DEPLOYED while the Plain was in VALLEY: it enters QUARANTINE at its next BOOT; 18 R381; reset 0. -/
  tamperPend : Bool := false
  /-- PLAIN_RST_CAUSE.CAUSE, 4 bits; 18 R382; reset 0x9. -/
  rstCause : BitVec 4 := 9
  /-- The reset under way is, or has joined with, a function-level reset, whose HOST_FLR event is to be queued; 13 R287; reset 0. -/
  flrPend : Bool := false
  /-- PLAIN_RST_CAUSE.COUNT, 16 bits; 18 R382; reset 0. -/
  rstCount : BitVec 16 := 0
  /-- BOOT_CNT, 32 bits; 18 R382; reset 0. -/
  bootCnt : Word := 0
  /-- BOOT_STAT, 32 bits; 18 R382; reset 0x30. -/
  bootStat : Word := 0x30
  /-- FW_VER, 32 bits; 18 R382; reset 0. -/
  fwVer : Word := 0
  /-- REJOIN_CTL.OFFSET, 24 bits; 18 R382; reset 0. -/
  rejoinOff : BitVec 24 := 0
  /-- REJOIN_STAT, 32 bits; 18 R382; reset 0. -/
  rejoinStat : Word := 0
  /-- Current design cycle, a 48-bit number: the cycle in progress or, in HOLD, the next to begin; 01 R20, 08 R169; reset 0. -/
  cycle : Nat := 0
  /-- Index of the next step to release, 0 to L; 03 R46; reset 0. -/
  step : Nat := 0
  /-- Where the Plain stands in its cycle; 01 R20; reset stopped. -/
  phase : Phase := .stopped
  /-- Steps executed since reset, the stamp of PX pushes; 08 R165; reset 0. -/
  stepCount : Nat := 0
  /-- Cycles left of a STEP job; 13 R269; reset none. -/
  stepsLeft : Option Nat := none
  /-- A hold command is pending; 01 R21; reset none. -/
  holdCmd : Bool := false
  /-- A hold is due at the next boundary (CONFIG_MISMATCH or SKEW, a passed hold target, a Basin uncorrectable word); 01 R21, 08 R170, R173, 19 R386; reset none. -/
  holdNext : Bool := false
  /-- The hold that is due was raised by a fault, so that the CYCLE frames of its boundary ask the peers to hold; 19 R391; reset 0. -/
  holdAsks : Bool := false
  /-- A JOB MODE waits for row 8; 18 R368; reset none. -/
  modePend : Option Mode := none
  /-- The Plain holds after a replay (leaving HOLD may branch); 09 R197; reset 0. -/
  replayed : Bool := false
  /-- Number of the cycle at whose boundary HOLD was last entered; 08 R173; reset none. -/
  heldAt : Option Nat := none
  /-- Time at which step 0 of the cycle was released; 10 R209, R212; reset 0. -/
  cycleStart : Nat := 0
  /-- Time at which row 9 was entered; 08 R172; reset 0. -/
  row9At : Nat := 0
  /-- Paced start time of the next cycle: the last start plus the period then in force; none while pacing is off and before a release from HOLD, which is a new reference; 10 R212, R216; reset none. -/
  paceRef : Option Nat := none
  /-- The cycle began after its paced start time; 08 R153, 10 R212; reset 0. -/
  late : Bool := false
  /-- What row 1 of a boundary that waits in row 2 has found: a hold command, CKPT_OK in every tile, a checkpoint due for a JOB; 01 R21, 09 R184, R191; reset none. -/
  row1 : Option (Bool × Bool × Bool) := none
  /-- A fault recovery has overlapped the cycle; 10 R211; reset 0. -/
  recovered : Bool := false
  /-- What follows once the links that close have closed; 18 R369, R372, R378, 09 R194; reset none. -/
  after : Option AfterClose := none
  /-- The boot ROM runs once the secure part has been wiped; 18 R369, R374, 15 R325; reset 0. -/
  bootPend : Bool := false
  /-- NSEC at zero: time of the last Plain reset; 11 R237; reset 0. -/
  resetAt : Nat := 0
deriving DecidableEq, Repr

/-! ## Basin (07) -/

/-- The Basin, its controller and region table. -/
structure Basin where
  /-- Stack contents by Basin offset, 24 GiB of bytes; 07 R127; reset lost: an unlisted byte reads a free value, R134. -/
  data : List Host.Cell := []
  /-- Written-tags by 512-byte block number; 02 R43; reset clear, 07 R128; unlisted is clear. -/
  tags : Sparse Bool := []
  /-- 64-bit words (offset / 8) with an uncorrectable error; 07 R141; reset none. -/
  ue : Sparse Bool := []
  /-- 64-bit words with a correctable error; 07 R141; reset none. -/
  ce : Sparse Bool := []
  /-- 4 KiB blocks recorded since the mark, by block number; 07 R144; reset none. -/
  recorded : Sparse Bool := []
  /-- A mark has been placed since reset; 07 R144; reset 0. -/
  marked : Bool := false
  /-- Recording stopped until the next mark; 07 R145; reset 0. -/
  stopped : Bool := false
  /-- First record position of each journal generation; 07 R144, 09 R194; reset none. -/
  genStart : Sparse Nat := []
  /-- BASIN_CTL.SCRUB_EN, 1 bit; 07 R148; reset 1. -/
  scrubEn : Bool := true
  /-- BASIN_STAT bits 5:0, 6 bits; 07 R148; reset 0. -/
  stat : BitVec 6 := 0
  /-- BASIN_STAT.REFRESH, 2 bits; 07 R148; reset 0. -/
  refresh : BitVec 2 := 0
  /-- BASIN_CE_CNT, 32 bits; 07 R148; reset 0. -/
  ceCnt : Word := 0
  /-- BASIN_UE_CNT, 32 bits; 07 R148; reset 0. -/
  ueCnt : Word := 0
  /-- BASIN_UE_ADDR_LO, 32 bits; 07 R148; reset 0. -/
  ueLo : Word := 0
  /-- BASIN_UE_ADDR_HI, 32 bits; 07 R148; reset 0. -/
  ueHi : Word := 0
  /-- BASIN_OVL, 32 bits; 07 R148; reset 0. -/
  ovl : Word := 0
  /-- BASIN_TEMP.TEMP, 8 bits; 07 R146, R148; reset 0. -/
  temp : Byte := 0
  /-- BASIN_RSV0-BASIN_RSV4, 10 bits each; 07 R135, R148; reset 0; unlisted reads 0. -/
  rsv : Sparse Nat := []
  /-- AREA_BASE0-AREA_BASE4, 23 bits each; 07 R129, R148; reset 0; unlisted reads 0. -/
  areaBase : Sparse Nat := []
  /-- AREA_SIZE0-AREA_SIZE4, 23 bits each; 07 R129, R148; reset 0; unlisted reads 0. -/
  areaSize : Sparse Nat := []
  /-- JRNL_HEAD.OFF64, 29 bits; 07 R148; reset 0. -/
  head : Nat := 0
  /-- JRNL_TAIL.OFF64, 29 bits; 07 R148; reset 0. -/
  tail : Nat := 0
  /-- JRNL_GEN, 32 bits; 07 R148; reset 0. -/
  gen : Word := 0
  /-- RGN_0-RGN_255, 128 bits each; 07 R130, R148; reset 0; unlisted reads 0. -/
  rgn : Sparse (BitVec 128) := []
  /-- Memory-model requests that the controller has received and that have not taken effect, in order of receipt, with their tiles; 02 R44, 07 R138, R147; reset none. -/
  recv : List (Fin 64 × MmReq) := []
deriving DecidableEq, Repr

/-! ## Pass links (08) -/

/-- What became of a frame in the replay buffer (R156, R175, R176). -/
inductive FrameMark where
  | held | returned (words : Nat) | unconfirmed
deriving DecidableEq, Repr

/-- A frame in the replay buffer (R156). -/
structure HeldFrame where
  frame : Frame
  /-- ACK covers it. -/
  acked : Bool
  /-- Words of a DATA frame that returned credits have not covered yet. -/
  unconf : Nat
  mark : FrameMark
deriving DecidableEq, Repr

/-- A word in a link's inbound buffer (R163, R166), with the sequence number and LEN of its frame; `old` when the link has
re-entered ACTIVE since it arrived, so that it lies outside the new grants. -/
structure InWord where
  chan : Nat
  data : Word
  seq : BitVec 12
  len : Nat
  old : Bool
deriving DecidableEq, Repr

/-- One Pass link endpoint. -/
structure Link where
  /-- LINK_CTL.EN, 1 bit; 08 R179; reset 0. -/
  en : Bool := false
  /-- LINK_CTL.FOREIGN, 1 bit; 08 R177, R179; reset 0. -/
  foreign : Bool := false
  /-- LINK_STAT.STATE, 3 bits; 08 R167; reset OFF. -/
  state : LinkState := .off
  /-- LINK_STAT.WIDTH, 4 bits; 08 R179; reset 0. -/
  width : Nat := 0
  /-- LINK_STAT.REFUSE, 3 bits; 08 R179; reset 0. -/
  refuse : BitVec 3 := 0
  /-- LINK_STAT.CLOSE, 3 bits; 08 R179; reset 0. -/
  closeReason : BitVec 3 := 0
  /-- LINK_STAT.CLOSE_PEER, 1 bit; 08 R179; reset 0. -/
  closePeer : Bool := false
  /-- LINK_STAT bits 23:16, 8 bits; 08 R179; reset 0. -/
  flags : BitVec 8 := 0
  /-- LINK_SEQ.TX_NEXT, 12 bits; 08 R179; reset 0. -/
  txNext : BitVec 12 := 0
  /-- LINK_SEQ.TX_ACK, 12 bits; 08 R179; reset 0. -/
  txAck : BitVec 12 := 0
  /-- LINK_RXSEQ.RX_NEXT, 12 bits; 08 R179; reset 0. -/
  rxNext : BitVec 12 := 0
  /-- LINK_FEC_CE, 32 bits; 08 R179; reset 0. -/
  fecCe : Word := 0
  /-- LINK_FEC_UE, 32 bits; 08 R150, R179; reset 0. -/
  fecUe : Word := 0
  /-- LINK_CRC_CNT, 32 bits; 08 R179; reset 0. -/
  crcCnt : Word := 0
  /-- LINK_REPLAY_CNT, 32 bits; 08 R157, R179; reset 0. -/
  replayCnt : Word := 0
  /-- LINK_RETRAIN_CNT, 32 bits; 08 R160, R179; reset 0. -/
  retrainCnt : Word := 0
  /-- LINK_DROP, 32 bits; 08 R155, R167, R429; reset 0. -/
  drop : Word := 0
  /-- LINK_TXDISC, 32 bits; 08 R165; reset 0. -/
  txDisc : Word := 0
  /-- LINK_REFUSED, 32 bits; 08 R168; reset 0. -/
  refused : Word := 0
  /-- LINK_PEER_CYC, 48 bits; 08 R179; reset 0. -/
  peerCyc : BitVec 48 := 0
  /-- LINK_PEER_CYC_HI bits 20:16 (PACE_CODE, HELD, HOLDREQ), 5 bits; 08 R179; reset 0. -/
  peerFlags : BitVec 5 := 0
  /-- LINK_PEER_EPOCH, 32 bits; 08 R179; reset 0. -/
  peerEpoch : Word := 0
  /-- LINK_PEER_TAG_HI : LINK_PEER_TAG_LO, 64 bits; 08 R179; reset 0. -/
  peerTag : DWord := 0
  /-- CHAN_0-CHAN_63, 32 bits each; 08 R163, R179; reset 0; unlisted reads 0. -/
  chan : Sparse Word := []
  /-- CHAN_TX.CRED, 11 bits each; 08 R164, R179; reset 0; unlisted reads 0. -/
  cred : Sparse Nat := []
  /-- CHAN_TX.GRANTED, 1 bit each; 08 R164, R179; reset 0; unlisted reads 0. -/
  granted : Sparse Bool := []
  /-- Replay buffer, 256 entries, oldest first; 08 R156; reset empty. -/
  replay : List HeldFrame := []
  /-- Words taken from q6 and not yet in a frame, oldest first; 08 R165; reset none. -/
  txWords : List (Fin 64 × Word) := []
  /-- Sequence number from which frames are to be sent again; 08 R157; reset none. -/
  replayFrom : Option (BitVec 12) := none
  /-- CYCLE frames due, oldest first; 08 R159, R169; reset none. -/
  dueCycle : List Frame := []
  /-- A CLOSING frame due, with its reason and REPLY; 08 R175; reset none. -/
  dueClosing : Option (BitVec 3 × Bool) := none
  /-- RETURN entries due; 08 R175; reset none. -/
  dueReturn : List (BitVec 16) := []
  /-- Initial grants due, channel by channel; 08 R164; reset none. -/
  dueInit : List (Nat × Nat) := []
  /-- Unreturned credits per channel; 08 R164; reset none; unlisted is 0. -/
  owed : Sparse Nat := []
  /-- Time at which the oldest unreturned credit arose; 08 R164; reset none. -/
  owedAt : Option Nat := none
  /-- A CREDIT frame is due; 08 R164; reset 0. -/
  dueCredit : Bool := false
  /-- An unsequenced frame (OPEN, REFUSE) is due; 08 R153, R168; reset none. -/
  dueOpen : List Frame := []
  /-- A NAK goes out with the next codewords; 08 R150, R156; reset 0. -/
  nakDue : Bool := false
  /-- NAK has been sent for the present gap; 08 R156; reset 0. -/
  nakSent : Bool := false
  /-- Inbound buffer, oldest word first; 08 R163, R166; reset empty. -/
  inbuf : List InWord := []
  /-- Failed retraining attempts in a row; 08 R161; reset 0. -/
  attempts : Nat := 0
  /-- Lanes that the next training uses; 08 R160; reset 0. -/
  working : Nat := 0
  /-- An OPEN that meets the checks has been received; 08 R168; reset 0. -/
  openIn : Bool := false
  /-- OPEN has been sent; 08 R168; reset 0. -/
  openOut : Bool := false
  /-- Number of the latest CYCLE frame received; 08 R172; reset none. -/
  rxCycle : Option Nat := none
  /-- Check failures since the last row 6: CONFIG_MISMATCH; 08 R170; reset 0. -/
  failMismatch : Bool := false
  /-- Check failures since the last row 6: SKEW; 08 R170; reset 0. -/
  failSkew : Bool := false
  /-- The link opened after row 5 and joins the sync gate from the next boundary; 08 R172; reset 0. -/
  joinLate : Bool := false
  /-- CLOSING has been sent, at this time; 08 R175, R176; reset none. -/
  closeSent : Option Nat := none
  /-- The peer's CLOSING has been taken; 08 R175; reset 0. -/
  closeTaken : Bool := false
  /-- This end started the close; 08 R175; reset 0. -/
  closeMine : Bool := false
  /-- RETURN entries have been made, step 3; 08 R175; reset 0. -/
  returnsMade : Bool := false
  /-- A close that waits for a retrain to finish, with its reason; 08 R175; reset none. -/
  closePend : Option (BitVec 3) := none
  /-- The close leads to OFF (Plain reset, VALLEY), once every link of the Plain has closed; 08 R167, 18 R371, R372, R378; reset 0. -/
  thenOff : Bool := false
  /-- The link reopens with REPLAY = 1 after its close; 09 R194; reset 0. -/
  thenReplay : Bool := false
  /-- Time of the last frame received; 08 R172; reset 0. -/
  lastRx : Nat := 0
  /-- Time at which ACK last changed or a frame was last sent afresh; 08 R157; reset 0. -/
  ackAt : Nat := 0
  /-- A replay or retrain is in progress until ACK covers this frame; 08 R157, 10 R211; reset none. -/
  recoverTo : Option (BitVec 12) := none
  /-- A replay or retrain has been in progress in the present cycle; 10 R211; reset 0. -/
  recovered : Bool := false
  /-- Frames sent and not yet gone from the wire, oldest first; 08 R152; reset none. -/
  wire : List Frame := []
  /-- Link-control bytes (ACK, CODE) of the last codeword sent, 16 bits; 08 R150; reset 0. -/
  ctlOut : BitVec 16 := 0
  /-- Bytes of the frame stream that do not fill a codeword of every active lane yet, oldest first; 08 R149; reset none. -/
  stream : List Byte := []
  /-- The codewords that went out last, one of 128 bytes for each active lane, in lane order; 08 R149; reset none. -/
  codewords : List (List Byte) := []
  /-- Bytes of the frame stream in the frames that have arrived since the lanes were trained; 08 R149, R150; reset 0. -/
  rxBytes : Nat := 0
  /-- Codewords of each lane that have arrived since the lanes were trained; 08 R149; reset 0; unlisted is 0. -/
  rxWords : Sparse Nat := []
  /-- Uncorrectable codewords whose frames have not all arrived: lane and number on the lane; 08 R150; reset none. -/
  badWords : List (Nat × Nat) := []
  /-- Uncorrectable codewords of the last 1 µs: lane and time; 08 R160; reset none. -/
  ueLog : List (Nat × Nat) := []
  /-- Time at which the present retraining attempt began; 08 R160, R161; reset 0. -/
  retrainAt : Nat := 0
  /-- The present retrain tests every lane again (LINK_CTL.RETRAIN); 08 R162; reset 0. -/
  retest : Bool := false
  /-- Time at which OPEN was last sent in the present OPEN_WAIT; 08 R167; reset none. -/
  openAt : Option Nat := none
  /-- Both ends started the close, so that this end also does what Y does; 08 R176; reset 0. -/
  closeBoth : Bool := false
  /-- Sequence numbers of DATA frames that were discarded with CHAN_ERR since the link entered ACTIVE; 08 R166, R175; reset none. -/
  discarded : List (BitVec 12) := []
deriving DecidableEq, Repr

/-- A configuration record (08 R170). -/
structure CfgRec where
  epoch : Word := 0
  tag : DWord := 0
  first : Nat := 0
deriving DecidableEq, Repr

/-- Plain-wide sync state (08 R169-R174, R179). -/
structure Sync where
  /-- SYNC_CTL.DIAM, 8 bits; 08 R179; reset 0. -/
  diam : BitVec 8 := 0
  /-- SYNC_CTL.TMO, 16 bits; 08 R179; reset 0x3E8. -/
  tmo : BitVec 16 := 0x3E8
  /-- SYNC_STAT bits 4:0, 5 bits; 08 R179; reset 0. -/
  stat : BitVec 5 := 0
  /-- Current configuration record (SYNC_EPOCH, SYNC_TAG); 08 R170; reset 0. -/
  cur : CfgRec := {}
  /-- Previous configuration record (SYNC_EPOCH_PREV); 08 R170; reset none. -/
  prev : Option CfgRec := none
  /-- Pending configuration record (SYNC_SW, SW_PEND); 08 R170; reset none. -/
  pend : Option CfgRec := none
  /-- Smallest known hold target (SYNC_HOLD, HOLD_PEND), 48 bits; 08 R173; reset none. -/
  target : Option Nat := none
  /-- SYNC_GATE_NS, 32 bits; 08 R179; reset 0. -/
  gateNs : Word := 0
  /-- The last CYCLE frame sent; 08 R169; reset none. -/
  lastCycle : Option Frame := none
  /-- Time of the last HELD repeat; 08 R169; reset 0. -/
  heldAt : Nat := 0
deriving DecidableEq, Repr

/-! ## Capture, triggers, checkpoints and replay (09) -/

/-- A record in the staging buffer: its bytes and whether it lies in the value share (R184). -/
structure StageRec where
  bytes : List Byte
  value : Bool
deriving DecidableEq, Repr

/-- A checkpoint directory entry (R192), with the epoch in force for its start cycle. -/
structure CkptEntry where
  gen : Word
  start : Nat
  epoch : Nat
deriving DecidableEq, Repr

/-- The header of a checkpoint that drains from the snapshot buffers (R192). -/
structure CkptDrain where
  slot : Nat
  header : List Byte
  gen : Word
  start : Nat
  epoch : Nat
  /-- A journal overflow has made it unusable before it became valid (R145, R193). -/
  spoiled : Bool
deriving DecidableEq, Repr

/-- The capture and replay engine and the trigger unit. -/
structure Capture where
  /-- CAP_STAT.STARTED, 1 bit; 09 R199; reset 0. -/
  started : Bool := false
  /-- CAP_STAT.GAP, 1 bit; 09 R199; reset 0. -/
  gap : Bool := false
  /-- CAP_STAT.WRAPPED, 1 bit; 09 R199; reset 0. -/
  wrapped : Bool := false
  /-- CAP_STAT.STALL, 1 bit; 09 R199; reset 0. -/
  stall : Bool := false
  /-- CAP_RECORDS, 32 bits; 09 R199; reset 0. -/
  records : Word := 0
  /-- CAP_GAP_CNT, 32 bits; 09 R199; reset 0. -/
  gapCnt : Word := 0
  /-- CAP_CTL.NODELTA, 1 bit; 09 R199; reset 0. -/
  noDelta : Bool := false
  /-- CAP_CTL.LOSSY, 1 bit; 09 R199; reset 0. -/
  lossy : Bool := false
  /-- CAP_CTL.DEPTH, 4 bits; 09 R199; reset 0x3. -/
  depth : BitVec 4 := 3
  /-- CAP_SEL_HI : CAP_SEL_LO, 64 bits; 09 R199; reset all ones. -/
  sel : DWord := 0xFFFFFFFFFFFFFFFF
  /-- CAP_TAGWIN.LO, 16 bits; 09 R199; reset 0. -/
  winLo : BitVec 16 := 0
  /-- CAP_TAGWIN.HI, 16 bits; 09 R199; reset 0xFFFF. -/
  winHi : BitVec 16 := 0xFFFF
  /-- CAP_HEAD, 35 bits; 09 R199; reset 0. -/
  head : Nat := 0
  /-- CAP_OLDEST, 48 bits; 09 R199; reset 0. -/
  oldest : Nat := 0
  /-- A START or STOP that takes effect at row 3 (start = true); 09 R190; reset none. -/
  pendStart : Option Bool := none
  /-- Staging buffer, 256 KiB, oldest record first; 09 R184; reset empty. -/
  staging : List StageRec := []
  /-- Records of the section under way at row 2 that wait for room in staging, in order; 09 R180, R184; reset none. -/
  outq : List StageRec := []
  /-- External writes and PIO reads completed in the HOLD after a replay, which a branch keeps; 09 R186, R197; reset none. -/
  holdNew : List (List Byte) := []
  /-- External writes and PIO reads of the current cycle, in completion order; 09 R183; reset none. -/
  inputs : List (List Byte) := []
  /-- PASS_IN records of the current cycle, in arrival order; 09 R183; reset none. -/
  passIn : List (List Byte) := []
  /-- PASS_IN records that arrive after the last step of the cycle and belong to the next cycle's section; 09 R183, R186; reset none. -/
  passNext : List (List Byte) := []
  /-- Value records discarded in the current cycle; 09 R184; reset 0. -/
  discarded : Nat := 0
  /-- Unwrapped log position of the first record of each retained cycle's section; 09 R185, R195; reset none. -/
  sections : Sparse Nat := []
  /-- Unwrapped log position of the hold part of the boundary before each cycle; 09 R185, R192; reset none. -/
  holdParts : Sparse Nat := []
  /-- Bytes ever put into the stream; 09 R180; reset 0. -/
  written : Nat := 0
  /-- Bytes ever drained to the capture area; 09 R180; reset 0. -/
  drained : Nat := 0
  /-- CKPT_CTL.PERIOD, 24 bits; 09 R199; reset 0. -/
  period : BitVec 24 := 0
  /-- CKPT_CTL.KEEP, 4 bits; 09 R199; reset 1. -/
  keep : BitVec 4 := 1
  /-- CKPT_STAT.DUE, 1 bit; 09 R199; reset 0. -/
  due : Bool := false
  /-- A checkpoint is due for a JOB; 13 R270; reset 0. -/
  dueJob : Bool := false
  /-- CKPT_STAT.DRAINING and what drains; 09 R192; reset none. -/
  draining : Option CkptDrain := none
  /-- CKPT_STAT.LAST_SLOT, 4 bits; 09 R199; reset 0. -/
  lastSlot : BitVec 4 := 0
  /-- CKPT_SKIP, 32 bits; 09 R199; reset 0. -/
  skip : Word := 0
  /-- CKPT_DIR slots 0-15; 09 R199; reset invalid; unlisted is invalid. -/
  dir : Sparse CkptEntry := []
  /-- RPL_CTL.SLOT, 4 bits; 09 R199; reset 0. -/
  rplSlot : BitVec 4 := 0
  /-- RPL_CTL.RESTORE, 1 bit; 09 R199; reset 0. -/
  rplRestore : Bool := false
  /-- RPL_STOP, 48 bits; 09 R199; reset 0. -/
  rplStop : BitVec 48 := 0
  /-- RPL_STAT.ACTIVE, 1 bit; 09 R199; reset 0. -/
  rplActive : Bool := false
  /-- RPL_STAT.DONE, 1 bit; 09 R199; reset 0. -/
  rplDone : Bool := false
  /-- RPL_STAT.ERR, 3 bits; 09 R199; reset 0. -/
  rplErr : BitVec 3 := 0
  /-- PASS_IN records of the replayed cycle injected so far; 09 R195; reset 0. -/
  rplNext : Nat := 0
  /-- TRIG_HIT, 32 bits; 09 R199; reset 0. -/
  hit : Word := 0
  /-- TRIG_HIT_CYC, 48 bits; 09 R199; reset 0. -/
  hitCyc : BitVec 48 := 0
  /-- TRIG_MASK0-31, 32 bits each; 09 R199; reset 0; unlisted reads 0. -/
  trigMask : Sparse Word := []
  /-- TRIG_MATCH0-31, 32 bits each; 09 R199; reset 0; unlisted reads 0. -/
  trigMatch : Sparse Word := []
  /-- TRIG_KEY0-31, 32 bits each; 09 R199; reset 0; unlisted reads 0. -/
  trigKey : Sparse Word := []
  /-- TRIG_CYC_LO0-31, 32 bits each; 09 R199; reset 0; unlisted reads 0. -/
  trigCyc : Sparse Word := []
  /-- TRIG_CTL0-31, 32 bits each; 09 R199; reset 0; unlisted reads 0. -/
  trigCtl : Sparse Word := []
deriving DecidableEq, Repr

/-! ## Loader and certificate (10) -/

/-- What is kept of an epoch's runtime configuration record (10 R216: the firmware keeps it), with `H[e]` of R203. -/
structure EpochRec where
  record : List Byte
  h : BitVec 384
  bank : Nat
deriving DecidableEq, Repr

/-- A posted epoch switch (R214). -/
structure Switch where
  /-- Descriptor on the CTRL ring. -/
  seq : Word
  /-- Target cycle n. -/
  target : Nat
  epoch : Word
  record : List Byte
  h : BitVec 384
  tag : DWord
  bank : Nat
deriving DecidableEq, Repr

/-- A LOAD in progress (R206). -/
structure LoadJob where
  seq : Word
  /-- The manifest that VERIFY has checked. -/
  man : List Byte
  addr : DWord
  len : DWord
  vplain : Nat
  bind : DWord
deriving DecidableEq, Repr

/-- The loader engine, certificate, pacing and overlay registers. -/
structure Loader where
  /-- LDR_STAT.PHASE, 2 bits; 10 R218; reset 0. -/
  phase : BitVec 2 := 0
  /-- LDR_STAT.CODE, 4 bits; 10 R218; reset 0. -/
  code : BitVec 4 := 0
  /-- LDR_STAT.DETAIL, 16 bits; 10 R218; reset 0. -/
  detail : BitVec 16 := 0
  /-- LDR_VPLAIN, 12 bits; 10 R218; reset 0. -/
  vplain : Nat := 0
  /-- LDR_LEN.L, 14 bits; 10 R218, 01 R19; reset 0. -/
  len : Nat := 0
  /-- The image digest D, 384 bits (LDR_IMG shows bytes 0-7); 10 R200, R218; reset 0. -/
  digest : BitVec 384 := 0
  /-- H of the current epoch, 384 bits; 10 R203; reset 0. -/
  h : BitVec 384 := 0
  /-- LDR_VLINK, 32 bits; 10 R218; reset 0. -/
  vlink : Word := 0
  /-- CERT_NS, 32 bits; 10 R218; reset 0. -/
  certNs : Word := 0
  /-- CERT_TDC_LAST, 32 bits; 10 R218; reset 0. -/
  tdcLast : Word := 0
  /-- CERT_TDC_MAX, 32 bits; 10 R218; reset 0. -/
  tdcMax : Word := 0
  /-- CERT_OVER, 32 bits; 10 R218; reset 0. -/
  overCnt : Word := 0
  /-- WAIT_NS of the current epoch, 32 bits; 10 R203, R210; reset 0. -/
  waitNs : Nat := 0
  /-- PACE_CTL.EN, 1 bit; 10 R218; reset 0. -/
  paceEn : Bool := false
  /-- PACE_CTL.REFUSED, 1 bit; 10 R218; reset 0. -/
  paceRefused : Bool := false
  /-- PACE_CTL.STEP_PS, 16 bits; 10 R218; reset 0x1F4. -/
  stepPs : Nat := 0x1F4
  /-- PACE_PERIOD, 32 bits; 10 R218; reset 0. -/
  period : Word := 0
  /-- PACE_LATE, 32 bits; 10 R218; reset 0. -/
  lateCnt : Word := 0
  /-- PLAIN_PWR_RSV.QW, 12 bits; 10 R218, 17 R347; reset 0. -/
  pwrRsv : Nat := 0
  /-- EPS_STAT.CUR_BANK, 2 bits; 10 R218; reset 0. -/
  curBank : Nat := 0
  /-- EPS_STAT.LAST_REF, 4 bits; 10 R218; reset 0. -/
  lastRef : BitVec 4 := 0
  /-- PSEG_ENV0-63, 12 bits each; 10 R218; reset 0; unlisted reads 0. -/
  env : Sparse Nat := []
  /-- Records of the epochs taken, by epoch; 10 R216; reset none. -/
  epochs : Sparse EpochRec := []
  /-- The pending epoch switch; 10 R215; reset none. -/
  switch : Option Switch := none
  /-- The LOAD in progress; 10 R206; reset none. -/
  load : Option LoadJob := none
deriving DecidableEq, Repr

/-! ## Manager (11, 12) -/

/-- What a memory operation of the Manager does with its data (R229, R233). -/
inductive MgrUse where
  /-- A store of `data`. -/
  | store
  /-- A load into `g[reg]`, sign-extended when `signed`. -/
  | load (reg : Nat) (signed : Bool)
  /-- The return offset of RET in mode 0. -/
  | ret0
  /-- The mask and return offset of RET in mode 1. -/
  | ret1
deriving DecidableEq, Repr

/-- A memory operation that the Manager has issued (R228-R230). -/
structure MgrOp where
  use : MgrUse
  addr : BitVec 40
  size : Nat
  data : DWord
  /-- Level that issued it. -/
  lvl : Fin 3
  /-- Manager step that issued it: its request goes to the bus matrix once the comparator has compared that step (R250). -/
  step : Nat := 0
  /-- It hangs at an unmapped address (15 R316). -/
  hung : Bool := false
  /-- The data of a load that has come back before those of an earlier load, as they will be written (11 R227, 15 R315). -/
  got : Option DWord := none
deriving DecidableEq, Repr

/-- A fetch request of the primary that has not gone to the bus matrix (11 R231, 12 R250). -/
structure FetchReq where
  /-- Line of 64 bytes. -/
  line : Nat
  /-- Level at which it is made. -/
  lvl : Fin 3
  /-- Manager step that made it. -/
  step : Nat
deriving DecidableEq, Repr

/-- A RET whose return offset has not been checked yet (R232, R233). -/
structure RetHold where
  /-- The instruction. -/
  word : BitVec 128
  /-- What its executing moves have read, by ascending slot. -/
  data : List DWord
  /-- The step in which it was issued. -/
  step : Nat
  /-- The mask M of mode 1, once loaded. -/
  mask : Option DWord := none
  /-- The return offset, once loaded. -/
  off : Option DWord := none
deriving DecidableEq, Repr

/-- A long operation in flight (R226). -/
structure LongOp where
  /-- Unit: 0 MUL, 1 DIV, 2 CSR. -/
  unit : Nat
  reg : Nat
  value : DWord
  /-- Manager step at whose end the result is written. -/
  due : Nat
deriving DecidableEq, Repr

/-- A block operation (R234, R235). -/
structure BlkOp where
  /-- 0 COPY, 1 FILL, 2 COMPARE. -/
  kind : Nat
  reg : Nat
  seg : BitVec 6
  lvl : Fin 3
  src : DWord
  dst : DWord
  len : Nat
  done : Nat
  pat : DWord
  /-- Plain internal addresses of SRC and DST, formed at the trigger (R228). -/
  srcAt : BitVec 40 := 0
  dstAt : BitVec 40 := 0
  /-- Manager step that started it (R250). -/
  step : Nat := 0
  /-- An access of it hangs at an unmapped address (15 R316). -/
  hung : Bool := false
  /-- A trap has stopped it, but its group that hangs does not end (11 R235, 12 R245). -/
  stopping : Bool := false
deriving DecidableEq, Repr

/-- One core of the Manager pair with its units: the primary; the shadow uses the part that R250 repeats. -/
structure Manager where
  /-- g0-g63, 64 bits each; 11 R223; reset 0 (DESIGN CHOICE 0, log entry 13); unlisted reads 0. -/
  g : Sparse DWord := []
  /-- pr1-pr3, 1 bit each, at index 1-3; 11 R223; reset 0 (DESIGN CHOICE 0, log entry 13); unlisted is 0. -/
  pr : Sparse Bool := []
  /-- Operand and result ports by port identifier, 64 bits each; 11 R223; reset 0 (DESIGN CHOICE 0, log entry 13); unlisted reads 0. -/
  ports : Sparse DWord := []
  /-- Scoreboard, one bit per GRF register; 11 R226; reset clear. -/
  board : Sparse Bool := []
  /-- Long operations in flight, oldest first; 11 R226; reset none. -/
  long : List LongOp := []
  /-- PC, 64 bits (MGR_PC shows bits 31:0); 11 R237, R239; reset 0. -/
  pc : DWord := 0
  /-- Current level, MGR_STAT.LVL, 2 bits; 11 R239, 12 R240; reset 2. -/
  lvl : Fin 3 := 2
  /-- TSP of each level, 64 bits; 11 R237, 12 R240; reset 0 (DESIGN CHOICE 0, log entry 13); unlisted reads 0. -/
  tsp : Sparse DWord := []
  /-- SSP of each level, 64 bits; 11 R237, 12 R240; reset 0 (DESIGN CHOICE 0, log entry 13); unlisted reads 0. -/
  ssp : Sparse DWord := []
  /-- Segment slots, trap CSRs, BLKPROG, DELEG, DFVEC, DFCAUSE, DFEPC and ESC by CSR number, 64 bits each; 11 R237, 12 R241, R242; reset 0 (DESIGN CHOICE 0, log entry 13); unlisted reads 0. -/
  csr : Sparse DWord := []
  /-- MGR_CFG.CALLMODE, 1 bit; 11 R239; reset 0. -/
  callMode : Bool := false
  /-- MGR_CFG has been written since reset, which locks it (WL), 1 bit; 00 R6, 11 R239; reset 0. -/
  callLock : Bool := false
  /-- Fetch buffer, 16 lines of 64 bytes by line address; 11 R231; reset empty. -/
  fetch : List (Nat × List Byte) := []
  /-- Lines fetched so far: the counter of the model's free replacement choice (the MODEL's field); 11 R231; reset 0 (DESIGN CHOICE 0, log entry 10). -/
  fetches : Nat := 0
  /-- A fetch request that waits for the comparator or the bus; 11 R231, 12 R250; reset none. -/
  fetchReq : Option FetchReq := none
  /-- Memory operations issued and not complete, in program order; 11 R229, R230; reset none. -/
  mem : List MgrOp := []
  /-- An ENV_CALL to be taken after its instruction: its datum and offset; 12 R243; reset none. -/
  envCall : Option (DWord × DWord) := none
  /-- A BUS_ERROR to be taken, with its address; 12 R243, R244; reset none. -/
  busErr : Option (BitVec 40) := none
  /-- The next instruction waits for LS.FENCE or BR.FLUSH; 11 R230, R231; reset 0. -/
  fence : Bool := false
  /-- BR.FLUSH waits for earlier stores; 11 R231; reset 0. -/
  flush : Bool := false
  /-- A RET that waits for its mask and return offset; 11 R232, R233; reset none. -/
  ret : Option RetHold := none
  /-- Level of the trap that is being entered while ESC.ENTRY = 1; 12 R247; reset 0 (DESIGN CHOICE 0, log entry 13). -/
  entered : Fin 3 := 0
  /-- M1's accesses in flight were issued in out-of-order service; 15 R315; reset 0. -/
  loose : Bool := false
  /-- The next instruction waits for an event, MGR_STAT.WAITING; 11 R236, R239; reset 0. -/
  waiting : Bool := false
  /-- MGR_STAT.SB_STALL, 1 bit; 11 R239; reset 0. -/
  sbStall : Bool := false
  /-- The block operation that runs (MGR_STAT.BLK_BUSY); 11 R234; reset none. -/
  blk : Option BlkOp := none
  /-- Event queue, 64 records of 64 bits, head first; 11 R236; reset empty. -/
  evq : List DWord := []
  /-- EVQ_STAT.LOST, 16 bits; 11 R239; reset 0. -/
  lost : BitVec 16 := 0
  /-- STEPS, Manager steps since reset, 64 bits: the time base of R226; 11 R237; reset 0. -/
  steps : Nat := 0
  /-- Instructions retired since reset, which toggle an observation signal; 20 R399; reset 0. -/
  retired : Nat := 0
  /-- The firmware runs: a boot has jumped to its ENTRY; 18 R376; reset 0. -/
  running : Bool := false
  /-- LS_CTL, 32 bits; 12 R253; reset 0. -/
  lsCtl : Word := 0
  /-- LS_STAT, 32 bits; 12 R253; reset 0. -/
  lsStat : Word := 0
  /-- LS_DIAG, 32 bits; 12 R253; reset 0. -/
  lsDiag : Word := 0
  /-- Steps at the last comparator self-test; 12 R252; reset 0. -/
  testedAt : Nat := 0
  /-- Time of the last retirement; 15 R317; reset 0. -/
  retiredAt : Nat := 0
deriving DecidableEq, Repr

/-- What the primary does in a step: the stall and trap decisions that the delay registers carry (12 R250). -/
inductive MgrAct where
  /-- The fetched instruction is executed. -/
  | issue (word : BitVec 128)
  /-- The fetched instruction, a RET, starts its loads and waits (11 R233). -/
  | hold (word : BitVec 128)
  /-- The RET that waited is executed. -/
  | finish
  /-- The instruction stalls: the line that holds its first byte (false) or its last (true) is requested by M0 (11 R231). -/
  | fetch (last : Bool)
  /-- A trap is entered: cause, VAL, resumption offset, raising offset (12 R245, R247). -/
  | trap (cause : Nat) (val epc raiser : DWord)
deriving DecidableEq, Repr

/-- What the comparator compares of a step (12 R250). -/
structure MgrOut where
  /-- Bus requests: address, data, size and direction. -/
  reqs : List MgrOp
  /-- The block operation that runs. -/
  blk : Option BlkOp
  /-- CSR writes, as the CSRs that result. -/
  csr : Sparse DWord
  /-- GRF results, as the registers that result. -/
  g : Sparse DWord
  /-- Level. -/
  lvl : Fin 3
deriving DecidableEq, Repr

/-- One step as the delay registers hold it: every value that entered the primary from outside the pair (12 R250), and the
primary's outputs, which the comparator compares with the shadow's. -/
structure MgrDelay where
  /-- Manager step. -/
  step : Nat
  /-- Offset at which the step began. -/
  pc : DWord
  /-- NSEC and CYC. -/
  nsec : Nat
  cycle : Nat
  /-- Event records queued, head first, and events not queued. -/
  evq : List DWord
  lost : BitVec 16
  /-- The CSRs, and MGR_CFG.CALLMODE. -/
  csr : Sparse DWord
  callMode : Bool
  /-- The block operation that runs. -/
  blk : Option BlkOp
  /-- Load data since the step before. -/
  loads : List (MgrOp × DWord)
  /-- Results of the block unit since the step before. -/
  results : List (Nat × DWord)
  /-- Fetched instructions, and the outcomes of stall and trap decisions. -/
  acts : List MgrAct := []
  out : MgrOut := { reqs := [], blk := none, csr := [], g := [], lvl := 2 }
deriving DecidableEq, Repr

/-- The shadow core, the delay registers and the comparator of the pair. -/
structure Lockstep where
  /-- The shadow core; 12 R250; reset as the primary. -/
  shadow : Manager := {}
  /-- Delay registers, the oldest step first, at most two; 12 R250; reset empty. -/
  delay : List MgrDelay := []
  /-- The step that the primary is executing; 12 R250; reset none. -/
  now : Option MgrDelay := none
  /-- Load data that has arrived since the primary's last step; 12 R250; reset none. -/
  loads : List (MgrOp × DWord) := []
  /-- Results of the block unit since the primary's last step, register and value; 12 R250; reset none. -/
  results : List (Nat × DWord) := []
  /-- Compared bit group of the next self-test injection; 12 R252; reset 0 (DESIGN CHOICE 0, log entry 42). -/
  group : Fin 6 := 0
deriving DecidableEq, Repr

/-! ## Host interface (13) -/

/-- A submission ring. -/
structure Ring where
  /-- RING_CFG.LOG2SIZE, 5 bits; 13 R282; reset 0x6. -/
  log2 : Nat := 6
  /-- RING_CFG.EN, 1 bit; 13 R282; reset 0. -/
  en : Bool := false
  /-- RING_BASE, 64 bits; 13 R282; reset 0. -/
  base : DWord := 0
  /-- RING_ACC, 32 bits; 13 R282; reset 0. -/
  acc : Word := 0
  /-- RING_START, 32 bits; 13 R282; reset 0. -/
  start : Word := 0
  /-- RING_CMP, 32 bits; 13 R282; reset 0. -/
  cmp : Word := 0
  /-- DBLAST, 32 bits; 13 R262; reset 0. -/
  dbLast : Word := 0
  /-- Last descriptor made available by a doorbell, 32 bits; 13 R262; reset 0. -/
  avail : Word := 0
  /-- RING_DBDROP, 32 bits; 13 R264, R282; reset 0. -/
  dbDrop : Word := 0
  /-- RING_STAT bits 5:0, 6 bits; 13 R282; reset 0. -/
  stat : BitVec 6 := 0
  /-- Accepting is stopped by SEQ_ERR until the next doorbell; 13 R263; reset 0. -/
  seqStop : Bool := false
  /-- The next descriptor to re-read after a Plain reset; 13 R278; reset none. -/
  reread : Option Word := none
  /-- Acceptance buffer: 32 descriptors of 64 bytes at index q mod 32; 13 R282; reset empty; unlisted reads 0. -/
  buf : Sparse (BitVec 512) := []
  /-- What the last reset took out of the buffer and has not been re-read, by index q mod 32: an FW_POST of its HIU step completes one of these; 13 R289; reset none. -/
  gone : Sparse (BitVec 512) := []
  /-- Descriptors marked cancelled; 13 R270; reset none. -/
  cancelled : List Word := []
  /-- Descriptors that an abort named; 13 R267, R270; reset none. -/
  abortSeen : List Word := []
deriving DecidableEq, Repr

/-- A completion that waits to be written (R267). -/
structure Completion where
  seq : Word
  ring : Fin 4
  status : Byte
  abortSeen : Bool
  irq : Bool
  tag : DWord
  cycle : BitVec 48
  result : DWord
deriving DecidableEq, Repr

/-- What the device found for a descriptor: the status and result with which its firmware posts it (R266, R268). -/
structure JobDone where
  ring : Fin 4
  seq : Word
  status : Byte
  result : DWord
deriving DecidableEq, Repr

/-- The operation of a started JOB descriptor that is not complete (R269). -/
inductive JobKind where
  | load | mode | hold | step | checkpoint | replay | reset
deriving DecidableEq, Repr

/-- How far a data transfer has got (09 R184, R186, 14 R292). -/
structure Progress where
  /-- Groups of 64 bytes moved. -/
  moved : Nat := 0
  /-- What has been written since the last part of 32 KiB was logged: addresses and bytes, in order. -/
  part : List (Nat × List Byte) := []
deriving DecidableEq, Repr

/-- An XACT data transfer (R273). -/
structure Xact where
  seq : Word
  write : Bool
  cycle : Nat
  haddr : DWord
  woff : Nat
  len : Nat
  /-- Its boundary has reached row 7. -/
  active : Bool
  done : Progress := {}
deriving DecidableEq, Repr

/-- What a PCI Express function holds of its configuration (13 R255-R258). -/
structure PcieFn where
  /-- Bus Master Enable, 1 bit; 13 R256, R258; reset 0. -/
  bme : Bool := false
  /-- MSI-X Enable, 1 bit; 13 R257; reset 0 (PRESUMED 0 (the standard's), log entry 57). -/
  msixOn : Bool := false
  /-- MSI-X Function Mask, 1 bit; 13 R257; reset 0 (PRESUMED 0 (the standard's), log entry 57). -/
  fnMask : Bool := false
  /-- Message address and data of the MSI-X table, 32-bit word 4 v + k of vector v; 13 R256; reset 0 (PRESUMED 0, log entry 57); unlisted reads 0. -/
  entry : Sparse Word := []
  /-- Vectors whose Mask bit is clear; 13 R256, R257; reset none, every vector masked (PRESUMED, the standard's, log entry 57). -/
  open_ : Sparse Bool := []
  /-- Pending bits of the PBA, 64 bits; 13 R256, R257; reset 0. -/
  pba : BitVec 64 := 0
  /-- Vectors due while Bus Master Enable is clear, oldest first; 13 R258; reset none. -/
  wait : List Nat := []
deriving DecidableEq, Repr

/-- A mailbox (R283-R288). -/
structure Mailbox where
  /-- MSG0-MSG15, 32 bits each; 13 R288; reset 0; unlisted reads 0. -/
  msg : Sparse Word := []
  /-- MB_CTL.LEN, 5 bits; 13 R288; reset 0x8. -/
  len : BitVec 5 := 8
  /-- MB_CTL.GO, 1 bit; 13 R288; reset 0. -/
  go : Bool := false
  /-- MB_CTL.DONE, 1 bit; 13 R288; reset 0. -/
  done : Bool := false
  /-- MB_ACK.CODE, 16 bits; 13 R288; reset 0. -/
  code : BitVec 16 := 0
  /-- The message in the mailbox was sent by the host; 13 R283; reset 0. -/
  fromHost : Bool := false
  /-- MB_STAT.HOLDER, 4 bits; 13 R288; reset 0. -/
  holder : BitVec 4 := 0
  /-- LOCK_LOST of the next read that obtains the lock; 13 R285; reset 0. -/
  lockLost : Bool := false
  /-- The lost lock was held by the Manager; 13 R285; reset 0. -/
  lostByMgr : Bool := false
  /-- MB_STAT bits 7:4, 4 bits; 13 R288; reset 0. -/
  stat : BitVec 4 := 0
  /-- OWNER as the last read of MB_LOCK returned it, with LOCK_LOST in bit 8; 13 R284; reset 0. -/
  lastRead : Word := 0
deriving DecidableEq, Repr

/-- The host interface of one Plain. -/
structure Hiu where
  /-- The rings JOB, XACT, BULK, CTRL; 13 R260. -/
  rings : Vector Ring 4 := Vector.replicate 4 {}
  /-- CQ_CFG.LOG2SIZE, 5 bits; 13 R282; reset 0x6. -/
  cqLog2 : Nat := 6
  /-- CQ_BASE, 64 bits; 13 R282; reset 0. -/
  cqBase : DWord := 0
  /-- CQ_CSEQ, 32 bits; 13 R282; reset 0. -/
  cseq : Word := 0
  /-- CQ_PSEQ, 32 bits; 13 R282; reset 0. -/
  pseq : Word := 0
  /-- CQ_STAT.BAD, 1 bit; 13 R282; reset 0. -/
  cqBad : Bool := false
  /-- CQ_STAT.FULL has been reported by vector 3 and no slot has come free since, 1 bit; 13 R257, R282; reset 0. -/
  cqFull : Bool := false
  /-- Completions that wait to be written, oldest first; 13 R267; reset none. -/
  cqWait : List Completion := []
  /-- SB_ADDR, 64 bits; 13 R282; reset 0. -/
  sbAddr : DWord := 0
  /-- SB_CTL.EN, 1 bit; 13 R282; reset 0. -/
  sbEn : Bool := false
  /-- GEN of the status block, 32 bits; 13 R277; reset 0. -/
  sbGen : Word := 0
  /-- Contents of the last status block written, GEN apart; 13 R277; reset none. -/
  sbLast : List Byte := []
  /-- Time of the last status block written; 13 R277; reset none. -/
  sbAt : Option Nat := none
  /-- Vector 0 is due with the next status block; 13 R257; reset 0. -/
  vec0 : Bool := false
  /-- HWIN_BASE, 64 bits; 13 R282; reset 0. -/
  hwin : DWord := 0
  /-- FW_POST_RES, 64 bits; 13 R282; reset 0. -/
  fwRes : DWord := 0
  /-- The last FW_START was refused as cancelled; 13 R282; reset 0. -/
  fwRefused : Bool := false
  /-- The Plain's PCI Express function; 13 R256. -/
  fn : PcieFn := {}
  /-- The four mailboxes; 13 R283. -/
  mb : Vector Mailbox 4 := Vector.replicate 4 {}
  /-- DB_STAT, 32 bits; 13 R288; reset 0. -/
  dbStat : Word := 0
  /-- DB_MASK_MGR, 32 bits; 13 R288; reset 0. -/
  dbMgr : Word := 0
  /-- DB_MASK_HOST, 32 bits; 13 R288; reset 0. -/
  dbHost : Word := 0
  /-- The started JOB descriptor that is not complete; 13 R269; reset none. -/
  job : Option (Word × JobKind) := none
  /-- Descriptors whose outcome stands and whose completion is not posted; 13 R266; reset none. -/
  done : List JobDone := []
  /-- The completion of a JOB MODE VALLEY, written once the Plain's last domain is off; 18 R378; reset none. -/
  valleyDone : Option Completion := none
  /-- XACT transfers started and not complete; 13 R273; reset none. -/
  xacts : List Xact := []
  /-- CYCLE of the last XACT descriptor; 13 R273; reset 0. -/
  xactPrev : Nat := 0
  /-- XACT_LIMIT, CYCLE of the last accepted XACT descriptor; 13 R274; reset none. -/
  xactLimit : Option Nat := none
deriving DecidableEq, Repr

/-! ## DMA (14) -/

/-- A DMA descriptor in execution, as fetched (R291, R292). -/
structure DmaJob where
  /-- Bytes of the descriptor. -/
  desc : BitVec 256
  /-- Sequence of the BULK descriptor that channel 15 executes (R303). -/
  seq : Word := 0
  /-- What has been moved. -/
  done : Progress := {}
deriving DecidableEq, Repr

/-- A start event that has been raised and not delivered (R298): an EVSEL code, or 0x100 + n for trigger entry n. -/
structure StartEvent where
  code : Nat
  /-- Channels that a cancel in the same engine step keeps from starting (R299). -/
  skip : BitVec 16 := 0
deriving DecidableEq, Repr

/-- A data write that has been issued and has not arrived at its target (R296). -/
structure LateWrite where
  addr : Nat
  bytes : List Byte
deriving DecidableEq, Repr

/-- A DMA channel. -/
structure Channel where
  /-- CH_CFG, 32 bits; 14 R306; reset 0x0404_0000. -/
  cfg : Word := 0x04040000
  /-- CH_CFG as the last descriptor fetch took it: what is in force while the channel is RUNNING, 32 bits; 14 R305; reset 0x0404_0000. -/
  act : Word := 0x04040000
  /-- CH_DBASE, 40 bits; 14 R306; reset 0. -/
  dbase : BitVec 40 := 0
  /-- CH_HEAD, 16 bits; 14 R306; reset 0. -/
  head : BitVec 16 := 0
  /-- CH_CTL.EN, 1 bit; 14 R306; reset 0. -/
  en : Bool := false
  /-- CH_STAT.RUNNING, 1 bit; 14 R298; reset 0. -/
  running : Bool := false
  /-- CH_STAT.LATCH, 1 bit; 14 R298; reset 0. -/
  latch : Bool := false
  /-- CH_STAT.EMPTY, 1 bit; 14 R306; reset 0. -/
  empty : Bool := false
  /-- CH_STAT.ERR, 1 bit; 14 R306; reset 0. -/
  err : Bool := false
  /-- CH_STAT.FETCH_ERR, 1 bit; 14 R306; reset 0. -/
  fetchErr : Bool := false
  /-- CH_STAT.LAST, 8 bits; 14 R306; reset 0. -/
  last : Byte := 0
  /-- CH_DONE, 32 bits; 14 R306; reset 0. -/
  done : Word := 0
  /-- A cancel waits for the descriptor boundary; 14 R299; reset 0. -/
  cancel : Bool := false
  /-- The descriptor in execution; 14 R298; reset none. -/
  cur : Option DmaJob := none
deriving DecidableEq, Repr

/-- A Plain timer (R302). -/
structure Timer where
  /-- TIMER_PERIOD, 32 bits; 14 R306; reset 0. -/
  period : Word := 0
  /-- TIMER_COUNT, 32 bits; 14 R306; reset 0. -/
  count : Word := 0
  /-- Time of the next firing; 14 R302; reset 0. -/
  due : Nat := 0
deriving DecidableEq, Repr

/-- The DMA engine. -/
structure Dma where
  /-- DROPPED_EVENTS, 32 bits; 14 R306; reset 0. -/
  dropped : Word := 0
  /-- DMA_STAT.CFG_ERR, 1 bit; 14 R306; reset 0. -/
  cfgErr : Bool := false
  /-- Timers 0-7; 14 R302. -/
  timers : Vector Timer 8 := Vector.replicate 8 {}
  /-- Channels 0-15; 14 R298. -/
  ch : Vector Channel 16 := Vector.replicate 16 {}
  /-- Start events raised and not yet delivered, oldest first; 14 R298; reset none. -/
  events : List StartEvent := []
  /-- Channel served last, the round-robin pointer, 4 bits; 14 R301; reset 0 (DESIGN CHOICE 0, log entry 13). -/
  last : Fin 16 := 0
  /-- Data writes that have been issued and have not arrived, oldest first; 14 R296; reset none. -/
  late : List LateWrite := []
  /-- Descriptors with BARRIER = 0 executed so far: the counter of the free choice of R296 (the MODEL's field); 14 R296; reset 0 (DESIGN CHOICE 0, log entry 58). -/
  loose : Nat := 0
deriving DecidableEq, Repr

/-! ## Bus matrix, scratchpad and non-volatile store (15) -/

/-- How the last served access ended (R310, R316). -/
inductive BusAnswer where
  | none | data (bytes : List Byte) | error | hung
deriving DecidableEq, Repr

/-- An access that its master has issued to the matrix and that is not complete (R312-R316). -/
structure BusWait where
  req : BusReq
  /-- Its ID in out-of-order service, 3 bits (R315). -/
  id : Nat
  /-- It was issued in out-of-order service (R315). -/
  loose : Bool
  /-- Time since which its next piece has waited at its target (R313). -/
  since : Nat
  /-- The tile that its aperture access goes to, fixed when it was issued (R425, R426). -/
  tile : Fin 64
  /-- Bytes of it that have been served (R312). -/
  moved : Nat := 0
  /-- What its pieces have read. -/
  got : List Byte := []
  /-- A piece of it has received an error response (R310). -/
  bad : Bool := false
  /-- It hangs at an unmapped address (R316). -/
  hung : Bool := false
  /-- It stands at its target: no access of its master that R314 or R315 puts before it is outstanding (R313). -/
  standing : Bool := false
  /-- The command in execution waits for its turn (the MODEL's field): no access is so marked between commands. -/
  own : Bool := false
deriving DecidableEq, Repr

/-- The response to an access: master, ID and answer (R310, R315). -/
structure BusDone where
  master : Fin 8
  id : Nat
  answer : BusAnswer
deriving DecidableEq, Repr

/-- The bus matrix and the progress monitor. -/
structure Bus where
  /-- BM_CTL.RECOVERY, 1 bit; 15 R330; reset 0. -/
  recovery : Bool := false
  /-- BM_STAT bits 3:0, 4 bits; 15 R330; reset 0. -/
  stat : BitVec 4 := 0
  /-- BM_UNMAP_LO, 32 bits; 15 R330; reset 0. -/
  unmapLo : Word := 0
  /-- BM_UNMAP_HI, 32 bits; 15 R330; reset 0. -/
  unmapHi : Word := 0
  /-- BM_ERR_LO, 32 bits; 15 R330; reset 0. -/
  errLo : Word := 0
  /-- BM_ERR_HI, 32 bits; 15 R330; reset 0. -/
  errHi : Word := 0
  /-- BM_PRIO, 32 bits; 15 R330; reset 0x081C_1418. -/
  prio : Word := 0x081C1418
  /-- BM_QOS, 32 bits; 15 R330; reset 0xAC. -/
  qos : Word := 0xAC
  /-- BM_AGE.NS, 16 bits; 15 R330; reset 0x0FA0. -/
  age : BitVec 16 := 0xFA0
  /-- PM_CTL, 32 bits; 15 R330; reset 0x8000_0064. -/
  pmCtl : Word := 0x80000064
  /-- PM_STAT.STAGE, 2 bits; 15 R330; reset 0. -/
  pmStage : BitVec 2 := 0
  /-- Time at which PM_CTL.EN was cleared, in ns: the progress monitor does not count from then on; 15 R317; reset none. -/
  pmHeld : Option Nat := none
  /-- Master served last at each port, the round-robin pointers, 3 bits each; 15 R313; reset 0 (DESIGN CHOICE 0, log entry 13); unlisted reads 0. -/
  last : Sparse (Fin 8) := []
  /-- Masters whose access hangs at an unmapped address; 15 R316; reset none. -/
  hung : List Nat := []
  /-- Accesses issued to the matrix and not complete, in order of issue; 15 R312, R314, R315; reset none. -/
  queue : List BusWait := []
  /-- Responses of the last matrix step, in the order in which the accesses took effect; 15 R310, R315; reset none. -/
  served : List BusDone := []
  /-- How the last access ended, and its read data; 15 R310; reset none. -/
  answer : BusAnswer := .none
deriving DecidableEq, Repr

/-- Scratchpad and non-volatile store. -/
structure Store where
  /-- SPAD, 16 MiB by offset; 15 R318; reset zero, R322; unlisted reads 0. -/
  spad : List Host.Cell := []
  /-- SPAD 64-bit words with an uncorrectable error; 15 R320; reset none. -/
  spadUe : Sparse Bool := []
  /-- SPAD 64-bit words with a correctable error; 15 R320; reset none. -/
  spadCe : Sparse Bool := []
  /-- Corrected words that wait for an idle write port, oldest first; 15 R320; reset none. -/
  writeBack : List Nat := []
  /-- SPAD_STAT bits 2:0 and 4, and WIPING in bit 3, 5 bits; 15 R330; reset 0. -/
  stat : BitVec 5 := 0
  /-- SPAD_CE_CNT, 32 bits; 15 R330; reset 0. -/
  ceCnt : Word := 0
  /-- SPAD_UE_CNT, 32 bits; 15 R330; reset 0. -/
  ueCnt : Word := 0
  /-- SPAD_UE_ADDR, 32 bits; 15 R330; reset 0. -/
  ueAddr : Word := 0
  /-- SPAD_CONF0-7, 32 bits each; 15 R330; reset 0; unlisted reads 0. -/
  conf : Sparse Word := []
  /-- NVS, 32 MiB by offset; 15 R326; never written reads 0, R326; unlisted reads 0. -/
  nvs : List Host.Cell := []
  /-- NVS lines (offset / 64) that are uncorrectable; 15 R326; reset none. -/
  nvsUe : Sparse Bool := []
  /-- NVS lines with a correctable error; 15 R326; reset none. -/
  nvsCe : Sparse Bool := []
  /-- Record slots of the fault log that M1 has read since they were written, 16 bits; 15 R327; reset 0. -/
  logRead : BitVec 16 := 0
  /-- NVS_STAT bits 2:0, 3 bits; 15 R330; reset 0. -/
  nvsStat : BitVec 3 := 0
  /-- NVS_STAT.BUSY: line writes in progress, 3 bits; 15 R330; reset 0. -/
  nvsBusy : Nat := 0
  /-- NVS_CE_CNT, 32 bits; 15 R330; reset 0. -/
  nvsCeCnt : Word := 0
  /-- NVS_UE_CNT, 32 bits; 15 R330; reset 0. -/
  nvsUeCnt : Word := 0
  /-- Count behind NVS_WR_LO and NVS_WR_HI, 64 bits; 15 R330; reset 0. -/
  nvsWr : DWord := 0
  /-- NVS_WR_HI as captured, 32 bits; 15 R330; reset 0. -/
  nvsWrHi : Word := 0
  /-- TCA_SEL.TILE, 6 bits; 22 R425; reset 0. -/
  tcaSel : Fin 64 := 0
deriving DecidableEq, Repr

/-! ## PIO (16) -/

/-- One PIO engine. -/
structure PioEngine where
  /-- PE_CFG.BASE, 6 bits; 16 R343; reset 0. -/
  base : Nat := 0
  /-- PE_CFG.ENTRY, 5 bits; 16 R343; reset 0. -/
  entry : BitVec 5 := 0
  /-- PE_CFG.DIV, 16 bits; 16 R343; reset 1. -/
  div : BitVec 16 := 1
  /-- PE_IMEM0-31, 16 bits each; 16 R343; reset 0; unlisted reads 0. -/
  imem : Sparse (BitVec 16) := []
  /-- PC, 5 bits; 16 R343; reset 0. -/
  pc : BitVec 5 := 0
  /-- RUNNING, 1 bit; 16 R343; reset 0. -/
  running : Bool := false
  /-- BLOCKED, 1 bit; 16 R343; reset 0. -/
  blocked : Bool := false
  /-- PE_STAT bits 21:16, 6 bits; 16 R343; reset 0. -/
  flags : BitVec 6 := 0
  /-- TX, four words of 32 bits, head first; 16 R335; reset empty. -/
  tx : List Word := []
  /-- RX, four words of 32 bits, head first; 16 R335; reset empty. -/
  rx : List Word := []
  /-- Word that the last read of PE_RX returned; 16 R335; reset 0 (DESIGN CHOICE 0, log entry 13). -/
  lastRx : Word := 0
  /-- CA, 16 bits; 16 R343; reset 0. -/
  ca : BitVec 16 := 0
  /-- CB, 16 bits; 16 R343; reset 0. -/
  cb : BitVec 16 := 0
  /-- SH, 32 bits; 16 R343; reset 0. -/
  sh : Word := 0
  /-- OCNT, 6 bits; 16 R343; reset 0. -/
  ocnt : Nat := 0
  /-- ICNT, 6 bits; 16 R343; reset 0. -/
  icnt : Nat := 0
  /-- Levels, 8 bits; 16 R343; reset 0. -/
  levels : Byte := 0
  /-- Output-enables, 8 bits; 16 R343; reset 0. -/
  oen : Byte := 0
  /-- What levels and output-enables the pads have had from the engine: since a time in half ns, latest first, as far back as 5 ns; 16 R332, R333; reset none recorded. -/
  shown : List (Nat × Byte × Byte) := []
  /-- The last tick changed them, which reaches the pads at the edge that ends it; 16 R333; reset 0. -/
  changed : Bool := false
  /-- Ticks for which SIG KIND 4 still occupies the engine; 16 R334; reset none. -/
  delay : Option Nat := none
  /-- 400 MHz period of the last start; 16 R338; reset none. -/
  startedAt : Option Nat := none
  /-- 400 MHz period of the last stop; 16 R338; reset none. -/
  stoppedAt : Option Nat := none
  /-- Level that toggles at every tick; 20 R400; reset 0. -/
  tick : Bool := false
deriving DecidableEq, Repr

/-- The PIO engines and pins of a Plain. -/
structure Pio where
  /-- Engines PE0-PE3; 16 R331. -/
  eng : Vector PioEngine 4 := Vector.replicate 4 {}
  /-- PIO_BANK, 12 bits; 16 R343; reset 0. -/
  bank : BitVec 12 := 0
  /-- PIO_STAT.BANK_BUSY, 1 bit; 16 R343; reset 0. -/
  bankBusy : Bool := false
  /-- PIO_STAT.START_LOST, 1 bit; 16 R343; reset 0. -/
  startLost : Bool := false
  /-- PIO_PACE.SRC, 4 bits; 16 R343; reset 0. -/
  src : BitVec 4 := 0
  /-- PIO_PACE.CREDIT, 8 bits; 16 R343; reset 0. -/
  credit : Nat := 0
  /-- PIO_PACE.LIMIT, 8 bits; 16 R343; reset 1. -/
  limit : Byte := 1
  /-- PIO_PACE_DROP, 32 bits; 16 R343; reset 0. -/
  drop : Word := 0
  /-- Levels that pins 47:0 have from outside, as last seen, 48 bits; 16 R333, R343; reset 0. -/
  pads : BitVec 48 := 0
  /-- 400 MHz period in which a design cycle last took a credit; 16 R340; reset none. -/
  decAt : Option Nat := none
deriving DecidableEq, Repr

/-! ## Health, faults and test of a Plain (17, 19, 20) -/

/-- Power and fault registers of a Plain. -/
structure Health where
  /-- PLAIN_PWR_NOW, 32 bits; 17 R366; reset 0. -/
  pwrNow : Word := 0
  /-- PLAIN_ENV_OVER, 32 bits; 17 R366; reset 0. -/
  envOverCnt : Word := 0
  /-- PLAIN_HEALTH.THROTTLE, 4 bits; 17 R366; reset 0. -/
  throttle : BitVec 4 := 0
  /-- PLAIN_HEALTH.ENV_OVER, 1 bit; 17 R366; reset 0. -/
  envOver : Bool := false
  /-- Throttle causes that hold at present, 4 bits; 17 R352; reset 0. -/
  cause : BitVec 4 := 0
  /-- Time since which each throttle cause has been absent; 17 R352; reset none; unlisted is 0. -/
  absent : Sparse Nat := []
  /-- Power segments executed in the present 1 µs interval; 17 R351; reset none. -/
  segs : List Nat := []
  /-- FLT_STAT.CODE, 8 bits; 19 R393; reset 0. -/
  code : Byte := 0
  /-- FLT_STAT.FIRST, 8 bits; 19 R393; reset 0. -/
  first : Byte := 0
  /-- FLT_STAT.SECOND, 8 bits; 19 R393; reset 0. -/
  second : Byte := 0
  /-- FLT_STAT.OPEN, 1 bit; 19 R393; reset 0. -/
  winOpen : Bool := false
  /-- FLT_STAT.INCOMPLETE, 1 bit; 19 R387, R393; reset 0. -/
  incomplete : Bool := false
  /-- FLT_CTL.STALL_US, 16 bits; 19 R393; reset 0x2710. -/
  stallUs : BitVec 16 := 0x2710
  /-- FLT_CYC, 48 bits; 19 R393; reset 0. -/
  fltCyc : BitVec 48 := 0
  /-- FLT_WHERE, 32 bits; 19 R393; reset 0. -/
  fltWhere : Word := 0
  /-- FLT_COUNT, 32 bits; 19 R393; reset 0. -/
  fltCount : Word := 0
  /-- Time at which the window opened; 19 R393; reset 0. -/
  openedAt : Nat := 0
  /-- Uncorrectable words or lines that the open window has reported: 64-bit word of the Basin or SPAD, or line of NVS, by the window's code; 19 R384; reset none. -/
  ueSeen : List Nat := []
  /-- OBS_CTL.EN, 4 bits; 20 R402; reset 0. -/
  obsEn : BitVec 4 := 0
  /-- OBS_CTL.DENIED, 1 bit; 20 R402; reset 0. -/
  obsDenied : Bool := false
  /-- OBS_SEL0-3, 11 bits each; 20 R402; reset 0; unlisted reads 0. -/
  obsSel : Sparse (BitVec 11) := []
  /-- BIST_RES, 32 bits; 20 R402; reset 0xF0. -/
  bistRes : Word := 0xF0
  /-- Times at which the select changes of the observation trees have settled; 20 R399; reset none; unlisted is 0. -/
  obsAt : Sparse Nat := []
  /-- Time of the last row 1 of a boundary, an observation pulse; 20 R400; reset none. -/
  obsRow1 : Option Nat := none
  /-- Time of the last trap entry, an observation pulse; 20 R400; reset none. -/
  obsTrap : Option Nat := none
deriving DecidableEq, Repr

/-- One Plain: everything that R11 gives it. -/
structure Plain where
  /-- The 64 virtual tiles; 01 R11. -/
  tiles : Vector Tile 64 := Vector.replicate 64 {}
  col : Col := {}
  stall : Stall := {}
  run : Run := {}
  basin : Basin := {}
  /-- The eight Pass link endpoints; 01 R11. -/
  links : Vector Link 8 := Vector.replicate 8 {}
  sync : Sync := {}
  cap : Capture := {}
  ldr : Loader := {}
  mgr : Manager := {}
  lock : Lockstep := {}
  hiu : Hiu := {}
  dma : Dma := {}
  bus : Bus := {}
  mem : Store := {}
  pio : Pio := {}
  health : Health := {}
deriving DecidableEq, Repr

/-! ## The device (00, 17, 18, 20, 22) -/

/-- Fuse contents (00 R1, R2; 05 R106; 18 R375, R380; 20 R398; 22 R423). -/
structure Fuses where
  /-- GRADE.PLAINS_EN, 8 bits; 22 R423; reset from fuses (DESIGN CHOICE 0xFF, log entry 14). -/
  plainsEn : BitVec 8 := 0xFF
  /-- GRADE.BIN, 2 bits; 22 R423; reset from fuses (DESIGN CHOICE 0, log entry 14). -/
  bin : BitVec 2 := 0
  /-- GRADE.TSTEP_PS, 16 bits; 22 R423; reset from fuses (DESIGN CHOICE 0x1A1, log entry 14). -/
  tstepPs : Nat := 0x1A1
  /-- SERIAL, 64 bits; 22 R423; reset from fuses (DESIGN CHOICE 0, log entry 14). -/
  serial : DWord := 0
  /-- FW_MIN_VER, 32 bits; 22 R423; reset from fuses (DESIGN CHOICE 0, log entry 14). -/
  fwMinVer : Word := 0
  /-- FW_KEY_HASH, 384 bits; 18 R376; reset from fuses (DESIGN CHOICE 0, log entry 14). -/
  fwKeyHash : BitVec 384 := 0
  /-- TEST_KEY_HASH, 384 bits; 20 R398; reset from fuses (DESIGN CHOICE 0, log entry 14). -/
  testKeyHash : BitVec 384 := 0
  /-- Skipped column of each Plain, 4 bits (COL_MAP.SKIP_COL); 05 R106; reset from fuses (DESIGN CHOICE 8, log entry 14); unlisted is 8. -/
  skipCol : Sparse Nat := []
  /-- SPAD_REPAIR.COLS of each Plain, 16 bits; 15 R320; reset from fuses (DESIGN CHOICE 0, log entry 14); unlisted is 0. -/
  repair : Sparse Nat := []
  /-- LC_STATE.STATE, 3 bits; 18 R380; reset from fuses (DESIGN CHOICE 2, log entry 14). -/
  lc : BitVec 3 := 2
  /-- LC_STATE.PENDING, 3 bits; 18 R380; reset from fuses (DESIGN CHOICE 2, log entry 14). -/
  lcPend : BitVec 3 := 2
deriving DecidableEq, Repr

/-- The power and health controller (17). -/
structure Power where
  /-- ARB_HOST.QW, 12 bits; 17 R366; reset 0xED8. -/
  host : Nat := 0xED8
  /-- ARB_VADM, 16 bits; 17 R366; reset 0. -/
  vadm : BitVec 16 := 0
  /-- ARB_REQ of each Plain; 17 R350, R366; reset 0; unlisted reads 0. -/
  req : Sparse Nat := []
  /-- ARB_GRANT of each Plain; 17 R350, R366; reset 0; unlisted reads 0. -/
  grant : Sparse Nat := []
  /-- ARB_STAT.UNDER_BUDGET, 1 bit; 17 R366; reset 0. -/
  under : Bool := false
  /-- ARB_STAT.UNDER_SEEN, 1 bit; 17 R366; reset 0. -/
  underSeen : Bool := false
  /-- ARB_STAT.HOST_REFUSED, 1 bit; 17 R366; reset 0. -/
  hostRefused : Bool := false
  /-- ARB_STAT.CUR_ZERO, 1 bit; 17 R366; reset 0. -/
  curZero : Bool := false
  /-- ARB_STAT.BASE_WAIT, 8 bits; 17 R366; reset 0. -/
  baseWait : BitVec 8 := 0
  /-- VMON_CTL.WARN, 6 bits; 17 R366; reset 0x28. -/
  vinWarn : BitVec 6 := 0x28
  /-- VMON_STAT.PWR_WARN, 1 bit; 17 R366; reset 0. -/
  pwrWarn : Bool := false
  /-- VMON_STAT.WARN_SEEN, 1 bit; 17 R366; reset 0. -/
  warnSeen : Bool := false
  /-- VMON_STAT.RAIL_FAULT, 1 bit; 17 R366; reset 0. -/
  railFault : Bool := false
  /-- VIN_MV, 32 bits: the average as the last sample wrote it; 17 R366; reset 0. -/
  vinMv : Nat := 0
  /-- The last 10,000 VIN samples in mV (1 ms), newest first; 17 R346; reset none. -/
  vinHist : List Nat := []
  /-- IIN_MA, 32 bits; 17 R366; reset 0. -/
  iinMa : Nat := 0
  /-- PIN_QW, 32 bits; 17 R366; reset 0. -/
  pinQw : Nat := 0
  /-- Largest input current of the present grant interval in mA; 17 R350; reset 0. -/
  iinMax : Nat := 0
  /-- Time since which VIN has been below 4.00 V; 17 R354; reset none. -/
  lowSince : Option Nat := none
  /-- Time since which VIN has been at or above 4.5 V; 17 R354; reset none. -/
  goodSince : Option Nat := none
  /-- The device is held in cold reset; 17 R354, R361, 21 R409; reset 0. -/
  held : Bool := false
  /-- The cold reset ends when every sensor reads below 95 °C; 17 R361; reset 0. -/
  hotHeld : Bool := false
  /-- RST_N is low: no reset is released; 21 R409, R412, R420; reset 1 (DESIGN CHOICE 1, log entry 38). -/
  rstLow : Bool := true
  /-- RST_CAUSE, 3 bits; 17 R366; reset 0. -/
  rstCause : BitVec 3 := 0
  /-- REG_CTL.AVS, 1 bit; 17 R366; reset 1. -/
  avs : Bool := true
  /-- TAMPER_STAT, 5 bits; 17 R366; reset 0. -/
  tamper : BitVec 5 := 0
  /-- ALERT_MASK, 8 bits; 17 R366; reset 0xFF. -/
  alertMask : Byte := 0xFF
  /-- THERM_CTL.WARN, 8 bits; 17 R366; reset 0x5F. -/
  thermWarn : Byte := 0x5F
  /-- THERM_STAT.WARN, 1 bit; 17 R366; reset 0. -/
  warn : Bool := false
  /-- THERM_STAT.WARN_SEEN, 1 bit; 17 R366; reset 0. -/
  thermSeen : Bool := false
  /-- THERM_STAT.THR_SEEN, 1 bit; 17 R366; reset 0. -/
  thrSeen : Bool := false
  /-- THERM_STAT.REGION, 7 bits; 17 R366; reset 0. -/
  region : Nat := 0
  /-- TRn_STAT.TEMP of the timing regions 0-99; 17 R366; reset 0; unlisted reads 0. -/
  temp : Sparse Nat := []
  /-- Regions whose last sample was at or above 115 °C, which no reset forgets; 17 R361; reset none. -/
  hot : List Nat := []
  /-- TR_LIMIT, 9 bits; 17 R366; reset 0. -/
  trLimit : BitVec 9 := 0
  /-- PSW_PLn.COL of each Plain, 9 bits; 17 R366; reset 0; unlisted reads 0. -/
  colOn : Sparse (BitVec 9) := []
  /-- PSW_PLn.CORE of each Plain; 17 R366; reset 0. -/
  coreOn : BitVec 8 := 0
  /-- Domains that wait to switch on, in order: Plain and domain (0-8 column, 9 core); 17 R356; reset none. -/
  switching : List (Fin 8 × Fin 10) := []
  /-- Domains that are on and wait to switch off, in order: Plain and domain (0-8 column, 9 core); 17 R356; reset none. -/
  switchOff : List (Fin 8 × Fin 10) := []
  /-- A cold start has run since the last cold reset; 18 R375; reset 0. -/
  started : Bool := false
  /-- Plains that the start under way leads to TEST, DEV_RST.TEST as it stood at the reset; 18 R368; reset 0. -/
  testStart : BitVec 8 := 0
deriving DecidableEq, Repr

/-- What drives the pins of the boundary register (R395). -/
inductive PinDrive where
  | normal | extest | clamp | highz
deriving DecidableEq, Repr

/-- The boundary register (R394): one level and one output enable for each pin, numbered as `pinOut` numbers them. -/
structure Boundary where
  /-- Levels as Capture-DR last loaded them, 465 bits; 20 R394, R395; reset 0. -/
  sampled : BitVec 465 := 0
  /-- Levels that Update-DR last stored, 465 bits; 20 R394, R395; reset 0. -/
  level : BitVec 465 := 0
  /-- Output enables that Update-DR last stored, 465 bits; 20 R394, R395; reset 0. -/
  drive : BitVec 465 := 0
deriving DecidableEq, Repr

/-- The test and fuse controller (20) and the device observation tree. -/
structure Tap where
  /-- The instruction register, 8 bits; 20 R394, R395; reset IDCODE. -/
  ir : Byte := 0x01
  /-- The value that the instruction register last captured, 8 bits; 20 R394; reset 0. -/
  irCaptured : Byte := 0
  /-- TRST_N is low, which holds the TAP in reset; 20 R394, 21 R412; reset 0 (DESIGN CHOICE 0, log entry 49). -/
  trstLow : Bool := false
  /-- What drives the pins; 20 R395; reset normal. -/
  pins : PinDrive := .normal
  /-- The boundary register: what it sampled last, and the levels and drives that it holds, 465 bits each; 20 R394; reset 0 (DESIGN CHOICE 0, log entry 13). -/
  boundary : Boundary := {}
  /-- Boundary scans and TAP resets so far: the counter of what they are free in (the MODEL's field); 20 R394, R395; reset 0 (DESIGN CHOICE 0, log entry 49). -/
  scans : Nat := 0
  /-- TAP_AUTH.SCOPE of the session, 4 bits; 20 R402; reset 0. -/
  scope : BitVec 4 := 0
  /-- TAP_AUTH.OPEN, 1 bit; 20 R402; reset 0. -/
  sessOpen : Bool := false
  /-- TAP_AUTH.FAIL, 1 bit; 20 R402; reset 0. -/
  fail : Bool := false
  /-- TAP_AUTH.DENIED, 1 bit; 20 R402; reset 0. -/
  denied : Bool := false
  /-- TAP_AUTH.FAILS, 16 bits; 20 R402; reset 0. -/
  fails : BitVec 16 := 0
  /-- TAP_CHAL, 32 bits; 20 R402; reset random: a free value, log entry 8. -/
  chal : Word := Config.freshChallenge 0
  /-- Challenges drawn so far: the counter of the free value (the MODEL's field); 20 R398; reset 0 (DESIGN CHOICE 0, log entry 8). -/
  chals : Nat := 0
  /-- The token under verification; 20 R398; reset none. -/
  token : Option (BitVec 1664) := none
  /-- Tokens are ignored since this refusal; 20 R398; reset none. -/
  lockedAt : Option Nat := none
  /-- TESTCTL ADDR captured, 40 bits; 20 R396; reset 0. -/
  tcAddr : BitVec 40 := 0
  /-- TESTCTL DATA captured, 64 bits; 20 R396; reset 0. -/
  tcData : DWord := 0
  /-- TESTCTL STATUS, 2 bits; 20 R396; reset 0. -/
  tcStatus : BitVec 2 := 0
  /-- TESTCTL SIZE captured, 2 bits; 20 R396; reset 0. -/
  tcSize : BitVec 2 := 0
  /-- TESTCTL PLAIN captured, 3 bits; 20 R396; reset 0. -/
  tcPlain : BitVec 3 := 0
  /-- The value that the last Capture-DR loaded into the selected data register, 112 bits; 20 R395, R396; reset 0. -/
  captured : BitVec 112 := 0
  /-- BIST_CTL.PLAINS, 8 bits; 20 R402; reset 0xFF. -/
  bistPlains : Byte := 0xFF
  /-- BIST_CTL.SEL, 3 bits; 20 R402; reset 0x7. -/
  bistSel : BitVec 3 := 7
  /-- Plains whose tests run since the last GO, 8 bits; 20 R401; reset none. -/
  bistRun : Byte := 0
  /-- Tests that run since the last GO, 3 bits; 20 R401; reset none. -/
  bistTests : BitVec 3 := 0
  /-- BIST_STAT.BUSY, 1 bit; 20 R402; reset 0. -/
  bistBusy : Bool := false
  /-- BIST_STAT.DONE, 1 bit; 20 R402; reset 0. -/
  bistDone : Bool := false
  /-- BIST_STAT.REFUSED, 1 bit; 20 R402; reset 0. -/
  bistRefused : Bool := false
  /-- BIST_STAT.FAIL_PL, 8 bits; 20 R402; reset 0. -/
  failPl : Byte := 0
  /-- OBS_DEV_CTL.EN, 4 bits; 20 R402; reset 0. -/
  obsEn : BitVec 4 := 0
  /-- OBS_DEV_CTL.DENIED, 1 bit; 20 R402; reset 0. -/
  obsDenied : Bool := false
  /-- OBS_DEV_SEL0-3, 11 bits each; 20 R402; reset 0; unlisted reads 0. -/
  obsSel : Sparse (BitVec 11) := []
  /-- Times at which the select changes of the device's observation trees have settled; 20 R399; reset none; unlisted is 0. -/
  obsAt : Sparse Nat := []
  /-- Time of the last doorbell write, an observation pulse; 20 R400; reset none. -/
  obsDoorbell : Option Nat := none
  /-- Start of the last grant interval, an observation pulse; 20 R400; reset none. -/
  obsGrant : Option Nat := none
  /-- DEV_RST.TEST, 1 bit; 18 R382; reset 0. -/
  devTest : Bool := false
  /-- LC_STATE.REFUSED, 1 bit; 18 R382; reset 0. -/
  lcRefused : Bool := false
deriving DecidableEq, Repr

/-- HIU_LINK (22 R423). -/
structure HostLink where
  /-- HIU_LINK.RATE, 2 bits; 22 R423; reset 0. -/
  rate : BitVec 2 := 0
  /-- HIU_LINK.WIDTH, 5 bits; 22 R423; reset 0. -/
  width : BitVec 5 := 0
  /-- HIU_LINK.UP, 1 bit; 22 R423; reset 0. -/
  up : Bool := false
  /-- HIU_LINK.FLIT, 1 bit; 22 R423; reset 0. -/
  flit : Bool := false
deriving DecidableEq, Repr

/-- The module. -/
structure State where
  /-- PL0-PL7; 00 R3, 01 R11. -/
  plains : Vector Plain 8 := Vector.replicate 8 {}
  fuses : Fuses := {}
  power : Power := {}
  tap : Tap := {}
  hlink : HostLink := {}
  /-- Host memory by host bus address, outside the module; 13 R259; reset unlisted: an unlisted byte reads a free value (log entry 6). -/
  hostMem : List Host.Cell := []
  /-- PF0's PCI Express function; 13 R256. -/
  pf0 : PcieFn := {}
  /-- MSI-X messages sent: function 0-8 and vector, oldest first; 13 R257, 17 R364; reset none. -/
  msix : List (Nat × Nat) := []
  /-- The data of the last I2C read, of the host's last read of the PF0 window and of the last read of a counter that clears, 32 bits; 00 R6, 21 R413, 22 R421; reset 0 (DESIGN CHOICE 0, log entry 13). -/
  readData : Word := 0
  /-- The last I2C write was NAKed; 21 R413; reset 0. -/
  nak : Bool := false
  /-- I2C_ADR[2:0] as sampled at row 1 of the last cold start, 3 bits; 21 R412, R413; reset 0 (DESIGN CHOICE 0, log entry 13). -/
  i2cAdr : BitVec 3 := 0
  /-- Time in ns on the REFCLK_PASS time base; 10 R213; reset 0. -/
  timeNs : Nat := 0
  /-- The queue of waiting commands, first in first out; reset empty. -/
  pending : List Instr := []
deriving DecidableEq, Repr

/-- The module after power-on, before COLD_START releases its reset: every register at the value the spec gives for
reset, every Plain unpowered, no command waiting. -/
def State.reset : State := {}

/-- Why a command stops with a fault. No command of this model does: every row has an effect (safe). -/
inductive Fault where
  /-- Raised by no meaning; kept so that the type has a name for it (safe). -/
  | noEffect
deriving DecidableEq, Repr

/-- Why a command is refused. -/
inductive Refusal where
  /-- The command has no meaning yet; raised only by exec's arms (safe). -/
  | notModelled (mnemonic : String)
deriving DecidableEq, Repr

end Sys2Proof.Machine
end

