-- ==== Sys2Proof/Machine/Ops.lean ====
section
/-! DEFINITION. The named operations that every meaning is written over: the sparse store and byte memory, bit
fields, updates of one part of the state, and the three ways in which the block reports: an event to the Manager
(R236), an MSI-X vector (R257) and a fault (R384-R388, R393). -/

namespace Sys2Proof.Machine

/-! ## Sparse stores and byte memory -/

/-- The content at index `i`; `d i` where nothing is listed. -/
def sget {α : Type} (d : Nat → α) : Sparse α → Nat → α
  | [], i => d i
  | (k, v) :: r, i => if k = i then v else sget d r i

/-- Writes `v` at index `i`, keeping indices strictly rising and listing nothing that equals `d`. -/
def sset {α : Type} [DecidableEq α] (d : Nat → α) : Sparse α → Nat → α → Sparse α
  | [], i, v => if v = d i then [] else [(i, v)]
  | (k, w) :: r, i, v =>
    if i < k then (if v = d i then (k, w) :: r else (i, v) :: (k, w) :: r)
    else if i = k then (if v = d i then r else (i, v) :: r)
    else (k, w) :: sset d r i v

/-- `sget` of a store whose unlisted indices all read `d`. -/
def look {α : Type} (d : α) (m : Sparse α) (i : Nat) : α := sget (fun _ => d) m i

/-- `sset` of a store whose unlisted indices all read `d`. -/
def put {α : Type} [DecidableEq α] (d : α) (m : Sparse α) (i : Nat) (v : α) : Sparse α :=
  sset (fun _ => d) m i v

/-- The content at index `i` of a store in which an unlisted index holds nothing. -/
def find {α : Type} : Sparse α → Nat → Option α
  | [], _ => none
  | (k, v) :: r, i => if k = i then some v else find r i

/-- Puts `v` at index `i` of a store in which an unlisted index holds nothing. -/
def ins {α : Type} : Sparse α → Nat → α → Sparse α
  | [], i, v => [(i, v)]
  | (k, w) :: r, i, v => if i < k then (i, v) :: (k, w) :: r else if i = k then (i, v) :: r else (k, w) :: ins r i v

/-- Removes index `i`. -/
def del {α : Type} (m : Sparse α) (i : Nat) : Sparse α := m.filter fun e => e.1 ≠ i

/-- The canonical form: indices strictly rising, nothing listed that equals what an unlisted index reads as. -/
def Sparse.wf {α : Type} [DecidableEq α] (d : Nat → α) : Sparse α → Bool
  | [] => true
  | [(k, v)] => decide (v ≠ d k)
  | (k, v) :: (k', v') :: r => decide (k < k') && decide (v ≠ d k) && Sparse.wf d ((k', v') :: r)

/-- `n` bytes from address `a` upward. -/
def readBytes (d : Nat → Byte) (m : List Host.Cell) (a : Nat) : Nat → List Byte
  | 0 => []
  | n + 1 => sget d m a :: readBytes d m (a + 1) n

/-- Writes the bytes `bs` from address `a` upward. -/
def writeBytes (d : Nat → Byte) (m : List Host.Cell) (a : Nat) : List Byte → List Host.Cell
  | [] => m
  | b :: bs => writeBytes d (sset d m a b) (a + 1) bs

/-- The canonical form of a byte memory. -/
abbrev Memory.wf (d : Nat → Byte) (m : List Host.Cell) : Bool := Sparse.wf d m

/-- The units of `u` bytes that a range of `n` bytes meets, by index offset / u. -/
def unitsOf (u off n : Nat) : List Nat := if n = 0 then [] else (List.range ((off + n - 1) / u - off / u + 1)).map (off / u + ·)

/-- 64-bit words of a range. -/
def wordsOf (off n : Nat) : List Nat := unitsOf 8 off n

/-- 64-byte lines of a range. -/
def linesOf (off n : Nat) : List Nat := unitsOf 64 off n

/-- A range of `n` bytes covers unit `i` of `u` bytes in part only. -/
def coversPart (u off n i : Nat) : Bool := decide (u * i < off) || decide (off + n < u * i + u)

/-- Writes the bytes of a range but those in units of `u` bytes that `bad` lists. -/
def writeBut (u : Nat) (bad : List Nat) (d : Nat → Byte) (m : List Host.Cell) (off : Nat) (bs : List Byte) : List Host.Cell :=
  (bs.zipIdx off).foldl (fun m (b, a) => if a / u ∈ bad then m else sset d m a b) m

/-- Clears the marks of the listed units. -/
def unmark (us : List Nat) (m : Sparse Bool) : Sparse Bool := us.foldl (fun m i => put false m i false) m

/-- The number that bytes spell, lowest first (R7: little-endian). -/
def leNat : List Byte → Nat
  | [] => 0
  | b :: bs => b.toNat + 256 * leNat bs

/-- The low `n` bytes of a number, lowest first. -/
def leBytes : Nat → Nat → List Byte
  | 0, _ => []
  | n + 1, x => BitVec.ofNat 8 x :: leBytes n (x / 256)

/-- Bytes `o` to `o + n - 1` of a byte string. -/
def sub (bs : List Byte) (o n : Nat) : List Byte := (bs.drop o).take n

/-- Bytes `o` to `o + n - 1` as a number. -/
def num (bs : List Byte) (o n : Nat) : Nat := leNat (sub bs o n)

/-- The number in big-endian bytes. -/
def beNat (bs : List Byte) : Nat := leNat bs.reverse

/-! ## Bit fields and counters -/

/-- Bits `lo + n - 1 : lo` of a number. -/
def fldN (x lo n : Nat) : Nat := x / 2 ^ lo % 2 ^ n

/-- Bits `lo + n - 1 : lo`, as a number. -/
def fld {w : Nat} (v : BitVec w) (lo n : Nat) : Nat := fldN v.toNat lo n

/-- Bit `i`. -/
def bit {w : Nat} (v : BitVec w) (i : Nat) : Bool := v.getLsbD i

/-- `x` with bit `i` set to `b`. -/
def setBit {w : Nat} (v : BitVec w) (i : Nat) (b : Bool) : BitVec w :=
  if b then v ||| (1#w <<< i) else v &&& ~~~(1#w <<< i)

/-- 1 for true. -/
def b2n (b : Bool) : Nat := if b then 1 else 0

/-- A 32-bit word from a number. -/
abbrev w32 (n : Nat) : Word := BitVec.ofNat 32 n

/-- Adds `n` to a counter that saturates at 0xFFFF_FFFF. -/
def satAdd (v : Word) (n : Nat) : Word := if v.toNat + n < 2 ^ 32 then w32 (v.toNat + n) else 0xFFFFFFFF#32

/-- Increments a counter that saturates at 0xFFFF_FFFF. -/
def satInc (v : Word) : Word := satAdd v 1

/-- Clears the bits of `v` that `w` writes as 1 (W1C). -/
def w1c {n : Nat} (v w : BitVec n) : BitVec n := v &&& ~~~w

/-- `x / y` rounded up. -/
def ceilDiv (x y : Nat) : Nat := (x + y - 1) / y

/-! ## Updates of one part of the state -/

/-- The step that every meaning of this model answers: a next state. -/
abbrev Out := Host.Outcome State Fault Refusal

/-- Applies `f` to element `i`. -/
def vmod {α : Type} {n : Nat} (v : Vector α n) (i : Fin n) (f : α → α) : Vector α n := v.set i (f v[i])

/-- Applies `f` to every element. -/
def vall {α β : Type} {n : Nat} (v : Vector α n) (f : Fin n → α → β) : Vector β n := Vector.ofFn fun i => f i v[i]

/-- Applies `f` to Plain `p`. -/
def modPlain (s : State) (p : Fin 8) (f : Plain → Plain) : State := { s with plains := vmod s.plains p f }

/-- Applies `f` to a virtual tile. -/
def modTile (P : Plain) (t : Fin 64) (f : Tile → Tile) : Plain := { P with tiles := vmod P.tiles t f }

/-- Applies `f` to every virtual tile. -/
def allTiles (P : Plain) (f : Fin 64 → Tile → Tile) : Plain := { P with tiles := vall P.tiles f }

/-- Applies `f` to a link endpoint. -/
def modLink (P : Plain) (l : Fin 8) (f : Link → Link) : Plain := { P with links := vmod P.links l f }

/-- Applies `f` to every link endpoint. -/
def allLinks (P : Plain) (f : Fin 8 → Link → Link) : Plain := { P with links := vall P.links f }

/-- Applies `f` to a submission ring. -/
def modRing (P : Plain) (r : Fin 4) (f : Ring → Ring) : Plain := { P with hiu := { P.hiu with rings := vmod P.hiu.rings r f } }

/-- Applies `f` to a mailbox. -/
def modMb (P : Plain) (m : Fin 4) (f : Mailbox → Mailbox) : Plain := { P with hiu := { P.hiu with mb := vmod P.hiu.mb m f } }

/-- Applies `f` to a DMA channel. -/
def modCh (P : Plain) (c : Fin 16) (f : Channel → Channel) : Plain := { P with dma := { P.dma with ch := vmod P.dma.ch c f } }

/-- Applies `f` to a PIO engine. -/
def modEng (P : Plain) (e : Fin 4) (f : PioEngine → PioEngine) : Plain := { P with pio := { P.pio with eng := vmod P.pio.eng e f } }

/-- Number of the 400 MHz period of the PIO clock at a time in ns (16 R333). -/
def pioPeriod (now : Nat) : Nat := now * 2 / 5

/-! ## Modes -/

/-- Mode codes (R367). -/
def modeCode : Mode → Nat
  | .valley => 0 | .boot => 1 | .load => 2 | .hold => 3 | .run => 4 | .step => 5 | .replay => 6
  | .bridge => 7 | .transact => 8 | .checked => 9 | .quarantine => 10 | .test => 11

/-- The stepping modes (R367). -/
def modeStepping : Mode → Bool
  | .run | .step | .replay | .bridge | .transact | .checked => true
  | _ => false

/-- Enters a mode; PREV keeps the one that it leaves (R382). -/
def setMode (P : Plain) (m : Mode) : Plain :=
  if P.run.mode = m then P else { P with run := { P.run with prev := P.run.mode, mode := m } }

/-- The Plain's window takes writes: in VALLEY the HIU discards them (18 R378) (in part DEDUCED, log entry 22). -/
def awake (P : Plain) : Bool := decide (P.run.mode ≠ .valley)

/-! ## Reports -/

/-- An event record: CODE in bits 15:0, UNIT in bits 21:16, DETAIL in bits 63:32 (R236). -/
def evRecord (code unit detail : Nat) : DWord :=
  BitVec.ofNat 64 (code % 2 ^ 16 + unit % 64 * 2 ^ 16 + detail % 2 ^ 32 * 2 ^ 32)

/-- Signals an event to the Manager: queued while the queue holds fewer than 64 records, else counted as lost (R236). -/
def event (P : Plain) (code unit detail : Nat) : Plain :=
  if P.mgr.evq.length < 64 then { P with mgr := { P.mgr with evq := P.mgr.evq ++ [evRecord code unit detail] } }
  else { P with mgr := { P.mgr with lost := if P.mgr.lost = 0xFFFF#16 then P.mgr.lost else P.mgr.lost + 1 } }

/-- Applies `g` to the PCI Express function of a Plain. -/
def modFn (P : Plain) (g : PcieFn → PcieFn) : Plain := { P with hiu := { P.hiu with fn := g P.hiu.fn } }

/-- A vector is masked: by MSI-X Enable, the Function Mask or its Mask bit (R257) (in part PRESUMED, log entry 57). -/
def masked (F : PcieFn) (vec : Nat) : Bool := !F.msixOn || F.fnMask || !look false F.open_ vec

/-- A function has vector `vec` to send: without Bus Master Enable it waits, masked it sets its pending bit, else it is sent.
The second component: it is sent (R256-R258) (in part DEDUCED, log entry 30, and PRESUMED, log entry 57). -/
def fnSignal (F : PcieFn) (vec : Nat) : PcieFn × Bool :=
  if !F.bme then ({ F with wait := F.wait ++ [vec] }, false)
  else if masked F vec then ({ F with pba := setBit F.pba vec true }, false)
  else (F, true)

/-- Vectors that waited for Bus Master Enable, and pending ones that are no longer masked, go out (R257, R258). The second
component: those sent, in order. -/
def fnRelease (F : PcieFn) : PcieFn × List Nat :=
  if !F.bme then (F, [])
  else
    let free := F.wait.filter fun v => !masked F v
    let held := F.wait.filter (masked F ·)
    let ready := (List.range 64).filter fun v => bit F.pba v && !masked F v
    ({ F with wait := [], pba := held.foldl (fun b v => setBit b v true) (ready.foldl (fun b v => setBit b v false) F.pba) }, free ++ ready)

/-- MSI-X messages of function `f` are sent. -/
def sendMsix (s : State) (f : Nat) (vs : List Nat) : State := { s with msix := s.msix ++ vs.map fun v => (f, v) }

/-- Signals MSI-X vector `vec` of the Plain's function (R257). -/
def vector (s : State) (p : Fin 8) (vec : Nat) : State :=
  let r := fnSignal s.plains[p].hiu.fn vec
  if r.2 then sendMsix s (p.val + 1) [vec] else modPlain s p fun P => modFn P fun _ => r.1

/-- Signals MSI-X vector `vec` of PF0 (R257, 17 R364). -/
def pf0Vector (s : State) (vec : Nat) : State :=
  let r := fnSignal s.pf0 vec
  if r.2 then sendMsix s 0 [vec] else { s with pf0 := r.1 }

/-- FLT_STAT (R393). -/
def fltStat (h : Health) : Word :=
  w32 (h.code.toNat + h.first.toNat * 2 ^ 8 + h.second.toNat * 2 ^ 16 + b2n h.winOpen * 2 ^ 24 + b2n h.incomplete * 2 ^ 25)

/-- The codes whose window closes by itself (R386). -/
def hardwareLed (code : Nat) : Bool := code ∈ [6, 7, 8, 9, 10, 13, 14]

/-- Which detections belong to the window that `openCode` opened (R384, R392): an abandoned cycle's own stall, and a
progress warning during the BOOT of the recovery's Plain reset. -/
def sameWindow (openCode code : Nat) (mode : Mode) : Bool :=
  (code = 0x0B && (openCode = 0x0B || openCode = 0x01)) || (code = 0x09 && mode = .boot) || (code = 0x05 && openCode = 0x05)

/-- Opens the recovery window for a recovering fault: the codes, the context and FAULT_OPEN (R384, R385, R393). -/
def openWindow (P : Plain) (now code unit : Nat) : Plain :=
  let h := P.health
  let P := { P with health := { h with
    code := BitVec.ofNat 8 code, first := 0, second := 0, winOpen := true, openedAt := now, ueSeen := [],
    fltCyc := BitVec.ofNat 48 P.run.cycle, fltWhere := w32 (P.run.step % 2 ^ 13 + unit % 64 * 2 ^ 16),
    fltCount := satInc h.fltCount } }
  event P 0x0220 0 (fltStat P.health).toNat

/-- Closes the recovery window; FAULT_CLOSE carries its length in µs (R385, R393). -/
def closeWindow (P : Plain) (now : Nat) : Plain :=
  if P.health.winOpen then
    let us := (now - P.health.openedAt) / 1000
    event { P with health := { P.health with winOpen := false } } 0x0221 0 (min us (2 ^ 32 - 1))
  else P

end Sys2Proof.Machine
end

