-- ==== Sys2Proof/Machine/Operands.lean ====
section
/-! DEFINITION. Four-state positions and lane words (02 R27-R41), and what the tile's units compute from them
(04 R75-R82). Position 0 is the least significant. -/

namespace Sys2Proof.Machine

/-- Position `k` of a lane word (R29). -/
def pos (w : Word) (k : Nat) : Pos := w.extractLsb' (2 * k) 2

/-- The lane word whose position `k` is `f k` (R28). -/
def ofPos (f : Nat → Pos) : Word :=
  w32 ((List.range 16).foldr (fun k acc => (f k).toNat * 4 ^ k + acc) 0)

/-- `lane(i)` (R29). -/
def lane (i : Pos) : Word := ofPos fun _ => i

/-- A position that is X or Z (R75). -/
def unk (p : Pos) : Bool := p.getLsbD 1

/-- `x_of(w)`: the 16-bit mask of the unknown positions (R29). -/
def xOf (w : Word) : Nat := (List.range 16).foldr (fun k acc => b2n (unk (pos w k)) * 2 ^ k + acc) 0

/-- Positions 0 to `n - 1` are known (R75). -/
def allk (w : Word) (n : Nat) : Bool := xOf w % 2 ^ n == 0

/-- The v bits of positions 0 to `n - 1` (R75). -/
def val (w : Word) (n : Nat) : Nat := (List.range n).foldr (fun k acc => b2n ((pos w k).getLsbD 0) * 2 ^ k + acc) 0

/-- The known lane word of a 16-bit number (R75). -/
def mk (x : Nat) : Word := ofPos fun k => if x.testBit k then 1 else 0

/-- Position 0 is `p`, every other position 0 (R75). -/
def one (p : Pos) : Word := w32 p.toNat

/-- One position of `merge` (before R52). -/
def mergePos (p q : Pos) : Pos := if p = q then p else 2

/-- `merge(a, b)` (before R52): identical encodings survive, Z included. -/
def merge (a b : Word) : Word := ofPos fun k => mergePos (pos a k) (pos b k)

/-! ## LUT units (R32-R35, R77) -/

/-- The three evaluations of a LUT unit (R33, R34, R35). -/
inductive LutKind where
  | exactX | pessimistic | twoState
deriving DecidableEq, Repr

/-- Index `n` agrees with every known input (R33). -/
def lutAgrees (a : List Pos) (n : Nat) : Bool :=
  (a.zip [0, 1, 2, 3]).all fun (p, j) => unk p || (n.testBit j == p.getLsbD 0)

/-- The index that the inputs' v bits select (R32). -/
def lutIndex (a : List Pos) : Nat :=
  (a.zip [0, 1, 2, 3]).foldr (fun (p, j) acc => b2n (p.getLsbD 0) * 2 ^ j + acc) 0

/-- The exact-X output for table `t` (R33). -/
def lutExact (t : Nat) (a : List Pos) : Pos :=
  let hits := (List.range 16).filter (lutAgrees a)
  if hits.any (fun n => t.testBit n) then (if hits.any (fun n => !t.testBit n) then 2 else 1) else 0

/-- One position of a LUT result (R77). -/
def lutPos (kind : LutKind) (t : Nat) (a : List Pos) : Pos :=
  match kind with
  | .twoState => if t.testBit (lutIndex a) then 1 else 0
  | .pessimistic => if a.any unk then 2 else lutExact t a
  | .exactX => lutExact t a

/-- The result of a LUT trigger; `tbl k` is position k's 16-bit table (R77). -/
def lutEval (kind : LutKind) (tbl : Nat → Nat) (i0 i1 i2 d : Word) : Word :=
  ofPos fun k => lutPos kind (tbl k) [pos i0 k, pos i1 k, pos i2 k, pos d k]

/-! ## Bitwise unit (R36, R37, R79, R80) -/

/-- AND of two positions (R79). -/
def and2 (p q : Pos) : Pos := if p = 0 ∨ q = 0 then 0 else if p = 1 ∧ q = 1 then 1 else 2

/-- OR of two positions (R79). -/
def or2 (p q : Pos) : Pos := if p = 1 ∨ q = 1 then 1 else if p = 0 ∧ q = 0 then 0 else 2

/-- XOR of two positions (R79). -/
def xor2 (p q : Pos) : Pos := if unk p || unk q then 2 else p ^^^ q

/-- NOT of a position (R79). -/
def not1 (p : Pos) : Pos := if unk p then 2 else p ^^^ 1

/-- Resolution of two drivers (R37, R79). -/
def res2 (p q : Pos) : Pos := if p = 3 then q else if q = 3 then p else if p = q ∧ unk p = false then p else 2

/-- `res2` with a remaining Z replaced (R37). -/
def resPull (z p q : Pos) : Pos := if res2 p q = 3 then z else res2 p q

/-- A fold of the positions of a word, lowest first (R80). -/
def foldPos (f : Pos → Pos → Pos) (w : Word) : Pos :=
  (List.range 15).foldl (fun acc k => f acc (pos w (k + 1))) (pos w 0)

/-- The result of the bitwise trigger with identifier `port`: `o` is BW.O and `d` the datum (R80). -/
def bwEval (port : Nat) (o d : Word) : Word :=
  let by2 (f : Pos → Pos → Pos) : Word := ofPos fun k => f (pos o k) (pos d k)
  match port with
  | 0x171 => by2 and2
  | 0x172 => by2 or2
  | 0x173 => by2 xor2
  | 0x174 => by2 fun p q => not1 (and2 p q)
  | 0x175 => by2 fun p q => not1 (or2 p q)
  | 0x176 => by2 fun p q => not1 (xor2 p q)
  | 0x177 => by2 fun _ q => not1 q
  | 0x178 => by2 fun p q => and2 p (not1 q)
  | 0x179 => by2 res2
  | 0x17A => by2 (resPull 0)
  | 0x17B => by2 (resPull 1)
  | 0x17C => by2 (resPull 2)
  | 0x17D => one (foldPos and2 d)
  | 0x17E => one (foldPos or2 d)
  | 0x17F => one (foldPos xor2 d)
  | 0x180 => by2 fun p q => if p = q then 1 else 0
  | 0x181 => one (if o = d then 1 else 0)
  | 0x182 => by2 fun _ q => if unk q then 1 else 0
  | 0x183 => by2 fun _ q => if q = 3 then 1 else 0
  | _ => by2 fun p q => if p = q ∧ unk p = false then p else 2

/-! ## Arithmetic unit (R38, R39, R81, R82) -/

/-- The lowest position at which either operand is unknown; 16 when none is (R38). -/
def lowestUnk (a d : Word) : Nat :=
  ((List.range 16).find? fun k => unk (pos a k) || unk (pos d k)).getD 16

/-- Add and subtract with X from the lowest unknown position: AR.R and AR.CO (R81). -/
def arAdd (sub useCi : Bool) (a d ci : Word) : Word × Word :=
  let c : Pos := if useCi then pos ci 0 else 0
  let j := if unk c then 0 else lowestUnk a d
  let t : Int := if sub then (val a 16 : Int) - val d 16 - b2n (c.getLsbD 0) else (val a 16 : Int) + val d 16 + b2n (c.getLsbD 0)
  let r := mk (t % 65536).toNat
  let co : Pos := if sub then (if t < 0 then 1 else 0) else if 65536 ≤ t then 1 else 0
  if j < 16 then (ofPos fun k => if j ≤ k then 2 else pos r k, one 2) else (r, one co)

/-- AR.EQ (R82). -/
def arEq (a d : Word) : Pos :=
  let ks := List.range 16
  if ks.any fun k => !unk (pos a k) && !unk (pos d k) && pos a k != pos d k then 0
  else if ks.any fun k => unk (pos a k) || unk (pos d k) then 2 else 1

/-- Positions `n - 1` down to 0 of a less-than (R82). -/
def arLtFrom (signed : Bool) (a d : Word) : Nat → Pos
  | 0 => 0
  | k + 1 =>
    let p := pos a k
    let q := pos d k
    if unk p || unk q then 2
    else if p ≠ q then
      let r : Pos := if p = 0 then 1 else 0
      if signed && k == 15 then r ^^^ 1 else r
    else arLtFrom signed a d k

/-- The results AR.R and AR.CO of the arithmetic trigger with identifier `port` (R81, R82). -/
def arEval (port : Nat) (a ci d : Word) : Word × Word :=
  match port with
  | 0x192 => arAdd false false a d ci
  | 0x193 => arAdd false true a d ci
  | 0x194 => arAdd true false a d ci
  | 0x195 => arAdd true true a d ci
  | 0x196 => (one (arEq a d), 0)
  | 0x197 => (one (arLtFrom false a d 16), 0)
  | _ => (one (arLtFrom true a d 16), 0)

/-! ## Guards (R50) -/

/-- The outcome of a move's guard. -/
inductive GuardOut where
  | execute | skip | unknown
deriving DecidableEq, Repr

/-- The outcome under guard value `g` (R50). -/
def guardOut (g : Pos) (inv : Bool) : GuardOut :=
  if unk g then .unknown else if xor (g.getLsbD 0) inv then .execute else .skip

/-- A masked guard write of `v` to `gd k` (R56, R95). -/
def guardWrite (v : Word) (k : Nat) (old : Pos) : Pos :=
  match pos v (8 + k) with
  | 1 => pos v k
  | 0 => old
  | _ => mergePos old (pos v k)

/-! ## Initial patterns (R40, R41) -/

/-- The pseudo-random 64-bit value for the word at byte offset `off` of a region with seed `seed` (R41). -/
def patternWord (seed off : Nat) : DWord :=
  let z : DWord := BitVec.ofNat 64 (off / 8) + BitVec.ofNat 64 seed * 0x9E3779B97F4A7C15#64
  let z := (z ^^^ (z >>> 30)) * 0xBF58476D1CE4E5B9#64
  let z := (z ^^^ (z >>> 27)) * 0x94D049BB133111EB#64
  z ^^^ (z >>> 31)

/-- The 64-bit word at offset `off` of a never-written region: pattern code, two-state packing, seed (R40). Code 0b00 is
not permitted with two-state packing (R40, R42); where a register write makes such a region, it reads the pseudo-random word
(DESIGN CHOICE, log entry 54). -/
def patternDWord (code : Nat) (twoState : Bool) (seed off : Nat) : DWord :=
  let z : DWord := match code with
    | 1 => 0
    | 2 => 0xFFFFFFFFFFFFFFFF#64
    | _ => patternWord seed off
  if twoState then z
  else if code = 0 then 0xAAAAAAAAAAAAAAAA#64
  else BitVec.ofNat 64 ((List.range 32).foldr (fun k acc => b2n (z.getLsbD k) * 4 ^ k + acc) 0)

end Sys2Proof.Machine
end

