-- ==== Sys2Proof/Machine/Flags.lean ====
section
/-! DEFINITION. The sticky flags of a tile (03 R71, 04 R96, 06 R126) and the schedule fault that CHECKED mode records
from them (R71, R118, R119). -/

namespace Sys2Proof.Machine

/-- Sets bit `i` of TILE_STAT. -/
def setStat (T : Tile) (i : Nat) : Tile := { T with stat := setBit T.stat i true }

/-- Sets bit `i` of TILE_STAT when `b` holds. -/
def setStatIf (b : Bool) (i : Nat) (T : Tile) : Tile := if b then setStat T i else T

/-- Sets bit `i` of TILE_OPSTAT. -/
def setOpstat (T : Tile) (i : Nat) : Tile := { T with opstat := setBit T.opstat i true }

/-- Sets bit `i` of TILE_OPSTAT when `b` holds. -/
def setOpstatIf (b : Bool) (i : Nat) (T : Tile) : Tile := if b then setOpstat T i else T

/-- A schedule fault that one step shows: its lowest slot (0x1F: none), KIND, step, and queue of a queue fault. -/
structure SchedFault where
  slot : Nat
  kind : Nat
  step : Nat
  queue : Nat
deriving DecidableEq, Repr

/-- The order of R71: lowest slot, then lowest KIND. -/
def SchedFault.key (f : SchedFault) : Nat := f.slot * 8 + f.kind

/-- The fault of least key; of equal keys the first in the list, so that of two late results with one slot the earlier
trigger step stands (DESIGN CHOICE, log entry 53; in part DEDUCED, log entry 18). -/
def leastFault : List SchedFault → Option SchedFault
  | [] => none
  | f :: r =>
    match leastFault r with
    | none => some f
    | some g => if g.key < f.key then some g else some f

/-- TILE_FAULT holding a fault (R71). -/
def tileFaultWord (f : SchedFault) : Word :=
  w32 (f.step % 2 ^ 13 + f.slot % 32 * 2 ^ 16 + f.kind % 8 * 2 ^ 21 + 2 ^ 31)

/-- The lowest queue among the queue conditions of a step. -/
def lowestQueue (fs : List SchedFault) : Nat :=
  ((fs.filter fun f => f.kind == 5).map (·.queue)).foldl min 7

/-- Records the schedule faults of one step: TILE_FAULT while VALID is clear, with TQ_FLAGS.FQ for a queue fault
(R71, R119) (in part DEDUCED, log entry 18). -/
def recordFaults (fs : List SchedFault) (T : Tile) : Tile :=
  match leastFault fs with
  | none => T
  | some f =>
    if bit T.fault 31 then T
    else
      let T := { T with fault := tileFaultWord f }
      if f.kind = 5 then { T with tqFlags := (T.tqFlags &&& 0xFFF8FFFF#32) ||| w32 (lowestQueue fs * 2 ^ 16) } else T

/-- Sets the underrun flags of queue `j` (R118). -/
def flagUnder (T : Tile) (j : Nat) : Tile := { setStat T 16 with tqFlags := setBit T.tqFlags j true, under := if j ∈ T.under then T.under else T.under ++ [j] }

/-- Sets the overrun flags of queue `j` (R119). -/
def flagOver (T : Tile) (j : Nat) : Tile := { setStat T 17 with tqFlags := setBit T.tqFlags (8 + j) true }

end Sys2Proof.Machine
end

