-- ==== Sys2Proof/Machine/Link.lean ====
section
/-! DEFINITION. Pass link frames and the state of one link endpoint: frame bytes and check (08 R152-R155), sequence
and replay (R156-R158), credits (R164), states and the close sequence (R167, R175, R176). -/

namespace Sys2Proof.Machine

/-! ## Frames (R152-R155) -/

/-- One step of the reflected CRC-32C over one bit (R154). -/
def crcBit (c : Word) : Word := if c.getLsbD 0 then (c >>> 1) ^^^ 0x82F63B78#32 else c >>> 1

/-- The reflected CRC-32C register after one more byte (R154). -/
def crcByte (c : Word) (b : Byte) : Word :=
  crcBit (crcBit (crcBit (crcBit (crcBit (crcBit (crcBit (crcBit (c ^^^ b.setWidth 32))))))))

/-- CRC-32C (R154). -/
def crc32c (bs : List Byte) : Word := bs.foldl crcByte 0xFFFFFFFF#32 ^^^ 0xFFFFFFFF#32

/-- The frame header (R152). -/
def frameHeader (f : Frame) : Nat :=
  f.typ.toNat + f.chan.toNat * 2 ^ 4 + f.seq.toNat * 2 ^ 10 + f.len.toNat * 2 ^ 22 + f.flags.toNat * 2 ^ 25

/-- The 32 bytes of a frame (R152, R154). -/
def frameBytes (f : Frame) : List Byte :=
  let body := leBytes 4 (frameHeader f) ++ leBytes 24 f.payload.toNat
  body ++ leBytes 4 (crc32c body).toNat

/-- Payload bytes `lo + n - 1 : lo`, as a number. -/
def payField (f : Frame) (lo n : Nat) : Nat := fld f.payload (8 * lo) (8 * n)

/-- Payload word `i` (R152). -/
def payWord (f : Frame) (i : Nat) : Word := f.payload.extractLsb' (32 * i) 32

/-- 16-bit payload entry `i` (R153). -/
def payEntry (f : Frame) (i : Nat) : Nat := fld f.payload (16 * i) 16

/-- The sequenced types DATA, CYCLE, CREDIT, CLOSING and RETURN (R153). -/
def sequencedType (t : Nat) : Bool := t ∈ [1, 2, 3, 6, 7]

/-- LEN lies outside the range that its type allows, or a reserved bit is set (R155). -/
def malformed (f : Frame) : Bool :=
  let badLen (lo hi : Nat) : Bool := decide (f.len.toNat < lo) || decide (hi < f.len.toNat)
  let badFlags (mask : Nat) : Bool := f.flags.toNat &&& (127 - mask) != 0
  match f.typ.toNat with
  | 1 => badLen 1 6 || badFlags 0
  | 2 => badLen 6 6 || badFlags 127 || f.chan != 0
  | 3 => badLen 1 6 || badFlags 1 || f.chan != 0
  | 4 => badLen 6 6 || badFlags 3 || f.chan != 0 || f.seq != 0
  | 5 => badLen 1 1 || badFlags 0 || f.chan != 0 || f.seq != 0
  | 6 => badLen 2 2 || badFlags 1 || f.chan != 0
  | 7 => badLen 1 6 || badFlags 0 || f.chan != 0
  | 8 => badLen 6 6 || badFlags 0 || f.chan != 0 || f.seq != 0
  | _ => true

/-- A frame of a type with payload bytes and flags; SEQ is set as it is accepted. -/
def mkFrame (typ len : Nat) (flags : Nat) (bytes : List Byte) : Frame :=
  { typ := BitVec.ofNat 4 typ, len := BitVec.ofNat 3 len, flags := BitVec.ofNat 7 flags, payload := BitVec.ofNat 192 (leNat bytes) }

/-- The payload of CYCLE and OPEN: number, epoch, tag, hold target (R169). -/
def cyclePayload (n : Nat) (epoch : Word) (tag : DWord) (target : Nat) : List Byte :=
  leBytes 6 n ++ leBytes 4 epoch.toNat ++ leBytes 8 tag.toNat ++ leBytes 6 target

/-- The number that a CYCLE or OPEN frame carries. -/
def cycNumber (f : Frame) : Nat := payField f 0 6

/-- The epoch that it carries. -/
def cycEpoch (f : Frame) : Word := w32 (payField f 6 4)

/-- The tag that it carries, byte 0 in bits 7:0. -/
def cycTag (f : Frame) : DWord := BitVec.ofNat 64 (payField f 10 8)

/-- The hold target that it carries. -/
def cycTarget (f : Frame) : Nat := payField f 18 6

/-- HOLDREQ, HELD and PACE_CODE (R153). -/
def cycHoldReq (f : Frame) : Bool := f.flags.getLsbD 0

/-- See `cycHoldReq`. -/
def cycHeld (f : Frame) : Bool := f.flags.getLsbD 1

/-- See `cycHoldReq`. -/
def cycPace (f : Frame) : Nat := fld f.flags 3 3

/-- 16-bit entries packed into payload bytes (R153). -/
def entryBytes (es : List Nat) : List Byte := es.flatMap (leBytes 2)

/-! ## Widths (R149, R16) -/

/-- Lanes of link `l`: 4 off-package, 8 short. -/
def lanesOf (l : Fin 8) : Nat := if l.val < 6 then 4 else 8

/-- The bytes of the frame stream that go to active lane `i` of `w`: one byte to each lane in lane order (R149; the unit of the
striping is a DESIGN CHOICE, log entry 51). -/
def laneStream (w i : Nat) (stream : List Byte) : List Byte := (stream.zipIdx.filter fun x => x.2 % w == i).map (·.1)

/-- A 128-byte codeword (R149): 124 bytes of the lane's frame stream, 2 link-control bytes (R150) and 2 check bytes. -/
def codeword (stream : List Byte) (control : BitVec 16) : List Byte :=
  let body := (stream ++ List.replicate 124 0).take 124 ++ leBytes 2 control.toNat
  body ++ leBytes 2 (Config.rsCheck body).toNat

/-- A state in which the lanes are trained and carry codewords (R149, R150, R167). -/
def lanesUp : LinkState → Bool
  | .openWait | .active | .drain => true
  | _ => false

/-- A state in which sequenced frames flow (R153). -/
def linkSending : LinkState → Bool
  | .active | .drain => true
  | _ => false

/-- LINK_STAT.STATE codes (R179). -/
def linkCode : LinkState → Nat
  | .off => 0 | .train => 1 | .openWait => 2 | .active => 3 | .retrain => 4 | .drain => 5 | .closed => 6

/-- Bit `i` of LINK_STAT bits 23:16 set: 0 CONFIG_MISMATCH, 1 SKEW, 2 SYNC_LOST, 3 DEGRADED, 4 TXCLOSED, 5 CHAN_ERR,
6 PROTO, 7 RETURNED (R179). -/
def linkFlag (L : Link) (i : Nat) : Link := { L with flags := setBit L.flags i true }

/-! ## Sequence and replay (R156-R158) -/

/-- `a` is numbered before `b` within a half window (R156). -/
def seqBefore (a b : BitVec 12) : Bool := a != b && decide ((b - a).toNat < 2048)

/-- Frames of the replay buffer that are not acknowledged. -/
def unacked (L : Link) : List HeldFrame := L.replay.filter fun h => !h.acked && decide (h.mark = .held)

/-- A held frame has left the replay buffer's need: acknowledged, confirmed and not kept as returned or unconfirmed. -/
def finished (h : HeldFrame) : Bool := h.acked && h.unconf == 0 && decide (h.mark = .held)

/-- Drops finished frames from the replay buffer (R156). -/
def trimReplay (L : Link) : Link := { L with replay := L.replay.filter fun h => !finished h }

/-- A new sequenced frame enters the replay buffer and goes onto the wire (R156). Where the slot SEQ mod 256 still holds a frame that is
acknowledged and not confirmed, both are held (DESIGN CHOICE, log entry 55). -/
def accept (L : Link) (now : Nat) (f : Frame) : Link :=
  let f := { f with seq := L.txNext }
  { L with
    txNext := L.txNext + 1
    ackAt := if unacked L = [] then now else L.ackAt
    replay := L.replay ++ [{ frame := f, acked := false, unconf := if f.typ = 1 then f.len.toNat else 0, mark := .held }]
    wire := L.wire ++ [f] }

/-- ACK from the peer: frames up to `ack` are acknowledged (R150, R156). -/
def applyAck (L : Link) (now : Nat) (ack : BitVec 12) : Link :=
  if 0 < (ack - L.txAck).toNat ∧ (ack - L.txAck).toNat ≤ (L.txNext - 1 - L.txAck).toNat then
    trimReplay { L with
      txAck := ack
      ackAt := now
      recovered := L.recovered || L.recoverTo.isSome
      recoverTo := match L.recoverTo with
        | some r => if seqBefore ack r then some r else none
        | none => none
      replay := L.replay.map fun h => if seqBefore ack h.frame.seq then h else { h with acked := true } }
  else L

/-- Starts a replay from ACK + 1 when a frame is unacknowledged (R157). -/
def startReplay (L : Link) : Link :=
  if unacked L = [] then L
  else { L with replayFrom := some (L.txAck + 1), replayCnt := satInc L.replayCnt, recoverTo := some (L.txNext - 1), recovered := true }

/-- The link-control bytes of an outgoing codeword (R150): ACK in bits 11:0, and CODE 1 while a NAK is due. An end in OPEN_WAIT has
taken no frame of the coming session, in which counting restarts at 0, so its ACK names the number before that (R156, R429)
(in part DEDUCED, log entry 24). -/
def linkControl (L : Link) : BitVec 16 :=
  if L.state = .openWait then 0x0FFF#16 else BitVec.ofNat 16 ((L.rxNext - 1).toNat + b2n L.nakDue * 4096)

/-- A codeword goes out with the present link-control bytes (R150). -/
def sendControl (L : Link) : Link := { L with ctlOut := linkControl L, nakDue := false }

/-- The codewords that the frame stream fills go out: 124 bytes for each of `w` lanes at a time. -/
def fillCodewords : Nat → Nat → Link → Link
  | 0, _, L => L
  | k + 1, w, L =>
    if w = 0 ∨ L.stream.length < 124 * w then L
    else fillCodewords k w { L with stream := L.stream.drop (124 * w)
                                    codewords := (List.range w).map fun i => codeword (laneStream w i (L.stream.take (124 * w))) L.ctlOut }

/-- The bytes of frames enter the frame stream, which is striped over the active lanes (R149). What an idle link puts into its
codewords is not stated: when no frame goes out, zero bytes fill them up (DESIGN CHOICE, log entry 51). -/
def sendStream (fs : List Frame) (L : Link) : Link :=
  let w := L.width
  let S := L.stream ++ fs.flatMap frameBytes
  let S := if fs = [] ∧ S.length % (124 * w) ≠ 0 then S ++ List.replicate (124 * w - S.length % (124 * w)) 0 else S
  fillCodewords (S.length / 124 + 1) w { L with stream := S }

/-- The next frame to arrive has a byte in an uncorrectable codeword, so that its check fails (R150, R155). -/
def nextSpoilt (L : Link) : Bool :=
  (List.range 32).any fun i => decide (((L.rxBytes + i) % L.width, (L.rxBytes + i) / (124 * L.width)) ∈ L.badWords)

/-- A frame has arrived: 32 bytes of the frame stream are behind the receiver. -/
def passFrame (L : Link) : Link :=
  { L with rxBytes := L.rxBytes + 32, badWords := L.badWords.filter fun x => decide (L.rxBytes + 32 < 124 * L.width * (x.2 + 1)) }

/-- A codeword of a lane has arrived: its number on the lane, which is not one whose frames have all arrived. -/
def rxNumber (lane : Nat) (L : Link) : Nat := max (look 0 L.rxWords lane) (L.rxBytes / (124 * L.width))

/-- A codeword of a lane is counted; the number of an uncorrectable one is kept (R150). -/
def countCodeword (lane : Nat) (bad : Bool) (L : Link) : Link :=
  let k := rxNumber lane L
  { L with rxWords := put 0 L.rxWords lane (k + 1), badWords := if bad then L.badWords ++ [(lane, k)] else L.badWords }

/-- The lanes have been trained: codewords begin anew (R149, R160). -/
def freshLanes (L : Link) : Link := { L with stream := [], codewords := [], rxBytes := 0, rxWords := [], badWords := [] }

/-- The next frame to send again, with the frames after it (R157). -/
def nextReplay (L : Link) : Option Frame :=
  match L.replayFrom with
  | none => none
  | some r => ((unacked L).find? fun h => !seqBefore h.frame.seq r).map (·.frame)

/-- Returned credits confirm a channel's DATA frames, oldest first (R156, R164). -/
def confirmFrames (chan : Nat) : Nat → List HeldFrame → List HeldFrame
  | _, [] => []
  | n, h :: r =>
    if h.frame.typ = 1 ∧ h.frame.chan.toNat = chan ∧ 0 < h.unconf then
      { h with unconf := h.unconf - min n h.unconf } :: confirmFrames chan (n - min n h.unconf) r
    else h :: confirmFrames chan n r

/-! ## Entering ACTIVE (R156, R164, R169) -/

/-- The initial grants of the valid channels, in entries of at most 1,023 words (R164). -/
def initialGrants (L : Link) : List (Nat × Nat) :=
  (List.range 64).flatMap fun n =>
    let c := look 0 L.chan n
    let r := fld c 9 11
    if bit c 8 then (if r ≤ 1023 then [(n, r)] else [(n, 1023), (n, r - 1023)]) else []

/-- The link enters ACTIVE from OPEN_WAIT: counting restarts, grants and a REPEAT CYCLE frame are due (R156, R164, R169).
LINK_SEQ.TX_ACK reads 0xFFF, the number before the first frame, until the peer acknowledges one (DESIGN CHOICE, log entry
55). -/
def enterActive (L : Link) (now : Nat) (repeatFrame : Frame) (inRow9 : Bool) : Link :=
  { L with
    state := .active
    txNext := 0, txAck := 4095#12, rxNext := 0
    replay := [], replayFrom := none, recoverTo := none
    cred := [], granted := [], owed := [], owedAt := none, dueCredit := false
    dueInit := initialGrants L
    dueCycle := [repeatFrame], dueClosing := none, dueReturn := [], dueOpen := []
    txWords := []
    inbuf := L.inbuf.map fun w => { w with old := true }
    nakDue := false, nakSent := false, ctlOut := 0x0FFF#16
    openIn := false, openOut := false, openAt := none
    closeBoth := false, discarded := []
    closeSent := none, closeTaken := false, closeMine := false, returnsMade := false
    rxCycle := none
    joinLate := inRow9
    thenReplay := false
    lastRx := now, ackAt := now }

/-! ## Closing (R175, R176) -/

/-- The far end of a short link is an enabled Plain (R15, R17). -/
def farEnabled (plainsEn : BitVec 8) (p l : Fin 8) : Bool :=
  match l.val with
  | 6 => plainsEn.getLsbD ((p.val + 1) % 8)
  | 7 => plainsEn.getLsbD ((p.val + 7) % 8)
  | _ => true

/-- The endpoint at the far end of a short link: link 6 of PLn meets link 7 of PL(n+1) (R15); none for an off-package link. -/
def shortPeer (p l : Fin 8) : Option (Fin 8 × Fin 8) :=
  match l.val with
  | 6 => some (p + 1, 7)
  | 7 => some (p - 1, 6)
  | _ => none

/-- Register values of a link that a Plain reset returns to OFF (R179); frames and the codeword already on the wire stay there, and
the inbound buffer is emptied with the queues. -/
def linkOff (L : Link) : Link := { wire := L.wire, ctlOut := L.ctlOut }

/-- A closed link at QUARANTINE entry: LINK_STAT, LINK_SEQ, LINK_RXSEQ and the frames that LINK_RET and REPLAY_k show are kept, the
other registers are reset (18 R369, R371, 19 R389). -/
def linkQuarantined (L : Link) : Link :=
  { wire := L.wire, ctlOut := L.ctlOut, state := L.state, width := L.width, refuse := L.refuse, closeReason := L.closeReason,
    closePeer := L.closePeer, flags := L.flags, txNext := L.txNext, txAck := L.txAck, rxNext := L.rxNext, replay := L.replay }

/-- Words taken from q6 and not yet in a frame are discarded and counted (R165). -/
def dropTaken (L : Link) : Link :=
  if L.txWords = [] then L
  else linkFlag { L with txDisc := satAdd L.txDisc L.txWords.length, txWords := [] } 4

/-- No returned or unconfirmed frame is held, so that the link can open again (R176). -/
def released (L : Link) : Bool := L.replay.all fun h => decide (h.mark = .held)

/-- The link becomes CLOSED; one that closes for a restore reopens in OPEN_WAIT once no returned or unconfirmed frame is held
(R167, R176, R194). One that closes for a Plain reset or VALLEY goes to OFF with the other links of its Plain, when all of them
have closed (18 R372, R378). -/
def linkClosed (L : Link) : Link :=
  { dropTaken L with
    state := if L.thenReplay && !L.thenOff && released L then .openWait else .closed
    dueClosing := none, dueCycle := [], dueReturn := [], dueInit := [], dueCredit := false, dueOpen := []
    replayFrom := none, recoverTo := none, closeSent := none, closePend := none
    openIn := false, openOut := false, openAt := none }

/-- Frames that are unacknowledged become unconfirmed (R161, R176). Acknowledged frames that wait for confirmation leave: the
rule speaks only of frames left unacknowledged (DESIGN CHOICE, log entry 55). -/
def markUnconfirmed (L : Link) : Link :=
  { L with replay := (L.replay.filter fun h => !(h.acked && decide (h.mark = .held))).map fun h =>
      if h.mark = .held then { h with mark := .unconfirmed } else h }

/-- The codeword sent last acknowledges every frame that this end has taken (R150). -/
def ackSent (L : Link) : Bool := L.ctlOut.setWidth 12 == L.rxNext - 1

/-- The close sequence can end at this end (R175 steps 4 and 5): both CLOSINGs taken and sent, nothing unacknowledged in either
direction, the end that closes has made its returns, and the other end has every DATA frame confirmed or returned. When both
ends started the close, each does both (R176). -/
def closeDone (L : Link) : Bool :=
  decide (L.state = .drain) && L.closeTaken && (unacked L).isEmpty && L.dueReturn.isEmpty && L.dueClosing.isNone && ackSent L &&
  (!L.closeMine || L.returnsMade) && ((L.closeMine && !L.closeBoth) || L.replay.all fun h => decide (h.mark ≠ .held))

/-- Ends the close sequence when it can end (R175). -/
def tryClosed (L : Link) : Link :=
  if closeDone L then linkClosed { L with replay := L.replay.filter fun h => decide (h.mark ≠ .held) } else L

/-- A close with its reason (R175): at once in TRAIN and OPEN_WAIT, after a retrain in RETRAIN, by the sequence in
ACTIVE, and not at all in OFF, DRAIN and CLOSED. -/
def startClose (reason : BitVec 3) (thenOff : Bool) (L : Link) : Link :=
  match L.state with
  | .train | .openWait => linkClosed { L with closeReason := reason, closePeer := false, thenOff := thenOff }
  | .retrain => if L.closeSent.isNone then { L with closePend := some reason, thenOff := L.thenOff || thenOff } else { L with thenOff := L.thenOff || thenOff }
  | .active =>
    if L.dueClosing.isSome then { L with thenOff := L.thenOff || thenOff }
    else { L with dueClosing := some (reason, false), closeMine := true, closeReason := reason, closePeer := false, closeTaken := false,
                  closeBoth := false, returnsMade := false, thenOff := thenOff }
  | .drain => { L with thenOff := L.thenOff || thenOff }
  | .closed => { L with thenOff := L.thenOff || thenOff, thenReplay := L.thenReplay && !thenOff }
  | .off => L

/-- The link still takes part in a close that a reset or VALLEY waits for (R372, R378). -/
def closingLink (L : Link) : Bool :=
  decide (L.state = .drain) || L.dueClosing.isSome || L.closePend.isSome || L.closeSent.isSome

/-- Closes every link of a Plain with a reason (R175). -/
def closeLinks (P : Plain) (reason : BitVec 3) (thenOff : Bool) : Plain := allLinks P fun _ => startClose reason thenOff

/-- The limit of a retraining attempt in ns: 20 µs off-package, 2 µs on a short link (R160). -/
def retrainLimit (l : Fin 8) : Nat := if l.val < 6 then 20000 else 2000

/-- The link enters RETRAIN on `working` lanes, which is a fault recovery from its start (R160). -/
def startRetrain (now working : Nat) (L : Link) : Link :=
  { L with state := .retrain, retrainCnt := satInc L.retrainCnt, attempts := 0, working := working, replayFrom := none,
           retrainAt := now, retest := false, recovered := true, ueLog := [] }

/-- A retrain fails into CLOSED with reason FAILED (R161); a restore does not reopen such a link. -/
def linkFailed (L : Link) : Link :=
  let L := markUnconfirmed { L with closeReason := 5, closePeer := false, thenReplay := false }
  linkClosed { L with attempts := 0 }

end Sys2Proof.Machine
end

