-- ==== Sys2Proof/Machine/Control.lean ====
section
/-! DEFINITION. Plain control: HOLD entry and abandoned cycles (01 R21, 19 R387), what resets, QUARANTINE and VALLEY do to a
Plain's state (18 R369-R371, R378), fault windows (19 R384-R388), and the posting of completions that these need
(13 R266-R268, R278-R280). -/

namespace Sys2Proof.Machine

/-- Unlisted bytes of SPAD and NVS read zero (R322, R326). -/
abbrev zeroByte : Nat → Byte := fun _ => 0

/-! ## Completions and JOB outcomes (13) -/

/-- Descriptor bytes of sequence `q` in the acceptance buffer, as a number (R282). -/
def descOf (R : Ring) (q : Word) : Nat := (look 0 R.buf (q.toNat % 32)).toNat

/-- The header of descriptor `q` as its completion takes it: one that a reset has taken out of the buffer is still completed by an FW_POST of
the same HIU step (R289) (in part DEDUCED, log entry 29). -/
def headOf (R : Ring) (q : Word) : Nat :=
  match find R.gone (q.toNat % 32) with
  | some d => d.toNat
  | none => descOf R q

/-- Bytes `lo + n - 1 : lo` of a descriptor. -/
def descField (d lo n : Nat) : Nat := fldN d (8 * lo) (8 * n)

/-- `a` precedes `b` within a half window (R262). -/
def seqPrecedes (a b : Word) : Bool := a != b && decide ((b - a).toNat < 2 ^ 31)

/-- The completion of descriptor CMP + 1 of ring `r` (R267). -/
def completionOf (P : Plain) (r : Fin 4) (status : Byte) (result : DWord) : Completion :=
  let R := P.hiu.rings[r]
  let q := R.cmp + 1
  let d := headOf R q
  { seq := q, ring := r, status := status, abortSeen := decide (q ∈ R.abortSeen), irq := d.testBit 40,
    tag := BitVec.ofNat 64 (descField d 8 8), cycle := BitVec.ofNat 48 P.run.cycle, result := result }

/-- A completion of its ring's next descriptor is posted: CMP advances and the completion waits to be written (R266, R267). -/
def postRecord (P : Plain) (c : Completion) : Plain :=
  let P := modRing P c.ring fun R => { R with cmp := c.seq, cancelled := R.cancelled.filter (· ≠ c.seq), abortSeen := R.abortSeen.filter (· ≠ c.seq) }
  { P with hiu := { P.hiu with
      cqWait := P.hiu.cqWait ++ [c]
      done := P.hiu.done.filter fun j => !(decide (j.ring = c.ring) && decide (j.seq = c.seq))
      job := match P.hiu.job with
        | some (s, k) => if c.ring = 0 ∧ s = c.seq then none else some (s, k)
        | none => none } }

/-- Completes descriptor CMP + 1 of ring `r`: CMP advances and the completion waits to be written (R266, R267). -/
def postCompletion (P : Plain) (r : Fin 4) (status : Byte) (result : DWord) : Plain := postRecord P (completionOf P r status result)

/-- Records the outcome of a descriptor, with which the firmware posts it (R266, R268) (in part DEDUCED, log entry 28). -/
def outcome (P : Plain) (r : Fin 4) (seq : Word) (status : Nat) (result : Nat) : Plain :=
  { P with hiu := { P.hiu with done := P.hiu.done ++ [{ ring := r, seq := seq, status := BitVec.ofNat 8 status, result := BitVec.ofNat 64 result }] } }

/-- Ends the started JOB descriptor with an outcome (R269). -/
def finishJob (P : Plain) (status result : Nat) : Plain :=
  match P.hiu.job with
  | none => P
  | some (seq, _) => outcome { P with hiu := { P.hiu with job := none } } 0 seq status result

/-- Ends the started JOB descriptor when it is of kind `k`. -/
def finishJobOf (k : JobKind) (P : Plain) (status result : Nat) : Plain :=
  match P.hiu.job with
  | some (_, k') => if k' = k then finishJob P status result else P
  | none => P

/-! ## HOLD (01 R21, 08 R173, 13 R269) -/

/-- The started JOB descriptor is of kind `k` and an abort has named it (R270). -/
def jobAborted (k : JobKind) (P : Plain) : Bool :=
  match P.hiu.job with
  | some (q, k') => decide (k' = k) && decide (q ∈ P.hiu.rings[(0 : Fin 4)].abortSeen)
  | none => false

/-- What entering HOLD does to the JOB in progress: HOLD completes, STEP completes when its cycles are done, a MODE that
waited for row 8 completes NOT_PERMITTED (VALLEY follows, R381), and an aborted STEP or REPLAY completes ABORTED (R269, R270, R368). -/
def holdJobs (P : Plain) : Plain :=
  let P := finishJobOf .hold P 0 P.run.cycle
  let P := if jobAborted .step P || jobAborted .replay P then finishJob P 0x11 0 else P
  let P := if P.run.stepsLeft = some 0 then { finishJobOf .step P 0 P.run.cycle with run := { P.run with stepsLeft := none } } else P
  if P.run.modePend.isSome ∧ P.run.modePend ≠ some .valley then { finishJobOf .mode P 0x0C 0 with run := { P.run with modePend := none } } else P

/-- Enters HOLD: the Plain stops, a pending hold command is satisfied and every hold target is cleared (R21, R173). A hold
that row 6 or an uncorrectable Basin word has made due at the next boundary stays due. -/
def enterHold (P : Plain) : Plain :=
  let P := holdJobs P
  let P := setMode P .hold
  { P with
    run := { P.run with phase := .stopped, holdCmd := false, stepsLeft := none, modePend := if P.run.modePend = some .valley then some .valley else none,
                        heldAt := if P.run.cycle = 0 then none else some (P.run.cycle - 1) }
    cap := { P.cap with rplActive := false }
    sync := { P.sync with target := none } }

/-- Adds the stall that is in progress to the cycle's stall total (R124). -/
def closeStall (S : Stall) (now : Nat) : Stall :=
  match S.since with
  | some t => { S with acc := S.acc + (now - t), since := none }
  | none => S

/-- Stores the stall total in QS_STALL_LAST and updates QS_STALL_MAX (R124, R126). -/
def storeStall (S : Stall) : Stall :=
  let last := w32 (min S.acc (2 ^ 32 - 1))
  { S with last := last, max := if S.freeze then S.max else if S.max < last then last else S.max }

/-! ## The certificate (10 R209, R210, R212) -/

/-- CERT_NS (10 R210). -/
def certOf (tstep len w : Nat) (checked : Bool) : Word := w32 (ceilDiv ((len + 24) * tstep * (if checked then 4 else 1)) 1000 + w)

/-- PACE_PERIOD (10 R212). -/
def periodOf (stepPs len w : Nat) : Word := w32 (ceilDiv ((len + 24) * stepPs) 1000 + w)

/-- CERT_NS and PACE_PERIOD of the configuration in force. -/
def recompute (tstep : Nat) (P : Plain) : Plain :=
  { P with ldr := { P.ldr with certNs := if P.run.admitted then certOf tstep P.ldr.len P.ldr.waitNs (decide (P.run.mode = .checked)) else P.ldr.certNs
                               period := if P.run.admitted then periodOf P.ldr.stepPs P.ldr.len P.ldr.waitNs else P.ldr.period } }

/-! ## Pace of a CYCLE frame (08 R153) -/

/-- PACE_CODE (08 R153). -/
def paceCode (P : Plain) : Nat :=
  match P.run.mode with
  | .bridge => 3
  | .transact => 4
  | .replay => 5
  | .checked => 6
  | _ => if P.ldr.paceEn then (if P.run.late then 2 else 1) else 0

/-- PACED and PACE_CODE of a CYCLE frame (08 R153). -/
def paceFlags (P : Plain) : Nat := b2n P.ldr.paceEn * 4 + paceCode P * 8

/-- Offset of the secure part in SPAD (R323). -/
abbrev secureBase : Nat := 0xF00000

/-! ## What resets do to a Plain (R369-R371) -/

/-- The Manager after a reset of it; LS_CTL, LS_STAT and LS_DIAG are kept by a Manager-only reset, which ends the
unchecked state (R239, R253). -/
def managerReset (keepLs : Bool) (now : Nat) (M : Manager) : Manager :=
  if keepLs then { lsCtl := M.lsCtl, lsStat := setBit M.lsStat 4 false, lsDiag := M.lsDiag, retiredAt := now }
  else { retiredAt := now }

/-- A mailbox whose Manager-held lock a reset releases (R284, R285). -/
def releaseMgrLock (B : Mailbox) : Mailbox :=
  if B.holder = 3 ∨ B.holder = 4 ∨ B.holder = 5 then { B with holder := 0, lockLost := true, lostByMgr := true } else B

/-- A mailbox after a Plain-core reset: registers reset, Manager-held lock released, host-held lock kept (R285). -/
def mailboxReset (B : Mailbox) : Mailbox :=
  let B := releaseMgrLock B
  { holder := B.holder, lockLost := B.lockLost, lostByMgr := B.lostByMgr }

/-- A wipe of the secure part begins: it reads zero, and WIPING is set (R325). -/
def startWipe (M : Store) : Store :=
  { M with spad := M.spad.filter fun c => decide (c.1 < secureBase), stat := setBit M.stat 3 true
           spadUe := M.spadUe.filter fun e => decide (e.1 < secureBase / 8), spadCe := M.spadCe.filter fun e => decide (e.1 < secureBase / 8)
           writeBack := M.writeBack.filter fun w => decide (w < secureBase / 8) }

/-- A tile after a reset; TILE_STAT, TILE_FAULT and TQ_FLAGS are kept at QUARANTINE entry. The schedule store and the
snapshot buffers hold their contents (R371, R389). -/
def tileReset (keepFlags : Bool) (T : Tile) : Tile :=
  let base : Tile := { store := T.store, storeUe := T.storeUe, storeCe := T.storeCe, snapNf := T.snapNf, snapFs := T.snapFs }
  if keepFlags then { base with stat := T.stat, fault := T.fault, tqFlags := T.tqFlags } else base

/-- Basin registers after a Plain reset (R128, R148): data, tags, journal, counters and first-error registers are kept. -/
def basinReset (B : Basin) : Basin :=
  { B with scrubEn := true, rsv := [], areaBase := [], areaSize := [], rgn := [], recv := [] }

/-- SPAD and NVS registers after a Plain reset (R330); SPAD_UE_ADDR is kept at QUARANTINE entry (19 R389). A corrected word that waits
to be written back is forgotten; the error itself stays. -/
def storeReset (quarantine : Bool) (M : Store) : Store :=
  { M with stat := 0, ceCnt := 0, ueCnt := 0, ueAddr := if quarantine then M.ueAddr else 0, conf := [], nvsStat := 0, nvsBusy := 0,
           nvsCeCnt := 0, nvsUeCnt := 0, nvsWr := 0, nvsWrHi := 0, tcaSel := 0, writeBack := [] }

/-- Power, fault and test registers of a Plain after a reset below a warm one: the fault registers and BIST_RES are kept, the
power and observation registers are reset (R371, R372, 19 R393, 20 R401). -/
def healthReset (H : Health) : Health :=
  { H with throttle := 0, envOver := false, envOverCnt := 0, segs := [], absent := [], pwrNow := 0,
           obsEn := 0, obsDenied := false, obsSel := [], obsAt := [] }

/-- The ring state after the acceptance buffer is emptied: what is accepted and not complete waits to be re-read (R278). -/
def ringEmptied (R : Ring) : Ring :=
  { R with buf := [], gone := if R.buf = [] then R.gone else R.buf, reread := if R.acc = R.cmp then none else some (R.cmp + 1) }

/-- The bus matrix after a reset below a warm one: BM_ERR and BM_UNMAP keep their values (R330). -/
def busReset (B : Bus) : Bus := { unmapLo := B.unmapLo, unmapHi := B.unmapHi, errLo := B.errLo, errHi := B.errHi }

/-- Plain-core and tile state after a Plain reset (`quarantine` false) or QUARANTINE entry (R369, R371, R389). -/
def coreReset (quarantine : Bool) (now : Nat) (P : Plain) : Plain :=
  let P := allTiles P fun _ => tileReset quarantine
  { P with
    col := {}
    stall := {}
    run := { mode := P.run.mode, prev := P.run.prev, colDirty := P.run.colDirty, refused := P.run.refused, wakeLock := P.run.wakeLock,
             tamperPend := !quarantine && P.run.tamperPend,
             rstCause := P.run.rstCause, rstCount := P.run.rstCount, bootCnt := P.run.bootCnt, stepCount := P.run.stepCount,
             bootStat := if quarantine then P.run.bootStat else 0x30
             resetAt := if quarantine then P.run.resetAt else now }
    basin := basinReset P.basin
    sync := {}
    cap := {}
    ldr := { pwrRsv := 0x30 }
    mgr := managerReset quarantine now P.mgr
    lock := {}
    hiu := { P.hiu with rings := vall P.hiu.rings fun _ => ringEmptied, mb := vall P.hiu.mb fun _ => mailboxReset,
                        dbStat := 0, dbMgr := 0, dbHost := 0, job := none, done := [], xacts := [] }
    dma := {}
    bus := busReset P.bus
    mem := startWipe (storeReset quarantine P.mem)
    pio := { pads := P.pio.pads }
    links := if quarantine then vall P.links fun _ => linkQuarantined else P.links
    health := healthReset P.health }

/-! ## Fault windows (R384-R388) -/

/-- The Plain waits to be reset or cleared: its tiles, DMA and PIO engines have stopped (R369 step 1, R372 step 1). -/
def clearing (P : Plain) : Bool :=
  match P.run.after with
  | some (.reset _) | some (.quarantine _) => true
  | _ => false

/-- Tiles, DMA and PIO engines stop (R369 step 1, R372 step 1). -/
def stopEngines (P : Plain) : Plain :=
  { P with
    run := { P.run with phase := .stopped }
    dma := { P.dma with ch := vall P.dma.ch fun _ c => { c with running := false, en := false, cur := none }, events := [] }
    pio := { P.pio with eng := vall P.pio.eng fun _ e => { e with running := false } } }

/-- A link of the Plain still takes part in a close. -/
def anyClosing (P : Plain) : Bool := P.links.toList.any closingLink

/-- A function-level reset that is part of the reset queues its event once the Manager's queue has been emptied (13 R287). -/
def flrEvent (due : Bool) (P : Plain) : Plain := if due then event P 0x0130 0 0 else P

/-- Steps 3 and 4 of QUARANTINE entry (R369), once the links have closed: state is cleared, and with `boot` the boot ROM runs
when the secure part has been wiped (in part DEDUCED, log entry 21). -/
def finishQuarantine (s : State) (p : Fin 8) (boot : Bool) : State :=
  modPlain s p fun P =>
    let P := flrEvent P.run.flrPend (setMode (coreReset true s.timeNs P) .quarantine)
    { P with run := { P.run with bootPend := boot } }

/-- The Plain enters QUARANTINE (R369): engines stop at once, the links close with reason QUARANTINE, and the rest follows
when they have closed. In VALLEY and TEST nothing happens (R368) (in part DEDUCED, log entry 21). -/
def enterQuarantine (s : State) (p : Fin 8) (boot : Bool) : State :=
  if s.plains[p].run.mode = .valley ∨ s.plains[p].run.mode = .test then s
  else
    let s := modPlain s p fun P =>
      let P := stopEngines (closeLinks P 2 false)
      { P with run := { P.run with after := some (.quarantine boot) } }
    if anyClosing s.plains[p] then s else finishQuarantine s p boot

/-- A Plain whose domains are off: everything in them is lost; the HIU keeps ring state, fault registers, PLAIN_MODE,
PLAIN_RST_CAUSE and BOOT_CNT (R128, R279, R378, R393). Of the stack's contents R128 says only that they are lost: the written-tags
are all clear then (DESIGN CHOICE), and an unwritten byte reads a free value (in part DEDUCED, log entry 22). -/
def offPlain (P : Plain) : Plain :=
  { run := { mode := .valley, prev := if P.run.mode = .valley then P.run.prev else P.run.mode, refused := P.run.refused, wakeLock := P.run.wakeLock,
             tamperPend := P.run.tamperPend, colDirty := P.run.colDirty, rstCause := P.run.rstCause, rstCount := P.run.rstCount, bootCnt := P.run.bootCnt }
    links := vall P.links fun _ => linkOff
    hiu := { P.hiu with rings := vall P.hiu.rings fun _ => ringEmptied, mb := vall P.hiu.mb fun _ => mailboxReset,
                        dbStat := 0, dbMgr := 0, dbHost := 0, job := none, done := [], xacts := [] }
    bus := busReset P.bus
    mem := { nvs := P.mem.nvs, nvsUe := P.mem.nvsUe, nvsCe := P.mem.nvsCe }
    tiles := vall P.tiles fun _ _ => {}
    health := healthReset P.health }

/-- Columns of Plain `p` that are on, in descending physical order (17 R356). -/
def colsOn (W : Power) (p : Fin 8) : List (Fin 8 × Fin 10) :=
  ((List.finRange 9).reverse.filter fun c => bit (look 0 W.colOn p.val) c.val).map fun c => (p, c.castSucc)

/-- The core domain of Plain `p` where it is on. -/
def coreIsOn (W : Power) (p : Fin 8) : List (Fin 8 × Fin 10) := if bit W.coreOn p.val then [(p, 9)] else []

/-- A domain of the Plain is switching (17 R356). -/
def domainBusy (W : Power) (p : Fin 8) : Bool := (W.switching ++ W.switchOff).any fun x => decide (x.1 = p)

/-- The completion of a JOB MODE VALLEY is written once the last domain is off (18 R378 step 4); what is accepted after it waits to
be re-read (13 R278). -/
def valleyCompletes (s : State) (p : Fin 8) : State :=
  if s.power.switchOff.any fun x => decide (x.1 = p) then s
  else modPlain s p fun P => match P.hiu.valleyDone with
    | none => P
    | some c =>
      let P := postRecord { P with hiu := { P.hiu with valleyDone := none } } c
      modRing P c.ring fun R => { R with reread := if R.acc = R.cmp then none else some (R.cmp + 1) }

/-- The Plain's domains switch off, columns in descending order and then the core, and what the arbiter held for it is released
(R347, R356, R378); what they hold is lost at once (in part DEDUCED, log entry 22). -/
def powerOff (s : State) (p : Fin 8) : State :=
  let s := modPlain s p offPlain
  let W := s.power
  valleyCompletes { s with power := { W with
      req := put 0 W.req p.val 0, grant := put 0 W.grant p.val 0
      baseWait := setBit W.baseWait p.val false
      switching := W.switching.filter fun x => decide (x.1 ≠ p)
      switchOff := W.switchOff.filter (fun x => decide (x.1 ≠ p)) ++ colsOn W p ++ coreIsOn W p } } p

/-- A hardware-led window closes (R386): on entry to VALLEY for a rail fault. -/
def closeIn (s : State) (p : Fin 8) : State := modPlain s p fun P => closeWindow P s.timeNs

/-- The fault is detected in the step that opened the window, and its lower code opens the window instead (R392)
(in part DEDUCED, log entry 37). -/
def opensInstead (now : Nat) (h : Health) (code : Nat) : Bool :=
  decide (h.openedAt = now) && decide (code < h.code.toNat) && decide (h.code ≠ 0x0C)

/-- The second fault of a window (R388, R392): CODE 0x0C, with the codes of the window and of the second fault. -/
def secondFault (now code unit : Nat) (h : Health) : Health :=
  let h := { h with fltCount := satInc h.fltCount }
  if opensInstead now h code then
    { h with first := BitVec.ofNat 8 code, second := h.code, code := 0x0C, fltWhere := w32 (fld h.fltWhere 0 13 + unit % 64 * 2 ^ 16) }
  else { h with first := h.code, second := BitVec.ofNat 8 code, code := 0x0C }

/-- The second fault of a window (R388): QUARANTINE, or VALLEY with WAKE_LOCK when it is a rail fault, also one that takes the
window of its step's other fault (R392) (in part DEDUCED, log entry 37). -/
def doubleFault (s : State) (p : Fin 8) (code unit : Nat) : State :=
  let s := modPlain s p fun P => { P with health := secondFault s.timeNs code unit P.health }
  if code = 0x0A then modPlain (powerOff s p) p fun P => { P with run := { P.run with wakeLock := true } }
  else enterQuarantine s p true

/-- The fault belongs to the window that is open (R384, R388, R392): uncorrectable words that the boot ROM reads while the
recovery boots are the recovery's own (in part DEDUCED, log entry 37). -/
def belongs (P : Plain) (code unit : Nat) : Bool :=
  (sameWindow P.health.code.toNat code P.run.mode && (code != 0x05 || fld P.health.fltWhere 16 6 == unit)) ||
  ((code == 0x03 || code == 0x04) && !P.mgr.running && (decide (P.run.mode = .boot) || decide (P.run.mode = .quarantine)))

/-- A recovering fault is detected (R384-R388): it opens a window and `recovery` follows, or it belongs to the window that
is open, or it is the second fault of that window. -/
def raiseFault (s : State) (p : Fin 8) (code unit : Nat) (recovery : State → State) : State :=
  let P := s.plains[p]
  if P.health.winOpen then
    if belongs P code unit then recovery s
    else doubleFault s p code unit
  else recovery (modPlain s p fun P => let P := openWindow P s.timeNs code unit; { P with run := { P.run with recovered := true } })

/-- The words are reported anew in the window that they opened: a word that is read again before it is rewritten is the window's own
fault (R384) (in part DEDUCED, log entry 37). -/
def reportedAgain (h : Health) (code : Nat) (ws : List Nat) : Bool :=
  h.winOpen && decide (h.code.toNat = code) && ws.all fun w => decide (w ∈ h.ueSeen)

/-- The uncorrectable words or lines `ws` that one access has met are one fault of code 0x02, 0x03 or 0x04 (R383, R386)
(in part DEDUCED, log entry 37). -/
def raiseUe (s : State) (p : Fin 8) (code unit : Nat) (ws : List Nat) (recovery : State → State) : State :=
  if ws = [] then s
  else if reportedAgain s.plains[p].health code ws then recovery s
  else
    modPlain (raiseFault s p code unit recovery) p fun P =>
      if P.health.winOpen && decide (P.health.code.toNat = code) then { P with health := { P.health with ueSeen := P.health.ueSeen ++ ws } } else P

/-! ## Abandoned cycles (R387) -/

/-- A repeated CYCLE frame carries the code of the Plain's mode where the mode has one, also when the mode has been entered since (08 R153,
16 R340, 13 R274); in HOLD it carries that of the frame it repeats. -/
def withMode (P : Plain) (f : Frame) : Frame :=
  if P.run.mode = .bridge ∨ P.run.mode = .transact ∨ P.run.mode = .replay ∨ P.run.mode = .checked then
    { f with flags := (f.flags &&& 0b1000111) ||| BitVec.ofNat 7 (paceCode P * 8) }
  else f

/-- The last CYCLE frame, or the frame that stands for it before the first row 5 (R169). -/
def latestCycle (P : Plain) : Frame :=
  match P.sync.lastCycle with
  | some f => withMode P f
  | none => mkFrame 2 6 (paceFlags P) (cyclePayload P.run.cycle P.sync.cur.epoch P.sync.cur.tag 0)

/-- A frame with HOLDREQ and a target (R169, R173). -/
def withTarget (f : Frame) (t : Nat) : Frame :=
  { f with flags := f.flags ||| 1, payload := BitVec.ofNat 192 (f.payload.toNat % 2 ^ 144 + t % 2 ^ 48 * 2 ^ 144) }

/-- The Plain abandons its cycle (R387): it stops in HOLD with INCOMPLETE set, without boundary actions, and its CYCLE
frame asks the peers to hold at the next boundary. A hold that was due at the boundary is satisfied (R392). A step that
back-pressure held never joins, so its words stay in q6 (R165). -/
def abandonCycle (tstep : Nat) (P : Plain) (now : Nat) : Plain :=
  let c := P.run.cycle
  let P := { P with run := { P.run with stepCount := if P.run.phase = .backPressure then P.run.stepCount - 1 else P.run.stepCount } }
  let f := withTarget (latestCycle P) (c + 1)
  let P := { P with stall := storeStall (closeStall P.stall now), sync := { P.sync with lastCycle := some f } }
  let P := enterHold P
  recompute tstep { P with health := { P.health with incomplete := true }
                           run := { P.run with heldAt := if c = 0 then none else some (c - 1), holdNext := false, holdAsks := false } }

end Sys2Proof.Machine
end

