-- ==== Sys2Proof/Machine/Store.lean ====
section
/-! DEFINITION. SPAD (15 R318-R325) and NVS (R326, R327) as every master reaches them, and the record of an error response
(R310). -/

namespace Sys2Proof.Machine

/-! ## Error responses (R310) -/

/-- Records an error response: BM_STAT.ERR, and BM_ERR while its VALID is clear (R310). -/
def noteBusError (P : Plain) (master addr kind : Nat) : Plain :=
  let B := { P.bus with stat := setBit P.bus.stat 1 true }
  { P with bus := if bit B.errHi 31 then B
      else { B with errLo := w32 addr, errHi := w32 (addr / 2 ^ 32 % 256 + master % 8 * 2 ^ 8 + kind % 16 * 2 ^ 11 + 2 ^ 31) } }

/-- Records the error response of an uncorrectable word (R310 KIND 5). -/
def tagRead (p : Fin 8) (master a : Nat) (r : State × Option (List Byte)) : State × Option (List Byte) :=
  match r.2 with
  | some _ => r
  | none => (modPlain r.1 p fun P => noteBusError P master a 5, none)

/-- See `tagRead`. -/
def tagWrite (p : Fin 8) (master a : Nat) (r : State × Bool) : State × Bool :=
  if r.2 then r else (modPlain r.1 p fun P => noteBusError P master a 5, false)

/-! ## SPAD (R318-R325) -/

/-- Plain internal address of a SPAD offset (R318). -/
abbrev spadAt (off : Nat) : Nat := 0x10000000 + off

/-- A range meets the secure part. -/
def meetsSecure (off n : Nat) : Bool := decide (secureBase < off + n)

/-- An access to the secure part is denied: SEC_DENY, but while a wipe runs (R323, R329). -/
def denySecure (P : Plain) : Plain := if bit P.mem.stat 3 then P else { P with mem := { P.mem with stat := setBit P.mem.stat 2 true } }

/-- An uncorrectable SPAD word is counted, with SPAD_UE_ADDR and an event (R320). -/
def countSpadUe (master w : Nat) (P : Plain) : Plain :=
  let M := { P.mem with ueCnt := satInc P.mem.ueCnt, stat := setBit P.mem.stat 1 true }
  let M := if bit M.ueAddr 31 then M else { M with ueAddr := w32 (8 * w % 2 ^ 24 + master % 8 * 2 ^ 24 + 2 ^ 31) }
  event { P with mem := M } 0x0210 0 M.ueAddr.toNat

/-- The uncorrectable SPAD words that one access has met are reported, with one fault 0x03 (R320, 19 R386). -/
def reportSpadUes (s : State) (p : Fin 8) (master : Nat) (ws : List Nat) : State :=
  raiseUe (ws.foldl (fun s w => modPlain s p (countSpadUe master w)) s) p 0x03 master ws fun s => s

/-- SPAD words of a range that are uncorrectable. -/
def spadBad (M : Store) (off n : Nat) : List Nat := (wordsOf off n).filter (look false M.spadUe ·)

/-- SPAD words of a range that the bank corrects (R320). -/
def spadFixed (M : Store) (off n : Nat) : List Nat := (wordsOf off n).filter fun w => look false M.spadCe w && !look false M.spadUe w

/-- Corrected words are counted and wait to be written back (R320). -/
def noteSpadCe (ws : List Nat) (M : Store) : Store :=
  if ws = [] then M
  else { M with ceCnt := satAdd M.ceCnt ws.length, stat := setBit M.stat 0 true,
                writeBack := M.writeBack ++ ws.filter fun w => w ∉ M.writeBack }

/-- A read of SPAD by a master: the bytes, or an error response (R320). -/
def spadRead (s : State) (p : Fin 8) (master off n : Nat) : State × Option (List Byte) :=
  let M := s.plains[p].mem
  let s := modPlain s p fun P => { P with mem := noteSpadCe (spadFixed M off n) P.mem }
  (reportSpadUes s p master (spadBad M off n),
   if spadBad M off n = [] then some (readBytes zeroByte M.spad off n) else none)

/-- A write of SPAD (R320): whole words clear an error; a partial write of an uncorrectable word is refused, and one of a
correctable word merges the corrected word, which is counted. -/
def spadWrite (s : State) (p : Fin 8) (master off : Nat) (bs : List Byte) : State × Bool :=
  let n := bs.length
  let M := s.plains[p].mem
  let bad := (spadBad M off n).filter (coversPart 8 off n)
  let good := (wordsOf off n).filter fun w => w ∉ bad
  let s := modPlain s p fun P =>
    let M := noteSpadCe ((spadFixed P.mem off n).filter (coversPart 8 off n)) P.mem
    { P with mem := { M with
        spad := writeBut 8 bad zeroByte M.spad off bs
        spadUe := unmark good M.spadUe
        spadCe := unmark good M.spadCe
        writeBack := M.writeBack.filter fun w => w ∉ good } }
  (reportSpadUes s p master bad, bad = [])

/-! ## NVS (R326, R327) -/

/-- Plain internal address of an NVS offset (R309). -/
abbrev nvsAt (off : Nat) : Nat := 0x40000000 + off

/-- An uncorrectable NVS line is counted, with an event (R326). -/
def countNvsUe (line : Nat) (P : Plain) : Plain :=
  event { P with mem := { P.mem with nvsUeCnt := satInc P.mem.nvsUeCnt, nvsStat := setBit P.mem.nvsStat 1 true } } 0x0211 0 (64 * line)

/-- The uncorrectable NVS lines that one access has met are reported, with one fault 0x04 (R326, 19 R386). -/
def reportNvsUes (s : State) (p : Fin 8) (master : Nat) (ls : List Nat) : State :=
  raiseUe (ls.foldl (fun s l => modPlain s p (countNvsUe l)) s) p 0x04 master ls fun s => s

/-- NVS lines of a range that are uncorrectable. -/
def nvsBad (M : Store) (off n : Nat) : List Nat := (linesOf off n).filter (look false M.nvsUe ·)

/-- NVS lines of a range that are corrected as they are read (R326). -/
def nvsFixed (M : Store) (off n : Nat) : List Nat := (linesOf off n).filter fun l => look false M.nvsCe l && !look false M.nvsUe l

/-- Corrected lines are counted (R326). -/
def noteNvsCe (ls : List Nat) (M : Store) : Store :=
  if ls = [] then M else { M with nvsCeCnt := satAdd M.nvsCeCnt ls.length, nvsStat := setBit M.nvsStat 0 true }

/-- Record slots of the fault log that a range meets (12 R249). -/
def logSlots (off n : Nat) : List Nat := (unitsOf 4096 off n).filterMap fun u => if 0x1FF0 ≤ u ∧ u < 0x2000 then some (u - 0x1FF0) else none

/-- The record slots that a read of M1 has read (R327) (in part DEDUCED, log entry 56). -/
def noteLogRead (off n : Nat) (M : Store) : Store :=
  { M with logRead := (logSlots off n).foldl (fun r k => setBit r k true) M.logRead }

/-- A read of NVS (R326). -/
def nvsRead (s : State) (p : Fin 8) (master off n : Nat) : State × Option (List Byte) :=
  let M := s.plains[p].mem
  let bad := nvsBad M off n
  let s := modPlain s p fun P =>
    let M := noteNvsCe (nvsFixed M off n) P.mem
    { P with mem := if master = 1 ∧ bad = [] then noteLogRead off n M else M }
  (reportNvsUes s p master bad, if bad = [] then some (readBytes zeroByte M.nvs off n) else none)

/-- R327 lets the master write the range; `lvl` 2 is machine level. Machine-level firmware may erase, writing zeros, record
slots of the fault log that it has read (in part DEDUCED, log entry 56). -/
def nvsPermits (lc : BitVec 3) (M : Store) (master lvl off n : Nat) (zeros : Bool) : Bool :=
  let stop := off + n
  let erases := decide (0x1FF0000 ≤ off) && zeros && (logSlots off n).all fun k => bit M.logRead k
  (master == 7 && lc == 1) ||
  (master == 1 && lvl == 2 && (decide (stop ≤ 0x1FEF000) || erases)) ||
  ((master == 1 || master == 3) && decide (0x1010000 ≤ off) && decide (stop ≤ 0x1FEF000))

/-- A permitted write of NVS: each line is one line write; a partial write of an uncorrectable line is refused, and one of a
correctable line merges the corrected line, which is counted (R326). -/
def nvsWrite (s : State) (p : Fin 8) (master off : Nat) (bs : List Byte) : State × Bool :=
  let n := bs.length
  let M := s.plains[p].mem
  let bad := (nvsBad M off n).filter (coversPart 64 off n)
  let good := (linesOf off n).filter fun l => l ∉ bad
  let s := modPlain s p fun P =>
    let M := noteNvsCe ((nvsFixed P.mem off n).filter (coversPart 64 off n)) P.mem
    { P with mem := { M with
        nvs := writeBut 64 bad zeroByte M.nvs off bs
        nvsUe := unmark good M.nvsUe
        nvsCe := unmark good M.nvsCe
        nvsWr := M.nvsWr + BitVec.ofNat 64 good.length
        nvsBusy := min 4 (M.nvsBusy + good.length) } }
  (reportNvsUes s p master bad, bad = [])

/-! ## The NVS fault log (12 R249) -/

/-- The bytes of a fault record with sequence number `seq` (R249). -/
def faultRecord (P : Plain) (now kind seq : Nat) : List Byte :=
  let M := P.mgr
  let c (n : Nat) : Nat := (look 0 M.csr n).toNat
  leBytes 4 0x474F4C46 ++ leBytes 4 seq ++ leBytes 2 kind ++ [0, 0] ++ leBytes 4 P.run.bootCnt.toNat ++ leBytes 6 P.run.cycle ++
  leBytes 2 (modeCode P.run.mode) ++ leBytes 8 (now - P.run.resetAt) ++ leBytes 8 M.steps ++
  leBytes 8 (c 0x234 % 2 ^ 48 + c 0x232 % 2 ^ 16 * 2 ^ 48) ++
  leBytes 8 (c 0x211) ++ leBytes 8 (c 0x212) ++ leBytes 8 (c 0x213) ++ leBytes 8 (c 0x221) ++ leBytes 8 (c 0x222) ++ leBytes 8 (c 0x223) ++
  leBytes 8 (c 0x233) ++ (if kind = 2 ∨ kind = 3 then leBytes 4 M.lsStat.toNat else [0, 0, 0, 0]) ++ leBytes 4 M.lsDiag.toNat ++
  leBytes 144 0 ++ (List.range 64).flatMap fun i => leBytes 8 (if i = 0 then 0 else (look 0 M.g i).toNat)

/-- Writes a fault record to slot NEXT_SEQ mod 16, then increments NEXT_SEQ (R249); 65 line writes by the escalation unit's
private path (R308, R326). NEXT_SEQ in an uncorrectable line reads as the all-ones data of an error response, and its line,
written in part, stays as it is (in part DEDUCED, log entry 56). -/
def writeFaultRecord (s : State) (p : Fin 8) (kind : Nat) : State :=
  let r := nvsRead s p 0 0x1FEF000 4
  let seq := leNat (r.2.getD [0xFF, 0xFF, 0xFF, 0xFF])
  let slot := seq % 16
  let s := (nvsWrite r.1 p 0 (0x1FF0000 + 0x1000 * slot) (faultRecord r.1.plains[p] s.timeNs kind seq ++ leBytes 3328 0)).1
  let s := modPlain s p fun P => { P with mem := { P.mem with logRead := setBit P.mem.logRead slot false } }
  (nvsWrite s p 0 0x1FEF000 (leBytes 4 ((seq + 1) % 2 ^ 32))).1

end Sys2Proof.Machine
end

