-- ==== Sys2Proof/Machine/Boot.lean ====
section
/-! DEFINITION. The boot ROM (18 R374-R377), Plain reset (R372), the end of VALLEY entry (R378) and of QUARANTINE entry (R369),
and a Manager-only reset (R374). -/

namespace Sys2Proof.Machine

/-! ## What the boot ROM reads and writes (R376) -/

/-- The boot ROM reads NVS as M1; none where a line is uncorrectable (15 R310, R326). -/
def romRead (s : State) (p : Fin 8) (off n : Nat) : State × Option (List Byte) := tagRead p 1 (nvsAt off) (nvsRead s p 1 off n)

/-- The boot ROM reads SPAD as M1 at machine level; none where a word is uncorrectable (15 R310, R320). -/
def romLoad (s : State) (p : Fin 8) (off n : Nat) : State × Option (List Byte) := tagRead p 1 (spadAt off) (spadRead s p 1 off n)

/-- The boot ROM writes SPAD as M1 at machine level (15 R320). -/
def romStore (s : State) (p : Fin 8) (off : Nat) (bs : List Byte) : State := (tagWrite p 1 (spadAt off) (spadWrite s p 1 off bs)).1

/-- The provisioning record verifies (R376 step 1); in life-cycle state TEST it is not checked (R380). -/
def recordValid (F : Fuses) (rec : List Byte) : Bool :=
  F.lc == 1 ||
  (decide (Config.sha384 (sub rec 0 96) = F.fwKeyHash) &&
   Config.ecdsaVerify (sub rec 0 96) (Config.sha384 (sub rec 0 1280)) (sub rec 1280 96))

/-- A slot image, its header and body, is a candidate (R376 step 2): MAGIC, a LENGTH that a slot holds and, but in life-cycle
state TEST, VERSION and signature. -/
def imageCandidate (F : Fuses) (key img : List Byte) : Bool :=
  let len := num img 12 4
  decide (num img 0 4 = 0x4D574658) && decide (len ≤ 0x7FF000) &&
  (F.lc == 1 ||
    (decide (F.fwMinVer.toNat ≤ num img 4 4) &&
     Config.ecdsaVerify key (Config.sha384 (sub img 0 64 ++ sub img 4096 len)) (sub img 64 96)))

/-- The header of the slot image at NVS offset `slot`, and its body where the header gives a LENGTH that a slot holds; none
where a line is uncorrectable (in part DEDUCED, log entry 21). -/
def readSlot (s : State) (p : Fin 8) (slot : Nat) : State × Option (List Byte) :=
  match romRead s p slot 4096 with
  | (s, none) => (s, none)
  | (s, some hdr) =>
    if num hdr 0 4 ≠ 0x4D574658 ∨ 0x7FF000 < num hdr 12 4 then (s, some hdr)
    else
      let x := romRead s p (slot + 4096) (num hdr 12 4)
      (x.1, x.2.map (hdr ++ ·))

/-- The image that the boot ROM can boot from a slot: one that is read whole and is a candidate. -/
def candidate (F : Fuses) (key : List Byte) (img : Option (List Byte)) : Bool :=
  match img with
  | some i => imageCandidate F key i
  | none => false

/-- VERSION of a slot image; 0 where none is read. -/
def versionOf (img : Option (List Byte)) : Nat := num (img.getD []) 4 4

/-- Unwraps the VALID key slots into the secure part (R376 step 5); answers whether every unwrapping succeeded. -/
def unwrapSlots (rec : List Byte) (p : Fin 8) (s : State) : State × Bool :=
  (List.range 16).foldl (fun (s, ok) k =>
    let raw := sub rec (256 + 64 * k) 61
    if (raw.getD 60 0).getLsbD 0 then
      match Config.unwrapKey (raw.take 60) with
      | some key => (romStore s p (secureBase + 0x40 * k) (key.take 32 ++ [1]), ok)
      | none => (s, false)
    else (s, ok)) (s, true)

/-- CS of machine level: the SPAD copy of the firmware, rights R and X (R376 step 4, R237). -/
def setMachineCs (M : Manager) (len : Nat) : Manager :=
  let limit : DWord := BitVec.ofNat 64 ((len - 1) % 2 ^ 40 + 2 ^ 60 + 2 ^ 62 + 2 ^ 63)
  { M with csr := put 0 (put 0 M.csr 0x140 0x10000000#64) 0x141 limit }

/-- Starts the firmware at ENTRY under the call convention of its header (R374 steps 2-4, R376 steps 4-6) in both cores of the pair (12 R250); the boot ROM's write
of MGR_CFG.CALLMODE is its first since the reset, which locks it (R239). -/
def startFirmware (len entry : Nat) (callMode : Bool) (P : Plain) : Plain :=
  let M := { setMachineCs P.mgr len with callMode := callMode, callLock := true, pc := BitVec.ofNat 64 entry, lvl := 2, running := true }
  { P with mgr := M, lock := { group := P.lock.group, shadow := M } }

/-- BOOT_STAT (R382). -/
def bootStatWord (result slot : Nat) (fallback : Bool) : Word := w32 (result + slot * 16 + b2n fallback * 64)

/-- BOOT_STAT written. -/
def setBootStat (w : Word) (P : Plain) : Plain := { P with run := { P.run with bootStat := w } }

/-- The boot ROM copies the image that it has chosen, fills the secure part and starts the firmware (R376 steps 4-6). -/
def bootImage (F : Fuses) (p : Fin 8) (rec img : List Byte) (useB fallback : Bool) (s : State) : State :=
  let len := num img 12 4
  let entry := num img 16 4
  let ver := num img 4 4
  let callMode := (img.getD 8 0).getLsbD 0
  let body := sub img 4096 len
  let s := romStore s p 0 body
  let r := if F.lc = 2 ∨ F.lc = 3 then unwrapSlots rec p s else (s, true)
  let vstate := leBytes 48 (Config.sha384 body).toNat ++ leBytes 4 ver ++ [BitVec.ofNat 8 (b2n useB), BitVec.ofNat 8 (b2n callMode), 0, 0] ++
    leBytes 4 entry ++ leBytes 4 len ++ [1]
  let s := romStore (romStore r.1 p (secureBase + 0x400) (sub rec 96 96 ++ [1])) p (secureBase + 0x480) vstate
  modPlain s p fun P =>
    let P := setBootStat (bootStatWord (if r.2 then 0 else 3) (b2n useB) fallback) P
    startFirmware len entry callMode { P with run := { P.run with fwVer := w32 ver } }

/-- An entry to QUARANTINE or a Plain reset is due: the boot that met its cause is over. -/
def bootOver (P : Plain) : Bool := P.run.after.isSome || P.run.bootPend

/-- The boot ROM verifies the firmware and starts it (R376). The second component is false when no slot boots; a record or a
slot that it cannot read whole is no valid record and no candidate. An error of its reads can send the Plain to QUARANTINE
or a reset, which ends this boot (in part DEDUCED, log entry 21). -/
def verifyFirmware (s : State) (p : Fin 8) : State × Bool :=
  let F := s.fuses
  if bootOver s.plains[p] then (s, true)
  else match romRead s p 0x1000000 1376 with
  | (s, none) => (modPlain s p (setBootStat (bootStatWord 1 3 false)), false)
  | (s, some rec) =>
    if !recordValid F rec then (modPlain s p (setBootStat (bootStatWord 1 3 false)), false)
    else
      let x := readSlot s p 0
      let y := readSlot x.1 p 0x800000
      let a := candidate F (sub rec 0 96) x.2
      let b := candidate F (sub rec 0 96) y.2
      let va := versionOf x.2
      let vb := versionOf y.2
      if bootOver y.1.plains[p] then (y.1, true)
      else if !a && !b then (modPlain y.1 p (setBootStat (bootStatWord 2 3 false)), false)
      else
        let useB := b && (!a || decide (va < vb))
        let fallback := if useB then decide (vb < va) else !b && decide (va < vb)
        (bootImage F p rec ((if useB then y.2 else x.2).getD []) useB fallback y.1, true)

/-- The verification state of the secure part holds, and the SPAD copy agrees with it (R374 step 1): LENGTH, ENTRY, CALLMODE. -/
def verifiedCopy (s : State) (p : Fin 8) : State × Option (Nat × Nat × Bool) :=
  match romLoad s p (secureBase + 0x480) 65 with
  | (s, none) => (s, none)
  | (s, some v) =>
    if !(v.getD 64 0).getLsbD 0 then (s, none)
    else
      let x := romLoad s p 0 (num v 60 4)
      (x.1, match x.2 with
        | some body => if leBytes 48 (Config.sha384 body).toNat = v.take 48 then some (num v 60 4, num v 56 4, (v.getD 53 0).getLsbD 0) else none
        | none => none)

/-- A Manager-only restart (R374): from the verification state where it is valid and its digest agrees, else by R376. -/
def restartFirmware (s : State) (p : Fin 8) : State × Bool :=
  match verifiedCopy s p with
  | (s, some (len, entry, callMode)) => (modPlain s p (startFirmware len entry callMode), true)
  | (s, none) => verifyFirmware s p

/-! ## BOOT (R369, R372-R377) -/

/-- No slot boots: fault 0x0E (R376, 19 R386). In BOOT it leads to QUARANTINE. In QUARANTINE, where the boot ROM then serves MB0, the
Plain stays as it is: the failure opens a window, or is the second fault of the window that is open, and a window of code 0x0C or
0x0E, whose own recovery this boot is, takes it in (R384, R388) (in part DEDUCED, log entry 37). -/
def bootFailed (s : State) (p : Fin 8) : State :=
  let P := s.plains[p]
  if P.run.mode ≠ .quarantine then raiseFault s p 0x0E 0 fun s => enterQuarantine s p false
  else if !P.health.winOpen then raiseFault s p 0x0E 0 fun s => s
  else if P.health.code = 0x0C ∨ P.health.code = 0x0E then s
  else modPlain s p fun P => { P with health := secondFault s.timeNs 0x0E 0 P.health }

/-- What follows the boot ROM's run: nothing where the firmware runs or the boot is over; else fault 0x0E (R376, R377). -/
def afterBootRom (p : Fin 8) (r : State × Bool) : State :=
  if r.2 || bootOver r.1.plains[p] then r.1 else bootFailed r.1 p

/-- The boot ROM runs after a wipe has ended, or at once where none runs (R369, R374-R377). A tamper detected in
DEPLOYED while the Plain was in VALLEY leads to QUARANTINE (R381) (in part DEDUCED, log entry 21). -/
def runBootRom (s : State) (p : Fin 8) : State :=
  let P := s.plains[p]
  if bit P.mem.stat 3 then modPlain s p fun P => { P with run := { P.run with bootPend := true } }
  else
    let s := modPlain s p fun P => { P with run := { P.run with bootPend := false } }
    if s.fuses.lc = 0 then modPlain s p (setBootStat (bootStatWord 4 3 false))
    else if P.run.mode = .boot ∧ P.run.tamperPend then raiseFault s p 0x0D 0 fun s => enterQuarantine s p true
    else afterBootRom p (verifyFirmware s p)

/-- The Plain enters BOOT (R372 step 4, R375 row 5). In DECOMMISSIONED it stays in VALLEY (R380) (in part DEDUCED, log entry 22). -/
def enterBoot (s : State) (p : Fin 8) : State :=
  if s.fuses.lc = 5 then s
  else runBootRom (modPlain s p fun P => { setMode P .boot with
    run := { (setMode P .boot).run with bootCnt := satInc P.run.bootCnt, after := none }
    ldr := { P.ldr with pwrRsv := 0x30 } }) p

/-! ## Plain reset (R372) -/

/-- Steps 3 to 5 of a Plain reset (R372): links that are still up go to OFF with the rest (in part DEDUCED, log entry 21). The
HOST_FLR event of a function-level reset is queued once the Manager's queue has been emptied (13 R287). -/
def finishReset (s : State) (p : Fin 8) : State :=
  enterBoot (modPlain s p fun P => flrEvent P.run.flrPend (coreReset false s.timeNs { P with links := vall P.links fun _ => linkOff })) p

/-- A Plain reset waits for its links to close (R372 step 2) (in part DEDUCED, log entry 19). -/
def resetting (P : Plain) : Bool :=
  match P.run.after with
  | some (.reset _) => true
  | _ => false

/-- The cause that PLAIN_RST_CAUSE records: one that comes while a Plain reset is under way joins it, and of them LOCKSTEP is
recorded, as it is for a reset that comes while a lockstep failure's QUARANTINE waits for the links (R381; for other pairs
DEDUCED, log entry 19). -/
def resetCause (P : Plain) (cause : Nat) : BitVec 4 :=
  match P.run.after with
  | some (.reset c) => if cause = 6 then 6 else c
  | some (.quarantine _) => if P.health.winOpen && (P.health.code == 6 || P.health.code == 7) then 6 else BitVec.ofNat 4 cause
  | _ => BitVec.ofNat 4 cause

/-- A Plain reset with a cause code (R372): engines stop, PLAIN_RST_CAUSE is written, the links close with reason
PLAIN_RESET, and the rest follows when they have closed (in part DEDUCED, log entries 19 and 21). -/
def plainReset (s : State) (p : Fin 8) (cause : Nat) : State :=
  let c := resetCause s.plains[p] cause
  let s := modPlain s p fun P =>
    let P := stopEngines (closeLinks P 3 true)
    { P with
      run := { P.run with rstCause := c, after := some (.reset c)
                          rstCount := if resetting P ∨ P.run.rstCount = 0xFFFF#16 then P.run.rstCount else P.run.rstCount + 1 } }
  if anyClosing s.plains[p] then s else finishReset s p

/-! ## VALLEY (R378) -/

/-- Steps 2 to 4 of VALLEY entry (R378): the domains switch off, the reservation is released, and when the last domain is off the
JOB completes (in part DEDUCED, log entry 21). -/
def finishValley (s : State) (p : Fin 8) : State :=
  powerOff (modPlain s p fun P => match P.hiu.job with
    | some _ => { P with hiu := { P.hiu with valleyDone := some (completionOf P 0 0 0) } }
    | none => P) p

/-- JOB MODE VALLEY (R378): the links close with reason VALLEY, then the domains switch off (in part DEDUCED, log entry 21). -/
def startValley (s : State) (p : Fin 8) : State :=
  let s := modPlain s p fun P => { closeLinks P 1 true with run := { P.run with after := some .valley } }
  if anyClosing s.plains[p] then s else finishValley s p

/-- What waits for the links to close goes on when none closes any longer (R369, R372, R378); a restore goes on in
`linksClosed` (in part DEDUCED, log entry 21). -/
def afterClose (s : State) (p : Fin 8) : State :=
  let P := s.plains[p]
  if anyClosing P then s
  else match P.run.after with
    | some (.reset _) => finishReset s p
    | some (.quarantine boot) => finishQuarantine s p boot
    | some .valley => finishValley s p
    | _ => s

/-- A JOB MODE VALLEY that waited for a distributed hold follows HOLD (18 R381) (in part DEDUCED, log entry 36). -/
def valleyFollows (s : State) (p : Fin 8) : State :=
  let P := s.plains[p]
  if P.run.mode = .hold ∧ P.run.modePend = some .valley then startValley (modPlain s p fun P => { P with run := { P.run with modePend := none } }) p else s

/-! ## Manager-only reset (R374) -/

/-- The bus matrix after a reset of the Manager: what M0 and M1 have outstanding is abandoned (15 R316). -/
def dropManager (B : Bus) : Bus :=
  { B with hung := B.hung.filter (1 < ·), queue := B.queue.filter fun e => decide (1 < e.req.master.val) }

/-- The Manager is reset, Manager-held locks are released, and an access that hangs is abandoned (15 R316, 13 R284). -/
def resetManager (now : Nat) (P : Plain) : Plain :=
  { P with mgr := managerReset true now P.mgr, lock := { group := P.lock.group }, bus := dropManager P.bus
           hiu := { P.hiu with mb := vall P.hiu.mb fun _ => releaseMgrLock } }

/-- A Manager-only reset (R374): the boot ROM restarts the firmware. While the secure part is being wiped it waits, since every
access to that part is denied (15 R325) (in part DEDUCED, log entry 21). -/
def managerOnlyReset (s : State) (p : Fin 8) : State :=
  let s := modPlain s p (resetManager s.timeNs)
  if bit s.plains[p].mem.stat 3 ∨ s.fuses.lc = 0 then runBootRom s p else afterBootRom p (restartFirmware s p)

/-! ## Windows that close at HOLD after BOOT (19 R386, R388) -/

/-- Every ring's re-read is done (R278, R386). -/
def rereadClear (P : Plain) : Bool := P.hiu.rings.toList.all fun R => R.reread.isNone || !R.en

/-- A window that closes at HOLD after BOOT closes: for 0x0C, 0x0D and 0x0E at once, for the other hardware-led ones with
REREAD clear on every ring (R386, R388) (in part DEDUCED, log entry 37). -/
def closeAfterBoot (P : Plain) (now : Nat) : Plain :=
  let code := P.health.code.toNat
  let atHold : Bool := code == 0x0C || code == 0x0D || code == 0x0E
  if P.health.winOpen && decide (P.run.mode = .hold) && (atHold || (hardwareLed code && rereadClear P)) then closeWindow P now
  else P

end Sys2Proof.Machine
end

