-- ==== Sys2Proof/Machine/Tile.lean ====
section
/-! DEFINITION. One step of one tile: moves, guards, ports, delivery and the units (03 R46-R71, 04 R73-R97), with the
tile sides of the decoupling queues (06 R113-R119). -/

namespace Sys2Proof.Machine

/-! ## The step word (R64-R67) -/

/-- Bits `lo + n - 1 : lo` of a step word, as a number. -/
def swField (sw : StepWord) (lo n : Nat) : Nat := (sw.extractLsb' lo n).toNat

/-- Move slot `i` (R64). -/
def swSlot (sw : StepWord) (i : Nat) : Nat := swField sw (24 * i) 24

/-- Position `k`'s table in LUT block `n` (R64). -/
def swTable (sw : StepWord) (n k : Nat) : Nat := swField sw (576 + 256 * n + 16 * k) 16

/-- Entry `k` of gather select list `n` (R64). -/
def swSelect (sw : StepWord) (n k : Nat) : Nat := swField sw (2624 + 192 * n + 12 * k) 12

/-- Immediate K`j` (R64). -/
def swImm (sw : StepWord) (j : Nat) : Word := sw.extractLsb' (3776 + 32 * j) 32

/-- The code of router output `o` (0 N, 1 E, 2 S, 3 W, 4 local) in COLX (R67). -/
def swColx (sw : StepWord) (o : Nat) : Nat := swField sw (3904 + 3 * o) 3

/-- WAIT bit `j` (R67). -/
def swWait (sw : StepWord) (j : Nat) : Bool := sw.getLsbD (3904 + 15 + j)

/-- CEND (R67). -/
def swCend (sw : StepWord) : Bool := sw.getLsbD (3904 + 23)

/-- PSEG (R67). -/
def swPseg (sw : StepWord) : Nat := swField sw (3904 + 24) 6

/-- CKPT_OK (R67). -/
def swCkptOk (sw : StepWord) : Bool := sw.getLsbD (3904 + 30)

/-! ## Ports (R55) -/

/-- A result port (R58). -/
def isResultPort (p : Nat) : Bool :=
  (0x100 ≤ p && p < 0x140 && p % 8 == 6) || (0x140 ≤ p && p < 0x170 && p % 8 == 1) || p == 0x18F || p == 0x199 || p == 0x19A || p == 0x1A3

/-- The queue that a pop port pops (R76). -/
def popQueue (p : Nat) : Option Nat :=
  if p = 0x1C5 then some 1 else if 0x1D2 ≤ p ∧ p ≤ 0x1D5 then some (p - 0x1D0) else none

/-- A port that may be named in SRC. -/
def isSrcPort (p : Nat) : Bool :=
  p < 256 || isResultPort p || (popQueue p).isSome || (0x1F0 ≤ p && p ≤ 0x1F4) || (0x1F8 ≤ p && p ≤ 0x1FF)

/-- An operand port. -/
def isOperandPort (p : Nat) : Bool :=
  (0x100 ≤ p && p < 0x140 && p % 8 < 3) || p == 0x170 || p == 0x190 || p == 0x191 || p == 0x1A0 ||
  (0x1C0 ≤ p && p ≤ 0x1C2) || p == 0x1D0 || p == 0x1E0

/-- The unit whose trigger a port is: 0-7 LUT, 8-13 gather, 14 bitwise, 15 arithmetic, 16 far-store load, 17 far-store
store, 18 memory model, 19 Pass send, 20 capture, 21 Col injection (R74). -/
def unitOf (p : Nat) : Option Nat :=
  if 0x100 ≤ p ∧ p < 0x140 then (if 3 ≤ p % 8 ∧ p % 8 ≤ 5 then some ((p - 0x100) / 8) else none)
  else if 0x140 ≤ p ∧ p < 0x170 then (if p % 8 = 0 then some (8 + (p - 0x140) / 8) else none)
  else if 0x171 ≤ p ∧ p ≤ 0x184 then some 14
  else if 0x192 ≤ p ∧ p ≤ 0x198 then some 15
  else if p = 0x1A1 then some 16
  else if p = 0x1A2 then some 17
  else if p = 0x1C3 ∨ p = 0x1C4 then some 18
  else if p = 0x1D1 then some 19
  else if p = 0x1E1 then some 20
  else if 0x1F0 ≤ p ∧ p ≤ 0x1F3 then some 21
  else none

/-- A port that may be named in DST. -/
def isDstPort (p : Nat) : Bool :=
  p < 256 || isOperandPort p || (unitOf p).isSome || p == 0x1FC || p == 0x1FF

/-! ## Moves -/

/-- A non-empty move slot in its read phase (R46, R48). -/
structure Move where
  slot : Nat
  src : Nat
  dst : Nat
  out : GuardOut
  data : Word
deriving DecidableEq, Repr

/-- The moves of a step word with their guard outcomes, in slot order, data still unread (R49, R50). -/
def movesOf (T : Tile) (sw : StepWord) : List Move :=
  (List.range 24).filterMap fun i =>
    let b := swSlot sw i
    let gsel := fldN b 21 3
    let inv := b.testBit 20
    if gsel = 0 ∧ inv then none
    else some { slot := i, src := fldN b 10 10, dst := fldN b 0 10,
                out := guardOut (if gsel = 0 then 1 else look 2 T.gd gsel) inv, data := 0 }

/-- The elements of a list without later repetitions, in order. -/
def firstSeen : List Nat → List Nat
  | [] => []
  | x :: xs => x :: (firstSeen xs).filter (· ≠ x)

/-- The near-file words among `xs` that their banks serve: the first `n` distinct ones of each bank (R60, R61)
(in part DEDUCED, log entry 17). -/
def banked (n : Nat) (xs : List Nat) : List Nat :=
  let ws := firstSeen (xs.filter (· < 256))
  (List.range 8).flatMap fun b => (ws.filter fun w => w % 8 == b).take n

/-- Queue `j` of the words that a tile pops. -/
def popList (T : Tile) (j : Nat) : List Word :=
  match j with
  | 1 => T.q1 | 2 => T.q2 | 3 => T.q3 | 4 => T.q4 | 5 => T.q5 | _ => []

/-- The words of GD: positions 0-7 are gd0-gd7 (R55). -/
def gdWord (T : Tile) : Word := ofPos fun k => if k = 0 then 1 else if k < 8 then look 2 T.gd k else 0

/-- The value of a source at the start of the step (R46, R55, R57, R61). -/
def srcVal (T : Tile) (cycle step : Nat) (sw : StepWord) (served : List Nat) (p : Nat) : Word :=
  if p < 256 then (if p ∈ served then look laneX T.nf p else laneX)
  else if isResultPort p then look laneX T.ports p
  else match popQueue p with
    | some j => (popList T j).headD laneX
    | none =>
      match p with
      | 0x1F0 => T.inN
      | 0x1F1 => T.inE
      | 0x1F2 => T.inS
      | 0x1F3 => T.inW
      | 0x1F4 => T.locOut
      | 0x1F8 => swImm sw 0
      | 0x1F9 => swImm sw 1
      | 0x1FA => swImm sw 2
      | 0x1FB => swImm sw 3
      | 0x1FC => gdWord T
      | 0x1FD => mk (cycle % 65536)
      | 0x1FE => mk (step % 8192)
      | 0x1FF => 0
      | _ => laneX

/-- The read phase (R46). -/
def readPhase (T : Tile) (cycle step : Nat) (sw : StepWord) : List Move :=
  let ms := movesOf T sw
  let served := banked 2 (ms.map (·.src))
  ms.map fun m => { m with data := srcVal T cycle step sw served m.src }

/-- The value that a storage destination receives, `none` where no move writes it (R52). -/
def delivered (old : Word) (ms : List Move) (d : Nat) : Option Word :=
  let ts := (ms.filter fun m => m.dst == d && m.out == .execute).map (·.data)
  let us := (ms.filter fun m => m.dst == d && m.out == .unknown).map (·.data)
  match ts with
  | _ :: _ :: _ => some laneX
  | [x] => some (us.foldl merge x)
  | [] => if us = [] then none else some (us.foldl merge old)

/-- The operation that a unit starts: its slot, trigger port and datum (R53). -/
def triggerOf (ms : List Move) (u : Nat) : Option (Nat × Nat × Word) :=
  let es := ms.filter fun m => unitOf m.dst == some u && m.out == .execute
  let xs := ms.filter fun m => unitOf m.dst == some u && m.out != .skip
  match es with
  | e :: _ :: _ => some (e.slot, e.dst, laneX)
  | _ => match xs with
    | [] => none
    | m :: r => if m.out = .execute ∧ r = [] then some (m.slot, m.dst, m.data) else some (m.slot, m.dst, laneX)

/-! ## What a step's port use flags (R57, R61, R52, R53, R54, R71) -/

/-- Slots that name a reserved port or a port in a role that it lacks. -/
def rsvdSlots (ms : List Move) : List Nat :=
  (ms.filter fun m => !isSrcPort m.src || !isDstPort m.dst).map (·.slot)

/-- Slots that name a near-file word beyond what its bank serves. -/
def bankSlots (ms : List Move) : List Nat :=
  let rd := banked 2 (ms.map (·.src))
  let wr := banked 1 (ms.map (·.dst))
  (ms.filter fun m => (m.src < 256 && m.src ∉ rd) || (m.dst < 256 && m.dst ∉ wr)).map (·.slot)

/-- The lowest slots of conflicting executing writes to one storage destination or triggers to one unit; a near-file write
that its bank discards conflicts with none (R61; DEDUCED, log entry 17). -/
def conflictSlots (ms : List Move) : List Nat :=
  let wr := banked 1 (ms.map (·.dst))
  let es := ms.filter fun m => m.out == .execute
  (es.filter fun m => es.any fun n => m.slot < n.slot &&
    ((unitOf m.dst).isSome && unitOf m.dst == unitOf n.dst ||
     (m.dst == n.dst && (m.dst ∈ wr || isOperandPort m.dst || m.dst == 0x1FC)))).map (·.slot)

/-- Slots that read a result port before a result of its unit arrived in this cycle. -/
def staleSlots (T : Tile) (ms : List Move) : List Nat :=
  (ms.filter fun m => isResultPort m.src && m.out != .skip && m.src ∉ T.arrived).map (·.slot)

/-! ## Units (R77-R92) -/

/-- The results that a triggered unit sends to result ports: port, word, latency (R74, R77-R83). `T` is the tile at the
start of the step, `ops` its operand ports as updated in the write phase. -/
def unitResults (T : Tile) (ops : Sparse Word) (sw : StepWord) (u port : Nat) (d : Word) : List (Nat × Word × Nat) :=
  let op (p : Nat) : Word := look laneX ops p
  if u < 8 then
    let b := 0x100 + 8 * u
    let kind := if port = b + 3 then LutKind.exactX else if port = b + 4 then .pessimistic else .twoState
    [(b + 6, lutEval kind (swTable sw u) (op b) (op (b + 1)) (op (b + 2)) d, 1)]
  else if u < 14 then
    let n := u - 8
    [(0x141 + 8 * n, ofPos fun k => pos (look laneX T.nf (swSelect sw n k / 16)) (swSelect sw n k % 16), 1)]
  else if u = 14 then [(0x18F, bwEval port (op 0x170) d, 1)]
  else if u = 15 then
    let r := arEval port (op 0x190) (op 0x191) d
    [(0x199, r.1, 2), (0x19A, r.2, 2)]
  else if u = 16 then [(0x1A3, if allk d 15 then look laneX T.fs (val d 15) else laneX, 2)]
  else []

/-- A far-store store (R83). -/
def fsStore (ops : Sparse Word) (d : Word) (T : Tile) : Tile :=
  let a := look laneX ops 0x1A0
  if allk a 15 then { T with fs := put laneX T.fs (val a 15) d } else setOpstat T 0

/-- Pushes into q0, q6 and q7; a full queue leaves the push held (R117, R119). -/
def push0 (T : Tile) (x : MmReq) : Tile :=
  if T.q0.length < 16 then { T with q0 := T.q0 ++ [x], fresh0 := true } else flagOver { T with held0 := some x } 0

/-- See `push0`. -/
def push6 (T : Tile) (x : PxWord) : Tile :=
  if T.q6.length < 16 then { T with q6 := T.q6 ++ [x] } else flagOver { T with held6 := some x } 6

/-- See `push0`. -/
def push7 (T : Tile) (x : CapEntry) : Tile :=
  if T.q7.length < 32 then { T with q7 := T.q7 ++ [x], fresh7 := true } else flagOver { T with held7 := some x } 7

/-- The effect of a triggered unit beside its results (R83, R86, R90, R92). -/
def unitEffect (ops : Sparse Word) (stamp u port : Nat) (d : Word) (T : Tile) : Tile :=
  let op (p : Nat) : Word := look laneX ops p
  if u = 16 then setOpstatIf (!allk d 15) 0 T
  else if u = 17 then fsStore ops d T
  else if u = 18 then push0 T { write := port == 0x1C4, rg := op 0x1C0, ah := op 0x1C1, al := op 0x1C2, data := d }
  else if u = 19 then
    if allk (op 0x1D0) 9 then
      let x := val (op 0x1D0) 9
      push6 T { link := Fin.ofNat 8 (x / 64), chan := Fin.ofNat 64 x, data := d, stamp := stamp }
    else setOpstat T 4
  else if u = 20 then
    if allk (op 0x1E0) 16 then push7 T { tag := BitVec.ofNat 16 (val (op 0x1E0) 16), data := d }
    else push7 (setOpstat T 5) { tag := 0xFFFF, data := d }
  else T

/-! ## One step of one tile -/

/-- The queue conditions of a step: slot, KIND 5, queue (R118, R119). -/
def queueFaults (T : Tile) (ms : List Move) (step : Nat) : List SchedFault :=
  let under := [(0x1C5, 1), (0x1D2, 2), (0x1D3, 3), (0x1D4, 4), (0x1D5, 5)].filterMap fun (p, j) =>
    let ns := ms.filter fun m => m.src == p
    if (ns.any fun m => m.out != .skip) && (popList T j).isEmpty then
      some { slot := (ns.map (·.slot)).headD 0x1F, kind := 5, step := step, queue := j : SchedFault }
    else none
  let full := [(18, 0, decide (16 ≤ T.q0.length)), (19, 6, decide (16 ≤ T.q6.length) && allk ((delivered (look laneX T.ports 0x1D0) ms 0x1D0).getD (look laneX T.ports 0x1D0)) 9),
      (20, 7, decide (32 ≤ T.q7.length))].filterMap fun (u, j, isFull) =>
    if isFull then (triggerOf ms u).map fun t => { slot := t.1, kind := 5, step := step, queue := j : SchedFault } else none
  under ++ full

/-- All schedule faults that the step's moves show (R71). -/
def stepFaults (T : Tile) (ms : List Move) (step : Nat) : List SchedFault :=
  let mkF (kind slot : Nat) : SchedFault := { slot := slot, kind := kind, step := step, queue := 7 }
  (rsvdSlots ms).map (mkF 0) ++ (bankSlots ms).map (mkF 1) ++ (conflictSlots ms).map (mkF 2) ++
  (staleSlots T ms).map (mkF 3) ++ queueFaults T ms step

/-- The pops of a step (R76): a queue is popped when a slot that names it executes or has outcome unknown; popping an
empty queue is an underrun (R118); popping q1 returns a response credit (R120). -/
def popPhase (ms : List Move) (T : Tile) : Tile :=
  [(0x1C5, 1), (0x1D2, 2), (0x1D3, 3), (0x1D4, 4), (0x1D5, 5)].foldl (fun T (p, j) =>
    if ms.any fun m => m.src == p && m.out != .skip then
      if (popList T j).isEmpty then flagUnder T j
      else match j with
        | 1 => { T with q1 := T.q1.tail, credits := T.credits + 1 }
        | 2 => { T with q2 := T.q2.tail }
        | 3 => { T with q3 := T.q3.tail }
        | 4 => { T with q4 := T.q4.tail }
        | _ => { T with q5 := T.q5.tail }
    else T) T

/-- The storage part of the write phase: near file, operand ports, guards (R52, R56, R61). -/
def storagePhase (ms : List Move) (T : Tile) : Tile :=
  let ds := firstSeen (ms.map (·.dst))
  let wr := banked 1 (ms.map (·.dst))
  let nf := ds.foldl (fun nf d => if d < 256 ∧ d ∈ wr then
      (match delivered (look laneX T.nf d) ms d with | some v => put laneX nf d v | none => nf) else nf) T.nf
  let ports := ds.foldl (fun ps d => if isOperandPort d then
      (match delivered (look laneX T.ports d) ms d with | some v => put laneX ps d v | none => ps) else ps) T.ports
  let gd := match delivered (gdWord T) ms 0x1FC with
    | some v => [1, 2, 3, 4, 5, 6, 7].foldl (fun g k => put 2 g k (guardWrite v k (look 2 T.gd k))) T.gd
    | none => T.gd
  { T with nf := nf, ports := ports, gd := gd }

/-- The triggers of a step, by unit (R53). -/
def triggersOf (ms : List Move) : List (Nat × Nat × Nat × Word) :=
  (List.range 22).filterMap fun u => (triggerOf ms u).map fun t => (u, t)

/-- The results of a step's triggers, as they set out for their ports (R73). -/
def launched (T0 : Tile) (ops : Sparse Word) (sw : StepWord) (step : Nat) (ts : List (Nat × Nat × Nat × Word)) : List InFlight :=
  ts.flatMap fun (u, slot, port, d) => (unitResults T0 ops sw u port d).map fun (rp, v, n) =>
    { port := rp, value := v, due := step + n, trig := step, slot := slot }

/-- Results that moves see from step `step + 1` arrive at the end of this step, unless that step is at or beyond `len`
(R58, R63, R73). -/
def arrive (step len : Nat) (T : Tile) : Tile :=
  let now := T.inflight.filter fun r => r.due == step + 1 && decide (r.due < len)
  { T with ports := now.foldl (fun ps r => put laneX ps r.port r.value) T.ports,
           arrived := now.foldl (fun a r => if r.port ∈ a then a else a ++ [r.port]) T.arrived,
           inflight := T.inflight.filter fun r => !(r.due == step + 1 && decide (r.due < len)) }

/-- The flags that a step's port use sets (R71); STALE_RESULT only in CHECKED mode. -/
def flagPhase (checked : Bool) (T0 : Tile) (ms : List Move) (T : Tile) : Tile :=
  setStatIf (checked && !(staleSlots T0 ms).isEmpty) 4 <|
  setStatIf (ms.any fun m => m.out == .unknown) 3 <|
  setStatIf (!(conflictSlots ms).isEmpty) 2 <|
  setStatIf (!(bankSlots ms).isEmpty) 1 <|
  setStatIf (!(rsvdSlots ms).isEmpty) 0 T

/-- One step of one tile, its routers apart (R46). `stamp` is the Plain's executed-step count. -/
def tileStep (cycle step len stamp : Nat) (checked : Bool) (sw : StepWord) (T0 : Tile) : Tile :=
  let ms := readPhase T0 cycle step sw
  let T := flagPhase checked T0 ms (storagePhase ms (popPhase ms { T0 with fresh0 := false, fresh7 := false }))
  let ts := triggersOf ms
  let T := ts.foldl (fun T (u, _, port, d) => unitEffect T.ports stamp u port d T) T
  let T := arrive step len { T with inflight := T.inflight ++ launched T0 T.ports sw step ts }
  if checked then recordFaults (stepFaults T0 ms step) T else T

/-- The step shows a schedule fault (R71). -/
def stepFaulty (cycle step : Nat) (sw : StepWord) (T0 : Tile) : Bool :=
  !(stepFaults T0 (readPhase T0 cycle step sw) step).isEmpty

/-- The local offer of a step: its word and direction 0 N, 1 E, 2 S, 3 W (R101). -/
def offerOf (cycle step : Nat) (sw : StepWord) (T0 : Tile) : Option (Word × Nat) :=
  (triggerOf (readPhase T0 cycle step sw) 21).map fun t => (t.2.2, t.2.1 - 0x1F0)

/-- A push of the tile waits for room (R119). -/
def heldPush (T : Tile) : Bool := T.held0.isSome || T.held6.isSome || T.held7.isSome

/-- The tile's window is open (R114): its step has executed and a held push keeps its completion back. -/
def windowOpen (phase : Phase) (T : Tile) : Bool := decide (phase = .backPressure) && heldPush T

/-- The far side may pop the head of q0: it is no entry that the open window's own step pushed (R114). -/
def q0Pops (phase : Phase) (T : Tile) : Bool := !(windowOpen phase T && T.fresh0 && decide (T.q0.length ≤ 1))

/-- See `q0Pops`. -/
def q7Pops (phase : Phase) (T : Tile) : Bool := !(windowOpen phase T && T.fresh7 && decide (T.q7.length ≤ 1))

/-- WAIT's condition for queue `j` (R115). -/
def waitMet (T : Tile) (j : Nat) : Bool :=
  match j with
  | 0 => decide (T.q0.length ≤ 15)
  | 6 => decide (T.q6.length ≤ 15)
  | 7 => decide (T.q7.length ≤ 31)
  | _ => !(popList T j).isEmpty

/-- Every WAIT condition of a step word holds (R115). -/
def waitsMet (sw : StepWord) (T : Tile) : Bool := (List.range 8).all fun j => !swWait sw j || waitMet T j

/-- The end of a cycle for a tile (R62, R63): transient state becomes X; results not delivered are late. They are found as
step L - 1 retires, so TILE_FAULT keeps a fault that step itself has recorded (DESIGN CHOICE, log entry 53). -/
def retireTile (checked : Bool) (T : Tile) : Tile :=
  let late := T.inflight.map fun r => ({ slot := r.slot, kind := 4, step := r.trig, queue := 7 } : SchedFault)
  let T := setStatIf (!late.isEmpty) 5 T
  let T := if checked then recordFaults late T else T
  { T with ports := [], inflight := [], gd := [], arrived := [], inN := laneX, inE := laneX, inS := laneX, inW := laneX, locOut := laneX }

end Sys2Proof.Machine
end

