-- ==== Sys2Proof/Machine/Col.lean ====
section
/-! DEFINITION. The Col routers of a Plain (05 R98-R112, R428). Outputs and sides: 0 N, 1 E, 2 S, 3 W, 4 local. -/

namespace Sys2Proof.Machine

/-- The neighbour of tile `t` on side `o`; `none` on an edge side (R98). -/
def neighbour (t : Fin 64) (o : Nat) : Option (Fin 64) :=
  let r := t.val / 8
  let c := t.val % 8
  match o with
  | 0 => if r = 0 then none else some (Fin.ofNat 64 (t.val - 8))
  | 1 => if c = 7 then none else some (Fin.ofNat 64 (t.val + 1))
  | 2 => if r = 7 then none else some (Fin.ofNat 64 (t.val + 8))
  | 3 => if c = 0 then none else some (Fin.ofNat 64 (t.val - 1))
  | _ => none

/-- The input register on side `o` (R99). -/
def inReg (T : Tile) (o : Nat) : Word :=
  match o with
  | 0 => T.inN
  | 1 => T.inE
  | 2 => T.inS
  | _ => T.inW

/-- What output `o` of the router of tile `t` carries in a step, given its code and the local offer (R100, R102, R428). -/
def routerOut (T : Tile) (t : Fin 64) (sw : StepWord) (offer : Option (Word × Nat)) (o : Nat) : Option Word :=
  let code := swColx sw o
  if o < 4 ∧ neighbour t o = none then none
  else if code = 0 ∨ code = 7 then none
  else if code ≤ 4 then some (inReg T (code - 1))
  else match offer with
    | none => none
    | some (w, dir) => if code = 6 ∨ o = 4 ∨ dir = o then some w else none

/-- Output `o` takes the local offer (R102). -/
def takesOffer (t : Fin 64) (sw : StepWord) (dir o : Nat) : Bool :=
  let code := swColx sw o
  !(decide (o < 4) && (neighbour t o).isNone) && (code == 6 || (code == 5 && (o == 4 || dir == o)))

/-- The local offer of the step is dropped (R103). -/
def dropsOffer (t : Fin 64) (sw : StepWord) (offer : Option (Word × Nat)) : Bool :=
  match offer with
  | none => false
  | some (_, dir) => (List.range 5).all fun o => !takesOffer t sw dir o

/-- Words that a router delivers on N, E, S and W in a step (R112). -/
def hopsOf (T : Tile) (t : Fin 64) (sw : StepWord) (offer : Option (Word × Nat)) : Nat :=
  ((List.range 4).filter fun o => (routerOut T t sw offer o).isSome).length

/-- What the neighbour on side `o` sends to tile `t` (R102). -/
def received (tiles : Vector Tile 64) (sws : Fin 64 → StepWord) (offers : Fin 64 → Option (Word × Nat)) (t : Fin 64) (o : Nat) : Word :=
  match neighbour t o with
  | none => laneX
  | some n => (routerOut tiles[n] n (sws n) (offers n) ((o + 2) % 4)).getD laneX

/-- The routers latch at the end of an executed step (R102): `old` is every tile at the start of the step. -/
def latchTile (old : Vector Tile 64) (sws : Fin 64 → StepWord) (offers : Fin 64 → Option (Word × Nat)) (t : Fin 64) (T : Tile) : Tile :=
  { T with
    inN := received old sws offers t 0
    inE := received old sws offers t 1
    inS := received old sws offers t 2
    inW := received old sws offers t 3
    locOut := (routerOut old[t] t (sws t) (offers t) 4).getD laneX }

/-- COL_FAULT for an offer that tile `t` dropped in step `step` (R103, R112). -/
def colFaultWord (step : Nat) (t : Fin 64) (dir : Nat) : Word :=
  w32 (step % 2 ^ 13 + t.val * 2 ^ 16 + dir % 4 * 2 ^ 22 + 2 ^ 31)

/-- COL_LAG counts the regions that completed a step last, at the step's join; the skipped column takes no part (R110, R112). -/
def colLag (lastCols : BitVec 9) (skip : Nat) (C : Col) : Col :=
  if C.freeze then C
  else { C with lag := (List.range 9).foldl (fun m pc => if lastCols.getLsbD pc && pc != skip then put 0 m pc (satInc (look 0 m pc)) else m) C.lag }

/-- The Col registers after an executed step with `hops` delivered words and the dropped offers `drops` (tile, direction)
(R103, R112). -/
def colCount (hops step : Nat) (drops : List (Fin 64 × Nat)) (checked : Bool) (C : Col) : Col :=
  let C := { C with dropSum := drops.foldl (fun d (t, _) => setBit d t.val true) C.dropSum }
  let C := match drops with
    | (t, dir) :: _ => if checked && !bit C.fault 31 then { C with fault := colFaultWord step t dir } else C
    | [] => C
  if C.freeze then C
  else { C with
    hops := C.hops + BitVec.ofNat 64 hops
    dropCnt := satAdd C.dropCnt drops.length }

/-- COL_CTL.CLR (R112) (in part DEDUCED, log entry 44). -/
def colClear (C : Col) : Col := { C with hops := 0, hopsHi := 0, dropCnt := 0, lag := [] }

end Sys2Proof.Machine
end

