-- ==== Sys2Proof/Machine/Cycle.lean ====
section
/-! DEFINITION. The steps of a design cycle: release, execution in all 64 tiles, waits, back-pressure and the stall limit
(01 R18, 03 R69, 05 R110, 06 R115-R119, 19 R387). -/

namespace Sys2Proof.Machine

/-- The step word that a tile delivers at an index: the overlay entry of the current bank, else the schedule store (R216). -/
def stepWord (bank : Nat) (T : Tile) (i : Nat) : StepWord :=
  match find T.overlay (8192 * bank + i) with
  | some w => w
  | none => look 0 T.store i

/-- The step word comes from the schedule store and one of its 64-bit words is uncorrectable (R69). -/
def storeFails (bank : Nat) (T : Tile) (i : Nat) : Bool :=
  (find T.overlay (8192 * bank + i)).isNone && (List.range 64).any fun n => look false T.storeUe (64 * i + n)

/-- The schedule store corrects a 64-bit word of the step word (R69). -/
def storeCorrects (bank : Nat) (T : Tile) (i : Nat) : Bool :=
  (find T.overlay (8192 * bank + i)).isNone && (List.range 64).any fun n => look false T.storeCe (64 * i + n)

/-- CEND disagrees with step = L − 1 (R69). -/
def markErr (bank len : Nat) (T : Tile) (i : Nat) : Bool :=
  swCend (stepWord bank T i) != decide (i + 1 = len)

/-- The first tile whose store cannot deliver the step word, by virtual index (R69). Several such tiles are one fault 0x01,
and FLT_WHERE names the lowest (DESIGN CHOICE, log entry 53). -/
def badTile (P : Plain) : Option (Fin 64) :=
  (List.finRange 64).find? fun t =>
    storeFails P.ldr.curBank P.tiles[t] P.run.step || markErr P.ldr.curBank P.ldr.len P.tiles[t] P.run.step

/-- MARK_ERR in every tile whose CEND disagrees. -/
def flagMarks (P : Plain) : Plain :=
  allTiles P fun _ T => setStatIf (!storeFails P.ldr.curBank T P.run.step && markErr P.ldr.curBank P.ldr.len T P.run.step) 6 T

/-- STORE_CE in every tile whose store corrects a word of the step word as it reads it for CEND, WAIT and execution; the
correction does not depend on whether the step then executes (R69). -/
def flagCorrections (P : Plain) : Plain :=
  allTiles P fun _ T => setStatIf (storeCorrects P.ldr.curBank T P.run.step) 7 T

/-- Every WAIT condition of the coming step holds in every tile (R115). -/
def allWaitsMet (P : Plain) : Bool :=
  (List.finRange 64).all fun t => waitsMet (stepWord P.ldr.curBank P.tiles[t] P.run.step) P.tiles[t]

/-- All 64 tiles execute the step: read phase, write phase and routers (R46, R102). -/
def executeTiles (P : Plain) : Vector Tile 64 :=
  let checked := decide (P.run.mode = .checked)
  let i := P.run.step
  let sw (t : Fin 64) : StepWord := stepWord P.ldr.curBank P.tiles[t] i
  let offer (t : Fin 64) : Option (Word × Nat) := offerOf P.run.cycle i (sw t) P.tiles[t]
  vall P.tiles fun t T => latchTile P.tiles sw offer t (tileStep P.run.cycle i P.ldr.len P.run.stepCount checked (sw t) T)

/-- The tiles that drop their offer in the step, ascending, with the offer's direction (R103). -/
def dropsOf (P : Plain) : List (Fin 64 × Nat) :=
  (List.finRange 64).filterMap fun t =>
    let sw := stepWord P.ldr.curBank P.tiles[t] P.run.step
    match offerOf P.run.cycle P.run.step sw P.tiles[t] with
    | some (w, dir) => if dropsOffer t sw (some (w, dir)) then some (t, dir) else none
    | none => none

/-- Words that all routers deliver in the step (R112). -/
def hopsOfStep (P : Plain) : Nat :=
  ((List.finRange 64).map fun t =>
    let sw := stepWord P.ldr.curBank P.tiles[t] P.run.step
    hopsOf P.tiles[t] t sw (offerOf P.run.cycle P.run.step sw P.tiles[t])).sum

/-- The events of a step in CHECKED mode: SCHED_FAULT by ascending tile, then COL_FAULT for each dropped offer (R71, R103)
(in part DEDUCED, log entry 18). -/
def stepEvents (P0 P : Plain) (drops : List (Fin 64 × Nat)) : Plain :=
  if P0.run.mode = .checked then
    let P := (List.finRange 64).foldl (fun P t =>
      if stepFaulty P0.run.cycle P0.run.step (stepWord P0.ldr.curBank P0.tiles[t] P0.run.step) P0.tiles[t] then
        event P 0x0010 t.val P.tiles[t].fault.toNat
      else P) P
    drops.foldl (fun P _ => event P 0x0011 0 P.col.fault.toNat) P
  else P

/-- The stall registers once the step has executed: `waited` when its release was held, `bp` when back-pressure holds its
completion (R119, R124, R126). The step takes no time, so a back-pressure stall continues the wait before it
(in part DEDUCED, log entry 20). -/
def stepStall (waited bp : Bool) (now : Nat) (S : Stall) : Stall :=
  let S := if waited && !S.freeze then { S with waitSteps := satInc S.waitSteps } else S
  if bp then { S with since := some (S.since.getD now), bpSteps := if S.freeze then S.bpSteps else satInc S.bpSteps } else S

/-- A step that a WAIT condition holds at the join of the step before it, or at the release of its cycle, stalls from that
moment (R115, R124); the tiles have then read its step word (R69). -/
def startWait (now : Nat) (P : Plain) : Plain :=
  if decide (P.run.phase = .stepping) && decide (P.run.step < P.ldr.len) && (badTile P).isNone && !allWaitsMet P then
    { flagCorrections P with stall := { P.stall with since := some (P.stall.since.getD now) } }
  else P

/-- The executed step completes in every column (R110): the lag counts, the stall before the join ends, and the next step
may wait. -/
def joinStep (skip now : Nat) (lastCols : BitVec 9) (P : Plain) : Plain :=
  startWait now { P with
    col := { colLag lastCols skip P.col with lagPend := 0, lastJoin := lastCols }
    stall := closeStall P.stall now
    run := { P.run with phase := .stepping, step := P.run.step + 1 } }

/-- The Plain executes the coming step (R46, R102, R110, R119). `skip` is the skipped column. -/
def executeStep (skip now : Nat) (lastCols : BitVec 9) (P : Plain) : Plain :=
  let tiles := executeTiles P
  let drops := dropsOf P
  let bp := tiles.toList.any heldPush
  let segs := (List.finRange 64).foldl (fun a t =>
    let g := swPseg (stepWord P.ldr.curBank P.tiles[t] P.run.step)
    if g ∈ a then a else a ++ [g]) P.health.segs
  let P' := { P with
    tiles := tiles
    col := { colCount (hopsOfStep P) P.run.step drops (decide (P.run.mode = .checked)) P.col with lagPend := lastCols }
    stall := stepStall P.stall.since.isSome bp now P.stall
    health := { P.health with segs := segs }
    run := { P.run with stepCount := P.run.stepCount + 1, phase := if bp then .backPressure else .stepping } }
  let P' := stepEvents P P' drops
  if bp then P' else joinStep skip now lastCols P'

/-- A step of the Plain can be released (R110). -/
def canStep (P : Plain) : Bool :=
  modeStepping P.run.mode && decide (P.run.phase = .stepping) && decide (P.run.step < P.ldr.len)

/-- The skipped column of Plain `p` (R106). -/
def skipCol (F : Fuses) (p : Fin 8) : Nat := look 8 F.skipCol p.val

/-- A tile's held pushes enter the queues that have room (R119); each is an entry of the step whose window is open (R114). -/
def admitHeld (T : Tile) : Tile :=
  let T := match T.held0 with
    | some x => if T.q0.length < 16 then { T with q0 := T.q0 ++ [x], held0 := none, fresh0 := true } else T
    | none => T
  let T := match T.held6 with
    | some x => if T.q6.length < 16 then { T with q6 := T.q6 ++ [x], held6 := none } else T
    | none => T
  match T.held7 with
  | some x => if T.q7.length < 32 then { T with q7 := T.q7 ++ [x], held7 := none, fresh7 := true } else T
  | none => T

/-- A held push has room (R119). -/
def heldHasRoom (T : Tile) : Bool := !heldPush (admitHeld T)

/-- BACK_PRESSURE_STALL_END (R119): each held push has entered its queue as its own far side popped an entry (`admitHeld`);
once none is left the step completes. -/
def execBackPressureStallEnd (p : Fin 8) (s : State) : Out :=
  let P := s.plains[p]
  if P.run.phase = .backPressure ∧ P.tiles.toList.all heldHasRoom then
    .next (modPlain s p fun P =>
      joinStep (skipCol s.fuses p) s.timeNs P.col.lagPend (allTiles P fun _ => admitHeld))
  else .next s

/-- The tile that holds the step, by the lowest index: one with a held push, or one whose WAIT fails; FLT_WHERE names it
(R393; which tile of several is DEDUCED, log entry 18). -/
def stalledTile (P : Plain) : Fin 64 :=
  ((List.finRange 64).find? fun t =>
    if P.run.phase = .backPressure then heldPush P.tiles[t]
    else !waitsMet (stepWord P.ldr.curBank P.tiles[t] P.run.step) P.tiles[t]).getD 0

/-- STALL_TIMEOUT (R387): one step's stall exceeds FLT_CTL.STALL_US and the cycle is abandoned (in part DEDUCED, log entry 20). -/
def execStallTimeout (p : Fin 8) (s : State) : Out :=
  let P := s.plains[p]
  let tooLong := match P.stall.since with
    | some t => decide (P.health.stallUs ≠ 0) && decide (P.health.stallUs.toNat * 1000 < s.timeNs - t)
    | none => false
  if tooLong && modeStepping P.run.mode && (decide (P.run.phase = .stepping) || decide (P.run.phase = .backPressure)) then
    .next (valleyFollows (raiseFault s p 0x0B (stalledTile P).val fun s => modPlain s p fun P => abandonCycle s.fuses.tstepPs P s.timeNs) p)
  else .next s

end Sys2Proof.Machine
end

