-- ==== Sys2Proof/Machine/Basin.lean ====
section
/-! DEFINITION. The Basin controller: regions, patterns and written-tags (02 R40-R44, 07 R129-R134), ECC (R141, R142),
the write journal (R143-R145), reservations (R140), and the service of the tiles' memory-model requests (04 R85-R88). -/

namespace Sys2Proof.Machine

/-! ## Regions (R130-R133) -/

/-- Base of a region in bytes. -/
def rgnBase (e : BitVec 128) : Nat := fld e 0 23 * 4096

/-- Size of a region in bytes. -/
def rgnSize (e : BitVec 128) : Nat := fld e 32 23 * 4096

/-- VALID. -/
def rgnValid (e : BitVec 128) : Bool := bit e 64

/-- Two-state packing. -/
def rgnTwoState (e : BitVec 128) : Bool := bit e 65

/-- PRIO. -/
def rgnPrio (e : BitVec 128) : Nat := fld e 68 3

/-- The region contains the Basin offset. -/
def rgnHas (e : BitVec 128) (off : Nat) : Bool := rgnValid e && decide (rgnBase e ≤ off) && decide (off < rgnBase e + rgnSize e)

/-- Valid regions that contain an offset, by ascending index. -/
def rgnsAt (B : Basin) (off : Nat) : List (Nat × BitVec 128) := B.rgn.filter fun r => rgnHas r.2 off

/-- The winner of an offset: highest PRIO, then lowest index (R132). -/
def winner (B : Basin) (off : Nat) : Option (Nat × BitVec 128) :=
  (rgnsAt B off).foldl (fun best r => match best with
    | none => some r
    | some b => if rgnPrio b.2 < rgnPrio r.2 then some r else some b) none

/-- Winner and lowest other index of equal priority, where an access at the offset is decided by index (R132). -/
def decidedByIndex (B : Basin) (off : Nat) : Option (Nat × Nat) :=
  match winner B off with
  | none => none
  | some w => if look false B.tags (off / 512) then none
    else ((rgnsAt B off).find? fun r => r.1 != w.1 && rgnPrio r.2 == rgnPrio w.2).map fun r => (w.1, r.1)

/-- The winner's pattern for the byte at an offset (R133, R40, R41). -/
def patternByte (e : BitVec 128) (off : Nat) : Byte :=
  let a := off - rgnBase e
  (patternDWord (fld e 66 2) (rgnTwoState e) (fld e 96 32) (a / 8 * 8)).extractLsb' (8 * (a % 8)) 8

/-- What a read of the byte at an offset returns, errors apart (R43, R133, R134). -/
def basinByte (B : Basin) (off : Nat) : Byte :=
  match winner B off with
  | some w => if look false B.tags (off / 512) then sget Config.basinFree B.data off else patternByte w.2 off
  | none => sget Config.basinFree B.data off

/-- `n` bytes from an offset. -/
def basinBytes (B : Basin) (off n : Nat) : List Byte := (List.range n).map fun i => basinByte B (off + i)

/-- Stored data is read at the offset: the block is tagged or lies in no valid region. -/
def storedAt (B : Basin) (off : Nat) : Bool := (winner B off).isNone || look false B.tags (off / 512)

/-- 512-byte blocks of a range. -/
def blocksOf (off n : Nat) : List Nat := unitsOf 512 off n

/-- 4 KiB blocks of a range. -/
def pagesOf (off n : Nat) : List Nat := unitsOf 4096 off n

/-! ## Errors (R132, R141) -/

/-- Sets OVERLAP and records the first index-decided access (R132). -/
def noteOverlap (off n : Nat) (B : Basin) : Basin :=
  (blocksOf off n).foldl (fun B b =>
    match decidedByIndex B (max off (b * 512)) with
    | none => B
    | some (w, l) => { B with stat := setBit B.stat 0 true, ovl := if bit B.ovl 31 then B.ovl else w32 (w + l * 256 + 2 ^ 31) }) B

/-- Counts corrected words (R141). -/
def noteCe (k : Nat) (B : Basin) : Basin := if k = 0 then B else { B with ceCnt := satAdd B.ceCnt k, stat := setBit B.stat 1 true }

/-- Counts an uncorrectable word and records the first (R141). -/
def noteUe (master w : Nat) (B : Basin) : Basin :=
  let B := { B with ueCnt := satInc B.ueCnt, stat := setBit B.stat 2 true }
  if bit B.ueHi 31 then B
  else { B with ueLo := w32 (8 * w), ueHi := w32 (8 * w / 2 ^ 32 % 8 + master % 8 * 16 + 2 ^ 31) }

/-- BASIN_UE_ADDR's number of a matrix master (R148): Manager, DMA, host, capture engine, loader, test port. -/
def basinMaster (m : Nat) : Nat :=
  match m with
  | 1 => 4 | 2 => 1 | 3 => 1 | 4 => 2 | 5 => 5 | 6 => 3 | _ => 7

/-- An uncorrectable word of the Basin is counted, with event BASIN_UE (R141). -/
def countUe (master w : Nat) (P : Plain) : Plain :=
  let P := { P with basin := noteUe master w P.basin }
  event P 0x0031 0 P.basin.ueLo.toNat

/-- The uncorrectable Basin words that one access has met are reported: counters and event BASIN_UE for each, one fault 0x02, and a
hold at the next boundary of a stepping Plain, which asks the peers to hold (R141, 19 R386, R391). `unit` is the tile or the
master. -/
def reportUes (s : State) (p : Fin 8) (master unit : Nat) (ws : List Nat) : State :=
  raiseUe (ws.foldl (fun s w => modPlain s p (countUe master w)) s) p 0x02 unit ws fun s => modPlain s p fun P =>
    if modeStepping P.run.mode then { P with run := { P.run with holdNext := true, holdAsks := true } } else P

/-- Words of a range whose stored content is uncorrectable. -/
def ueWords (B : Basin) (off n : Nat) : List Nat := (wordsOf off n).filter fun w => look false B.ue w && storedAt B (8 * w)

/-- Words of a range whose stored content is corrected as it is read. -/
def ceWords (B : Basin) (off n : Nat) : List Nat :=
  (wordsOf off n).filter fun w => look false B.ce w && !look false B.ue w && storedAt B (8 * w)

/-- A read of the Basin in the order of receipt (R44): the bytes, or the master's error response (R141). -/
def basinFetch (s : State) (p : Fin 8) (master unit off n : Nat) : State × Option (List Byte) :=
  let B := s.plains[p].basin
  let bad := ueWords B off n
  let s := modPlain s p fun P => { P with basin := noteCe (ceWords B off n).length (noteOverlap off n P.basin) }
  let s := reportUes s p master unit bad
  (s, if bad.isEmpty then some (basinBytes B off n) else none)

/-! ## The journal (R143-R145) -/

/-- Size of the journal area in 64-byte units. -/
def jrnlUnits (B : Basin) : Nat := look 0 B.areaSize 2 * 64

/-- Units in use between JRNL_TAIL and JRNL_HEAD. -/
def jrnlUsed (B : Basin) : Nat := if jrnlUnits B = 0 then 0 else (B.head + jrnlUnits B - B.tail % jrnlUnits B) % jrnlUnits B

/-- Stores bytes in the Basin without tags or journal: service areas (R129). A whole word stores new check bits (R141). -/
def rawWrite (off : Nat) (bs : List Byte) (B : Basin) : Basin :=
  let whole := (wordsOf off bs.length).filter fun w => decide (off ≤ 8 * w) && decide (8 * w + 8 ≤ off + bs.length)
  { B with data := writeBytes Config.basinFree B.data off bs
           ue := whole.foldl (fun u w => put false u w false) B.ue
           ce := whole.foldl (fun u w => put false u w false) B.ce }

/-- Stores 64-byte units in the journal ring from JRNL_HEAD (R145). -/
def jrnlAppend : Nat → List Byte → Basin → Basin
  | 0, _, B => B
  | k + 1, bs, B =>
    let B := rawWrite (look 0 B.areaBase 2 * 4096 + 64 * (B.head % jrnlUnits B)) (bs.take 64) B
    jrnlAppend k (bs.drop 64) { B with head := (B.head + 1) % jrnlUnits B }

/-- The eight written-tags of a 4 KiB block (R144). -/
def pageTags (B : Basin) (page : Nat) : Nat :=
  (List.range 8).foldr (fun i acc => b2n (look false B.tags (8 * page + i)) * 2 ^ i + acc) 0

/-- JRNL_GEN after a mark: read as one of the Basin counters that saturate (R148; DEDUCED, log entry 54). -/
def nextGen (B : Basin) : Word := satInc B.gen

/-- The journal record of a 4 KiB block as it stands (R144). With DATA = 1 its content is the bytes as stored, also of blocks whose
written-tag is clear and of words that are uncorrectable, and gets good check bits (DESIGN CHOICE, log entry 54). -/
def jrnlRecord (B : Basin) (page : Nat) : List Byte :=
  let tags := pageTags B page
  leBytes 8 (page * 4096) ++ leBytes 4 B.gen.toNat ++ [BitVec.ofNat 8 tags, BitVec.ofNat 8 (b2n (tags != 0))] ++ leBytes 50 0 ++
  (if tags = 0 then [] else readBytes Config.basinFree B.data (page * 4096) 4096)

/-- A journal record is needed before a write to the 4 KiB block (R144). -/
def needsRecord (B : Basin) (page : Nat) : Bool :=
  B.marked && !B.stopped && (winner B (page * 4096)).isSome && !look false B.recorded page

/-- A record of so many 64-byte units fits before JRNL_TAIL (R145). -/
def recordFits (B : Basin) (units : Nat) : Bool := decide (jrnlUsed B + units < jrnlUnits B)

/-- Journals one 4 KiB block before a write (R144, R145). A record that does not fit stops recording and makes every
checkpoint up to the present generation unusable (R193) (in part DEDUCED, log entry 46). A record fits when JRNL_HEAD stays
short of JRNL_TAIL after it, so one 64-byte unit of the ring is always free (DESIGN CHOICE, log entry 54). -/
def journalPage (P : Plain) (page : Nat) : Plain :=
  let B := P.basin
  if !needsRecord B page then P
  else
    let r := jrnlRecord B page
    let k := r.length / 64
    if recordFits B k then
      { P with basin := { jrnlAppend k r B with recorded := put false B.recorded page true } }
    else { P with
      basin := { B with stopped := true, stat := setBit B.stat 3 true }
      cap := { P.cap with dir := [], draining := P.cap.draining.map fun d => { d with spoiled := true } } }

/-- The controller reads a block's old content for its record on behalf of the master that writes: what it corrects is
counted, and what it cannot correct is reported (R141, R144) (in part DEDUCED, log entry 54). -/
def journalFor (p : Fin 8) (master unit : Nat) (s : State) (page : Nat) : State :=
  let B := s.plains[p].basin
  let reads := needsRecord B page && pageTags B page != 0 && recordFits B 65
  let s := modPlain s p fun P => journalPage P page
  if !reads then s
  else
    let s := modPlain s p fun P => { P with basin := noteCe (ceWords B (4096 * page) 4096).length P.basin }
    reportUes s p master unit (ueWords B (4096 * page) 4096)

/-- The journal mark (R143, R144): a new generation starts at JRNL_HEAD. -/
def journalMark (B : Basin) : Basin :=
  { B with gen := nextGen B, marked := true, stopped := false, recorded := [], genStart := ins B.genStart (nextGen B).toNat B.head }

/-! ## Writes (R43, R44, R141) -/

/-- The first write into an untagged block of a region forms the block from the pattern and sets its tag (R43). -/
def materialise (B : Basin) (block : Nat) : Basin :=
  match winner B (512 * block) with
  | none => B
  | some _ =>
    if look false B.tags block then B
    else { rawWrite (512 * block) (basinBytes B (512 * block) 512) B with tags := put false B.tags block true }

/-- Words that a write covers in part and whose stored content is uncorrectable: the write to them is refused (R141). -/
def refusedWords (B : Basin) (off n : Nat) : List Nat :=
  (ueWords B off n).filter fun w => decide (8 * w < off) || decide (off + n < 8 * w + 8)

/-- Stores the bytes of a write but those of refused words; a covered word, and a word that merges a corrected one, has
new check bits. -/
def storeBytes (off : Nat) (refused : List Nat) (bs : List Byte) (B : Basin) : Basin :=
  let data := (bs.zipIdx off).foldl (fun m (b, a) => if a / 8 ∈ refused then m else sset Config.basinFree m a b) B.data
  let ws := (wordsOf off bs.length).filter fun w => w ∉ refused
  { B with data := data, ue := ws.foldl (fun u w => put false u w false) B.ue, ce := ws.foldl (fun u w => put false u w false) B.ce }

/-- Words that a write merges whose stored content is corrected (R141). -/
def mergedCe (B : Basin) (off n : Nat) : List Nat :=
  (ceWords B off n).filter fun w => decide (8 * w < off) || decide (off + n < 8 * w + 8)

/-- A write of the Basin in the order of receipt (R44): journal record, materialisation, then the write; false is the error
response. A word that the write covers in part is read to be merged, so its correction is counted (R141). -/
def basinStore (s : State) (p : Fin 8) (master unit off : Nat) (bs : List Byte) : State × Bool :=
  let n := bs.length
  let s := (pagesOf off n).foldl (journalFor p master unit) (modPlain s p fun P => { P with basin := noteOverlap off n P.basin })
  let s := modPlain s p fun P => { P with basin := (blocksOf off n).foldl materialise P.basin }
  let bad := refusedWords s.plains[p].basin off n
  let s := modPlain s p fun P => { P with basin := storeBytes off bad bs (noteCe (mergedCe P.basin off n).length P.basin) }
  (reportUes s p master unit bad, bad.isEmpty)

/-! ## Memory-model requests (04 R85-R88, 06 R120) -/

/-- The memory-model request's element: none with a reason, 1 ADDR_X or 2 RANGE (R86). -/
def mmElement (B : Basin) (r : MmReq) : Nat ⊕ (BitVec 128 × Nat) :=
  if !(allk r.rg 8 && allk r.ah 16 && allk r.al 16) then .inl 1
  else
    let e := look 0 B.rgn (val r.rg 8)
    let i := val r.ah 16 * 65536 + val r.al 16
    let count := fld e 32 23 * (if rgnTwoState e then 2048 else 1024)
    if !rgnValid e || decide (count ≤ i) then .inl 2 else .inr (e, i)

/-- The lane word of a two-state element (R87). -/
def twoStateWord (bs : List Byte) : Word := mk (leNat bs)

/-- A request of tile `t` has taken effect: it waits for its completion, with the response of a read. -/
def serveAs (s : State) (p : Fin 8) (t : Fin 64) (x : Option Word) : State :=
  modPlain s p fun P => modTile P t fun T => { T with served := T.served ++ [x] }

/-- A request takes effect: the response of a read, or the write (R86, R87). -/
def mmServe (s : State) (p : Fin 8) (t : Fin 64) (r : MmReq) : State :=
  let flag (i : Nat) (s : State) : State := modPlain s p fun P => modTile P t fun T => setOpstat T i
  match mmElement s.plains[p].basin r with
  | .inl why => flag why (serveAs s p t (if r.write then none else some laneX))
  | .inr (e, i) =>
    let two := rgnTwoState e
    let off := rgnBase e + (if two then 2 * i else 4 * i)
    if r.write then
      let s := if two && xOf r.data != 0 then flag 3 s else s
      serveAs (basinStore s p 0 t.val off (if two then leBytes 2 (val r.data 16) else leBytes 4 r.data.toNat)).1 p t none
    else
      let x := basinFetch s p 0 t.val off (if two then 2 else 4)
      serveAs x.1 p t (some (match x.2 with
        | none => laneX
        | some bs => if two then twoStateWord bs else w32 (leNat bs)))

/-- The received requests take effect in order of receipt, up to and including the first of the tiles that `upTo` names (R44,
R147). -/
def performUpTo (upTo : Fin 64 → Bool) (p : Fin 8) : List (Fin 64 × MmReq) → State → State
  | [], s => s
  | (t, r) :: rest, s =>
    let s := mmServe (modPlain s p fun P => { P with basin := { P.basin with recv := rest } }) p t r
    if upTo t then s else performUpTo upTo p rest s

/-- Every request that the controller has received takes effect, before an access of another master that it receives later. -/
def settle (s : State) (p : Fin 8) : State := performUpTo (fun _ => false) p s.plains[p].basin.recv s

/-- A read of the Basin by a master of the bus matrix, received now. -/
def basinRead (s : State) (p : Fin 8) (master unit off n : Nat) : State × Option (List Byte) :=
  basinFetch (settle s p) p master unit off n

/-- A write of the Basin by a master of the bus matrix, received now. -/
def basinWrite (s : State) (p : Fin 8) (master unit off : Nat) (bs : List Byte) : State × Bool :=
  basinStore (settle s p) p master unit off bs

/-- The request that the controller can take from a tile's q0: a read needs a response credit (R120), and an entry of a step
whose window is open stays (R114). -/
def takeable (phase : Phase) (T : Tile) : Option MmReq :=
  match T.q0 with
  | [] => none
  | r :: _ => if q0Pops phase T && (r.write || decide (0 < T.credits)) then some r else none

/-- The controller receives the head of a tile's q0 (R120, R138); a held push takes the room (R119). -/
def receiveRequest (s : State) (p : Fin 8) (t : Fin 64) : State :=
  match takeable s.plains[p].run.phase s.plains[p].tiles[t] with
  | none => s
  | some r => modPlain s p fun P =>
    modTile { P with basin := { P.basin with recv := P.basin.recv ++ [(t, r)] } } t fun T =>
      admitHeld { T with q0 := T.q0.tail, credits := if r.write then T.credits else T.credits - 1 }

/-- MM_REQUEST_TAKE (R120): the Basin controller takes the head request of a tile's q0. -/
def execMmRequestTake (p : Fin 8) (t : Fin 64) (s : State) : Out := .next (receiveRequest s p t)

/-- The tile's oldest request that has taken effect leaves the controller; a read's response enters q1 (R86, R88). -/
def deliverResponse (T : Tile) : Tile :=
  match T.served with
  | [] => T
  | none :: rest => { T with served := rest }
  | some w :: rest => { T with served := rest, q1 := T.q1 ++ [w] }

/-- Completes the tile's oldest request. It takes effect now, after what the controller received before it, unless a request
received later has made it take effect already (R44, R147). -/
def completeRequest (s : State) (p : Fin 8) (t : Fin 64) : State :=
  let s := if s.plains[p].tiles[t].served = [] ∧ s.plains[p].basin.recv.any (fun x => decide (x.1 = t)) then
    performUpTo (fun u => decide (u = t)) p s.plains[p].basin.recv s else s
  modPlain s p fun P => modTile P t deliverResponse

/-- MM_REQUEST_COMPLETE (R86): a read's response enters q1, or a write is visible. -/
def execMmRequestComplete (p : Fin 8) (t : Fin 64) (s : State) : Out := .next (completeRequest s p t)

/-! ## Scrub and control (R140, R142, R148) -/

/-- PATROL_SCRUB (R142): one word is read, and written back when it is corrected; untagged blocks of regions are skipped. -/
def execPatrolScrub (p : Fin 8) (word : Nat) (s : State) : Out :=
  let B := s.plains[p].basin
  if !B.scrubEn || !storedAt B (8 * word) then .next s
  else if look false B.ue word then .next (reportUes s p 6 6 [word])
  else if look false B.ce word then
    .next (modPlain s p fun P => { P with basin := { noteCe 1 P.basin with ce := put false P.basin.ce word false } })
  else .next s

/-- BASIN_CTL written (R148): SCRUB_EN, and CLR. -/
def basinCtl (v : Word) (B : Basin) : Basin :=
  let B := { B with scrubEn := bit v 0 }
  if bit v 1 then { B with ceCnt := 0, ueCnt := 0 } else B

/-- BASIN_CTL_CLR (R148). -/
def execBasinCtlClr (p : Fin 8) (v : Word) (s : State) : Out :=
  .next (if awake s.plains[p] then modPlain s p fun P => { P with basin := basinCtl (setBit v 1 true) P.basin } else s)

/-- Sum of the reservations (R137). -/
def rsvSum (B : Basin) : Nat := ((List.range 5).map (look 0 B.rsv)).sum

/-- A write of BASIN_RSVk (R140, R148): k below 4 only in LOAD; refused when the sum would exceed 960. -/
def rsvWrite (mode : Mode) (k : Fin 5) (v : Word) (B : Basin) : Basin :=
  if k.val < 4 ∧ mode ≠ .load then B
  else if rsvSum B - look 0 B.rsv k.val + fld v 0 10 ≤ 960 then { B with rsv := put 0 B.rsv k.val (fld v 0 10) }
  else { B with stat := setBit B.stat 4 true }

/-- BASIN_RSV_WRITE (R140). -/
def execBasinRsvWrite (p : Fin 8) (k : Fin 5) (v : Word) (s : State) : Out :=
  .next (if awake s.plains[p] then modPlain s p fun P => { P with basin := rsvWrite P.run.mode k v P.basin } else s)

end Sys2Proof.Machine
end

