-- ==== Sys2Proof/Machine/Capture.lean ====
section
/-! DEFINITION. The capture engine, the trigger unit, checkpoints and the log that a replay reads (09 R180-R199). -/

namespace Sys2Proof.Machine

/-! ## Records (R183) -/

/-- A 64-bit record word. -/
def recWord (typ rest : Nat) : List Byte := leBytes 8 (typ + rest)

/-- CYC (R183). -/
def recCyc (c : Nat) (epoch : Word) (key started : Bool) : List Byte :=
  recWord 1 (c % 2 ^ 48 * 2 ^ 16) ++ leBytes 8 (epoch.toNat + b2n key * 2 ^ 32 + b2n started * 2 ^ 33)

/-- FULL (type 2) and XOR (type 3) (R183). -/
def recValue (typ : Nat) (t : Fin 64) (tag : BitVec 16) (d : Word) : DWord :=
  BitVec.ofNat 64 (typ + t.val * 2 ^ 4 + tag.toNat * 2 ^ 10 + d.toNat * 2 ^ 32)

/-- PASS_IN (R183). -/
def recPassIn (l : Fin 8) (chan step : Nat) (d : Word) : List Byte :=
  recWord 4 (l.val * 2 ^ 4 + chan % 64 * 2 ^ 7 + step % 2 ^ 13 * 2 ^ 13 + d.toNat * 2 ^ 32)

/-- EXT_WR (R183): origin 0 host, 1 DMA, 2 Manager. -/
def recExtWr (origin off : Nat) (bs : List Byte) : List Byte :=
  recWord 5 (origin % 8 * 2 ^ 4 + bs.length % 2 ^ 24 * 2 ^ 8) ++ leBytes 8 (off % 2 ^ 35) ++ bs ++
  List.replicate ((8 - bs.length % 8) % 8) 0

/-- PIO (R183). -/
def recPio (e : Fin 4) (d : Word) : List Byte := recWord 6 (e.val * 2 ^ 4 + d.toNat * 2 ^ 32)

/-- TRIG (R183). -/
def recTrig (n action : Nat) (taken : Bool) : List Byte := recWord 7 (n % 32 * 2 ^ 4 + action % 8 * 2 ^ 9 + b2n taken * 2 ^ 12)

/-- CKPT (R183). -/
def recCkpt (result slot : Nat) (gen : Word) : List Byte := recWord 8 (result % 16 * 2 ^ 4 + slot % 16 * 2 ^ 8 + gen.toNat * 2 ^ 32)

/-- GAP (R183). -/
def recGap (n : Nat) : List Byte := recWord 9 (min n (2 ^ 32 - 1) * 2 ^ 32)

/-- UNDER (R183). -/
def recUnder (t : Fin 64) (j : Nat) : List Byte := recWord 0xA (t.val * 2 ^ 4 + j % 8 * 2 ^ 10)

/-! ## Staging (R180, R184, R185) -/

/-- Bytes of the capture area. -/
def capSize (P : Plain) : Nat := look 0 P.basin.areaSize 0 * 4096

/-- The capture engine writes records: in REPLAY it reads them (R195). -/
def logging (P : Plain) : Bool := decide (P.run.mode ≠ .replay)

/-- Bytes of a share of staging (R184): 192 KiB for FULL, XOR and GAP records, 64 KiB for the others. -/
def shareSize (value : Bool) : Nat := if value then 196608 else 65536

/-- Bytes of a share that staging occupies. -/
def stagedShare (value : Bool) (C : Capture) : Nat := ((C.staging.filter fun r => r.value == value).map (·.bytes.length)).sum

/-- Bytes of a share that staging and the records gathered for it occupy. -/
def shareUsed (value : Bool) (P : Plain) : Nat :=
  if capSize P = 0 then 0
  else stagedShare value P.cap +
    (if value then 8 * (P.tiles.toList.map (·.capRecs.length)).sum
     else ((P.cap.inputs ++ P.cap.passIn ++ P.cap.passNext ++ P.cap.holdNew).map List.length).sum)

/-- The 192 KiB value share has no room for a record (R184). -/
def valueFull (P : Plain) : Bool := decide (shareSize true < shareUsed true P + 8)

/-- The most that the CYC, UNDER, TRIG and CKPT records of one boundary occupy: the model keeps so much of the 64 KiB share
free of input records (DESIGN CHOICE, log entry 45). -/
abbrev boundaryBytes : Nat := 16 + 8 * 64 * 8 + 8 * 32 + 8

/-- The 64 KiB share has room for `n` more bytes of input records (R184). -/
def inputRoom (P : Plain) (n : Nat) : Bool :=
  !logging P || (P.cap.outq.isEmpty && decide (shareUsed false P + n + boundaryBytes ≤ shareSize false))

/-- The 64 KiB share has no room for the boundary's own records (in part DEDUCED, log entry 45). -/
def boundaryWaits (P : Plain) : Bool := logging P && decide (capSize P ≠ 0) && decide (shareSize false < shareUsed false P + boundaryBytes)

/-- Records move into staging in order, while the next one's share has room (R180, R184). -/
def fillStaging : List StageRec → Capture → Capture
  | [], C => { C with outq := [] }
  | r :: rest, C =>
    if stagedShare r.value C + r.bytes.length ≤ shareSize r.value then fillStaging rest { C with staging := C.staging ++ [r] }
    else { C with outq := r :: rest }

/-- A record is written: it goes into staging after those before it; with the capture area absent it is discarded at once
(R180). -/
def emit (value : Bool) (P : Plain) (bs : List Byte) : Plain :=
  if capSize P = 0 ∨ bs = [] then P
  else { P with cap := { fillStaging (P.cap.outq ++ [{ bytes := bs, value := value }]) P.cap with written := P.cap.written + bs.length } }

/-- Design cycles of a Plain are under way: rows 1 and 2 of the present cycle's boundary are still to come. -/
def inCycle (P : Plain) : Bool :=
  modeStepping P.run.mode && (decide (P.run.phase = .stepping) || decide (P.run.phase = .backPressure) || decide (P.run.phase = .row2))

/-- Logs an external write or PIO read: in the cycle's section, or in the hold part (R183 orders 2 and 9, R186). In the HOLD
after a replay the record waits for the branch, which resumes logging (R197) (in part DEDUCED, log entry 45). -/
def logInput (P : Plain) (bs : List Byte) : Plain :=
  if !logging P || decide (capSize P = 0) then P
  else if inCycle P then { P with cap := { P.cap with inputs := P.cap.inputs ++ [bs] } }
  else if P.run.mode = .hold ∧ P.run.replayed then { P with cap := { P.cap with holdNew := P.cap.holdNew ++ [bs] } }
  else emit false P bs

/-- Writes bytes into a service area used as a ring, from an offset (R180); what passes its end goes on at its start. -/
def ringWrite (base size : Nat) : Nat → Nat → List Byte → Basin → Basin
  | 0, _, _, B => B
  | k + 1, off, bs, B =>
    let n := min bs.length (size - off % size)
    if n = 0 then B else ringWrite base size k (off + n) (bs.drop n) (rawWrite (base + off % size) (bs.take n) B)

/-- What an overwrite of the log up to an unwrapped position makes invalid: sections, hold parts and the checkpoints that
need them (R185, R193). -/
def overwrite (limit : Nat) (C : Capture) : Capture :=
  let gone := (C.holdParts.filter fun x => decide (x.2 < limit)).map (·.1)
  let sections := C.sections.filter fun x => !decide (x.2 < limit)
  { C with
    wrapped := true
    sections := sections
    holdParts := C.holdParts.filter fun x => !decide (x.2 < limit)
    dir := C.dir.filter fun e => e.2.start ∉ gone
    draining := C.draining.map fun d => if d.start ∈ gone then { d with spoiled := true } else d
    oldest := match sections with
      | [] => C.oldest
      | x :: _ => x.1 }

/-- The Plain's best-effort users run: its grant is not 0 (17 R350) (in part DEDUCED, log entry 35). -/
def granted (s : State) (p : Fin 8) : Bool := decide (look 0 s.power.grant p.val ≠ 0)

/-! ## q7 (R180-R182) -/

/-- The entry is selected for a value record (R181). -/
def selected (C : Capture) (t : Fin 64) (e : CapEntry) : Bool :=
  C.started && bit C.sel t.val && decide (C.winLo ≤ e.tag) && decide (e.tag ≤ C.winHi)

/-- Cycle `c` is a key cycle (R182). -/
def keyCycle (C : Capture) (c : Nat) : Bool := c % 2 ^ (C.depth.toNat + 8) == 0

/-- The record of a selected entry against the tile's reference table; `none` when the value is unchanged. `full` says that
NODELTA is set or the cycle is a key cycle (R182) (in part DEDUCED, log entry 45). -/
def valueRecord (full : Bool) (T : Tile) (t : Fin 64) (e : CapEntry) : Option DWord :=
  match find T.capRef (e.tag.toNat % 1024) with
  | some (tag, v) =>
    if full ∨ tag ≠ e.tag then some (recValue 2 t e.tag e.data)
    else if v = e.data then none
    else some (recValue 3 t e.tag (v ^^^ e.data))
  | none => some (recValue 2 t e.tag e.data)

/-- The value record of an entry is discarded under LOSSY (R184) (in part DEDUCED, log entry 45). -/
def discardValue (P : Plain) : Plain :=
  { P with cap := { P.cap with discarded := P.cap.discarded + 1, gapCnt := satInc P.cap.gapCnt, gap := true } }

/-- The capture engine consumes the head of a tile's q7 (R180-R182, R184) (in part DEDUCED, log entry 45). -/
def popCapture (t : Fin 64) (P : Plain) : Plain :=
  let T := P.tiles[t]
  match T.q7 with
  | [] => P
  | e :: rest =>
    let P := modTile P t fun T => admitHeld { T with q7 := rest, capSeen := T.capSeen ++ [e] }
    if !logging P || !selected P.cap t e then P
    else
      let ref (P : Plain) : Plain := modTile P t fun T => { T with capRef := ins T.capRef (e.tag.toNat % 1024) (e.tag, e.data) }
      match valueRecord (P.cap.noDelta || keyCycle P.cap P.run.cycle) T t e with
      | none => ref P
      | some r =>
        if P.cap.lossy && (decide (0 < P.cap.discarded) || valueFull P) then discardValue P
        else
          let P := ref (modTile P t fun T => { T with capRecs := T.capRecs ++ [r] })
          { P with cap := { P.cap with records := satInc P.cap.records } }

/-- The engine stops popping q7: the value share is full and LOSSY is 0 (R184). Once nothing of the share can drain, what fills
it is the present cycle's records, which only row 2 can write, and popping goes on (in part DEDUCED, log entry 45). -/
def popStops (P : Plain) : Bool := logging P && !P.cap.lossy && valueFull P && decide (stagedShare true P.cap ≠ 0)

/-- CAPTURE_Q7_POP (R180, R184): the engine consumes one entry, or is held by the full value share; an entry of a step whose
window is open stays (R114). -/
def execCaptureQ7Pop (p : Fin 8) (t : Fin 64) (s : State) : Out :=
  .next (modPlain s p fun P =>
    if P.tiles[t].q7 = [] ∨ !q7Pops P.run.phase P.tiles[t] then P
    else if popStops P then { P with cap := { P.cap with stall := true } }
    else popCapture t P)

/-- Consumes up to `n` remaining entries of a tile, while the share has room. -/
def popAll : Nat → Fin 64 → Plain → Plain
  | 0, _, P => P
  | n + 1, t, P => if P.tiles[t].q7 = [] ∨ popStops P then P else popAll n t (popCapture t P)

/-- Row 2's consumption of the remaining entries by ascending tile (R180). -/
def consumeRest (P : Plain) : Plain := (List.finRange 64).foldl (fun P t => popAll 33 t P) P

/-- Entries remain that wait for room. -/
def restWaits (P : Plain) : Bool := P.tiles.toList.any fun T => !T.q7.isEmpty

/-! ## Row 2: the section (R180, R183) -/

/-- Writes the section of cycle `c`, orders 1-6, and clears what the cycle gathered (R183). The order of several UNDER records is not
stated: they are written by ascending tile, then as their queues first underran (DESIGN CHOICE, log entry 45). -/
def writeSection (c : Nat) (P : Plain) : Plain :=
  let P := if logging P then
      let C := P.cap
      let P := { P with cap := { C with sections := if capSize P = 0 then C.sections else ins C.sections c C.written,
                                        oldest := if capSize P = 0 then C.oldest else match C.sections with
                                          | [] => c
                                          | _ => C.oldest } }
      let P := emit false P (recCyc c P.sync.cur.epoch (keyCycle C c) C.started)
      let P := C.inputs.foldl (emit false) P
      let P := C.passIn.foldl (emit false) P
      let P := (List.finRange 64).foldl (fun P t => P.tiles[t].under.foldl (fun P j => emit false P (recUnder t j)) P) P
      let P := (List.finRange 64).foldl (fun P t => P.tiles[t].capRecs.foldl (fun P r => emit true P (leBytes 8 r.toNat)) P) P
      if C.discarded = 0 then P else emit true P (recGap C.discarded)
    else P
  let P := allTiles P fun _ T => { T with capRecs := [], under := [] }
  { P with cap := { P.cap with inputs := [], passIn := P.cap.passNext, passNext := [], discarded := 0 } }

/-- A key cycle begins: every reference entry becomes invalid (R182). -/
def clearRefs (P : Plain) : Plain := if keyCycle P.cap P.run.cycle then allTiles P fun _ T => { T with capRef := [] } else P

/-! ## Row 3: triggers (R188-R190) -/

/-- The 48-bit CYC of trigger entry `n`. -/
def trigCycle (C : Capture) (n : Nat) : Nat := (look 0 C.trigCyc n).toNat + fld (look 0 C.trigCtl n) 0 16 * 2 ^ 32

/-- Trigger entry `n` matches cycle `c` (R188). -/
def trigMatches (P : Plain) (c n : Nat) : Bool :=
  let C := P.cap
  let ctl := look 0 C.trigCtl n
  let key := look 0 C.trigKey n
  let value := !bit key 22 ||
    (P.tiles.toList.getD (fld key 0 6) {}).capSeen.any fun e =>
      decide (e.tag.toNat = fld key 6 16) && (e.data &&& look 0 C.trigMask n) == look 0 C.trigMatch n
  let cyc := match fld ctl 16 2 with
    | 0 => true
    | 1 => decide (c = trigCycle C n)
    | 2 => decide (trigCycle C n ≤ c)
    | _ => decide (c < trigCycle C n)
  bit ctl 18 && value && cyc

/-- PRIO of entry `n`. -/
def trigPrio (C : Capture) (n : Nat) : Nat := fld (look 0 C.trigCtl n) 20 3

/-- ACTION of entry `n`. -/
def trigAction (C : Capture) (n : Nat) : Nat := fld (look 0 C.trigCtl n) 23 3

/-- The winner of the matching entries (R189). -/
def trigWinner (C : Capture) : List Nat → Option Nat
  | [] => none
  | n :: r => match trigWinner C r with
    | none => some n
    | some m => if trigPrio C n < trigPrio C m then some m else some n

/-- The matching entries of cycle `c`, ascending. -/
def trigSet (P : Plain) (c : Nat) : List Nat := (List.range 32).filter (trigMatches P c)

/-- Logs the matches, clears one-shot entries and records the match set (R189). -/
def logTriggers (c : Nat) (ms : List Nat) (w : Option Nat) (P : Plain) : Plain :=
  let P := if logging P then ms.foldl (fun P n => emit false P (recTrig n (trigAction P.cap n) (w == some n))) P else P
  let ctl := ms.foldl (fun m n => let v := look 0 m n; if bit v 19 then put 0 m n (setBit v 18 false) else m) P.cap.trigCtl
  if ms = [] then P
  else { P with cap := { P.cap with trigCtl := ctl, hit := ms.foldl (fun h n => setBit h n true) 0, hitCyc := BitVec.ofNat 48 c } }

/-- The smallest target not yet passed is kept (R173). -/
def minTarget (old : Option Nat) (t : Nat) : Option Nat :=
  match old with
  | some u => some (min u t)
  | none => some t

/-- The target of a distributed hold requested at the boundary ending `c` (R173). -/
def holdTarget (P : Plain) (c : Nat) : Nat := c + P.sync.diam.toNat + 1

/-- The winner's action (R189), which is a DMA start event too (14 R298); in REPLAY only 0, 1, 2 and 6 are taken (R195). The second component: a hold is due at this
boundary. -/
def trigAct (c : Nat) (w : Option Nat) (P : Plain) : Plain × Bool :=
  match w with
  | none => (P, false)
  | some n =>
    let replaying := decide (P.run.mode = .replay)
    let P := if replaying && trigAction P.cap n ∈ [3, 4, 5] then P
      else { P with dma := { P.dma with events := P.dma.events ++ [{ code := 0x100 + n }] } }
    match trigAction P.cap n with
    | 0 => (P, true)
    | 1 => ({ P with sync := { P.sync with target := minTarget P.sync.target (holdTarget P c) } }, false)
    | 3 => (if replaying then P else { P with cap := { P.cap with started := true } }, false)
    | 4 => (if replaying then P else { P with cap := { P.cap with started := false } }, false)
    | 5 => (if replaying then P else { P with cap := { P.cap with due := true } }, false)
    | 6 => (event P 0x0030 n c, false)
    | _ => (P, false)

/-- Row 3 (R188-R190): pending START or STOP, then matches, then the winner's action. -/
def row3 (c : Nat) (P : Plain) : Plain × Bool :=
  let ms := trigSet P c
  let w := trigWinner P.cap ms
  let P := { P with cap := { P.cap with started := P.cap.pendStart.getD P.cap.started, pendStart := none } }
  let P := logTriggers c ms w P
  let P := allTiles P fun _ T => { T with capSeen := [] }
  trigAct c w P

/-- Writes of CAP_CTL (R190): START and STOP wait for row 3; a write of both has no effect on value capture. -/
def capCtlWrite (v : Word) (P : Plain) : Plain :=
  let C := { P.cap with noDelta := bit v 2, lossy := bit v 3, depth := BitVec.ofNat 4 (fld v 4 4) }
  let C := if bit v 0 != bit v 1 then { C with pendStart := some (bit v 0) } else C
  { P with cap := C }

/-- CAP_CTL_START (R190). -/
def execCapCtlStart (p : Fin 8) (v : Word) (s : State) : Out := .next (if awake s.plains[p] then modPlain s p (capCtlWrite (setBit v 0 true)) else s)

/-- CAP_CTL_STOP (R190). -/
def execCapCtlStop (p : Fin 8) (v : Word) (s : State) : Out := .next (if awake s.plains[p] then modPlain s p (capCtlWrite (setBit v 1 true)) else s)

/-! ## Checkpoints (R191-R193) -/

/-- Bytes of a checkpoint slot (R192). -/
abbrev slotBytes : Nat := 8458240

/-- NSLOT (R193). -/
def nSlot (B : Basin) : Nat := min 16 (look 0 B.areaSize 1 / 2065)

/-- The lowest-numbered free slot (R192). -/
def freeSlot (P : Plain) : Option Nat :=
  (List.range (nSlot P.basin)).find? fun k =>
    (find P.cap.dir k).isNone && (match P.cap.draining with | some d => d.slot != k | none => true)

/-- Basin offset of a checkpoint slot. -/
def slotBase (B : Basin) (k : Nat) : Nat := look 0 B.areaBase 1 * 4096 + slotBytes * k

/-- CKPT_CTL written (R191, R199). -/
def ckptCtlWrite (v : Word) (P : Plain) : Plain :=
  { P with cap := { P.cap with period := BitVec.ofNat 24 (fld v 0 24), keep := BitVec.ofNat 4 (fld v 24 4), due := P.cap.due || bit v 28 } }

/-- CKPT_CTL_NOW (R191). -/
def execCkptCtlNow (p : Fin 8) (v : Word) (s : State) : Out := .next (if awake s.plains[p] then modPlain s p (ckptCtlWrite (setBit v 28 true)) else s)

/-- EN bits of the trigger entries (R192). -/
def trigEnables (C : Capture) : Nat :=
  (List.range 32).foldl (fun a n => a + b2n (bit (look 0 C.trigCtl n) 18) * 2 ^ n) 0

/-- Unwrapped log position of the hold part of the boundary before cycle `c`: in REPLAY where the original run's log has it, else
the end of what has been written (R192, R195). -/
def holdPartOf (c : Nat) (P : Plain) : Nat := if logging P then P.cap.written else (find P.cap.holdParts c).getD P.cap.written

/-- The first 37 bytes of a checkpoint slot for start cycle `c` (R192). -/
def ckptHeader (c : Nat) (P : Plain) : List Byte :=
  leBytes 8 (c % 2 ^ 48) ++ leBytes 4 P.sync.cur.epoch.toNat ++ leBytes 8 P.sync.cur.tag.toNat ++ leBytes 4 P.basin.gen.toNat ++
  leBytes 8 (if capSize P = 0 then 0 else holdPartOf c P % capSize P) ++ leBytes 4 (trigEnables P.cap) ++ [BitVec.ofNat 8 (b2n P.cap.started)]

/-- The first `n` words of a store as a sparse copy with another unlisted value. -/
def recopy (d d' : Word) (n : Nat) (m : Sparse Word) : Sparse Word :=
  (List.range n).filterMap fun i => let v := look d m i; if v = d' then none else some (i, v)

/-- NF and FS of a tile go to its snapshot buffer (R192) (in part DEDUCED, log entry 46). -/
def snapshotTile (T : Tile) : Tile := { T with snapNf := recopy laneX 0 256 T.nf, snapFs := recopy laneX 0 32768 T.fs }

/-- The Basin controller completes every memory-model request already pushed (R143): `n` requests of tile `t`. A read
without a response credit (R120) cannot complete; it and the requests behind it stay in q0 across the mark (DESIGN CHOICE,
log entry 54). -/
def drainTile : Nat → Fin 8 → Fin 64 → State → State
  | 0, _, _, s => s
  | n + 1, p, t, s => drainTile n p t (completeRequest (receiveRequest s p t) p t)

/-- Requests of tile `t` in q0, received or served. -/
def requestsOf (P : Plain) (t : Fin 64) : Nat :=
  P.tiles[t].served.length + (P.basin.recv.filter fun x => decide (x.1 = t)).length + P.tiles[t].q0.length

/-- R143's drain over all tiles. What the controller has received takes effect first, in its order of receipt; what is still
in q0 is received by ascending tile, all of a tile's requests before the next tile's: one of the orders that R89 leaves open
(DESIGN CHOICE, log entry 54). -/
def drainQ0 (p : Fin 8) (s : State) : State :=
  (List.finRange 64).foldl (fun s t => drainTile (requestsOf s.plains[p] t) p t s) (settle s p)

/-- The outcome of a due checkpoint: 0 taken, 1 not permitted, 2 busy (R191). With no slot free, which a CKPT_CTL.KEEP raised after
admission can bring about, no result is stated: it is 2 (DESIGN CHOICE, log entry 46). -/
def ckptResult (ok : Bool) (P : Plain) : Nat :=
  if !ok then 1 else if P.cap.draining.isSome ∨ (freeSlot P).isNone then 2 else 0

/-- Ends the CHECKPOINT job once its checkpoint is taken (R191, R269). -/
def finishCkptJob (slot : Nat) (P : Plain) : Plain :=
  if P.cap.dueJob then finishJobOf .checkpoint { P with cap := { P.cap with dueJob := false } } 0 (slot % 16 + P.basin.gen.toNat * 2 ^ 32) else P

/-- Takes the checkpoint of the boundary before cycle `c` (R192) (in part DEDUCED, log entry 46). -/
def takeCkpt (p : Fin 8) (c slot : Nat) (s : State) : State :=
  modPlain (drainQ0 p s) p fun P =>
    let P := { P with basin := journalMark P.basin }
    let P := allTiles P fun _ => snapshotTile
    let P := if logging P then emit false P (recCkpt 0 slot P.basin.gen) else P
    let C := { P.cap with due := false, lastSlot := BitVec.ofNat 4 slot,
                          draining := some { slot := slot, header := ckptHeader c P, gen := P.basin.gen, start := c, epoch := P.sync.cur.epoch.toNat, spoiled := false } }
    finishCkptJob slot { P with cap := C }

/-- Row 7 for a due checkpoint of the boundary before cycle `c`; `ok` is CKPT_OK of every tile (R70, R191). -/
def row7 (p : Fin 8) (c : Nat) (ok : Bool) (s : State) : State :=
  let P := s.plains[p]
  if !(P.cap.due || P.cap.dueJob) then s
  else if ckptResult ok P = 0 then takeCkpt p c ((freeSlot P).getD 0) s
  else modPlain s p fun P =>
    let P := if logging P then emit false P (recCkpt (ckptResult ok P) 0 P.basin.gen) else P
    { P with cap := { P.cap with skip := satInc P.cap.skip } }

/-- The bytes of a drained checkpoint: header, then NF and FS of every tile (R192). -/
def ckptBytes (header : List Byte) (tiles : Vector Tile 64) : List Byte :=
  header ++ List.replicate (4096 - header.length) 0 ++
  tiles.toList.flatMap fun T =>
    (List.range 256).flatMap (fun i => leBytes 4 (look 0 T.snapNf i).toNat) ++
    (List.range 32768).flatMap (fun i => leBytes 4 (look 0 T.snapFs i).toNat)

/-- The oldest valid checkpoint: the one of the least start cycle. -/
def oldestCkpt : Sparse CkptEntry → Option (Nat × CkptEntry)
  | [] => none
  | x :: r => match oldestCkpt r with
    | none => some x
    | some y => if y.2.start < x.2.start then some y else some x

/-- More than KEEP valid checkpoints: the oldest is retired, and JRNL_TAIL advances (R193). -/
def retireOldest (P : Plain) : Plain :=
  let keep := max 1 P.cap.keep.toNat
  if P.cap.dir.length ≤ keep then P
  else match oldestCkpt P.cap.dir with
    | none => P
    | some (k, _) =>
      let dir := del P.cap.dir k
      let tail := match oldestCkpt dir with
        | some (_, e) => (find P.basin.genStart e.gen.toNat).getD P.basin.tail
        | none => P.basin.tail
      { P with cap := { P.cap with dir := dir }, basin := { P.basin with tail := tail } }

/-! ## External writes (R186) -/

/-- An offset inside a valid region or the transaction area. -/
def loggedOffset (B : Basin) (off : Nat) : Bool :=
  (winner B off).isSome ||
  (decide (look 0 B.areaBase 3 * 4096 ≤ off) && decide (off < (look 0 B.areaBase 3 + look 0 B.areaSize 3) * 4096))

/-- A range that meets a valid region or the transaction area, by 4 KiB block. -/
def loggedRange (B : Basin) (off n : Nat) : Bool := (pagesOf off n).any fun pg => loggedOffset B (max off (pg * 4096))

/-- Pieces of at most 32 KiB, ascending (R186). -/
def pieces : Nat → Nat → List Byte → List (Nat × List Byte)
  | 0, _, _ => []
  | k + 1, off, bs => if bs = [] then [] else (off, bs.take 32768) :: pieces k (off + 32768) (bs.drop 32768)

/-- External writes are logged: the Plain is in a stepping mode or in HOLD (R186), and not in REPLAY (R195). -/
def logsExt (P : Plain) : Bool := logging P && decide (capSize P ≠ 0) && (modeStepping P.run.mode || decide (P.run.mode = .hold))

/-- The completion of an external write of `n` bytes is held back: the 64 KiB share has no room for its record (R184). -/
def extWaits (P : Plain) (off n : Nat) : Bool :=
  logsExt P && loggedRange P.basin off n && !inputRoom P (16 + (min n 32768 + 7) / 8 * 8)

/-- The EXT_WR records of an external write (R186). -/
def logExt (origin off : Nat) (bs : List Byte) (P : Plain) : Plain :=
  if logsExt P && loggedRange P.basin off bs.length then (pieces (bs.length / 32768 + 1) off bs).foldl (fun P x => logInput P (recExtWr origin x.1 x.2)) P else P

/-- An external write of the Basin: the write, then its EXT_WR records (R186). False is the error response. -/
def extWrite (s : State) (p : Fin 8) (master origin off : Nat) (bs : List Byte) : State × Bool :=
  let r := basinWrite s p (basinMaster master) master off bs
  (modPlain r.1 p (logExt origin off bs), r.2)

/-! ## Reading the log back (R194, R195) -/

/-- The byte of a service area that the capture engine reads: all-ones data in an uncorrectable word (R141, 15 R310). -/
def engineByte (B : Basin) (off : Nat) : Byte := if look false B.ue (off / 8) then 0xFF else sget Config.basinFree B.data off

/-- `n` bytes of a service area, as the capture engine reads them. -/
def engineBytes (B : Basin) (off n : Nat) : List Byte := (List.range n).map fun i => engineByte B (off + i)

/-- The capture engine, M5, reads a range of the Basin: what is corrected is counted, and what is uncorrectable is reported
(R141). The engine goes on with the all-ones data (in part DEDUCED, log entry 46). -/
def engineNote (p : Fin 8) (off n : Nat) (s : State) : State :=
  let B := s.plains[p].basin
  let ws := wordsOf off n
  let s := modPlain s p fun P => { P with basin := noteCe (ws.filter fun w => look false B.ce w && !look false B.ue w).length P.basin }
  reportUes s p 5 5 (ws.filter (look false B.ue ·))

/-- Bytes that wait in staging, in order. -/
def stagedBytes (C : Capture) : List Byte := (C.staging ++ C.outq).flatMap (·.bytes)

/-- The log byte at an unwrapped position: in the capture area, or still in staging. -/
def logByte (P : Plain) (u : Nat) : Byte :=
  if u < P.cap.drained then engineByte P.basin (look 0 P.basin.areaBase 0 * 4096 + u % capSize P)
  else (stagedBytes P.cap).getD (u - P.cap.drained) 0

/-- The capture engine reads the log from one unwrapped position up to another, where it lies in the capture area. -/
def logNote (p : Fin 8) (a b : Nat) (s : State) : State :=
  let P := s.plains[p]
  let size := capSize P
  let base := look 0 P.basin.areaBase 0 * 4096
  let n := min (min b P.cap.drained - a) size
  let k := min n (size - a % size)
  if size = 0 then s else engineNote p base (n - k) (engineNote p (base + a % size) k s)

/-- `n` log bytes. -/
def logBytes (P : Plain) (u n : Nat) : List Byte := (List.range n).map fun i => logByte P (u + i)

/-- Length of a record from its first word. -/
def recLen (w : Nat) : Nat :=
  match w % 16 with
  | 1 => 16
  | 5 => 16 + (fldN w 8 24 + 7) / 8 * 8
  | _ => 8

/-- The records from an unwrapped position up to another. -/
def logRecords (P : Plain) : Nat → Nat → Nat → List (List Byte)
  | 0, _, _ => []
  | k + 1, u, stop =>
    if stop ≤ u then []
    else
      let n := recLen (leNat (logBytes P u 8))
      logBytes P u n :: logRecords P k (u + n) stop

/-- First word of a record. -/
def recHead (r : List Byte) : Nat := leNat (r.take 8)

/-- End of the log of a cycle's boundary: the start of the next section, or what has been written. -/
def sectionEnd (P : Plain) (c : Nat) : Nat := (find P.cap.sections (c + 1)).getD P.cap.written

/-- The records of a cycle's section, its hold part apart (R183). -/
def sectionRecords (P : Plain) (c : Nat) : List (List Byte) :=
  match find P.cap.sections c, find P.cap.holdParts (c + 1) with
  | some a, some b => logRecords P (b - a) a b
  | _, _ => []

/-- The records of the hold part of the boundary before cycle `c`. -/
def holdRecords (P : Plain) (c : Nat) : List (List Byte) :=
  match find P.cap.holdParts c with
  | some a => let stop := (find P.cap.sections c).getD P.cap.written; logRecords P (stop - a) a stop
  | none => []

/-- The capture engine reads the section of a cycle of the replay (R141, R195). -/
def noteSection (p : Fin 8) (c : Nat) (s : State) : State :=
  match find s.plains[p].cap.sections c, find s.plains[p].cap.holdParts (c + 1) with
  | some a, some b => logNote p a b s
  | _, _ => s

/-- The capture engine reads the hold part of the boundary before cycle `c` (R141, R195). -/
def noteHold (p : Fin 8) (c : Nat) (s : State) : State :=
  match find s.plains[p].cap.holdParts c with
  | some a => logNote p a ((find s.plains[p].cap.sections c).getD s.plains[p].cap.written) s
  | none => s

/-- Applies the EXT_WR records among log records (R194, R195). -/
def applyExtWr (p : Fin 8) (rs : List (List Byte)) (s : State) : State :=
  rs.foldl (fun s r => if recHead r % 16 = 5 then (basinWrite s p 5 5 (leNat ((r.drop 8).take 8)) ((r.drop 16).take (fldN (recHead r) 8 24))).1 else s) s

/-- The PASS_IN records of a cycle in arrival order (R195). -/
def passInRecords (P : Plain) (c : Nat) : List (List Byte) := (sectionRecords P c).filter fun r => recHead r % 16 = 4

/-- The log holds cycles `a` to `b` whole (R194). -/
def logReaches (P : Plain) (a b : Nat) : Bool :=
  decide (capSize P ≠ 0) && (find P.cap.sections a).isSome && (find P.cap.sections b).isSome && (find P.cap.holdParts (b + 1)).isSome &&
  decide (P.cap.oldest ≤ a)

/-- In REPLAY a checkpoint is due where the original run took one (R195). -/
def replayCkptDue (P : Plain) (c : Nat) : Bool :=
  (sectionRecords P c).any fun r => recHead r % 16 == 8 && fldN (recHead r) 4 4 == 0

/-- A branch (R197) keeps the first `n` bytes of staging. -/
def truncateStaging : Nat → List StageRec → List StageRec
  | _, [] => []
  | n, r :: rest => if r.bytes.length ≤ n then r :: truncateStaging (n - r.bytes.length) rest else []

/-- Leaving HOLD after a replay for a mode other than REPLAY starts a branch (R197): everything after the current boundary's
section is discarded, and what was logged in that HOLD follows it. `run.cycle` is the next cycle. -/
def branch (P : Plain) : Plain :=
  if !P.run.replayed then P
  else
    let c := P.run.cycle
    let stop := (find P.cap.sections c).getD P.cap.written
    let C := P.cap
    let drained := min C.drained stop
    let C := { C with
      written := stop
      drained := drained
      head := if capSize P = 0 then 0 else drained % capSize P
      staging := truncateStaging (stop - drained) C.staging
      sections := C.sections.filter fun x => decide (x.1 < c)
      holdParts := C.holdParts.filter fun x => decide (x.1 ≤ c)
      dir := C.dir.filter fun e => decide (e.2.start ≤ c)
      draining := C.draining.map fun d => if c < d.start then { d with spoiled := true } else d
      holdNew := [] }
    P.cap.holdNew.foldl (emit false) { P with cap := C, run := { P.run with replayed := false } }

end Sys2Proof.Machine
end

