-- ==== Sys2Proof/Machine/Targets.lean ====
section
/-! DEFINITION. The memory targets of a Plain's bus matrix: the address decode (15 R309), the host window (13 R259), the tile
configuration aperture (22 R425, R426), and reads and writes of a range by a master. SPAD and NVS are in Store.lean, registers
in Registers.lean. -/

namespace Sys2Proof.Machine

/-! ## Address decode (R309) -/

/-- A target of the matrix, with the offset inside it. -/
inductive Target where
  | spad (off : Nat) | basin (off : Nat) | regs (off : Nat) | rom (off : Nat) | nvs (off : Nat) | host (off : Nat) | tca (off : Nat)
  | unmapped
deriving DecidableEq, Repr

/-- Address decode of Plain internal addresses (R309). -/
def decodeAddr (a : Nat) : Target :=
  if a < 0xE00000 then .regs a
  else if a < 0x1000000 then .unmapped
  else if a < 0x2000000 then .spad (a - 0x1000000)
  else if a < 0x4000000 then .tca (a - 0x2000000)
  else if 0x10000000 ≤ a ∧ a < 0x11000000 then .spad (a - 0x10000000)
  else if 0x20000000 ≤ a ∧ a < 0x20040000 then .rom (a - 0x20000000)
  else if 0x40000000 ≤ a ∧ a < 0x42000000 then .nvs (a - 0x40000000)
  else if 0x1000000000 ≤ a ∧ a < 0x1600000000 then .basin (a - 0x1000000000)
  else if 0x8000000000 ≤ a ∧ a < 0x10000000000 then .host (a - 0x8000000000)
  else .unmapped

/-! ## Host memory (13 R256, R259) -/

/-- Bytes of host memory from a host bus address. -/
def hostBytes (s : State) (a n : Nat) : List Byte := readBytes Config.hostFree s.hostMem a n

/-- A write of host memory. -/
def hostPut (s : State) (a : Nat) (bs : List Byte) : State := { s with hostMem := writeBytes Config.hostFree s.hostMem a bs }

/-- Host bus address of an offset in a Plain's window (R259). -/
def windowAddr (P : Plain) (off : Nat) : Nat := (P.hiu.hwin.toNat + off) % 2 ^ 64

/-! ## The tile configuration aperture (22 R425, R426) -/

/-- A word of 64 bits from a 32-bit store whose unlisted words read `d`. -/
def pairAt (d : Word) (m : Sparse Word) (i : Nat) : Nat := (look d m i).toNat + (look d m (i + 1)).toNat * 2 ^ 32

/-- The 64-bit word of a tile at an aperture offset; `none` at an offset that the layout does not list. -/
def tcaWord (T : Tile) (off : Nat) : Option Nat :=
  if off < 0x400000 then some (fldN (look 0 T.store (off / 512)).toNat (64 * (off % 512 / 8)) 64)
  else if off < 0x400400 then some (pairAt laneX T.nf ((off - 0x400000) / 4))
  else if 0x420000 ≤ off ∧ off < 0x440000 then some (pairAt laneX T.fs ((off - 0x420000) / 4))
  else if 0x440000 ≤ off ∧ off < 0x440400 then some (pairAt 0 T.snapNf ((off - 0x440000) / 4))
  else if 0x440400 ≤ off ∧ off < 0x460400 then some (pairAt 0 T.snapFs ((off - 0x440400) / 4))
  else if 0x460400 ≤ off ∧ off < 0x480000 then some 0
  else none

/-- Writes 64 bits into a 32-bit store. -/
def pairSet (d : Word) (m : Sparse Word) (i : Nat) (v : Nat) : Sparse Word := put d (put d m i (w32 v)) (i + 1) (w32 (v / 2 ^ 32))

/-- Bits `64 n + 63 : 64 n` of a step word replaced (R426). -/
def stepSet (w : StepWord) (n v : Nat) : StepWord :=
  (w &&& ~~~((BitVec.ofNat 4096 (2 ^ 64 - 1)) <<< (64 * n))) ||| (BitVec.ofNat 4096 (v % 2 ^ 64) <<< (64 * n))

/-- An aperture write of 64 bits; false where the layout lists no writable word. -/
def tcaSet (T : Tile) (off v : Nat) : Tile × Bool :=
  if off < 0x400000 then
    let k := off / 512
    let n := off % 512 / 8
    ({ T with store := put 0 T.store k (stepSet (look 0 T.store k) n v)
              storeUe := put false T.storeUe (64 * k + n) false
              storeCe := put false T.storeCe (64 * k + n) false }, true)
  else if off < 0x400400 then ({ T with nf := pairSet laneX T.nf ((off - 0x400000) / 4) v }, true)
  else if 0x420000 ≤ off ∧ off < 0x440000 then ({ T with fs := pairSet laneX T.fs ((off - 0x420000) / 4) v }, true)
  else (T, false)

/-! ## Bulk reads by the loader and the DMA engine -/

/-- A read of `n` bytes from a memory target by a master that has the path; `none` is an error response. Host memory needs
Bus Master Enable (R256). -/
def memRead (s : State) (p : Fin 8) (master a n : Nat) : State × Option (List Byte) :=
  match decodeAddr a with
  | .spad off =>
    if meetsSecure off n then (modPlain s p fun P => noteBusError (denySecure P) master a 2, none)
    else tagRead p master a (spadRead s p master off n)
  | .basin off => tagRead p master a (basinRead s p (basinMaster master) master off n)
  | .nvs off => tagRead p master a (nvsRead s p master off n)
  | .host off => (s, if s.plains[p].hiu.fn.bme then some (hostBytes s (windowAddr s.plains[p] off) n) else none)
  | _ => (modPlain s p fun P => noteBusError P master a 1, none)

/-- A write of bytes to a memory target by a master that has the path; false is an error response. `toBasin` writes the
Basin. -/
def memStore (toBasin : State → Nat → List Byte → State × Bool) (s : State) (p : Fin 8) (master lvl a : Nat) (bs : List Byte) : State × Bool :=
  match decodeAddr a with
  | .spad off =>
    if meetsSecure off bs.length then (modPlain s p fun P => noteBusError (denySecure P) master a 2, false)
    else tagWrite p master a (spadWrite s p master off bs)
  | .basin off => tagWrite p master a (toBasin s off bs)
  | .nvs off =>
    if nvsPermits s.fuses.lc s.plains[p].mem master lvl off bs.length (bs.all (· == 0)) then tagWrite p master a (nvsWrite s p master off bs)
    else (modPlain s p fun P => noteBusError { P with mem := { P.mem with nvsStat := setBit P.mem.nvsStat 2 true } } master a 6, false)
  | .host off => if s.plains[p].hiu.fn.bme then (hostPut s (windowAddr s.plains[p] off) bs, true) else (s, false)
  | _ => (modPlain s p fun P => noteBusError P master a 1, false)

/-- A write of bytes whose Basin part is logged as an external write of `origin` (R186). -/
def memWrite (s : State) (p : Fin 8) (master lvl origin a : Nat) (bs : List Byte) : State × Bool :=
  memStore (fun s off bs => extWrite s p master origin off bs) s p master lvl a bs

/-! ## The log of a transfer (09 R186) -/

/-- Joins groups at consecutive addresses. -/
def joinRuns : List (Nat × List Byte) → List (Nat × List Byte)
  | [] => []
  | (a, bs) :: r => match joinRuns r with
    | (b, cs) :: t => if a + bs.length = b then (a, bs ++ cs) :: t else (a, bs) :: (b, cs) :: t
    | [] => [(a, bs)]

/-- Logs what a transfer has written to the Basin (R186, 14 R300) (in part DEDUCED, log entry 32). -/
def logRuns (origin : Nat) (w : List (Nat × List Byte)) (P : Plain) : Plain :=
  (joinRuns w).foldl (fun P x => match decodeAddr x.1 with
    | .basin off => logExt origin off x.2 P
    | _ => P) P

/-- What the transfers in execution have written and not yet logged is logged (R186): the Plain is about to enter REPLAY, in which
nothing is (R195) (in part DEDUCED, log entry 33). -/
def flushParts (P : Plain) : Plain :=
  let P := (List.finRange 16).foldl (fun P c => match P.dma.ch[c].cur with
    | some j => modCh (logRuns 1 j.done.part P) c fun C => { C with cur := some { j with done := { j.done with part := [] } } }
    | none => P) P
  P.hiu.xacts.foldl (fun P x => logRuns 0 x.done.part P)
    { P with hiu := { P.hiu with xacts := P.hiu.xacts.map fun x => { x with done := { x.done with part := [] } } } }

end Sys2Proof.Machine
end

