-- ==== Sys2Proof/Machine/Loader.lean ====
section
/-! DEFINITION. Images, the loader and the timing certificate (10), and the power arbiter's admission (17 R346-R349). -/

namespace Sys2Proof.Machine

/-! ## Power admission (17 R346-R349, 10 R207) -/

/-- The arbiter's budget at a voltage in mV, in units of 0.25 W (R346) (in part DEDUCED, log entry 52). -/
def budgetAt (host mv : Nat) : Nat := min (min host 3800) (3312 * mv / 10000)

/-- The 1 ms running average of VIN in mV (R346), which the reset of VIN_MV does not touch (in part DEDUCED, log entry 52). -/
def vinAvg (W : Power) : Nat := W.vinHist.sum / W.vinHist.length

/-- ARB_BUDGET (R346) (in part DEDUCED, log entry 52). -/
def arbBudget (s : State) : Nat := budgetAt s.power.host (vinAvg s.power)

/-- ARB_RSV (R346): P_DEV = 24 W and PLAIN_PWR_RSV of every Plain. -/
def arbRsv (s : State) : Nat := 96 + (s.plains.toList.map fun P => P.ldr.pwrRsv).sum

/-- Power admission of `rv` for Plain `p` in place of its present reservation (R207, R349). -/
def powerAdmits (s : State) (p : Fin 8) (rv : Nat) : Bool :=
  let mv := if s.power.vadm ≠ 0 then s.power.vadm.toNat else vinAvg s.power
  !s.power.under && decide (arbRsv s - s.plains[p].ldr.pwrRsv + rv ≤ budgetAt s.power.host mv)

/-! ## Fields of an image (R200-R203) -/

/-- Every byte of a range is zero. -/
def zeroAt (bs : List Byte) (o n : Nat) : Bool := (sub bs o n).all (· == 0)

/-- Part entry `i` of a manifest. -/
def partEntry (man : List Byte) (i : Nat) : List Byte := sub man (64 + 128 * i) 128

/-- LENGTH of a part of a kind (R202); that of SCHED is compared with L once the descriptor is read. -/
def lengthOk (kind n : Nat) : Bool :=
  match kind with
  | 1 => n == 384
  | 2 => n % 32768 == 0
  | 3 => n == 8454144
  | 4 => n == 4096
  | 5 => n == 2048
  | 6 => n == 664
  | _ => false

/-- Virtual Plain and kind of a part entry. -/
def partKey (e : List Byte) : Nat × Nat := (num e 0 2, num e 2 1)

/-- The manifest's form (R200, R202): the header, then every part entry. `none` when it holds; else the failing part
(in part DEDUCED, log entry 25). -/
def manifestBad (man : List Byte) (len : Nat) : Option Nat :=
  let nvp := num man 6 2
  let npart := num man 8 4
  let es := (List.range npart).map (partEntry man)
  if num man 0 4 ≠ 0x4D495856 ∨ num man 4 2 ≠ 1 ∨ nvp = 0 ∨ 4096 < nvp ∨ npart ≠ 6 * nvp ∨ !zeroAt man 14 2 ∨ !zeroAt man 20 44 ∨
     len < 64 + 128 * npart + 96 then some 0xFFFF
  else (List.range npart).find? fun i =>
    let e := es.getD i []
    let k := partKey e
    decide (nvp ≤ k.1) || k.2 == 0 || decide (6 < k.2) || decide (1 < num e 3 1) || !zeroAt e 4 4 || !zeroAt e 52 12 || !zeroAt e 112 16 ||
    !lengthOk k.2 (num e 16 8) || decide (len < num e 8 8 + num e 16 8) || ((es.take i).map partKey).contains k

/-- The part of virtual Plain `v` and a kind: its index. -/
def partIndex (man : List Byte) (v kind : Nat) : Nat :=
  ((List.range (num man 8 4)).find? fun i => partKey (partEntry man i) == (v, kind)).getD 0

/-! ## Digests (R201, R206) -/

/-- The plaintext of a part agrees with DIGEST (R206 step 3). -/
def digestOk (e pt : List Byte) : List Byte ⊕ Nat :=
  if leBytes 48 (Config.sha384 pt).toNat = sub e 64 48 then .inl pt else .inr 3

/-- The six parts of a virtual Plain in order of kind. -/
abbrev Parts := List (List Byte)

/-! ## Contents (R206 step 3) -/

/-- L of a Plain descriptor. -/
def descLen (d : List Byte) : Nat := num d 0 2

/-- Step word `k` of tile `i` (R202). -/
def imageStep (sched : List Byte) (len i k : Nat) : StepWord := BitVec.ofNat 4096 (num sched (512 * (len * i + k)) 512)

/-- A move slot that is empty and not canonical (R49). -/
def badSlot (sw : StepWord) (i : Nat) : Bool :=
  let b := swSlot sw i
  fldN b 21 3 == 0 && b.testBit 20 && b != 0x100000

/-- R68 and R105 for the step word of tile `t` at index `k` of `len`. -/
def badStepWord (t : Fin 64) (len k : Nat) (sw : StepWord) : Bool :=
  (List.range 24).any (badSlot sw) || swField sw 4032 64 != 0 || swField sw (3904 + 31) 97 != 0 ||
  swCend sw != decide (k + 1 = len) ||
  (List.range 5).any fun o =>
    let code := swColx sw o
    code == 7 || (decide (o < 4) && (neighbour t o).isNone && code != 0) ||
    (decide (1 ≤ code) && decide (code ≤ 4) && (neighbour t (code - 1)).isNone)

/-- Base and size of service area `a` in 4 KiB units. -/
def areaOf (d : List Byte) (a : Nat) : Nat × Nat := (num d (16 + 8 * a) 4, num d (20 + 8 * a) 4)

/-- Two ranges (base, size) overlap. -/
def overlaps (x y : Nat × Nat) : Bool := decide (0 < x.2) && decide (0 < y.2) && decide (x.1 < y.1 + y.2) && decide (y.1 < x.1 + x.2)

/-- The areas lie in the Basin and do not overlap (R129). -/
def areasOk (d : List Byte) : Bool :=
  (List.range 5).all fun a => ((areaOf d a).2 == 0 || decide ((areaOf d a).1 + (areaOf d a).2 ≤ 0x600000)) &&
    (List.range a).all fun b => !overlaps (areaOf d a) (areaOf d b)

/-- Region `i` of a REGION part. -/
def imageRegion (r : List Byte) (i : Nat) : BitVec 128 := BitVec.ofNat 128 (num r (16 * i) 16)

/-- R42 and R130 for a region. -/
def badRegion (d : List Byte) (e : BitVec 128) : Bool :=
  rgnValid e && (fld e 32 23 == 0 || decide (0x600000 < fld e 0 23 + fld e 32 23) ||
    (rgnTwoState e && fld e 66 2 == 0) || (List.range 5).any fun a => overlaps (fld e 0 23, fld e 32 23) (areaOf d a))

/-- CHAN_n of virtual link `j` in a CHAN part. -/
def imageChan (c : List Byte) (j n : Nat) : Word := w32 (num c (256 * j + 4 * n) 4)

/-- VLINK byte of virtual link `j`. -/
def vlink (d : List Byte) (j : Nat) : Byte := (sub d (56 + j) 1).headD 0

/-- Virtual link `j` is used. -/
def vlinkUsed (d : List Byte) (j : Nat) : Bool := (vlink d j).getLsbD 0

/-- The physical link bound to virtual link `j`, from the LOAD operand (R269). -/
def bound (bind : DWord) (j : Nat) : Option Nat := if bit bind (8 * j + 7) then some (fld bind (8 * j) 3) else none

/-- R204 for virtual link `j`. -/
def badBinding (plainsEn : BitVec 8) (p : Fin 8) (bind : DWord) (d : List Byte) (j : Nat) : Bool :=
  vlinkUsed d j && match bound bind j with
    | none => true
    | some l => (vlink d j).getLsbD 1 && decide (l < 6) || !farEnabled plainsEn p (Fin.ofNat 8 l) ||
      (List.range j).any fun i => vlinkUsed d i && bound bind i == some l

/-- Valid channels of virtual link `j`: tile and queue of each. -/
def chanTargets (c : List Byte) (j : Nat) : List Nat :=
  (List.range 64).filterMap fun n => let x := imageChan c j n; if bit x 8 then some (fld x 0 8) else none

/-- R163 for virtual link `j`. -/
def badChans (d c : List Byte) (j : Nat) : Bool :=
  let vs := ((List.range 64).map (imageChan c j)).filter fun x => bit x 8
  vlinkUsed d j && (decide (1536 < (vs.map fun x => fld x 9 11).sum) || vs.any (fun x => decide (fld x 9 11 < 6)) ||
    (List.range j).any fun i => vlinkUsed d i && (chanTargets c i).any fun t => (chanTargets c j).contains t)

/-- A trigger entry of a runtime configuration record: word `w` (0 MASK, 1 MATCH, 2 KEY, 3 CYC_LO, 4 CTL) of entry `n`. -/
def recTrigWord (r : List Byte) (n w : Nat) : Word := w32 (num r (24 + 20 * n + 4 * w) 4)

/-- Trigger action 7 in a record (R189). -/
def badTrigger (r : List Byte) : Bool := (List.range 32).any fun n => fld (recTrigWord r n 4) 23 3 == 7

/-- PACE below the grade's bound (R212). -/
def badPace (tstep : Nat) (r : List Byte) : Bool := decide (num r 6 2 < tstep)

/-- Nonzero reserved bytes of a Plain descriptor, and NOW, START or STOP in it (R202). -/
def descReserved (d : List Byte) : Bool :=
  !zeroAt d 2 6 || !zeroAt d 72 56 || (List.range 8).any (fun j => (vlink d j).toNat / 8 != 0) ||
  fldN (num d 64 4) 28 4 != 0 || fldN (num d 68 4) 0 2 != 0 || fldN (num d 68 4) 8 24 != 0

/-- Nonzero reserved bits of a REGION part (R202, Table — RGN_n). -/
def regionReserved (r : List Byte) : Bool :=
  (List.range 256).any fun i => let e := imageRegion r i; fld e 23 9 != 0 || fld e 55 9 != 0 || fld e 71 25 != 0

/-- Nonzero reserved bits of a CHAN part (R202, Table — CHAN_n). -/
def chanReserved (c : List Byte) : Bool :=
  (List.range 8).any fun j => (List.range 64).any fun n => fld (imageChan c j n) 20 12 != 0

/-- Nonzero reserved bits of PACE, KEY and CTL in a runtime configuration record (R203). -/
def recordReserved (r : List Byte) : Bool :=
  fldN (num r 4 4) 2 14 != 0 || (List.range 32).any fun n => fld (recTrigWord r n 2) 23 9 != 0 || fld (recTrigWord r n 4) 26 6 != 0

/-- The first tile with a bad step word. -/
def badTileOf (sched : List Byte) (len : Nat) : Option Nat :=
  ((List.finRange 64).find? fun t => (List.range len).any fun k => badStepWord t len k (imageStep sched len t.val k)).map (·.val)

/-- The contents of the parts of `v` (R206 step 3): `none` when they hold, else refusal code and DETAIL. `part` gives the
index of the part of a kind (in part DEDUCED, log entry 25). -/
def contentsBad (F : Fuses) (p : Fin 8) (epoch0 : Nat) (bind : DWord) (part : Nat → Nat) (pts : Parts) : Option (Nat × Nat) :=
  let d := pts.getD 0 []
  let sched := pts.getD 1 []
  let region := pts.getD 3 []
  let chan := pts.getD 4 []
  let cfg := pts.getD 5 []
  let len := descLen d
  if descReserved d then some (1, part 1)
  else if regionReserved region then some (1, part 4)
  else if chanReserved chan then some (1, part 5)
  else if recordReserved cfg then some (1, part 6)
  else if len = 0 ∨ 8192 < len then some (9, 0xFFFF)
  else if sched.length ≠ 32768 * len then some (1, part 2)
  else if !areasOk d then some (9, 0xFFFF)
  else if min 16 ((areaOf d 1).2 / 2065) < max 1 (fldN (num d 64 4) 24 4) + 1 then some (9, 0xFFFF)
  else if badPace F.tstepPs cfg then some (9, 0xFFFF)
  else if num cfg 0 4 ≠ epoch0 then some (9, 0xFFFF)
  else match badTileOf sched len with
    | some t => some (6, t)
    | none => match (List.range 256).find? fun i => badRegion d (imageRegion region i) with
      | some i => some (7, i)
      | none =>
        if badTrigger cfg then some (9, 0xFFFF)
        else match (List.range 8).find? (badBinding F.plainsEn p bind d) with
          | some j => some (5, j)
          | none => ((List.range 8).find? (badChans d chan)).map fun j => (8, j)

/-- Reservation of class `k` that a descriptor declares. -/
def descRsv (d : List Byte) (k : Nat) : Nat := num d (8 + 2 * k) 2

/-- ENV of segment `g` that a descriptor declares. -/
def descEnv (d : List Byte) (g : Nat) : Nat := num d (128 + 4 * g) 4

/-- R_v (R207): the largest envelope among the segments that the step words name. -/
def envelopeOf (d sched : List Byte) : Nat :=
  (List.range 64).foldl (fun m i => (List.range (descLen d)).foldl (fun m k => max m (descEnv d (swPseg (imageStep sched (descLen d) i k)))) m) 0

/-- In DEPLOYED, the first part of the image with ENC = 0 (R201) (in part DEDUCED, log entry 25). -/
def plainPart (lc : BitVec 3) (man : List Byte) : Option Nat :=
  if lc = 3 then (List.range (num man 8 4)).find? fun i => !((partEntry man i).getD 3 0).getLsbD 0 else none

/-- The reservations that an image declares and the current BASIN_RSV4 exceed the budget (07 R137). -/
def overBandwidth (d : List Byte) (B : Basin) : Bool :=
  decide (960 < descRsv d 0 + descRsv d 1 + descRsv d 2 + descRsv d 3 + look 0 B.rsv 4)

/-! ## Starting descriptors (13 R266, R269) -/

/-- The operation of descriptor `q` of ring `r` has begun: it is in progress, or its outcome stands. -/
def begun (P : Plain) (r : Fin 4) (q : Word) : Bool :=
  (P.hiu.done.any fun j => decide (j.ring = r) && j.seq == q) ||
  (P.hiu.xacts.any fun x => decide (r = 1) && x.seq == q) ||
  (decide (r = 2) && (match P.dma.ch[(15 : Fin 16)].cur with | some j => j.seq == q | none => false)) ||
  (decide (r = 0) && (match P.hiu.job with | some j => j.1 == q | none => false)) ||
  (decide (r = 3) && (match P.ldr.switch with | some w => w.seq == q | none => false))

/-- Descriptor `q` of ring `r` has started, is not complete, its operation has not begun, and those of its predecessors have
(R266) (in part DEDUCED, log entry 28). -/
def startable (P : Plain) (r : Fin 4) (q : Word) : Bool :=
  let R := P.hiu.rings[r]
  seqPrecedes R.cmp q && (q == R.start || seqPrecedes q R.start) && !begun P r q && (decide (r ≠ 0) || P.hiu.job.isNone) &&
  (List.range 32).all fun i => let x := R.cmp + 1 + w32 i; !seqPrecedes x q || begun P r x

/-- The descriptor carries operation `op`, and each listed operand, by its lowest byte and its length, has the listed value. -/
def operandsAre (d op : Nat) (fs : List (Nat × Nat × Nat)) : Bool :=
  descField d 4 1 == op && fs.all fun (x : Nat × Nat × Nat) => descField d x.1 x.2.1 == x.2.2

/-- Descriptor `q` of ring `r` has started, its bytes ask for operation `op` with these operands, and the firmware now begins
it (R261, R266) (in part DEDUCED, log entry 28). -/
def startedNow (P : Plain) (r : Fin 4) (q : Word) (op : Nat) (fs : List (Nat × Nat × Nat)) : Bool :=
  startable P r q && operandsAre (descOf P.hiu.rings[r] q) op fs

/-- The operand bits of an operation by lowest bit and width; none for an OP that no table lists (R269, R272, R273, R276)
(in part DEDUCED, log entry 28). -/
def operandBits (r : Fin 4) (op : Nat) : Option (List (Nat × Nat)) :=
  match r.val, op with
  | 0, 1 => some ([(128, 64), (192, 64), (256, 16)] ++ (List.range 8).flatMap fun j => [(320 + 8 * j, 3), (327 + 8 * j, 1)])
  | 0, 2 => some [(128, 8)]
  | 0, 3 => some []
  | 0, 4 => some [(128, 32)]
  | 0, 5 => some []
  | 0, 6 => some [(128, 4), (136, 1), (192, 48)]
  | 0, 7 => some []
  | 0, 8 => some [(128, 8), (136, 2)]
  | 1, 0 => some [(128, 48), (192, 64), (256, 32), (288, 32)]
  | 1, 1 => some [(128, 48), (192, 64), (256, 32), (288, 32)]
  | 1, 2 => some [(128, 48), (192, 64), (256, 32), (288, 32)]
  | 2, 1 => some [(128, 64), (192, 64), (256, 32)]
  | 2, 2 => some [(128, 64), (192, 64), (256, 32), (320, 64)]
  | 2, 3 => some [(128, 64), (192, 64), (256, 32)]
  | 3, 1 => some [(128, 48), (192, 64), (256, 32)]
  | 3, 2 => some [(128, 32), (192, 320)]
  | _, _ => none

/-- A descriptor is BAD_DESC by its form: an unknown OP, or a bit that is neither of the header nor of an operand (R261, R268);
the rows check the operands' values. -/
def badForm (r : Fin 4) (d : Nat) : Bool :=
  match operandBits r (descField d 4 1) with
  | none => true
  | some fs => ([(0, 41), (64, 64)] ++ fs).foldl (fun x (f : Nat × Nat) => x - fldN d f.1 f.2 * 2 ^ f.1) d != 0

/-- The status of a descriptor whose form is bad. In QUARANTINE every JOB but RESET and MODE VALLEY is NOT_PERMITTED (R280). -/
def badStatus (P : Plain) (r : Fin 4) (d : Nat) : Nat :=
  if P.run.mode = .quarantine ∧ r = 0 ∧ !(descField d 4 1 == 7 || (descField d 4 1 == 2 && descField d 16 1 == 0)) then 0x0C else 0x13

/-- A descriptor is allowed in the Plain's mode where it needs HOLD or a stepping mode; nothing but a reset is while the
Plain's links close for a reset, a replay or a change of mode (R368, R369, R372) (in part DEDUCED, log entry 36). -/
def jobMode (P : Plain) : Bool := (decide (P.run.mode = .hold) || modeStepping P.run.mode) && P.run.after.isNone

/-- Starts a JOB's operation. -/
def beginJob (P : Plain) (q : Word) (k : JobKind) : Plain := { P with hiu := { P.hiu with job := some (q, k) } }

/-! ## LOAD (R206, R208) -/

/-- Sets LDR_STAT.CODE and DETAIL. -/
def ldrCode (P : Plain) (code detail : Nat) : Plain := { P with ldr := { P.ldr with code := BitVec.ofNat 4 code, detail := BitVec.ofNat 16 detail } }

/-- The pending switch is discarded (R216 coincidences, R272). -/
def discardSwitch (P : Plain) : Plain :=
  match P.ldr.switch with
  | none => P
  | some w => outcome { P with ldr := { P.ldr with switch := none }, sync := { P.sync with pend := none } } 3 w.seq 0x15 0

/-- Step 5 of the load sequence (in part DEDUCED, log entry 25). After a replay it starts a branch (09 R197). -/
def enterLoad (P : Plain) (J : LoadJob) (rv : Nat) : Plain :=
  let P := discardSwitch (setMode (branch P) .load)
  let P := closeLinks P 4 false
  { P with ldr := { P.ldr with phase := 2, load := some J, pwrRsv := rv }
           run := { P.run with admitted := false }
           cap := { P.cap with dir := [], draining := none, due := false, dueJob := false } }

/-- A memory error that the loader met has left the Plain in mode `m`, bound for no other: a double fault takes it to
QUARANTINE (18 R388), and what the loader was doing ends there. -/
def stillIn (m : Mode) (P : Plain) : Bool := decide (P.run.mode = m) && P.run.after.isNone

/-- A link goes to OFF for a load; its held frames are released (R206 step 5). -/
def loadOff (L : Link) : Link :=
  { L with state := .off, replay := [], replayFrom := none, recoverTo := none, txWords := [], dueCycle := [], dueReturn := [], inbuf := [],
           chan := L.chan, en := false, foreign := false, closePend := none, thenReplay := false, openAt := none, ueLog := [],
           retest := false, discarded := [] }

/-- Physical link `l` after step 6 (R204, R206). -/
def loadLink (now : Nat) (bind : DWord) (d c : List Byte) (l : Fin 8) (L : Link) : Link :=
  match (List.range 8).find? fun j => vlinkUsed d j && bound bind j == some l.val with
  | none => loadOff L
  | some j => { loadOff L with
      en := true, foreign := (vlink d j).getLsbD 2, state := .train, lastRx := now, working := lanesOf l, attempts := 0
      chan := (List.range 64).foldl (fun m n => put 0 m n (imageChan c j n)) [] }

/-- A sparse store of 32-bit words from bytes, `d` unlisted. -/
def wordStore (d : Word) (n : Nat) (bs : List Byte) : Sparse Word :=
  (List.range n).filterMap fun i => let v := w32 (num bs (4 * i) 4); if v = d then none else some (i, v)

/-- A tile after step 7 (R206). -/
def loadTile (len : Nat) (sched state : List Byte) (i : Fin 64) (T : Tile) : Tile :=
  let st := sub state (132096 * i.val) 132096
  { store := (List.range len).filterMap fun k => let w := imageStep sched len i.val k; if w = 0 then none else some (k, w)
    snapNf := T.snapNf, snapFs := T.snapFs
    nf := wordStore laneX 256 (sub st 0 1024)
    fs := wordStore laneX 32768 (sub st 1024 131072)
    stat := T.stat, fault := T.fault, opstat := T.opstat, tqFlags := T.tqFlags }

/-- The loader's writes of BASIN_RSV0-3: cleared, then each written under the check that every write of them meets
(07 R140) (in part DEDUCED, log entry 25). -/
def loadRsv (d : List Byte) (B : Basin) : Basin :=
  [0, 1, 2, 3].foldl (fun B (k : Fin 5) => rsvWrite .load k (w32 (descRsv d k.val)) B)
    { B with rsv := [0, 1, 2, 3].foldl (fun m k => put 0 m k 0) B.rsv }

/-- Basin after step 6 (R45, R206). A mark that stands, and what has been recorded since, go on governing the journal: the
spec clears neither at a load (DESIGN CHOICE, log entry 54). -/
def loadBasin (d region : List Byte) (B : Basin) : Basin :=
  let rgn := (List.range 256).filterMap fun i => let e := imageRegion region i; if e = 0 then none else some (i, e)
  let B := loadRsv d B
  { B with
    recv := []
    areaBase := (List.range 5).foldl (fun m a => put 0 m a ((areaOf d a).1 % 2 ^ 23)) []
    areaSize := (List.range 5).foldl (fun m a => put 0 m a ((areaOf d a).2 % 2 ^ 23)) []
    rgn := rgn
    tags := B.tags.filter fun t => !(rgn.any fun e => rgnHas e.2 (512 * t.1))
    head := 0, tail := 0, genStart := [(B.gen.toNat, 0)] }

/-- Trigger entries, capture selection and pacing of a runtime configuration record (R203). -/
def applyRecord (r : List Byte) (P : Plain) : Plain :=
  let trig (w : Nat) : Sparse Word := (List.range 32).foldl (fun m n => put 0 m n (recTrigWord r n w)) []
  { P with
    cap := { P.cap with sel := BitVec.ofNat 64 (num r 8 8), winLo := BitVec.ofNat 16 (num r 16 2), winHi := BitVec.ofNat 16 (num r 18 2)
                        trigMask := trig 0, trigMatch := trig 1, trigKey := trig 2, trigCyc := trig 3, trigCtl := trig 4 }
    ldr := { P.ldr with paceEn := (num r 4 1).testBit 0, stepPs := num r 6 2, waitNs := num r 20 4 } }

/-- The configuration tag of an epoch (R203): the first eight bytes of SHA384(D ‖ H). -/
def tagOf (digest h : BitVec 384) : DWord := (Config.sha384 (leBytes 48 digest.toNat ++ leBytes 48 h.toNat)).extractLsb' 0 64

/-- Steps 6-9 of the load sequence: everything that a verified image writes. PSEG_ENV takes the low 12 bits of an ENV of the
descriptor: a segment that no step word names can declare more, and a later patch that names it is judged by what PSEG_ENV holds
(R216, R218; DESIGN CHOICE, log entry 25). -/
def commitImage (now tstep : Nat) (J : LoadJob) (man : List Byte) (pts : Parts) (P : Plain) : Plain :=
  let d := pts.getD 0 []
  let cfg := pts.getD 5 []
  let len := descLen d
  let digest := Config.sha384 (sub man 0 (64 + 128 * num man 8 4))
  let h := Config.sha384 cfg
  let epoch := w32 (num cfg 0 4)
  let vl := (List.range 8).foldl (fun a j => if vlinkUsed d j then a + (bound J.bind j).getD 0 * 2 ^ (3 * j) + 2 ^ (24 + j) else a) 0
  let P := { P with basin := loadBasin d (pts.getD 3 []) P.basin }
  let P := allLinks P (loadLink now J.bind d (pts.getD 4 []))
  let P := allTiles P (loadTile len (pts.getD 1 []) (pts.getD 2 []))
  let P := applyRecord cfg P
  let P := { P with
    sync := { P.sync with diam := BitVec.ofNat 8 (num man 13 1), cur := { epoch := epoch, tag := tagOf digest h, first := 0 },
                          prev := none, pend := none, target := none, lastCycle := none, heldAt := now }
    cap := { P.cap with period := BitVec.ofNat 24 (num d 64 3), keep := BitVec.ofNat 4 (fldN (num d 64 4) 24 4), noDelta := (num d 68 4).testBit 2,
                        lossy := (num d 68 4).testBit 3, depth := BitVec.ofNat 4 (fldN (num d 68 4) 4 4), head := 0, oldest := 0, staging := [], inputs := [],
                        passIn := [], passNext := [], outq := [], holdNew := [], discarded := 0, sections := [], holdParts := [], written := 0, drained := 0 }
    stall := { P.stall with bound := w32 (num cfg 20 4), acc := 0, since := none }
    ldr := { P.ldr with phase := 0, code := 0, detail := 0xFFFF, vplain := J.vplain, len := len, digest := digest, h := h, vlink := w32 vl, tdcMax := 0,
                        curBank := 0, env := (List.range 64).foldl (fun m g => put 0 m g (descEnv d g % 4096)) [],
                        epochs := [(epoch.toNat, { record := cfg, h := h, bank := 0 })], switch := none, load := none }
    run := { P.run with admitted := true, colDirty := false, cycle := 0, step := 0, phase := .stopped, paceRef := none, late := false, heldAt := none,
                        holdCmd := false, holdNext := false, holdAsks := false, stepsLeft := none, modePend := none, replayed := false }
    health := { P.health with incomplete := false } }
  finishJobOf .load (recompute tstep (setMode P .hold)) 0 0xFFFF

/-- LOAD_FAIL (R208), or KEY_MISSING where the key unit refuses the request (15 R329) (in part DEDUCED, log entry 25). -/
def loadFail (P : Plain) (code detail : Nat) : Plain :=
  let P := allLinks P fun _ => loadOff
  let P := setMode P .hold
  let P := { P with run := { P.run with admitted := false }
                    basin := { P.basin with rsv := [0, 1, 2, 3].foldl (fun m k => put 0 m k 0) P.basin.rsv }
                    ldr := { P.ldr with phase := 0, load := none, pwrRsv := 0x30 } }
  finishJobOf .load (ldrCode P code detail) code detail

/-! ## Epoch switches (R214-R216) -/

/-- Patch `i` of a switch record: tile, index, step word. -/
def patchOf (r : List Byte) (i : Nat) : Nat × Nat × StepWord :=
  let o := 668 + 520 * i
  (num r o 2, num r (o + 2) 2, BitVec.ofNat 4096 (num r (o + 8) 512))

/-- The patches of a record, in order. -/
def patchesOf (r : List Byte) : List (Nat × Nat × StepWord) := (List.range (num r 664 4)).map (patchOf r)

/-- R214's checks of a record: the refusal code, 0 when it passes (in part DEDUCED, log entry 26). -/
def recordCode (tstep : Nat) (P : Plain) (r : List Byte) : Nat :=
  let n := num r 664 4
  let ps := patchesOf r
  if r.length < 668 ∨ 4096 < n ∨ r.length ≠ 668 + 520 * n ∨ recordReserved r = true ∨ (List.range n).any fun i => !zeroAt r (668 + 520 * i + 4) 4 then 1
  else if badPace tstep r ∨ badTrigger r then 9
  else if ps.any fun x => decide (64 ≤ x.1) || decide (P.ldr.len ≤ x.2.1) then 9
  else if ps.any fun x => badStepWord (Fin.ofNat 64 x.1) P.ldr.len x.2.1 x.2.2 then 6
  else if ps.any fun x => decide (P.ldr.pwrRsv < look 0 P.ldr.env (swPseg x.2.2)) then 9
  else 0

/-- Overlay entries of a bank: index and step word. -/
def bankEntries (T : Tile) (bank : Nat) : List (Nat × StepWord) := (T.overlay.filter fun e => e.1 / 8192 == bank).map fun e => (e.1 % 8192, e.2)

/-- Banks in use (R216): the current, the pending, and those of epochs in which a valid checkpoint starts; one that is still draining
is not valid yet (09 R192) (in part DEDUCED, log entry 26). -/
def banksUsed (P : Plain) : List Nat :=
  let epochs := P.cap.dir.map (·.2.epoch)
  P.ldr.curBank :: (match P.ldr.switch with | some w => [w.bank] | none => []) ++
    epochs.filterMap fun e => (find P.ldr.epochs e).map (·.bank)

/-- The lowest free overlay bank. -/
def freeBank (P : Plain) : Option Nat := (List.range 4).find? fun b => b ∉ banksUsed P

/-- The merged overlay of a tile for a new bank (R216). -/
def mergedBank (T : Tile) (cur bank t : Nat) (ps : List (Nat × Nat × StepWord)) : Sparse StepWord :=
  let kept := T.overlay.filter fun e => e.1 / 8192 != bank
  let m := (bankEntries T cur).foldl (fun m e => ins m (8192 * bank + e.1) e.2) kept
  ps.foldl (fun m x => if x.1 = t then ins m (8192 * bank + x.2.1) x.2.2 else m) m

/-- Distinct patched indices of a bank. -/
def bankCount (m : Sparse StepWord) (bank : Nat) : Nat := (m.filter fun e => e.1 / 8192 == bank).length

/-- A switch whose target has passed (R171): row 4 of the boundary that ends n - 1 is over, or n is 0
(in part DEDUCED, log entry 26). -/
def switchLate (P : Plain) (n : Nat) : Bool := decide (n ≤ P.run.cycle)

/-- Row 4 (R20, R171, R214): the pending switch for cycle `c` takes effect. -/
def row4 (tstep c : Nat) (P : Plain) : Plain :=
  match P.ldr.switch with
  | none => P
  | some w =>
    if w.target ≠ c then P
    else
      let P := applyRecord w.record P
      let P := { P with
        ldr := { P.ldr with switch := none, h := w.h, curBank := w.bank, epochs := ins P.ldr.epochs w.epoch.toNat { record := w.record, h := w.h, bank := w.bank } }
        sync := { P.sync with prev := some P.sync.cur, cur := { epoch := w.epoch, tag := w.tag, first := w.target }, pend := none }
        stall := { P.stall with bound := w32 (num w.record 20 4) } }
      outcome (recompute tstep P) 3 w.seq 0 w.epoch.toNat

/-! ## Pacing (R212, R218) -/

/-- PACE_CTL written (R218). -/
def paceWrite (tstep : Nat) (v : Word) (P : Plain) : Plain :=
  if P.run.mode ≠ .load ∧ P.run.mode ≠ .hold then P
  else
    let P := if bit v 1 then { P with ldr := { P.ldr with paceRefused := false } } else P
    if fld v 16 16 < tstep then { P with ldr := { P.ldr with paceRefused := true } }
    else recompute tstep { P with ldr := { P.ldr with paceEn := bit v 0, stepPs := fld v 16 16 } }

/-- PACE_CTL_WRITE (R218). -/
def execPaceCtlWrite (p : Fin 8) (v : Word) (s : State) : Out := .next (modPlain s p (paceWrite s.fuses.tstepPs v))

end Sys2Proof.Machine
end

