-- ==== Sys2Proof/Machine/Replay.lean ====
section
/-! DEFINITION. Restore and replay (09 R194-R197): the journal applied backwards, the slot loaded, the log fed back in. -/

namespace Sys2Proof.Machine

/-! ## The journal, newest first (R144, R194) -/

/-- A 64-byte unit of the journal area, as it is read (R141). -/
def jrnlUnit (B : Basin) (u : Nat) : List Byte := engineBytes B (look 0 B.areaBase 2 * 4096 + 64 * (u % jrnlUnits B)) 64

/-- The records from unit `u` up to JRNL_HEAD, oldest first: block offset, tags, old content. -/
def jrnlRecords (B : Basin) : Nat → Nat → List (Nat × Nat × List Byte)
  | 0, _ => []
  | k + 1, u =>
    if u % jrnlUnits B = B.head then []
    else
      let h := jrnlUnit B u
      let full := num h 13 1 ≠ 0
      (num h 0 8, num h 12 1, if full then (List.range 64).flatMap fun i => jrnlUnit B (u + 1 + i) else []) ::
        jrnlRecords B k (u + if full then 65 else 1)

/-- Rewrites a 4 KiB block and its eight written-tags (R194 step 2). -/
def undoRecord (B : Basin) (r : Nat × Nat × List Byte) : Basin :=
  let B := if r.2.2 = [] then B else rawWrite r.1 r.2.2 B
  { B with tags := (List.range 8).foldl (fun m i => put false m (r.1 / 512 + i) (r.2.1.testBit i)) B.tags }

/-- The first record of generation `g`. -/
def genFirst (g : Nat) (B : Basin) : Nat := (find B.genStart g).getD B.head

/-- The journal from the first record of generation `g` to JRNL_HEAD is read (R141). -/
def noteJournal (p : Fin 8) (g : Nat) (s : State) : State :=
  let B := s.plains[p].basin
  let base := look 0 B.areaBase 2 * 4096
  let a := genFirst g B
  if B.head < a then engineNote p base (64 * B.head) (engineNote p (base + 64 * a) (64 * (jrnlUnits B - a)) s)
  else engineNote p (base + 64 * a) (64 * (B.head - a)) s

/-- Applies the records of generation `g` and newer, newest first; JRNL_HEAD moves back, JRNL_GEN is incremented and a new
mark is placed (R194 step 2). -/
def rewind (g : Nat) (B : Basin) : Basin :=
  let start := genFirst g B
  let B := if jrnlUnits B = 0 then B else (jrnlRecords B (jrnlUnits B) start).reverse.foldl undoRecord B
  journalMark { B with head := start, genStart := B.genStart.filter fun x => decide (x.1 ≤ g) }

/-! ## The slot (R192, R194) -/

/-- Bytes of a checkpoint slot, as they are read (R141). -/
def slotBytesAt (B : Basin) (k o n : Nat) : List Byte := engineBytes B (slotBase B k + o) n

/-- A tile loaded from a slot: NF and FS, every queue empty, transient state X (R62, R194 step 3). -/
def restoreTile (B : Basin) (k : Nat) (i : Fin 64) (T : Tile) : Tile :=
  let o := 4096 + 132096 * i.val
  { store := T.store, storeUe := T.storeUe, storeCe := T.storeCe, overlay := T.overlay, snapNf := T.snapNf, snapFs := T.snapFs
    stat := T.stat, fault := T.fault, opstat := T.opstat, tqFlags := T.tqFlags
    nf := wordStore laneX 256 (slotBytesAt B k o 1024)
    fs := wordStore laneX 32768 (slotBytesAt B k (o + 1024) 131072) }

/-- Trigger EN bits from a slot (R194 step 4). -/
def restoreEnables (en : Nat) (m : Sparse Word) : Sparse Word :=
  (List.range 32).foldl (fun m n => put 0 m n (setBit (look 0 m n) 18 (en.testBit n))) m

/-- Takes on an epoch whose record is kept: bank, record, wait bound (R216). -/
def takeEpoch (tstep epoch : Nat) (P : Plain) : Plain :=
  match find P.ldr.epochs epoch with
  | none => P
  | some e =>
    let P := applyRecord e.record P
    recompute tstep { P with ldr := { P.ldr with curBank := e.bank, h := e.h }, stall := { P.stall with bound := w32 (num e.record 20 4) } }

/-- A link of a Plain that starts a replay (R194 step 1, R177): a restore closes each ACTIVE link, and a non-foreign one
reopens; foreign links are kept closed in every replay (in part DEDUCED, log entry 24). -/
def replayLink (restoring : Bool) (L : Link) : Link :=
  if L.foreign then (match L.state with
    | .active | .openWait | .train | .retrain => startClose 4 false L
    | _ => L)
  else if restoring && decide (L.state = .active) then { startClose 4 false L with thenReplay := true } else L

/-- What a link holds of words for the queues is emptied with them (06 R123): all of it at a restore; at any replay that of a
foreign link, whose words the log brings instead (in part DEDUCED, log entry 24). -/
def emptyIn (restoring : Bool) (L : Link) : Link := if restoring || L.foreign then { L with inbuf := [] } else L

/-- Steps 2 to 4 of a restore of slot `k` (R194) (in part DEDUCED, log entry 46). -/
def restoreSlot (tstep k : Nat) (e : CkptEntry) (P : Plain) : Plain :=
  let P := { P with basin := { rewind e.gen.toNat P.basin with recv := [] }
                    cap := { P.cap with dir := P.cap.dir.filter fun x => decide (x.2.gen.toNat ≤ e.gen.toNat), draining := none } }
  let h := slotBytesAt P.basin k 0 37
  let P := allTiles P fun i => restoreTile P.basin k i
  let epoch := num h 8 4
  let P := takeEpoch tstep epoch P
  { P with
    cap := { P.cap with trigCtl := restoreEnables (num h 32 4) P.cap.trigCtl, started := (num h 36 1).testBit 0, pendStart := none,
                        inputs := [], passIn := [], passNext := [], discarded := 0 }
    sync := { P.sync with cur := { epoch := w32 epoch, tag := BitVec.ofNat 64 (num h 12 8), first := e.start }, prev := none, target := none, lastCycle := none }
    run := { P.run with cycle := e.start, step := 0, colDirty := false, heldAt := none, paceRef := none, late := false, holdNext := false, holdAsks := false }
    health := { P.health with incomplete := false } }

/-- The restore of slot `k` (R194 steps 2-5), with what it reads of the journal, the slot and the log (R141). -/
def restore (tstep : Nat) (p : Fin 8) (k : Nat) (e : CkptEntry) (s : State) : State :=
  let s := settle s p
  let s := engineNote p (slotBase s.plains[p].basin k) slotBytes (noteJournal p e.gen.toNat s)
  let s := noteHold p e.start (modPlain s p (restoreSlot tstep k e))
  applyExtWr p (holdRecords s.plains[p] e.start) s

/-! ## Starting a replay (R194) -/

/-- The start cycle of a replay. -/
def replayFirst (P : Plain) (k : Nat) (fromSlot : Bool) : Option Nat :=
  if fromSlot then (find P.cap.dir k).map (·.start) else some P.run.cycle

/-- Why a replay fails: 2 log incomplete, for every replay where the capture area is absent (R180); 1 slot invalid, 3 stop
before the start cycle; 0 when it can start (in part DEDUCED, log entry 46). -/
def replayError (P : Plain) (k : Nat) (fromSlot : Bool) (stop : Nat) : Nat :=
  if capSize P = 0 then 2
  else match replayFirst P k fromSlot with
    | none => 1
    | some a => if stop < a then 3 else if !logReaches P a stop then 2 else 0

/-- RPL_STAT.ERR set, and the Plain left in HOLD (R194). -/
def failReplay (err : Nat) (P : Plain) : Plain :=
  finishJobOf .replay { P with cap := { P.cap with rplErr := BitVec.ofNat 3 err, rplActive := false }, run := { P.run with after := none } } 0x17 err

/-- A replay begins once the links that it closes have closed (R194): the restore when asked, then REPLAY. A restore whose
reads or writes meet the second fault of a window ends in QUARANTINE (in part DEDUCED, log entry 46). What the transfers in
execution have already written is logged first (14 R300) (in part DEDUCED, log entry 33). -/
def replayBegin (k : Nat) (restoring : Bool) (s : State) (p : Fin 8) : State :=
  let s := modPlain s p fun P =>
    { (allLinks (flushParts P) fun _ => emptyIn restoring) with run := { P.run with after := none, paceRef := none, late := false }, cap := { P.cap with holdNew := [] } }
  let s : State := match restoring, find s.plains[p].cap.dir k with
    | true, some e => restore s.fuses.tstepPs p k e s
    | true, none => modPlain s p (failReplay 1)
    | false, _ => s
  let P := s.plains[p]
  if P.run.mode ≠ .hold ∨ P.run.after.isSome ∨ !P.cap.rplActive then s
  else modPlain s p fun P =>
    let P := setMode P .replay
    { P with cap := { P.cap with rplNext := 0 }, run := { P.run with phase := .row9, row9At := s.timeNs, replayed := true } }

/-- A replay from HOLD (R194): RPL_STAT.ERR, or the links close and the rest follows. -/
def replayGo (s : State) (p : Fin 8) (k : Nat) (fromSlot : Bool) (stop : BitVec 48) : State :=
  let err := replayError s.plains[p] k fromSlot stop.toNat
  let s := modPlain s p fun P => { P with cap := { P.cap with rplSlot := BitVec.ofNat 4 k, rplRestore := fromSlot, rplStop := stop, rplErr := 0 } }
  if err ≠ 0 then modPlain s p (failReplay err)
  else
    let s := modPlain s p fun P =>
      let P := allLinks P fun _ => replayLink fromSlot
      { P with run := { P.run with after := some (.replay k fromSlot) }, cap := { P.cap with rplActive := true } }
    if anyClosing s.plains[p] then s else replayBegin k fromSlot s p

/-- What waits for the links to close goes on when none closes any longer: a reset, QUARANTINE or VALLEY, or a replay (R194)
(in part DEDUCED, log entry 21). -/
def linksClosed (s : State) (p : Fin 8) : State :=
  match s.plains[p].run.after with
  | some (.replay k restoring) => if anyClosing s.plains[p] then s else replayBegin k restoring s p
  | _ => afterClose s p

/-- RPL_CTL written; GO starts a replay, from HOLD only (R194, R373, R387). -/
def rplCtlWrite (s : State) (p : Fin 8) (v : Word) : State :=
  let P := s.plains[p]
  if !bit v 5 ∨ P.run.mode ≠ .hold ∨ P.run.after.isSome ∨ (!bit v 4 ∧ (P.run.colDirty ∨ P.health.incomplete)) then
    modPlain s p fun P => { P with cap := { P.cap with rplSlot := BitVec.ofNat 4 (fld v 0 4), rplRestore := bit v 4 } }
  else replayGo s p (fld v 0 4) (bit v 4) P.cap.rplStop

/-- RPL_CTL_GO (R194). -/
def execRplCtlGo (p : Fin 8) (v : Word) (s : State) : Out := .next (if awake s.plains[p] then rplCtlWrite s p (setBit v 5 true) else s)

/-! ## Feeding the log back in (R195) -/

/-- The next PASS_IN record of the replayed cycle. -/
def nextPassIn (P : Plain) : Option Nat := ((passInRecords P P.run.cycle)[P.cap.rplNext]?).map recHead

/-- Every PASS_IN word that is first counted in the depth of the coming step has been pushed. -/
def replayReady (P : Plain) : Bool :=
  decide (P.run.mode ≠ .replay) || match nextPassIn P with
    | none => true
    | some w => decide (P.run.step < fldN w 13 13)

/-- Pushes a word into q2-q5 of a tile. -/
def pushIn (T : Tile) (q : Nat) (w : Word) : Tile :=
  match q with
  | 0 => { T with q2 := T.q2 ++ [w] }
  | 1 => { T with q3 := T.q3 ++ [w] }
  | 2 => { T with q4 := T.q4 ++ [w] }
  | _ => { T with q5 := T.q5 ++ [w] }

/-- Words in q2-q5. -/
def inDepth (T : Tile) (q : Nat) : Nat :=
  match q with
  | 0 => T.q2.length
  | 1 => T.q3.length
  | 2 => T.q4.length
  | _ => T.q5.length

/-- REPLAY_LOG_INJECT (R195): the next logged word enters its destination queue before the step whose depth first counts it. -/
def execReplayLogInject (p : Fin 8) (s : State) : Out :=
  let P := s.plains[p]
  if P.run.mode ≠ .replay ∨ P.run.phase ≠ .stepping then .next s
  else match nextPassIn P with
    | none => .next s
    | some w =>
      if P.run.step < fldN w 13 13 then .next s
      else
        let m := look 0 P.links[Fin.ofNat 8 (fldN w 4 3)].chan (fldN w 7 6)
        let t := Fin.ofNat 64 (fld m 0 6)
        if 8 ≤ inDepth P.tiles[t] (fld m 6 2) then .next s
        else .next (modPlain s p fun P =>
          let P := modTile P t fun T => pushIn T (fld m 6 2) (w32 (w / 2 ^ 32))
          { P with cap := { P.cap with rplNext := P.cap.rplNext + 1 } })

/-- An epoch whose record is kept gets its overlay again: that of the epoch in force merged with its patches, in a free bank
(R216); its old bank where none is free. -/
def rebuildEpoch (epoch : Nat) (P : Plain) : Plain :=
  match find P.ldr.epochs epoch, freeBank P with
  | some e, some bank =>
    let P := allTiles P fun t T => { T with overlay := mergedBank T P.ldr.curBank bank t.val (patchesOf e.record) }
    { P with ldr := { P.ldr with epochs := ins P.ldr.epochs epoch { e with bank := bank } } }
  | _, _ => P

/-- In REPLAY an epoch switch of the original run takes effect where the log shows it (R196, R216). -/
def replayEpoch (tstep c : Nat) (P : Plain) : Plain :=
  match (sectionRecords P c).head? with
  | none => P
  | some r =>
    let e := num r 8 4
    if e = P.sync.cur.epoch.toNat ∨ (find P.ldr.epochs e).isNone then P
    else
      let P := takeEpoch tstep e (rebuildEpoch e P)
      { P with sync := { P.sync with prev := some P.sync.cur, cur := { epoch := w32 e, tag := tagOf P.ldr.digest P.ldr.h, first := c } } }

end Sys2Proof.Machine
end

