-- ==== Sys2Proof/Machine/Boundary.lean ====
section
/-! DEFINITION. The boundary of a design cycle (01 R20-R22), the release of the next one (R172, R212, R273, R274, R340), and
the release of a step (05 R110). -/

namespace Sys2Proof.Machine

/-! ## Steps -/

/-- STEP_RELEASE (R110): the next step executes in all tiles; a WAIT that does not hold keeps the Plain at it (R115), and a
step word that the schedule store cannot deliver, or whose CEND disagrees, abandons the cycle (R69, R387). -/
def execStepRelease (p : Fin 8) (lastCols : BitVec 9) (s : State) : Out :=
  if !canStep s.plains[p] || !replayReady s.plains[p] then .next s
  else
    let s := modPlain s p flagCorrections
    let P := s.plains[p]
    match badTile P with
    | some t => .next (valleyFollows (raiseFault (modPlain s p flagMarks) p 0x01 t.val fun s => modPlain s p fun P => abandonCycle s.fuses.tstepPs P s.timeNs) p)
    | none =>
      if allWaitsMet P then .next (modPlain s p (executeStep (skipCol s.fuses p) s.timeNs lastCols))
      else .next (modPlain s p (startWait s.timeNs))

/-! ## CYCLE frames (08 R153, R169) -/

/-- The CYCLE frame numbered `c` (R153, R169). -/
def cycleFrame (P : Plain) (c : Nat) : Frame :=
  mkFrame 2 6 (b2n P.sync.target.isSome + paceFlags P)
    (cyclePayload c P.sync.cur.epoch P.sync.cur.tag (P.sync.target.getD 0))

/-- A frame with REPEAT set. -/
def asRepeat (f : Frame) : Frame := { f with flags := f.flags ||| 64 }

/-- A CYCLE frame becomes due on every ACTIVE link, or only on the non-foreign ones. -/
def sendCycle (nonForeign : Bool) (f : Frame) (P : Plain) : Plain :=
  allLinks P fun _ L => if L.state = .active ∧ !(nonForeign && L.foreign) then { L with dueCycle := L.dueCycle ++ [f] } else L

/-- Raises or adopts a distributed hold after row 5: the request is carried at once in a REPEAT frame and in every later
CYCLE frame (R173). -/
def raiseHold (t : Nat) (P : Plain) : Plain :=
  let target := minTarget P.sync.target t
  let f := withTarget (latestCycle P) (target.getD t)
  sendCycle true (asRepeat f) { P with sync := { P.sync with target := target, lastCycle := some f } }

/-! ## Rows 1 and 2 (R20, R62, R63, R124, R125, R180) -/

/-- A fault recovery is in progress (10 R211). -/
def recovering (P : Plain) : Bool :=
  P.health.winOpen || P.links.toList.any fun L => L.en && (decide (L.state = .retrain) || L.recoverTo.isSome)

/-- A fault recovery has overlapped the cycle that ends (10 R211): one that is in progress, or one that began and ended within it. -/
def overlapped (P : Plain) : Bool := recovering P || P.run.recovered || P.links.toList.any fun L => L.en && L.recovered

/-- CKPT_OK in the step word at L - 1 of every tile (R70). -/
def ckptOkAll (P : Plain) : Bool :=
  P.tiles.toList.all fun T => swCkptOk (stepWord P.ldr.curBank T (P.ldr.len - 1))

/-- SCHED_FAULT for every tile whose late results CHECKED mode reports (R63, R71). -/
def lateEvents (P : Plain) : Plain :=
  if P.run.mode = .checked then
    (List.finRange 64).foldl (fun Q t => if P.tiles[t].inflight = [] then Q
      else event Q 0x0010 t.val (retireTile true P.tiles[t]).fault.toNat) P
  else P

/-- QS_STALL_LAST, QS_STALL_MAX, QS_OVER_CNT and STALL_OVER as the boundary begins (R124, R125). -/
def endStall (P : Plain) : Plain :=
  let S := storeStall P.stall
  let isOver := decide (P.stall.bound.toNat < P.stall.acc) && !overlapped P
  let P := { P with stall := if isOver && !S.freeze then { S with overCnt := satInc S.overCnt } else S }
  if isOver then event P 0x0012 0 P.stall.last.toNat else P

/-- Row 1 (R20): the last step retires. -/
def row1 (now : Nat) (P : Plain) : Plain :=
  let checked := decide (P.run.mode = .checked)
  let P := allTiles (lateEvents P) fun _ => retireTile checked
  endStall { P with
    health := { P.health with obsRow1 := some now }
    run := { P.run with row1 := some (P.run.holdCmd, ckptOkAll P, P.cap.dueJob) } }

/-! ## Rows 5 to 8 -/

/-- A hold that a fault has made due at this boundary is carried to the peers as a request with R173's target (19 R391)
(in part DEDUCED, log entry 55). -/
def askPeers (c : Nat) (P : Plain) : Plain :=
  if P.run.holdAsks then
    { P with sync := { P.sync with target := minTarget P.sync.target (holdTarget P c) }, run := { P.run with holdAsks := false } }
  else P

/-- Row 5 (R169). -/
def row5 (c now : Nat) (P : Plain) : Plain :=
  let P := askPeers c P
  let f := cycleFrame P (c + 1)
  let P := allLinks (sendCycle false f P) fun _ L => { L with joinLate := false }
  { P with sync := { P.sync with lastCycle := some f, heldAt := now } }

/-- Row 6 (R170, R173): check failures since the last row 6. The second component: a hold is due at the next boundary. -/
def row6 (c : Nat) (P : Plain) : Plain × Bool :=
  let mismatch := P.links.toList.any (·.failMismatch)
  let skew := P.links.toList.any (·.failSkew)
  let bad := mismatch || skew
  let stat := if bad then setBit P.sync.stat 0 true else P.sync.stat
  let stat := if skew then setBit stat 1 true else stat
  let P := allLinks { P with sync := { P.sync with stat := stat } } fun _ L => { L with failMismatch := false, failSkew := false }
  (if bad then raiseHold (holdTarget P c) P else P, bad)

/-- T_dc at the end of row 6, against the certificate under which the cycle ran (R209-R211) (in part DEDUCED, log entry 20). -/
def measure (now : Nat) (cert : Word) (P : Plain) : Plain :=
  let t := w32 (min (now - P.run.cycleStart) (2 ^ 32 - 1))
  let isOver := decide (cert < t) && !overlapped P
  let P := { P with ldr := { P.ldr with tdcLast := t, tdcMax := if P.ldr.tdcMax < t then t else P.ldr.tdcMax,
                                        overCnt := if isOver then satInc P.ldr.overCnt else P.ldr.overCnt } }
  if isOver then event P 0x0013 0 t.toNat else P

/-- The periodic checkpoint (R191); in REPLAY, the one that the original run took (R195). -/
def periodic (c : Nat) (P : Plain) : Plain :=
  if P.run.mode = .replay then { P with cap := { P.cap with due := replayCkptDue P c } }
  else if P.cap.period ≠ 0 ∧ (c + 1) % P.cap.period.toNat = 0 then { P with cap := { P.cap with due := true } } else P

/-- Row 7, in which a CHECKPOINT job takes part only when it was accepted before row 1 (R191). -/
def row7Jobs (p : Fin 8) (c : Nat) (ok jobDue : Bool) (s : State) : State :=
  if s.plains[p].cap.dueJob && !jobDue then
    modPlain (row7 p c ok (modPlain s p fun P => { P with cap := { P.cap with dueJob := false } })) p fun P => { P with cap := { P.cap with dueJob := true } }
  else row7 p c ok s

/-- The hold part of the boundary begins (R183 order 9); XACT transfers of rows 7-9 become active (R273). -/
def afterRow7 (c : Nat) (P : Plain) : Plain :=
  let P := if logging P ∧ capSize P ≠ 0 then { P with cap := { P.cap with holdParts := ins P.cap.holdParts (c + 1) P.cap.written } } else P
  let act (x : Xact) : Xact := if (x.write && x.cycle == c + 1) || (!x.write && x.cycle == c) then { x with active := true } else x
  { P with hiu := { P.hiu with xacts := P.hiu.xacts.map act } }

/-- A checkpoint that an abort withdrew completes ABORTED (13 R270). -/
def abortCkpt (P : Plain) : Plain := if jobAborted .checkpoint P then finishJob P 0x11 0 else P

/-- The replay has executed RPL_STOP (R194). -/
def replayDone (P : Plain) : Plain :=
  finishJobOf .replay { P with cap := { P.cap with rplActive := false, rplDone := true } } 0 0

/-- A pending MODE takes effect (18 R368, 16 R339, 10 R210). -/
def applyMode (tstep : Nat) (P : Plain) : Plain :=
  match P.run.modePend with
  | none => P
  | some .valley => P
  | some m =>
    let P := finishJobOf .mode (setMode P m) 0 0
    let P := { P with run := { P.run with modePend := none }, pio := { P.pio with credit := if m = .bridge then 0 else P.pio.credit } }
    recompute tstep P

/-- Row 9 begins. -/
def enterRow9 (now : Nat) (P : Plain) : Plain :=
  { P with run := { P.run with phase := .row9, row9At := now, step := 0 }, sync := { P.sync with gateNs := 0 } }

/-- Row 8 (R21, R22, R173): HOLD when one is due, else a pending mode, then row 9. `c` has ended; `due` is what rows 3 and 6
and the last boundary made due, `next` what row 6 makes due at the next one. -/
def row8 (tstep c now : Nat) (due next : Bool) (P : Plain) : Plain :=
  let stop := decide (P.run.mode = .replay) && decide (P.cap.rplStop.toNat ≤ c)
  let left := P.run.stepsLeft.map (· - 1)
  let target := match P.sync.target with
    | some t => decide (t ≤ c)
    | none => false
  let P := abortCkpt { P with run := { P.run with cycle := c + 1, stepsLeft := left, row1 := none, holdNext := next } }
  if due || stop || target || left == some 0 then
    let P := if stop then replayDone P else { P with cap := { P.cap with rplActive := false } }
    let P := enterHold P
    recompute tstep { P with run := { P.run with step := 0 } }
  else enterRow9 now (applyMode tstep P)

/-- Row 2's EXT_WR records of a replay, and rows 3 to 8, once the section of the cycle is written (R20)
(in part DEDUCED, log entry 20). -/
def finishRows (s : State) (p : Fin 8) : State :=
  let P := s.plains[p]
  let c := P.run.cycle
  let tstep := s.fuses.tstepPs
  let r1 := P.run.row1.getD (false, false, false)
  let before := P.run.holdNext
  let s := if P.run.mode = .replay then applyExtWr p (sectionRecords P c) s else s
  let r3 := row3 c s.plains[p]
  let P := if r3.1.run.mode = .replay then replayEpoch tstep (c + 1) (row4 tstep (c + 1) r3.1) else row4 tstep (c + 1) r3.1
  let r6 := row6 c (row5 c s.timeNs P)
  let s := modPlain s p fun Q => periodic c (measure s.timeNs Q.ldr.certNs r6.1)
  let s := row7Jobs p (c + 1) r1.2.1 r1.2.2 s
  let s := modPlain s p (afterRow7 c)
  let s := if s.plains[p].run.mode = .replay then applyExtWr p (holdRecords s.plains[p] (c + 1)) (noteHold p (c + 1) s) else s
  if !modeStepping s.plains[p].run.mode || s.plains[p].run.after.isSome then s
  else valleyFollows (modPlain s p (row8 tstep c s.timeNs (r1.1 || before || r3.2) r6.2)) p

/-- With LOSSY = 0 the full value share holds entries or value records back at row 2 (R184). -/
def valueWaits (P : Plain) : Bool := !P.cap.lossy && (restWaits P || (P.cap.outq.head?).any (·.value))

/-- Row 2 waits for room in staging; CAP_STAT.STALL is set where the value share is what it waits for (R184). -/
def waitRow2 (P : Plain) : Plain := { P with run := { P.run with phase := .row2 }, cap := { P.cap with stall := P.cap.stall || valueWaits P } }

/-- Row 2 (R180, R184): the remaining entries are consumed and the section is written; without room the boundary waits
(in part DEDUCED, log entry 20). -/
def row2 (s : State) (p : Fin 8) : State :=
  let s := modPlain s p consumeRest
  if restWaits s.plains[p] || boundaryWaits s.plains[p] then modPlain s p waitRow2
  else
    let s := modPlain s p fun P => writeSection P.run.cycle P
    if s.plains[p].cap.outq = [] then finishRows s p else modPlain s p waitRow2

/-- The last step of the cycle has executed and the boundary can begin (R20). -/
def canEnd (P : Plain) : Bool :=
  modeStepping P.run.mode && decide (P.run.phase = .stepping) && decide (P.run.step = P.ldr.len) && decide (0 < P.ldr.len)

/-- BOUNDARY_SEQUENCE (R20) (in part DEDUCED, log entry 20). -/
def execBoundarySequence (p : Fin 8) (s : State) : Out :=
  if canEnd s.plains[p] then .next (row2 (modPlain s p (row1 s.timeNs)) p) else .next s

/-- CAPTURE_ROOM_FREED (R184): row 2 goes on as far as staging has room. -/
def execCaptureRoomFreed (p : Fin 8) (s : State) : Out :=
  if s.plains[p].run.phase ≠ .row2 then .next s
  else if s.plains[p].cap.outq = [] then .next (row2 s p)
  else
    let s := modPlain s p fun P => { P with cap := fillStaging P.cap.outq P.cap }
    .next (if s.plains[p].cap.outq = [] then finishRows s p else s)

/-! ## The next cycle (R20 rows 9 and 10) -/

/-- The sync gate (R172): every ACTIVE non-foreign link that takes part has shown cycle `run.cycle` or a later one
(in part DEDUCED, log entry 24). -/
def gateOk (P : Plain) : Bool :=
  P.links.toList.all fun L => decide (L.state ≠ .active) || L.foreign || L.joinLate ||
    (match L.rxCycle with
     | some n => decide (P.run.cycle ≤ n)
     | none => false)

/-- Pacing at row 9: BRIDGE waits for a credit in place of the paced start time (R212, R340). The paced time was fixed with
the period of the cycle that has ended, so a new PACE first acts on the start after next (R216) (in part DEDUCED, log entry 27). -/
def paceOk (now : Nat) (P : Plain) : Bool :=
  if P.run.mode = .bridge then decide (1 ≤ P.pio.credit)
  else match P.run.paceRef with
    | some t => decide (t ≤ now)
    | none => true

/-- XACT transfers and the TRANSACT limit (R273, R274). -/
def xactOk (P : Plain) : Bool :=
  !(P.hiu.xacts.any fun x => (x.write && x.cycle == P.run.cycle) || (!x.write && x.cycle + 1 == P.run.cycle)) &&
  (decide (P.run.mode ≠ .transact) || match P.hiu.xactLimit with
    | some n => decide (P.run.cycle ≤ n)
    | none => false)

/-- A restore's links are ACTIVE again before the replay steps (R194, R196) (in part DEDUCED, log entry 24). -/
def linksBack (P : Plain) : Bool := !(P.links.toList.any (·.thenReplay))

/-- Every REPEAT frame that carries a hold request has gone out on the ACTIVE non-foreign links, as it must before row 10
(R173). -/
def holdFramesOut (P : Plain) : Bool :=
  P.links.toList.all fun L => decide (L.state ≠ .active) || L.foreign || !(L.dueCycle.any fun f => f.flags.getLsbD 6 && cycHoldReq f)

/-- Row 9 is over (R20). -/
def canRelease (now : Nat) (P : Plain) : Bool :=
  modeStepping P.run.mode && decide (P.run.phase = .row9) && P.run.after.isNone && gateOk P && paceOk now P && xactOk P && linksBack P &&
  holdFramesOut P

/-- The cycle was due to start earlier (R212); a wait at the sync gate makes a cycle late too (R213)
(in part DEDUCED, log entry 27). -/
def startsLate (now : Nat) (P : Plain) : Bool :=
  decide (P.run.mode ≠ .bridge) && match P.run.paceRef with
    | some t => decide (t < now)
    | none => false

/-- Row 10 (R20): step 0 of the cycle is released (in part DEDUCED, log entry 27). -/
def beginCycle (now : Nat) (P : Plain) : Plain :=
  let late := startsLate now P
  let P := allLinks (clearRefs P) fun _ L => { L with recovered := false }
  startWait now { P with
    run := { P.run with phase := .stepping, step := 0, cycleStart := now, late := late, recovered := recovering P,
                        paceRef := if P.ldr.paceEn then some (now + P.ldr.period.toNat) else none }
    ldr := if late then { P.ldr with lateCnt := satInc P.ldr.lateCnt } else P.ldr
    stall := { P.stall with acc := 0, since := none }
    pio := if P.run.mode = .bridge then { P.pio with credit := P.pio.credit - 1, decAt := some (pioPeriod now) } else P.pio
    cap := { P.cap with rplNext := 0 } }

/-- CYCLE_RELEASE (R20 rows 9 and 10). -/
def execCycleRelease (p : Fin 8) (s : State) : Out :=
  if canRelease s.timeNs s.plains[p] then
    let s := modPlain s p (beginCycle s.timeNs)
    .next (if s.plains[p].run.mode = .replay then noteSection p s.plains[p].run.cycle s else s)
  else .next s

/-- The wait at the gate ends before the gate has opened, as the Plain enters HOLD: its length is stored (R172, R179). -/
def endGateWait (now : Nat) (P : Plain) : Plain :=
  if P.run.phase = .row9 ∧ !gateOk P then { P with sync := { P.sync with gateNs := w32 (min (now - P.run.row9At) (2 ^ 32 - 1)) } } else P

/-- A hold command (R21): at once in row 9; else it waits for the boundary. In HOLD it is satisfied. Every hold command is
local: no command of the tables requests R173's distributed hold (DESIGN CHOICE, log entry 55). -/
def holdCommand (tstep now : Nat) (P : Plain) : Plain :=
  if P.run.mode = .hold then finishJobOf .hold P 0 P.run.cycle
  else if P.run.phase = .row9 then recompute tstep (enterHold { endGateWait now P with cap := { P.cap with rplActive := false } })
  else { P with run := { P.run with holdCmd := true } }

/-- The hold command of a fault's recovery (19 R386): the peers see CYCLE frames with HOLDREQ (19 R391), from row 5 of its boundary
on, or at once in row 9 (in part DEDUCED, log entry 55). -/
def faultHold (tstep now : Nat) (P : Plain) : Plain :=
  if P.run.phase = .row9 then holdCommand tstep now (raiseHold (holdTarget P (P.run.cycle - 1)) P)
  else holdCommand tstep now { P with run := { P.run with holdAsks := true } }

end Sys2Proof.Machine
end

