-- ==== Sys2Proof/Machine/Pass.lean ====
section
/-! DEFINITION. The commands of the Pass links (08 R149-R179, R429): sending, receiving, retraining, opening and closing. -/

namespace Sys2Proof.Machine

/-! ## What arrives (R15) -/

/-- A frame arrives at link `l`. On a short link it is the frame that has waited longest on the wire of the endpoint it joins,
from which it goes; nothing else arrives there (R15, R16) (in part DEDUCED, log entry 52). -/
def arrived (s : State) (p l : Fin 8) (f : Frame) : Option State :=
  match shortPeer p l with
  | none => some s
  | some (q, m) =>
    if s.plains[q].links[m].wire.head? = some f then some (modPlain s q fun P => modLink P m fun L => { L with wire := L.wire.tail }) else none

/-- A frame has come out of the codewords of a link whose lanes carry them (R149). -/
def countArrival (L : Link) : Link := if lanesUp L.state then passFrame L else L

/-- What a row does with a frame that arrives: one that an uncorrectable codeword has carried fails its check, and is treated as
not received (R150, R155) (in part DEDUCED, log entry 51). -/
def onArrival (p l : Fin 8) (f : Frame) (k : State → State) (s : State) : Out :=
  match arrived s p l f with
  | none => .next s
  | some s =>
    let L := s.plains[p].links[l]
    let s := modPlain s p fun P => modLink P l countArrival
    if lanesUp L.state && nextSpoilt L then .next (modPlain s p fun P => modLink P l fun L => { L with crcCnt := satInc L.crcCnt }) else .next (k s)

/-! ## Taking words from q6 (R165) -/

/-- Steps whose words may be taken: a step that back-pressure holds has not joined (R110, R165). -/
def joined (P : Plain) : Nat := if P.run.phase = .backPressure then P.run.stepCount - 1 else P.run.stepCount

/-- The order of words of one link: by step, then by tile (R165). -/
def pxBefore (a b : Nat × Fin 64) : Bool := decide (a.1 < b.1) || (decide (a.1 = b.1) && decide (a.2.val < b.2.val))

/-- The first word of link `l` in a tile's q6: its stamp, and whether it is at the head. -/
def firstOf (l : Fin 8) (q : List PxWord) : Option (Nat × Bool) :=
  match q.findIdx? fun x => x.link = l with
  | none => none
  | some i => (q[i]?).map fun x => (x.stamp, i == 0)

/-- The next word of link `l` in push order: its tile, and whether it is at the head of that tile's q6 (R165). -/
def nextPx (P : Plain) (l : Fin 8) : Option (Fin 64 × Nat × Bool) :=
  (List.finRange 64).foldl (fun best t =>
    match firstOf l (P.tiles[t].q6 ++ P.tiles[t].held6.toList), best with
    | none, _ => best
    | some (st, hd), none => some (t, st, hd)
    | some (st, hd), some (u, su, hu) => if pxBefore (st, t) (su, u) then some (t, st, hd) else some (u, su, hu)) none

/-- The word that the endpoint of link `l` can take now: at the head of its q6, from a joined step. -/
def waitingPx (P : Plain) (l : Fin 8) : Option (Fin 64 × PxWord) :=
  match nextPx P l with
  | some (t, st, true) => if st < joined P then (P.tiles[t].q6.head?).map fun x => (t, x) else none
  | _ => none

/-- A word for the link is discarded when taken (R165) (in part DEDUCED, log entry 23). -/
def discards (L : Link) (chan : Fin 64) : Bool := !L.en || decide (L.state ≠ .active) || !look false L.granted chan.val

/-- Pops the head of a tile's q6; a held push takes the room (R119). -/
def popPx (t : Fin 64) (P : Plain) : Plain := modTile P t fun T => admitHeld { T with q6 := T.q6.tail }

/-- PASS_TX_TAKE (R165): the endpoint takes its next word, or discards it; without a credit, or once its close has begun,
the word stays. -/
def execPassTxTake (p l : Fin 8) (s : State) : Out :=
  let P := s.plains[p]
  let L := P.links[l]
  match waitingPx P l with
  | none => .next s
  | some (t, x) =>
    if discards L x.chan then
      .next (modPlain s p fun P => modLink (popPx t P) l fun L => linkFlag { L with txDisc := satInc L.txDisc } 4)
    else if L.dueClosing.isSome ∨ look 0 L.cred x.chan.val = 0 then .next s
    else .next (modPlain s p fun P => modLink (popPx t P) l fun L =>
      { L with cred := put 0 L.cred x.chan.val (look 0 L.cred x.chan.val - 1), txWords := L.txWords ++ [(x.chan, x.data)] })

/-! ## Sending (R159) -/

/-- Words of the first channel at the front of the taken words, at most six. -/
def leadWords (ws : List (Fin 64 × Word)) : List (Fin 64 × Word) :=
  match ws with
  | [] => []
  | x :: r => (x :: r.takeWhile fun y => y.1 = x.1).take 6

/-- The frame that the taken words make is closed (R165): full, followed by another channel, or with no further word that
could join it. -/
def dataClosed (P : Plain) (l : Fin 8) (L : Link) : Bool :=
  let d := leadWords L.txWords
  decide (d.length = 6) || decide (d.length < L.txWords.length) ||
    match waitingPx P l, d with
    | some (_, x), y :: _ => decide (x.chan ≠ y.1) || discards L x.chan || look 0 L.cred x.chan.val == 0 || L.dueClosing.isSome
    | _, _ => true

/-- The number of the cycle that is next to begin. -/
def nextCycle (P : Plain) : Nat := if inCycle P then P.run.cycle + 1 else P.run.cycle

/-- CREDIT entries of the unreturned credits: at most 12 channels (R164). -/
def owedEntries (L : Link) : List (Nat × Nat) := (L.owed.map fun x => (x.1, min x.2 1023)).take 12

/-- A CREDIT entry (R153). -/
def creditEntry (x : Nat × Nat) : Nat := x.1 % 64 + x.2 % 1024 * 64

/-- A frame of 16-bit entries. -/
def entryFrame (typ flags : Nat) (es : List Nat) : Frame := mkFrame typ ((es.length + 1) / 2) flags (entryBytes es)

/-- A CREDIT frame of unreturned credits goes out. -/
def sendOwed (now : Nat) (L : Link) : Link :=
  let es := owedEntries L
  let owed := es.foldl (fun m x => put 0 m x.1 (look 0 m x.1 - x.2)) L.owed
  accept { L with owed := owed, owedAt := if owed = [] then none else L.owedAt, dueCredit := owed.any fun x => decide (6 ≤ x.2) } now
    (entryFrame 3 0 (es.map creditEntry))

/-- A DATA frame (R152, R165). -/
def dataFrame (ws : List (Fin 64 × Word)) : Frame :=
  { mkFrame 1 ws.length 0 (ws.flatMap fun x => leBytes 4 x.2.toNat) with chan := BitVec.ofNat 6 ((ws.head?).map fun x => x.1.val).get! }

/-- The next new sequenced frame in the order of R159; `none` when there is none. The second component: the end enters
DRAIN. -/
def sendNew (P : Plain) (l : Fin 8) (now : Nat) (L : Link) : Option (Link × Bool) :=
  match L.dueCycle with
  | f :: r => some (accept { L with dueCycle := r } now f, false)
  | [] =>
    match L.dueClosing, L.txWords with
    | some (reason, reply), [] =>
      some ({ accept { L with dueClosing := none } now (mkFrame 6 2 (b2n reply) (leBytes 6 (nextCycle P) ++ [reason.setWidth 8])) with
              state := .drain, closeSent := some now }, true)
    | _, _ =>
      if L.dueReturn ≠ [] then
        some (accept { L with dueReturn := L.dueReturn.drop 12 } now (entryFrame 7 0 ((L.dueReturn.take 12).map BitVec.toNat)), false)
      else if L.dueInit ≠ [] then
        some (accept { L with dueInit := L.dueInit.drop 12 } now (entryFrame 3 1 ((L.dueInit.take 12).map creditEntry)), false)
      else if L.dueCredit ∧ L.owed ≠ [] then some (sendOwed now L, false)
      else if L.txWords ≠ [] ∧ dataClosed P l L then
        let d := leadWords L.txWords
        some (accept { L with txWords := L.txWords.drop d.length } now (dataFrame d), false)
      else none

/-- The OPEN frame of a link (R153, R168). -/
def openFrame (P : Plain) (L : Link) : Frame :=
  mkFrame 4 6 (b2n (decide (P.run.mode = .replay) || P.cap.rplActive) + b2n L.foreign * 2)
    (cyclePayload P.run.cycle P.sync.cur.epoch P.sync.cur.tag 0)

/-- The REPEAT CYCLE frame of a link that enters ACTIVE (R169). -/
def repeatFrame (P : Plain) : Frame :=
  let f := asRepeat (latestCycle P)
  if P.run.mode = .hold then { f with flags := f.flags ||| 2 } else f

/-- The link enters ACTIVE from OPEN_WAIT when both OPENs have passed (R168) (in part DEDUCED, log entry 24). -/
def tryActive (P : Plain) (now : Nat) (L : Link) : Link :=
  if L.state = .openWait ∧ L.openIn ∧ L.openOut then enterActive L now (repeatFrame P) (decide (P.run.phase = .row9)) else L

/-- Sends one unsequenced frame: OPEN or REFUSE, or TRAIN in TRAIN (R153). -/
def sendUnsequenced (P : Plain) (now : Nat) (L : Link) : Link :=
  match L.dueOpen with
  | f :: r =>
    let isOpen := decide (f.typ = 4)
    tryActive P now { L with dueOpen := r, wire := L.wire ++ [f], openOut := L.openOut || isOpen, openAt := if isOpen then some now else L.openAt }
  | [] =>
    if L.state = .train then
      { L with wire := L.wire ++ [{ typ := 8, len := 6, payload := Config.trainPattern L.wire.length }] }
    else L

/-- LINK_CLOSED to the Manager when the image uses the link (R165) (in part DEDUCED, log entry 23). -/
def closedEvent (l : Fin 8) (P : Plain) : Plain := if P.links[l].en then event P 0x0022 l.val P.links[l].closeReason.toNat else P

/-- The gate becomes open: its wait is stored (R172, R179). -/
def noteGate (now : Nat) (before : Bool) (P : Plain) : Plain :=
  if P.run.phase = .row9 ∧ !before ∧ gateOk P then { P with sync := { P.sync with gateNs := w32 (min (now - P.run.row9At) (2 ^ 32 - 1)) } } else P

/-- A link leaves ACTIVE by `f`: LINK_CLOSED for one that the image uses, and the sync gate may open (R165, R172). -/
def leaveActive (l : Fin 8) (now : Nat) (f : Link → Link) (P : Plain) : Plain :=
  let leaves := decide (P.links[l].state = .active)
  let Q := modLink P l f
  noteGate now (gateOk P) (if leaves then closedEvent l Q else Q)

/-- The next frame to send again goes out (R157). -/
def sendAgain (f : Frame) (L : Link) : Link :=
  let L := { L with wire := L.wire ++ [f], replayFrom := some (f.seq + 1) }
  if (nextReplay L).isNone then { L with replayFrom := none } else L

/-- One frame of an ACTIVE or DRAIN link: a replayed frame, else the next new one while fewer than 256 are held (R156, R159). -/
def sendSequenced (l : Fin 8) (now : Nat) (P : Plain) : Plain :=
  let L := P.links[l]
  match nextReplay L with
  | some f => modLink P l (sendAgain f)
  | none =>
    let L := { L with replayFrom := none }
    if 256 ≤ L.replay.length then modLink P l fun _ => L
    else match sendNew P l now L with
      | none => modLink P l fun _ => L
      | some (L, false) => modLink P l fun _ => L
      | some (L, true) => leaveActive l now (fun _ => L) P

/-- One frame of the link, where one is due, goes onto the wire (R153, R159). -/
def sendFrame (l : Fin 8) (now : Nat) (P : Plain) : Plain :=
  if linkSending P.links[l].state then sendSequenced l now P else modLink P l (sendUnsequenced P now)

/-- Its bytes enter the codewords of the active lanes, and with the ACK that has gone out a close can end (R149, R175). -/
def sendCodewords (l : Fin 8) (before : Link) (P : Plain) : Plain :=
  if lanesUp before.state then modLink P l fun L => tryClosed (sendStream (L.wire.drop before.wire.length) L) else P

/-- FRAME_SEND (R149, R150, R159): replayed frames, then CYCLE, CLOSING, RETURN, CREDIT, DATA; unsequenced frames outside ACTIVE
and DRAIN. The codewords carry the present link-control bytes, with a NAK that is due. In RETRAIN nothing goes out (R160). -/
def execFrameSend (p l : Fin 8) (s : State) : Out :=
  let L := s.plains[p].links[l]
  if L.state = .retrain then .next s
  else .next (linksClosed (modPlain s p fun P =>
    sendCodewords l L (sendFrame l s.timeNs (if lanesUp L.state then modLink P l sendControl else P))) p)

/-! ## Receiving in sequence (R155, R156, R429) -/

/-- A frame of type `typ` with a good check and form. -/
def goodFrame (f : Frame) (typ : Nat) : Bool := decide (f.typ.toNat = typ) && !malformed f

/-- Counts a dropped frame. -/
def dropFrame (L : Link) : Link := { L with drop := satInc L.drop }

/-- A sequenced frame (R156, R429): in sequence it is taken; a duplicate is discarded; after a gap it is discarded and NAK is
due once. -/
def rxSequenced (s : State) (p l : Fin 8) (f : Frame) (take : State → State) : State :=
  let L := s.plains[p].links[l]
  let s := modPlain s p fun P => modLink P l fun L => { L with lastRx := s.timeNs }
  if !linkSending L.state then modPlain s p fun P => modLink P l dropFrame
  else if f.seq = L.rxNext then take (modPlain s p fun P => modLink P l fun L => { L with rxNext := L.rxNext + 1, nakSent := false })
  else if seqBefore f.seq L.rxNext then s
  else modPlain s p fun P => modLink P l fun L => if L.nakSent then L else { L with nakDue := true, nakSent := true }

/-- RESERVED_FRAME_RX (R155). -/
def execReservedFrameRx (p l : Fin 8) (f : Frame) (s : State) : Out :=
  let t := f.typ.toNat
  if !malformed f then .next s
  else onArrival p l f (fun s =>
    if t = 4 ∨ t = 5 ∨ t = 8 then modPlain s p fun P => modLink P l fun L => dropFrame { L with lastRx := s.timeNs }
    else rxSequenced s p l f fun s => modPlain s p fun P => modLink P l fun L => linkFlag L 6) s

/-- Words of a channel in the inbound buffer that lie inside the present grants. -/
def heldWords (L : Link) (chan : Nat) : Nat := (L.inbuf.filter fun w => decide (w.chan = chan) && !w.old).length

/-- A DATA frame is discarded with CHAN_ERR: no valid mapping, or beyond the channel's credit (R166)
(in part DEDUCED, log entry 23). -/
def chanErr (L : Link) (f : Frame) : Bool :=
  let c := look 0 L.chan f.chan.toNat
  !bit c 8 || decide (fld c 9 11 < heldWords L f.chan.toNat + look 0 L.owed f.chan.toNat + f.len.toNat)

/-- A RETURN entry (R153). -/
def returnEntry (seq : BitVec 12) (delivered : Nat) : BitVec 16 := BitVec.ofNat 16 (seq.toNat + delivered % 8 * 2 ^ 12 + 2 ^ 15)

/-- A DATA frame in sequence (R166, R175 step 3): one that is discarded is not delivered, so a close returns it
(in part DEDUCED, log entry 23). -/
def takeData (f : Frame) (L : Link) : Link :=
  if chanErr L f then
    let L := linkFlag L 5
    if L.returnsMade then { L with dueReturn := L.dueReturn ++ [returnEntry f.seq 0] } else { L with discarded := L.discarded ++ [f.seq] }
  else if L.returnsMade then { L with dueReturn := L.dueReturn ++ [returnEntry f.seq 0] }
  else { L with inbuf := L.inbuf ++ (List.range f.len.toNat).map fun i =>
      { chan := f.chan.toNat, data := payWord f i, seq := f.seq, len := f.len.toNat, old := false } }

/-- DATA_FRAME_RX (R166). -/
def execDataFrameRx (p l : Fin 8) (f : Frame) (s : State) : Out :=
  if !goodFrame f 1 then .next s
  else onArrival p l f (fun s => rxSequenced s p l f fun s => modPlain s p fun P => modLink P l (takeData f)) s

/-- The configuration record with which a CYCLE frame numbered `m` is compared (R170). -/
def recordFor (S : Sync) (m : Nat) : Option CfgRec :=
  ((S.prev.toList ++ [S.cur] ++ S.pend.toList).filter fun r => decide (r.first ≤ m)).foldl (fun best r => match best with
    | none => some r
    | some b => if b.first ≤ r.first then some r else some b) none

/-- R170's check of a CYCLE frame: bit 0 CONFIG_MISMATCH, bit 1 SKEW of LINK_STAT's upper flags. -/
def checkCycle (P : Plain) (f : Frame) (L : Link) : Link :=
  let m := cycNumber f
  let own := P.run.cycle
  if m + 1 < own ∨ own + 1 < m then { linkFlag L 1 with failSkew := true }
  else match recordFor P.sync m with
    | some r => if r.epoch = cycEpoch f ∧ r.tag = cycTag f then L else { linkFlag L 0 with failMismatch := true }
    | none => { linkFlag L 0 with failMismatch := true }

/-- LINK_PEER registers from a CYCLE frame (R179). -/
def recordPeer (f : Frame) (L : Link) : Link :=
  { L with peerCyc := BitVec.ofNat 48 (cycNumber f), peerEpoch := cycEpoch f, peerTag := cycTag f
           peerFlags := BitVec.ofNat 5 (cycPace f + b2n (cycHeld f) * 8 + b2n (cycHoldReq f) * 16) }

/-- A received HOLDREQ (R173). -/
def adoptHold (t : Nat) (P : Plain) : Plain :=
  let done := match P.run.heldAt with
    | some h => decide (t ≤ h)
    | none => false
  if done then P
  else if t < P.run.cycle then { P with run := { P.run with holdNext := true }, sync := { P.sync with stat := setBit P.sync.stat 3 true } }
  else match P.sync.target with
    | some u => if u ≤ t then P else raiseHold t P
    | none => raiseHold t P

/-- A CYCLE frame in sequence (R170, R172, R173, R177). -/
def takeCycle (l : Fin 8) (f : Frame) (now : Nat) (P : Plain) : Plain :=
  let before := gateOk P
  let P := modLink P l (recordPeer f)
  if P.links[l].foreign then P
  else
    let P := modLink P l fun L => checkCycle P f { L with rxCycle := some (max (L.rxCycle.getD 0) (cycNumber f)) }
    noteGate now before (if cycHoldReq f then adoptHold (cycTarget f) P else P)

/-- CYCLE_FRAME_RX (R170). -/
def execCycleFrameRx (p l : Fin 8) (f : Frame) (s : State) : Out :=
  if !goodFrame f 2 then .next s
  else onArrival p l f (fun s => rxSequenced s p l f fun s => modPlain s p (takeCycle l f s.timeNs)) s

/-- The used entries of a CREDIT frame: channel and count (R153). -/
def creditEntries (f : Frame) : List (Nat × Nat) :=
  ((List.range (2 * f.len.toNat)).map fun i => (payEntry f i % 64, payEntry f i / 64)).filter fun x => x.2 ≠ 0

/-- A CREDIT frame in sequence (R156, R164). -/
def takeCredit (f : Frame) (L : Link) : Link :=
  let init := f.flags.getLsbD 0
  (creditEntries f).foldl (fun L x =>
    let L := { L with cred := put 0 L.cred x.1 (look 0 L.cred x.1 + x.2) }
    if init then { L with granted := put false L.granted x.1 true }
    else trimReplay { L with replay := confirmFrames x.1 x.2 L.replay }) L

/-- CREDIT_FRAME_RX (R164). -/
def execCreditFrameRx (p l : Fin 8) (f : Frame) (s : State) : Out :=
  if !goodFrame f 3 then .next s
  else onArrival p l f (fun s => linksClosed (rxSequenced s p l f fun s => modPlain s p fun P => modLink P l fun L => tryClosed (takeCredit f L)) p) s

/-! ## Opening (R167, R168) -/

/-- The first failing check of an OPEN (R168): 0 when it passes. -/
def openReason (P : Plain) (L : Link) (f : Frame) : Nat :=
  let m := cycNumber f
  let own := P.run.cycle
  if cycTag f ≠ P.sync.cur.tag then 1
  else if cycEpoch f ≠ P.sync.cur.epoch then 2
  else if own + 1 < m ∨ m + 1 < own then 3
  else if f.flags.getLsbD 0 ≠ (decide (P.run.mode = .replay) || P.cap.rplActive) ∨ f.flags.getLsbD 1 ≠ L.foreign then 4
  else 0

/-- Sends REFUSE with a reason and counts it (R168). -/
def refuse (reason : Nat) (L : Link) : Link :=
  { L with refused := satInc L.refused, refuse := BitVec.ofNat 3 reason, dueOpen := L.dueOpen ++ [mkFrame 5 1 0 [BitVec.ofNat 8 reason]] }

/-- An OPEN that the end answers (R168): with no image every one is refused, but in LOAD, where it is discarded; else it counts
in OPEN_WAIT alone, and one that fails its checks undoes an earlier one. In VALLEY nothing is received
(in part DEDUCED, log entry 24). -/
def takeOpen (plainsEn : BitVec 8) (p l : Fin 8) (f : Frame) (now : Nat) (P : Plain) : Plain :=
  let L := P.links[l]
  if P.run.mode = .valley ∨ !farEnabled plainsEn p l then P
  else
    let P := modLink P l fun L => { L with lastRx := now }
    if P.run.mode = .load ∨ linkSending L.state then P
    else if !P.run.admitted then modLink P l (refuse 5)
    else if L.state ≠ .openWait then P
    else if openReason P L f ≠ 0 then modLink P l fun M => { refuse (openReason P L f) M with openIn := false }
    else modLink P l fun L => tryActive P now { L with openIn := true }

/-- OPEN_FRAME_RX (R168). -/
def execOpenFrameRx (p l : Fin 8) (f : Frame) (s : State) : Out :=
  if !goodFrame f 4 then .next s
  else onArrival p l f (fun s => modPlain s p (takeOpen s.fuses.plainsEn p l f s.timeNs)) s

/-- A restore's reopened link is refused: the replay fails with ERR 4 and the Plain holds (R194, R199)
(in part DEDUCED, log entry 24). -/
def refusedReplay (P : Plain) : Plain :=
  let P := finishJobOf .replay P 0x17 4
  let P := { P with cap := { P.cap with rplErr := 4, rplActive := false } }
  let P := allLinks P fun _ L => { L with thenReplay := false }
  if P.run.mode = .replay then enterHold P else P

/-- A REFUSE (R167, R168): it is counted with its reason, whatever the state of the link but CLOSED, which counts it in
LINK_DROP, and OFF. -/
def takeRefuse (l : Fin 8) (f : Frame) (now : Nat) (P : Plain) : Plain :=
  let L := P.links[l]
  match L.state with
  | .off => P
  | .closed => modLink P l fun L => dropFrame { L with lastRx := now }
  | _ =>
    let P := modLink P l fun L => { L with lastRx := now, refused := satInc L.refused, refuse := BitVec.ofNat 3 (payField f 0 1), openOut := false }
    if L.thenReplay && P.cap.rplActive then refusedReplay P else P

/-- REFUSE_FRAME_RX (R168). -/
def execRefuseFrameRx (p l : Fin 8) (f : Frame) (s : State) : Out :=
  if !goodFrame f 5 then .next s else onArrival p l f (fun s => modPlain s p (takeRefuse l f s.timeNs)) s

/-- TRAIN_FRAME_RX (R167): lane training uses the frame. -/
def execTrainFrameRx (p l : Fin 8) (f : Frame) (s : State) : Out :=
  if !goodFrame f 8 then .next s
  else onArrival p l f (fun s => modPlain s p fun P => modLink P l fun L => { L with lastRx := s.timeNs }) s

/-- 100 µs have passed since the last OPEN, or none has been sent in this OPEN_WAIT (R167). -/
def openDue (now : Nat) (L : Link) : Bool :=
  match L.openAt with
  | some t => decide (t + 100000 ≤ now)
  | none => true

/-- OPEN_RESEND (R167): in OPEN_WAIT, with an image, in HOLD or a stepping mode, every 100 µs. -/
def execOpenResend (p l : Fin 8) (s : State) : Out :=
  let P := s.plains[p]
  let L := P.links[l]
  if L.state = .openWait ∧ P.run.admitted ∧ (P.run.mode = .hold ∨ modeStepping P.run.mode) ∧ L.dueOpen = [] ∧ openDue s.timeNs L then
    .next (modPlain s p fun P => modLink P l fun L => { L with dueOpen := [openFrame P L] })
  else .next s

/-- LINK_TRAINED (R167). -/
def execLinkTrained (p l : Fin 8) (width : Nat) (s : State) : Out :=
  if s.plains[p].links[l].state = .train ∧ 0 < width ∧ width ≤ lanesOf l then
    .next (modPlain s p fun P => modLink P l fun L => { freshLanes L with state := .openWait, width := width, working := width, openIn := false, openOut := false, openAt := none, ueLog := [] })
  else .next s

/-! ## Closing (R175, R176) -/

/-- A CLOSING frame in sequence (R175 steps 2 and 5). One that is no reply meets the close that this end has started too: each
end then performs steps 3 to 5 (R176). -/
def takeClosing (f : Frame) (L : Link) : Link :=
  let L := { L with closeTaken := true, closeBoth := L.closeMine && !f.flags.getLsbD 0 }
  if L.state = .active ∧ L.dueClosing = none then
    let reason := BitVec.ofNat 3 (payField f 6 1)
    { L with dueClosing := some (reason, true), closeReason := reason, closePeer := true, closeMine := false, returnsMade := false }
  else tryClosed L

/-- CLOSING_FRAME_RX (R175). -/
def execClosingFrameRx (p l : Fin 8) (f : Frame) (s : State) : Out :=
  if !goodFrame f 6 then .next s
  else onArrival p l f (fun s => linksClosed (rxSequenced s p l f fun s => modPlain s p fun P => modLink P l (takeClosing f)) p) s

/-- The valid entries of a RETURN frame: sequence and words delivered (R153). -/
def returnEntries (f : Frame) : List (BitVec 12 × Nat) :=
  ((List.range (2 * f.len.toNat)).map (payEntry f)).filterMap fun e =>
    if e.testBit 15 then some (BitVec.ofNat 12 (e % 4096), fldN e 12 3) else none

/-- A RETURN frame in sequence (R175 step 4): the named DATA frames are RETURNED; held frames that no entry names are
released once no further entry can name them. -/
def takeReturn (f : Frame) (L : Link) : Link :=
  let es := returnEntries f
  let last := (es.getLast?).map (·.1)
  let full := decide (es.length = 12)
  let mark (h : HeldFrame) : Option HeldFrame :=
    match es.find? fun e => e.1 = h.frame.seq with
    | some e => some { h with mark := .returned e.2, unconf := 0 }
    | none =>
      let before := match last with
        | some x => seqBefore h.frame.seq x
        | none => true
      if h.frame.typ = 1 ∧ h.mark = .held ∧ h.acked ∧ (!full || before) then none else some h
  let L := { L with replay := L.replay.filterMap mark }
  tryClosed (if es = [] then L else linkFlag L 7)

/-- RETURN_FRAME_RX (R175). -/
def execReturnFrameRx (p l : Fin 8) (f : Frame) (s : State) : Out :=
  if !goodFrame f 7 then .next s
  else onArrival p l f (fun s => linksClosed (rxSequenced s p l f fun s => modPlain s p fun P => modLink P l (takeReturn f)) p) s

/-- The frames of the inbound buffer that are not wholly delivered, oldest first: sequence, words delivered. -/
def undelivered (ws : List InWord) : List (BitVec 12 × Nat) :=
  let seqs := ws.foldl (fun a w => if w.old ∨ w.seq ∈ a then a else a ++ [w.seq]) []
  seqs.map fun q =>
    let mine := ws.filter fun w => !w.old && w.seq == q
    (q, ((mine.head?).map (·.len)).getD 0 - mine.length)

/-- Puts a RETURN entry in its place by sequence number, oldest first; `next` is the number after the newest. -/
def insertBySeq (next : BitVec 12) (x : BitVec 12 × Nat) : List (BitVec 12 × Nat) → List (BitVec 12 × Nat)
  | [] => [x]
  | y :: r => if (x.1 - next).toNat < (y.1 - next).toNat then x :: y :: r else y :: insertBySeq next x r

/-- What the closing end returns: the frames that are not wholly delivered, among them those discarded with CHAN_ERR, of which
no word was delivered (R166, R175). -/
def returnsDue (L : Link) : List (BitVec 16) :=
  ((L.discarded.map fun q => (q, 0)).foldr (insertBySeq L.rxNext) (undelivered L.inbuf)).map fun x => returnEntry x.1 x.2

/-- CLOSE_DELIVERY_END (R175 step 3): 10 µs after its CLOSING, the closing end returns what is not wholly delivered. -/
def execCloseDeliveryEnd (p l : Fin 8) (s : State) : Out :=
  let L := s.plains[p].links[l]
  let ready : Bool := match L.closeSent with
    | some t => decide (t + 10000 ≤ s.timeNs)
    | none => false
  if L.state = .drain ∧ ready ∧ L.closeMine ∧ !L.returnsMade then
    .next (linksClosed (modPlain s p fun P => modLink P l fun L =>
      tryClosed { L with returnsMade := true, dueReturn := L.dueReturn ++ returnsDue L, discarded := [], inbuf := L.inbuf.filter (·.old) }) p)
  else .next s

/-- CLOSE_TIMEOUT (R176): 100 µs after its own CLOSING the end closes with reason TIMEOUT. -/
def execCloseTimeout (p l : Fin 8) (s : State) : Out :=
  let L := s.plains[p].links[l]
  let ready : Bool := match L.closeSent with
    | some t => decide (t + 100000 ≤ s.timeNs)
    | none => false
  if ready ∧ (L.state = .drain ∨ L.state = .retrain) then
    .next (linksClosed (modPlain s p fun P => modLink P l fun L => linkClosed (markUnconfirmed { L with closeReason := 6 })) p)
  else .next s

/-! ## Failing lanes (R160, R161) -/

/-- A link that cannot retrain (R161, R386): CLOSED with reason FAILED, LINK_DOWN, and a hold command. -/
def linkDown (s : State) (p l : Fin 8) : State :=
  let tstep := s.fuses.tstepPs
  let s := modPlain s p fun P => event (modLink P l linkFailed) 0x0020 l.val 0
  let s := raiseFault s p 0x05 l.val fun s => modPlain s p fun P => if modeStepping P.run.mode then faultHold tstep s.timeNs P else P
  linksClosed (valleyFollows s p) p

/-- A lane of an ACTIVE or DRAIN link fails at the end `p`, and `working` lanes remain (R160); the far end of a short link does not enter
RETRAIN for it (DESIGN CHOICE, log entry 55). -/
def failLane (s : State) (p l : Fin 8) (working : Nat) : State :=
  let s := modPlain s p (leaveActive l s.timeNs (startRetrain s.timeNs working))
  if working = 0 then linkDown s p l else s

/-! ## Codewords (R149, R150, R160), acknowledgement and replay (R156, R157) -/

/-- An uncorrectable codeword of a lane is noted: the marks of the last 1 µs stay (R160). -/
def logUe (now lane : Nat) (L : Link) : Link :=
  { L with fecUe := satInc L.fecUe, ueLog := (L.ueLog.filter fun x => decide (now ≤ x.2 + 1000)) ++ [(lane, now)] }

/-- The lane has delivered 4 uncorrectable codewords within 1 µs (R160). -/
def laneWorn (lane : Nat) (L : Link) : Bool := decide (4 ≤ (L.ueLog.filter fun x => x.1 == lane).length)

/-- The link-control bytes that a codeword can bring: on a short link those that its far end sends (R15, R150). -/
def controlArrives (s : State) (p l : Fin 8) (ack : BitVec 12) (code : BitVec 4) : Bool :=
  match shortPeer p l with
  | none => true
  | some (q, m) => s.plains[q].links[m].ctlOut == BitVec.ofNat 16 (ack.toNat + code.toNat * 4096)

/-- CODE of a codeword (R150): 1 asks for a replay; of the reserved codes 2-15 the CODE is ignored, and ACK stands
(DESIGN CHOICE, log entry 51). -/
def takeControl (now : Nat) (ack : BitVec 12) (code : BitVec 4) (L : Link) : Link :=
  if !linkSending L.state then L
  else
    let L := tryClosed (applyAck L now ack)
    if code = 1 then startReplay L else L

/-- A codeword of a lane (R149, R150): one bad byte is corrected and counted; more are uncorrectable, the control bytes are not
used, the frames that have bytes in it fail their check, and the fourth within 1 µs fails the lane (R160). -/
def rxCodeword (p l : Fin 8) (rx : LaneCodeword) (code : BitVec 4) (s : State) : State :=
  let L := s.plains[p].links[l]
  let now := s.timeNs
  if !lanesUp L.state ∨ L.width ≤ rx.lane then s
  else if 2 ≤ rx.bad then
    let s := modPlain s p fun P => modLink P l fun L => logUe now rx.lane (countCodeword rx.lane true L)
    if linkSending L.state && laneWorn rx.lane s.plains[p].links[l] then failLane s p l (L.width - 1) else s
  else if !controlArrives s p l rx.ack code then s
  else linksClosed (modPlain s p fun P => modLink P l fun L =>
    takeControl now rx.ack code { countCodeword rx.lane false L with fecCe := satAdd L.fecCe rx.bad }) p

/-- ACK_RX (R150, R156). -/
def execAckRx (p l : Fin 8) (rx : ControlCodeword) (s : State) : Out := .next (rxCodeword p l rx.toLaneCodeword rx.code s)

/-- NAK_RX (R150, R157): CODE 1. -/
def execNakRx (p l : Fin 8) (rx : LaneCodeword) (s : State) : Out := .next (rxCodeword p l rx 1 s)

/-- REPLAY_TIMEOUT (R157): 1 µs with frames unacknowledged and ACK unchanged. -/
def execReplayTimeout (p l : Fin 8) (s : State) : Out :=
  let L := s.plains[p].links[l]
  if linkSending L.state ∧ unacked L ≠ [] ∧ L.replayFrom = none ∧ L.ackAt + 1000 ≤ s.timeNs then
    .next (modPlain s p fun P => modLink P l fun L => startReplay { L with ackAt := s.timeNs })
  else .next s

/-- CREDIT_RETURN_TIMEOUT (R164): an unreturned credit is 50 ns old. -/
def execCreditReturnTimeout (p l : Fin 8) (s : State) : Out :=
  match s.plains[p].links[l].owedAt with
  | some t => if t + 50 ≤ s.timeNs then .next (modPlain s p fun P => modLink P l fun L => { L with dueCredit := true }) else .next s
  | none => .next s

/-- FRAME_CHECK_FAIL (R155): the frame, on a short link the one that has waited longest on the wire of its far end, is treated as
not received. -/
def execFrameCheckFail (p l : Fin 8) (s : State) : Out :=
  let s := modPlain s p fun P => modLink P l fun L => { countArrival L with crcCnt := satInc L.crcCnt }
  .next (match shortPeer p l with
    | none => s
    | some (q, m) => modPlain s q fun P => modLink P m fun L => { L with wire := L.wire.tail })

/-! ## Delivery (R121, R164, R166, R186) -/

/-- Destination of a channel: tile and queue 0-3 (R163). -/
def chanDest (L : Link) (c : Nat) : Fin 64 × Nat := let m := look 0 L.chan c; (Fin.ofNat 64 (fld m 0 6), fld m 6 2)

/-- The first word of the inbound buffer for the channel's destination queue, when it is the channel's. -/
def nextIn (L : Link) (c : Fin 64) : Option InWord :=
  match L.inbuf.find? fun w => chanDest L w.chan = chanDest L c.val with
  | some w => if w.chan = c.val then some w else none
  | none => none

/-- Removes the first word of a channel. -/
def removeFirst (c : Nat) : List InWord → List InWord
  | [] => []
  | w :: r => if w.chan = c then r else w :: removeFirst c r

/-- The step in whose depth a word pushed now is first counted, and whether it belongs to the next cycle (R114, R186)
(in part DEDUCED, log entry 45). -/
def countedIn (P : Plain) : Nat × Bool :=
  if inCycle P then
    let n := match P.run.phase with
      | .stepping => P.run.step
      | .backPressure => P.run.step + 1
      | _ => P.ldr.len
    if n < P.ldr.len then (n, false) else (0, true)
  else (0, false)

/-- Logs a foreign Pass word (R186) (in part DEDUCED, log entry 45). -/
def logPassIn (l : Fin 8) (w : InWord) (P : Plain) : Plain :=
  if !logging P then P
  else
    let x := countedIn P
    let r := recPassIn l w.chan x.1 w.data
    if x.2 then { P with cap := { P.cap with passNext := P.cap.passNext ++ [r] } }
    else { P with cap := { P.cap with passIn := P.cap.passIn ++ [r] } }

/-- A word has been pushed: its credit is owed to the sender (R164). -/
def oweCredit (now : Nat) (w : InWord) (L : Link) : Link :=
  if w.old then L
  else
    let n := look 0 L.owed w.chan + 1
    { L with owed := put 0 L.owed w.chan n, owedAt := some (L.owedAt.getD now), dueCredit := L.dueCredit || decide (6 ≤ n) }

/-- The far side of q2-q5 serves the link's words: it is stopped in QUARANTINE (R123), and in REPLAY a foreign link's words come
from the log (R177). -/
def farSideRuns (P : Plain) (L : Link) : Bool :=
  decide (P.run.mode ≠ .quarantine) && !(L.foreign && decide (P.run.mode = .replay))

/-- PASS_RX_PUSH (R121): a buffered word enters its destination queue when there is room; a foreign word also needs room for
its record (R184). -/
def execPassRxPush (p l : Fin 8) (chan : Fin 64) (s : State) : Out :=
  let P := s.plains[p]
  let L := P.links[l]
  match nextIn L chan with
  | none => .next s
  | some w =>
    let d := chanDest L w.chan
    if 8 ≤ inDepth P.tiles[d.1] d.2 ∨ (L.foreign ∧ !inputRoom P 8) ∨ !farSideRuns P L then .next s
    else .next (modPlain s p fun P =>
      let P := modTile P d.1 fun T => pushIn T d.2 w.data
      let P := modLink P l fun L => oweCredit s.timeNs w { L with inbuf := removeFirst w.chan L.inbuf }
      if P.links[l].foreign then logPassIn l w P else P)

/-! ## Retraining (R160-R162) -/

/-- LANE_FAIL (R160): of the active lanes, `working` remain. -/
def execLaneFail (p l : Fin 8) (working : Nat) (s : State) : Out :=
  let L := s.plains[p].links[l]
  if linkSending L.state && decide (working < L.width) then .next (failLane s p l working) else .next s

/-- The link re-enters ACTIVE, or goes on closing in DRAIN, and replays from ACK + 1 (R160, R162, R175, R178). -/
def endRetrain (P : Plain) (l : Fin 8) (now : Nat) (L : Link) : Link :=
  let L := { freshLanes L with width := L.working, attempts := 0, lastRx := now, ackAt := now, state := if L.closeSent.isSome then .drain else .active }
  let L := startReplay L
  let L := if L.state = .active then { L with dueCycle := L.dueCycle ++ [repeatFrame P], joinLate := L.joinLate || decide (P.run.phase = .row9) } else L
  let L := if L.width < lanesOf l then linkFlag L 3 else L
  match L.closePend with
  | some reason => startClose reason L.thenOff { L with closePend := none }
  | none => L

/-- RETRAIN_DONE (R160-R162): the attempt has ended within its limit. It trains on every working lane; one that tests every lane
again on the widest set that works, which the operand gives. -/
def execRetrainDone (p : Fin 8) (trained : TrainedLink) (s : State) : Out :=
  let l := trained.link
  let L := s.plains[p].links[l]
  let w := if L.retest then min trained.width L.working else L.working
  if L.state ≠ .retrain ∨ w = 0 ∨ L.retrainAt + retrainLimit l < s.timeNs then .next s
  else .next (modPlain s p fun P =>
    let P := modLink P l fun L => endRetrain P l s.timeNs { L with working := w, retest := false }
    if P.links[l].width < lanesOf l then event P 0x0021 l.val P.links[l].width else P)

/-- RETRAIN_ATTEMPT_FAIL (R161): the attempt has passed its limit, or a further lane has failed and `working` remain. -/
def execRetrainAttemptFail (p l : Fin 8) (working : Nat) (s : State) : Out :=
  let L := s.plains[p].links[l]
  let w := min working L.working
  if L.state ≠ .retrain ∨ (L.working ≤ working ∧ s.timeNs ≤ L.retrainAt + retrainLimit l) then .next s
  else if w = 0 ∨ 3 ≤ L.attempts + 1 then .next (linkDown s p l)
  else .next (modPlain s p fun P => modLink P l fun L => { L with attempts := L.attempts + 1, working := w, retrainAt := s.timeNs })

/-! ## HELD repeats and silence (R169, R172) -/

/-- HELD_REPEAT (R169): every 10 µs in HOLD. -/
def execHeldRepeat (p : Fin 8) (s : State) : Out :=
  let P := s.plains[p]
  if P.run.mode = .hold ∧ P.run.admitted ∧ P.sync.heldAt + 10000 ≤ s.timeNs then
    .next (modPlain s p fun P => { sendCycle false (repeatFrame P) P with sync := { P.sync with heldAt := s.timeNs } })
  else .next s

/-- SYNC_LOST (R172) (in part DEDUCED, log entry 23). -/
def execSyncLost (p l : Fin 8) (s : State) : Out :=
  let P := s.plains[p]
  let L := P.links[l]
  if L.state = .active ∧ P.sync.tmo ≠ 0 ∧ L.lastRx + P.sync.tmo.toNat * 1000 ≤ s.timeNs then
    .next (valleyFollows (modPlain s p fun P =>
      let P := { P with sync := { P.sync with stat := setBit P.sync.stat 2 true } }
      let P := event (modLink P l fun L => linkFlag { L with lastRx := s.timeNs } 2) 0x0023 l.val 0
      if P.run.phase = .row9 ∧ !gateOk P then recompute s.fuses.tstepPs (enterHold (endGateWait s.timeNs P)) else P) p)
  else .next s

/-! ## LINK_CTL (R162, R167, R175, R176, R179) -/

/-- EN and FOREIGN written: only in LOAD; enabling leaves OFF for TRAIN (R167, R17). -/
def ctlEn (s : State) (p l : Fin 8) (v : Word) : State :=
  modPlain s p fun P =>
    if P.run.mode ≠ .load then P
    else modLink P l fun L =>
      let L := { L with en := bit v 0, foreign := bit v 1 }
      if L.en ∧ L.state = .off ∧ farEnabled s.fuses.plainsEn p l then { L with state := .train, working := lanesOf l, attempts := 0, lastRx := s.timeNs } else L

/-- RETRAIN (R162): in HOLD only. -/
def ctlRetrain (s : State) (p l : Fin 8) : State :=
  modPlain s p fun P => if P.run.mode ≠ .hold then P
    else leaveActive l s.timeNs (fun L => if L.state = .active then { startRetrain s.timeNs (lanesOf l) L with retest := true } else L) P

/-- CLOSE (R175) (in part DEDUCED, log entry 23). -/
def ctlClose (s : State) (p l : Fin 8) : State := linksClosed (modPlain s p fun P => modLink P l (startClose 4 false)) p

/-- RET_REL (R176): a link that a restore reopens can then open (R194). -/
def ctlRetRel (s : State) (p l : Fin 8) : State :=
  modPlain s p fun P => modLink P l fun L =>
    { L with replay := L.replay.filter fun h => decide (h.mark = .held)
             state := if L.state = .closed ∧ L.thenReplay then .openWait else L.state }

/-- The modes in which a Pass link trains or carries traffic (01 R23). -/
def linksOpenIn (m : Mode) : Bool := decide (m = .load) || decide (m = .hold) || modeStepping m

/-- The link stays closed: in a mode whose links are closed (01 R23), with a reset or VALLEY under way that closes the links of its
Plain, or, when it is foreign, in REPLAY from the start of the replay on (R177). -/
def keptClosed (P : Plain) (L : Link) : Bool :=
  !linksOpenIn P.run.mode || L.thenOff || clearing P || (L.foreign && (decide (P.run.mode = .replay) || P.cap.rplActive))

/-- OPEN (R167, R176): CLOSED to TRAIN once no returned or unconfirmed frame is held. -/
def ctlOpen (s : State) (p l : Fin 8) : State :=
  modPlain s p fun P => modLink P l fun L =>
    if L.state = .closed ∧ released L ∧ farEnabled s.fuses.plainsEn p l ∧ !keptClosed P L then
      { L with state := .train, thenReplay := false, working := lanesOf l, attempts := 0, replay := [], lastRx := s.timeNs }
    else L

/-- LINK_CTL written whole. -/
def linkCtlWrite (s : State) (p l : Fin 8) (v : Word) : State :=
  let s := ctlEn s p l v
  let s := if bit v 2 then ctlRetrain s p l else s
  let s := if bit v 3 then ctlClose s p l else s
  let s := if bit v 4 then ctlRetRel s p l else s
  if bit v 5 then ctlOpen s p l else s

/-- LINK_CTL_EN (R167). -/
def execLinkCtlEn (p l : Fin 8) (v : Word) (s : State) : Out := .next (ctlEn s p l v)

/-- LINK_CTL_RETRAIN (R162). -/
def execLinkCtlRetrain (p l : Fin 8) (s : State) : Out := .next (ctlRetrain s p l)

/-- LINK_CTL_CLOSE (R175). -/
def execLinkCtlClose (p l : Fin 8) (s : State) : Out := .next (ctlClose s p l)

/-- LINK_CTL_RET_REL (R176). -/
def execLinkCtlRetRel (p l : Fin 8) (s : State) : Out := .next (ctlRetRel s p l)

/-- LINK_CTL_OPEN (R167). -/
def execLinkCtlOpen (p l : Fin 8) (s : State) : Out := .next (ctlOpen s p l)

end Sys2Proof.Machine
end

