-- ==== Sys2Proof/Machine/Hiu.lean ====
section
/-! DEFINITION. The host interface of a Plain (13): rings and doorbells, the firmware's start and post, completion records,
the status block, re-reading after a reset, function-level reset, mailboxes, locks and doorbell bits. -/

namespace Sys2Proof.Machine

/-! ## Rings (R260-R266, R270, R282) -/

/-- The rings that accept in a mode (01, Modes at a glance). -/
def ringAccepts (m : Mode) (r : Fin 4) : Bool :=
  match m with
  | .valley | .boot | .test => false
  | .load => decide (r = 0) || decide (r = 3)
  | .quarantine => decide (r = 0)
  | _ => true

/-- Sets a flag of RING_STAT; a new flag signals vector 3 (R257). -/
def ringFlag (s : State) (p : Fin 8) (r : Fin 4) (i : Nat) : State :=
  if bit s.plains[p].hiu.rings[r].stat i then s
  else vector (modPlain s p fun P => modRing P r fun R => { R with stat := setBit R.stat i true }) p 3

/-- RING_DB written (R262-R264) (in part DEDUCED, log entry 29). -/
def ringDoorbell (s : State) (p : Fin 8) (r : Fin 4) (v : Word) : State :=
  let P := s.plains[p]
  let R := P.hiu.rings[r]
  let s := { modPlain s p fun P => modRing P r fun R => { R with dbLast := v } with tap := { s.tap with obsDoorbell := some s.timeNs } }
  if !ringAccepts P.run.mode r then modPlain s p fun P => modRing P r fun R => { R with dbDrop := satInc R.dbDrop }
  else
    let s := modPlain s p fun P => modRing P r fun R => { R with seqStop := false }
    if 2 ^ R.log2 < (v - R.cmp).toNat then ringFlag s p r 0
    else if v = R.acc ∨ seqPrecedes v R.acc then s
    else modPlain s p fun P => modRing P r fun R => { R with avail := v }

/-- RING_DB (R262). -/
def execRingDb (p : Fin 8) (r : Fin 4) (v : Word) (s : State) : Out := .next (ringDoorbell s p r v)

/-- The 64 bytes of ring slot q mod N in host memory (R260). -/
def ringSlot (s : State) (R : Ring) (q : Word) : List Byte :=
  hostBytes s ((R.base.toNat + 64 * (q.toNat % 2 ^ R.log2)) % 2 ^ 64) 64

/-- Puts a descriptor into the acceptance buffer (R282). -/
def bufPut (R : Ring) (q : Word) (bs : List Byte) : Ring :=
  { R with buf := put 0 R.buf (q.toNat % 32) (BitVec.ofNat 512 (leNat bs)), gone := R.gone.filter fun x => decide (x.1 ≠ q.toNat % 32) }

/-- The ring takes its next available descriptor (R263). -/
def canAccept (P : Plain) (r : Fin 4) : Bool :=
  let R := P.hiu.rings[r]
  R.en && ringAccepts P.run.mode r && P.hiu.fn.bme && decide ((R.acc - R.cmp).toNat < 32) && seqPrecedes R.acc R.avail && !R.seqStop && R.reread.isNone

/-- DESCRIPTOR_ACCEPT (R263, R274, R287). -/
def execDescriptorAccept (p : Fin 8) (r : Fin 4) (s : State) : Out :=
  let P := s.plains[p]
  if !canAccept P r then .next s
  else
    let R := P.hiu.rings[r]
    let q := R.acc + 1
    let d := ringSlot s R q
    if num d 0 4 ≠ q.toNat then .next (ringFlag (modPlain s p fun P => modRing P r fun R => { R with seqStop := true }) p r 1)
    else .next (modPlain s p fun P =>
      let P := modRing P r fun R => bufPut { R with acc := q } q d
      let P := if r = 1 then { P with hiu := { P.hiu with xactLimit := some (num d 16 6) } } else P
      event P 0x0100 r.val q.toNat)

/-- An abort of the started JOB descriptor `q` (R270) (in part DEDUCED, log entry 28). -/
def abortStarted (s : State) (p : Fin 8) (q : Word) : State :=
  modPlain s p fun P =>
    let P := event (modRing P 0 fun R => { R with abortSeen := if q ∈ R.abortSeen then R.abortSeen else R.abortSeen ++ [q] }) 0x0101 0 q.toNat
    match P.hiu.job with
    | some (q', k) =>
      if q' ≠ q then P
      else match k with
        | .step | .replay => if P.run.mode = .hold then finishJob P 0x11 0 else holdCommand s.fuses.tstepPs s.timeNs P
        | .checkpoint =>
          if P.cap.dueJob then
            let P := { P with cap := { P.cap with dueJob := false } }
            if P.run.mode = .hold then finishJob P 0x11 0 else P
          else P
        | _ => P
    | none => P

/-- RING_ABORT of the JOB ring written (R270). -/
def ringAbortWrite (s : State) (p : Fin 8) (q : Word) : State :=
  let R := s.plains[p].hiu.rings[(0 : Fin 4)]
  if !awake s.plains[p] then s
  else if seqPrecedes R.start q && (q == R.acc || seqPrecedes q R.acc) then
    modPlain s p fun P => modRing P 0 fun R => { R with
      cancelled := if q ∈ R.cancelled then R.cancelled else R.cancelled ++ [q]
      abortSeen := if q ∈ R.abortSeen then R.abortSeen else R.abortSeen ++ [q] }
  else if seqPrecedes R.cmp q && (q == R.start || seqPrecedes q R.start) then abortStarted s p q
  else ringFlag s p 0 3

/-- RING_ABORT (R270). -/
def execRingAbort (p : Fin 8) (q : Word) (s : State) : Out := .next (ringAbortWrite s p q)

/-- The outcome that the HIU itself posts for descriptor `q`: its SEQ has changed on a re-read (R278). -/
def autoOutcome (P : Plain) (r : Fin 4) (q : Word) : Bool := P.hiu.done.any fun j => decide (j.ring = r) && j.seq == q && j.status == 0x19

/-- Posts every completion that waits only for ring order (R278). -/
def autoPost (r : Fin 4) : Nat → Plain → Plain
  | 0, P => P
  | n + 1, P =>
    let R := P.hiu.rings[r]
    let q := R.cmp + 1
    if R.cmp ≠ R.acc ∧ autoOutcome P r q then
      autoPost r n (postCompletion (if R.start = R.cmp then modRing P r fun R => { R with start := q } else P) r 0x19 0)
    else P

/-- An XACT descriptor of a bad form is the previous one of the next (R273) (in part DEDUCED, log entry 32). -/
def notePrev (r : Fin 4) (d : Nat) (P : Plain) : Plain :=
  if r = 1 then { P with hiu := { P.hiu with xactPrev := descField d 16 6 } } else P

/-- Descriptor `q` starts; one of a bad form has its outcome at once (R266, R268) (in part DEDUCED, log entry 28). -/
def startDesc (r : Fin 4) (q : Word) (P : Plain) : Plain :=
  let P := modRing P r fun R => { R with start := q }
  let d := descOf P.hiu.rings[r] q
  if badForm r d then outcome (notePrev r d P) r q (badStatus P r d) 0 else P

/-- FW_START written (R266, R270, R271) (in part DEDUCED, log entry 29). -/
def fwStartWrite (s : State) (p : Fin 8) (v : Word) : State :=
  let r : Fin 4 := Fin.ofNat 4 (fld v 30 2)
  let R := s.plains[p].hiu.rings[r]
  let q := R.start + 1
  let note (b : Bool) (s : State) : State := modPlain s p fun P => { P with hiu := { P.hiu with fwRefused := b } }
  if !awake s.plains[p] then s
  else if R.start = R.acc ∨ fld v 0 30 ≠ q.toNat % 2 ^ 30 ∨ R.reread.isSome ∨ (r = 0 ∧ R.start ≠ R.cmp) then note false (ringFlag s p r 2)
  else if q ∈ R.cancelled then
    note true (modPlain s p fun P => autoPost r 32 (postCompletion (modRing P r fun R => { R with start := q }) r 0x10 0))
  else note false (modPlain s p (startDesc r q))

/-- FW_START (R266). -/
def execFwStart (p : Fin 8) (v : Word) (s : State) : Out := .next (fwStartWrite s p v)

/-- STATUS of FW_POST as stored: a reserved code stores the field's reset value (00 R7, R268). -/
def postStatus (v : Word) : Byte := if 0x1A < fld v 0 8 then 0 else v.setWidth 8

/-- A post before the re-read of what it completes: that descriptor is not re-read (R289). Once nothing is left to re-read, START
takes CMP (R278) (in part DEDUCED, log entry 29). -/
def skipReread (q : Word) (R : Ring) : Ring :=
  if R.reread ≠ some q then R
  else if R.acc = q then { R with reread := none, start := R.cmp }
  else { R with reread := some (q + 1) }

/-- FW_POST written (R266, R289). -/
def fwPostWrite (s : State) (p : Fin 8) (v : Word) : State :=
  let r : Fin 4 := Fin.ofNat 4 (fld v 8 2)
  let P := s.plains[p]
  let R := P.hiu.rings[r]
  if !awake P then s
  else if R.cmp = R.start then ringFlag s p r 2
  else modPlain s p fun P => autoPost r 32 (modRing (postCompletion P r (postStatus v) P.hiu.fwRes) r (skipReread (R.cmp + 1)))

/-- FW_POST (R266). -/
def execFwPost (p : Fin 8) (v : Word) (s : State) : Out := .next (fwPostWrite s p v)

/-- RING_INIT written (R282). -/
def ringInitWrite (s : State) (p : Fin 8) (r : Fin 4) (v : Word) : State :=
  modPlain s p fun P =>
    if !awake P then P
    else modRing P r fun R => if R.en then R
      else { R with acc := v, start := v, cmp := v, avail := v, seqStop := false, reread := none, cancelled := [], abortSeen := [] }

/-- RING_INIT (R282). -/
def execRingInit (p : Fin 8) (r : Fin 4) (v : Word) (s : State) : Out := .next (ringInitWrite s p r v)

/-- RING_CFG written (R282) (in part DEDUCED, log entry 29). -/
def ringCfgPut (s : State) (p : Fin 8) (r : Fin 4) (v : Word) : State :=
  let P := s.plains[p]
  let R := P.hiu.rings[r]
  let log2 := fld v 0 5
  let en := bit v 8
  if !awake P then s
  else if R.en ∧ !en ∧ R.acc ≠ R.cmp then ringFlag s p r 4
  else if log2 < 6 ∨ 16 < log2 then
    ringFlag (modPlain s p fun P => modRing P r fun R => if R.en && en then R else { R with log2 := log2, en := false }) p r 5
  else modPlain s p fun P => modRing P r fun R => { R with log2 := log2, en := en }

/-- RING_CFG_WRITE (R282). -/
def execRingCfgWrite (p : Fin 8) (r : Fin 4) (v : Word) (s : State) : Out := .next (ringCfgPut s p r v)

/-! ## Completion records (R267) -/

/-- M, the size of the completion ring; sizes outside the range act as 64 (in part DEDUCED, log entry 29). -/
def cqSize (H : Hiu) : Nat := if 6 ≤ H.cqLog2 ∧ H.cqLog2 ≤ 16 then 2 ^ H.cqLog2 else 64

/-- A slot of the completion ring is free. -/
def cqRoom (H : Hiu) : Bool := decide ((H.pseq - H.cseq).toNat < cqSize H)

/-- CQ_CSEQ written (R267). -/
def cqCseqPut (s : State) (p : Fin 8) (v : Word) : State :=
  let H := s.plains[p].hiu
  if !awake s.plains[p] then s
  else if seqPrecedes H.pseq v then
    if H.cqBad then s else vector (modPlain s p fun P => { P with hiu := { P.hiu with cqBad := true } }) p 3
  else modPlain s p fun P => { P with hiu := { P.hiu with cseq := v, cqFull := P.hiu.cqFull && !cqRoom { P.hiu with cseq := v } } }

/-- CQ_CSEQ_WRITE (R267). -/
def execCqCseqWrite (p : Fin 8) (v : Word) (s : State) : Out := .next (cqCseqPut s p v)

/-- The 32 bytes of a completion record (R267). -/
def recordBytes (c : Completion) (phase : Nat) : List Byte :=
  leBytes 4 c.seq.toNat ++ [BitVec.ofNat 8 c.ring.val, c.status] ++ leBytes 2 (phase + 2 * b2n c.abortSeen) ++ leBytes 8 c.tag.toNat ++
  leBytes 6 c.cycle.toNat ++ [0, 0] ++ leBytes 8 c.result.toNat

/-- COMPLETION_RECORD_WRITE (R267, R256, R257). Without a free slot the completion waits; CQ_STAT.FULL, when new, signals
vector 3 (in part DEDUCED, log entry 30). -/
def execCompletionRecordWrite (p : Fin 8) (s : State) : Out :=
  let H := s.plains[p].hiu
  match H.cqWait with
  | [] => .next s
  | c :: rest =>
    if !cqRoom H then
      .next (if H.cqFull then s else vector (modPlain s p fun P => { P with hiu := { P.hiu with cqFull := true } }) p 3)
    else if !H.fn.bme then .next s
    else
      let m := cqSize H
      let n := H.pseq.toNat
      let s := hostPut s ((H.cqBase.toNat + 32 * (n % m)) % 2 ^ 64) (recordBytes c (1 - n / m % 2))
      let s := modPlain s p fun P => { P with hiu := { P.hiu with cqWait := rest, pseq := H.pseq + 1, cqFull := false, vec0 := P.hiu.vec0 || (c.irq && H.sbEn) } }
      .next (if c.irq && !H.sbEn then vector s p 0 else s)

/-! ## The status block (R277) -/

/-- CMP of a ring as the status block reports it: not past a completion whose record waits. -/
def reportedCmp (H : Hiu) (r : Fin 4) : Word :=
  match H.cqWait.find? fun c => decide (c.ring = r) with
  | some c => c.seq - 1
  | none => H.rings[r].cmp

/-- A ring waits to re-read, or re-reads, its descriptors (R278). -/
def rereading (P : Plain) : Bool := (List.finRange 4).any fun r => P.hiu.rings[r].reread.isSome && ringAccepts P.run.mode r && P.hiu.rings[r].en

/-- Bytes 247:4 of the status block (R277) (in part DEDUCED, log entry 30). -/
def statusBytes (P : Plain) : List Byte :=
  let H := P.hiu
  [BitVec.ofNat 8 (modeCode P.run.mode), BitVec.ofNat 8 (b2n P.run.admitted + 2 * b2n (rereading P)), 0, 0] ++
  leBytes 4 P.run.bootCnt.toNat ++ leBytes 4 (if P.run.admitted then P.sync.cur.epoch.toNat else 0) ++ leBytes 6 P.run.cycle ++ [0, 0] ++
  leBytes 8 (if P.run.admitted then P.sync.cur.tag.toNat else 0) ++
  ((List.finRange 4).flatMap fun r => leBytes 4 H.rings[r].acc.toNat ++ leBytes 4 H.rings[r].start.toNat ++ leBytes 4 (reportedCmp H r).toNat ++
    leBytes 4 H.rings[r].dbLast.toNat) ++
  leBytes 4 H.pseq.toNat ++ leBytes 4 H.cseq.toNat ++ leBytes 4 (fltStat P.health).toNat ++
  leBytes 4 (min ((List.finRange 4).map fun r => H.rings[r].dbDrop.toNat).sum (2 ^ 32 - 1)) ++ leBytes 136 0

/-- MODE, EPOCH, BOOT or FAULT of two status blocks differ (R257). -/
def vectorOne (a b : List Byte) : Bool := num a 0 1 != num b 0 1 || num a 4 8 != num b 4 8 || num a 100 4 != num b 100 4

/-- STATUS_BLOCK_WRITE (R277, R257): at most one block per µs, when the contents have changed (in part DEDUCED, log entry 30). -/
def execStatusBlockWrite (p : Fin 8) (s : State) : Out :=
  let P := s.plains[p]
  let H := P.hiu
  let body := statusBytes P
  let waited : Bool := match H.sbAt with
    | some t => decide (t + 1000 ≤ s.timeNs)
    | none => true
  if H.sbEn = true ∧ H.fn.bme = true ∧ waited = true ∧ (body ≠ H.sbLast ∨ H.vec0 = true) then
    let gen := H.sbGen + 1
    let g := leBytes 4 gen.toNat
    let s := hostPut s H.sbAddr.toNat (g ++ body ++ g ++ [0, 0, 0, 0])
    let s := modPlain s p fun P => { P with hiu := { P.hiu with sbGen := gen, sbLast := body, sbAt := some s.timeNs, vec0 := false } }
    let s := if H.vec0 then vector s p 0 else s
    .next (if vectorOne H.sbLast body then vector s p 1 else s)
  else .next s

/-- SB_CTL written: with no status block to come, vector 0 of the records already written is sent now (R257, R282). -/
def sbCtlPut (s : State) (p : Fin 8) (v : Word) : State :=
  let owed := s.plains[p].hiu.vec0 && !bit v 0
  let s := modPlain s p fun P => { P with hiu := { P.hiu with sbEn := bit v 0, vec0 := P.hiu.vec0 && bit v 0 } }
  if owed then vector s p 0 else s

/-! ## Re-reading after a reset (R278-R280) -/

/-- What becomes of a re-read descriptor: `bs` are its bytes (R278). A JOB RESET that has reached HOLD completes with
success and BOOT as its result (R269) (in part DEDUCED, log entry 28). -/
def rereadOne (P : Plain) (r : Fin 4) (q : Word) (bs : List Byte) : Plain :=
  let R := P.hiu.rings[r]
  let started := q == R.start || seqPrecedes q R.start
  let P := modRing P r fun R => bufPut R q bs
  if num bs 0 4 ≠ q.toNat then
    autoPost r 32 { P with hiu := { P.hiu with done := P.hiu.done ++ [{ ring := r, seq := q, status := 0x19, result := 0 }] } }
  else if started then
    if r = 0 ∧ num bs 4 1 = 7 ∧ P.run.mode ≠ .quarantine then postCompletion P r 0 (BitVec.ofNat 64 P.run.bootCnt.toNat)
    else postCompletion P r 0x12 0
  else if r = 1 then { P with hiu := { P.hiu with xactLimit := some (num bs 16 6) } }
  else P

/-- DESCRIPTOR_REREAD (R278): one descriptor; after the last one START takes CMP and the firmware is told. -/
def execDescriptorReread (p : Fin 8) (r : Fin 4) (s : State) : Out :=
  let P := s.plains[p]
  let R := P.hiu.rings[r]
  match R.reread with
  | none => .next s
  | some q =>
    if !(R.en && ringAccepts P.run.mode r && P.hiu.fn.bme) then .next s
    else .next (modPlain s p fun P =>
      let P := rereadOne P r q (ringSlot s R q)
      if q = R.acc then
        let P := modRing P r fun R => { R with reread := none, start := R.cmp }
        closeAfterBoot (event P 0x0102 r.val P.hiu.rings[r].cmp.toNat) s.timeNs
      else modRing P r fun R => { R with reread := some (q + 1) })

/-! ## Function-level reset and Bus Master Enable (R256-R258) -/

/-- FUNCTION_LEVEL_RESET (R258): a Plain reset, or a part in one that is under way, whose HOST_FLR event follows the emptying of the event
queue (R287); the function's configuration state cleared, vectors that wait kept; and locks of owner 1 released. A Plain in VALLEY or TEST takes
no Plain reset. -/
def execFunctionLevelReset (p : Fin 8) (s : State) : Out :=
  let s := modPlain s p fun P =>
    { P with hiu := { P.hiu with
        fn := { wait := P.hiu.fn.wait }
        mb := vall P.hiu.mb fun _ B => if B.holder = 1 then { B with holder := 0, lockLost := true, lostByMgr := false } else B } }
  .next (match s.plains[p].run.mode with
    | .valley => s
    | .test => modPlain s p fun P => event P 0x0130 0 0
    | _ => plainReset (modPlain s p fun P => { P with run := { P.run with flrPend := true } }) p 3)

/-! ## Mailboxes (R283-R285) -/

/-- Lock owner number of an agent; 0 for the agents that Table — Lock owners does not list: they do not reach the mailboxes
(R284) (in part DEDUCED, log entry 31). -/
def ownerOf : Agent → BitVec 4
  | .hostFn => 1
  | .hostPf0 => 2
  | .mgrMachine => 3
  | .mgrSupervisor => 4
  | .mgrUser => 5
  | .testPort => 6
  | .loader | .i2c => 0

/-- The host's side of a mailbox (in part DEDUCED, log entry 31). -/
def isHost : Agent → Bool
  | .hostFn | .hostPf0 => true
  | _ => false

/-- The Manager's side of a mailbox (in part DEDUCED, log entry 31). -/
def isManager : Agent → Bool
  | .mgrMachine | .mgrSupervisor | .mgrUser => true
  | _ => false

/-- Another owner holds the lock (R284) (in part DEDUCED, log entry 31). -/
def lockedOut (B : Mailbox) (who : Agent) : Bool := decide (B.holder ≠ 0) && decide (B.holder ≠ ownerOf who)

/-- Sets a bit of MB_STAT. -/
def mbFlag (B : Mailbox) (i : Nat) : Mailbox := { B with stat := setBit B.stat (i - 4) true }

/-- A message register written (R283, R284). -/
def msgWrite (i : Nat) (who : Agent) (v : Word) (B : Mailbox) : Mailbox :=
  if ownerOf who = 0 then B
  else if lockedOut B who then mbFlag B 7
  else if B.go then mbFlag B 4
  else { B with msg := put 0 B.msg i v }

/-- LEN and DONE of an MB_CTL write (R283) (in part DEDUCED, log entry 31). -/
def mbCtlFields (v : Word) (B : Mailbox) : Mailbox :=
  let B := if bit v 9 then { B with done := false } else B
  if B.go then mbFlag B 4 else { B with len := v.setWidth 5 }

/-- Only the host sets GO on MB0 and only the Manager on MB1 (R283) (in part DEDUCED, log entry 31). -/
def wrongSender (m : Fin 4) (who : Agent) : Bool := (decide (m = 0) && !isHost who) || (decide (m = 1) && !isManager who)

/-- MB_CTL written (R283, R284, R287) (in part DEDUCED, log entry 31). -/
def mbCtlWrite (s : State) (p : Fin 8) (m : Fin 4) (who : Agent) (v : Word) : State :=
  if !awake s.plains[p] || decide (ownerOf who = 0) then s
  else
    let s := modPlain s p fun P => modMb P m (mbCtlFields v)
    let B := s.plains[p].hiu.mb[m]
    if !bit v 8 then s
    else if lockedOut B who then modPlain s p fun P => modMb P m fun B => mbFlag B 7
    else if wrongSender m who then modPlain s p fun P => modMb P m fun B => mbFlag B 6
    else if B.go then s
    else if B.len.toNat < 8 ∨ 16 < B.len.toNat then modPlain s p fun P => modMb P m fun B => mbFlag B 5
    else
      let s := modPlain s p fun P => modMb P m fun B => { B with go := true, done := false, fromHost := isHost who }
      if isHost who then modPlain s p fun P => event P 0x0110 m.val B.len.toNat else vector s p 2

/-- MB_GO (R283). -/
def execMbGo (p : Fin 8) (m : Fin 4) (who : Agent) (v : Word) (s : State) : Out := .next (mbCtlWrite s p m who (setBit v 8 true))

/-- MB_ACK written (R283, R287). -/
def mbAckWrite (s : State) (p : Fin 8) (m : Fin 4) (v : Word) : State :=
  let B := s.plains[p].hiu.mb[m]
  if !awake s.plains[p] || !bit v 31 || !B.go then s
  else
    let s := modPlain s p fun P => modMb P m fun B => { B with go := false, done := true, code := v.setWidth 16 }
    if B.fromHost then vector s p 2 else modPlain s p fun P => event P 0x0111 m.val (fld v 0 16)

/-- MB_ACK (R283). -/
def execMbAck (p : Fin 8) (m : Fin 4) (v : Word) (s : State) : Out := .next (mbAckWrite s p m v)

/-- A read of MB_LOCK: the state and the word returned (R284, R285, R287). -/
def mbLockGet (s : State) (p : Fin 8) (m : Fin 4) (who : Agent) : State × Word :=
  let B := s.plains[p].hiu.mb[m]
  let o := ownerOf who
  if !awake s.plains[p] then (s, 0xFFFFFFFF)
  else if o = 0 then (s, 0)
  else if B.holder = 0 then
    let w := w32 (b2n B.lockLost * 2 ^ 8)
    (modPlain s p fun P =>
      let P := modMb P m fun B => { B with holder := o, lockLost := false, lostByMgr := false, lastRead := w }
      if B.lockLost && B.lostByMgr then event P 0x0112 m.val o.toNat else P, w)
  else
    let w := if B.holder = o then 0 else B.holder.setWidth 32
    (modPlain s p fun P => modMb P m fun B => { B with lastRead := w }, w)

/-- MB_LOCK_READ (R284). -/
def execMbLockRead (p : Fin 8) (m : Fin 4) (who : Agent) (s : State) : Out := .next (mbLockGet s p m who).1

/-- A write of MB_LOCK: 0 by the holder releases the lock, a write by another owner sets NOT_OWNER (R284). -/
def mbLockPut (s : State) (p : Fin 8) (m : Fin 4) (who : Agent) (v : Word) : State :=
  modPlain s p fun P =>
    if !awake P || decide (ownerOf who = 0) then P
    else modMb P m fun B => if B.holder ≠ ownerOf who then mbFlag B 7 else if fld v 0 4 = 0 then { B with holder := 0 } else B

/-- MB_LOCK_RELEASE (R284). -/
def execMbLockRelease (p : Fin 8) (m : Fin 4) (who : Agent) (s : State) : Out := .next (mbLockPut s p m who 0)

/-! ## Doorbell bits (R286, R287) -/

/-- The doorbell registers change; every bit newly set and enabled is delivered. -/
def dbUpdate (s : State) (p : Fin 8) (stat mgr host : Word) : State :=
  let H := s.plains[p].hiu
  let toMgr := (stat &&& mgr) &&& ~~~(H.dbStat &&& H.dbMgr)
  let toHost := (stat &&& host) &&& ~~~(H.dbStat &&& H.dbHost)
  let s := modPlain s p fun P => { P with hiu := { P.hiu with dbStat := stat, dbMgr := mgr, dbHost := host } }
  let s := modPlain s p fun P => (List.range 32).foldl (fun P b => if bit toMgr b then event P 0x0120 b 0 else P) P
  (List.range 32).foldl (fun s b => if bit toHost b then vector s p (32 + b) else s) s

/-- Doorbell bits are set (R286), which the device's observation trees can show (20 R399). -/
def dbSetBits (s : State) (p : Fin 8) (v : Word) : State :=
  let H := s.plains[p].hiu
  dbUpdate { s with tap := { s.tap with obsDoorbell := some s.timeNs } } p (H.dbStat ||| v) H.dbMgr H.dbHost

/-- DB_SET (R286). -/
def execDbSet (p : Fin 8) (v : Word) (s : State) : Out := .next (if awake s.plains[p] then dbSetBits s p v else s)

/-- DB_STAT_CLEAR (R286). -/
def execDbStatClear (p : Fin 8) (v : Word) (s : State) : Out :=
  let P := s.plains[p]
  .next (if awake P then dbUpdate s p (w1c P.hiu.dbStat v) P.hiu.dbMgr P.hiu.dbHost else s)

/-- DB_MASK_WRITE (R286). -/
def execDbMaskWrite (p : Fin 8) (host : Bool) (v : Word) (s : State) : Out :=
  let P := s.plains[p]
  .next (if awake P then (if host then dbUpdate s p P.hiu.dbStat P.hiu.dbMgr v else dbUpdate s p P.hiu.dbStat v P.hiu.dbHost) else s)

end Sys2Proof.Machine
end

