-- ==== Sys2Proof/Machine/Dma.lean ====
section
/-! DEFINITION. The DMA engine (14): descriptors and their checks, channels, start events and timers. What the engine moves is in
Transfers.lean. -/

namespace Sys2Proof.Machine

/-! ## Checks of a transfer (R290-R294) -/

/-- The operation of a transfer. -/
inductive DmaOp where
  | copy | fill | compare
deriving DecidableEq, Repr

/-- A transfer: 64-bit SRC and DST, LEN, and the wrap sizes' exponents (R291). -/
structure Transfer where
  op : DmaOp
  src : Nat
  dst : Nat
  len : Nat
  wrapSrc : Option Nat := none
  wrapDst : Option Nat := none
deriving DecidableEq, Repr

/-- Address of byte `i` (R294). -/
def wrapAt (wrap : Option Nat) (start i : Nat) : Nat :=
  match wrap with
  | none => start + i
  | some k => start / 2 ^ k * 2 ^ k + (start + i) % 2 ^ k

/-- The range that R290 checks: its start and length. -/
def checkedRange (wrap : Option Nat) (start len : Nat) : Nat × Nat :=
  match wrap with
  | none => (start, len)
  | some k => (start / 2 ^ k * 2 ^ k, 2 ^ k)

/-- A range lies wholly inside one row of the address ranges; `desc`: one where descriptors may live (R290). -/
def inDmaRow (desc : Bool) (r : Nat × Nat) : Bool :=
  let inside (lo hi : Nat) : Bool := decide (lo ≤ r.1) && decide (r.1 + r.2 ≤ hi)
  inside 0x10000000 0x10F00000 || (!desc && inside 0x40000000 0x42000000) || inside 0x1000000000 0x1600000000 || inside 0x8000000000 0x10000000000

/-- The check of alignment, descriptor and ranges, and REPLAY_BLOCK: 0 when the transfer is executed (R290, R293, R300). -/
def transferStatus (P : Plain) (bad : Bool) (T : Transfer) : Nat :=
  let src := checkedRange T.wrapSrc T.src T.len
  let dst := checkedRange T.wrapDst T.dst T.len
  if (T.op ≠ .fill ∧ T.src % 64 ≠ 0) ∨ T.dst % 64 ≠ 0 ∨ T.len % 64 ≠ 0 then 1
  else if bad then 2
  else if T.len = 0 then 0
  else if (T.op ≠ .fill ∧ !inDmaRow false src) ∨ !inDmaRow false dst then 3
  else match decodeAddr dst.1 with
    | .basin off => if P.run.mode = .replay ∧ loggedRange P.basin off dst.2 then 7 else 0
    | _ => 0

/-! ## Descriptors (R291, R293) -/

/-- The transfer of a descriptor's 32 bytes. -/
def transferOf (d : BitVec 256) : Transfer :=
  let ctrl := fld d 160 32
  let op : DmaOp := if ctrl % 4 = 1 then .fill else if ctrl % 4 = 2 then .compare else .copy
  let k := fldN ctrl 8 6
  { op := op, src := fld d 0 64, dst := fld d 64 64, len := fld d 128 32
    wrapSrc := if ctrl.testBit 5 then some k else none
    wrapDst := if ctrl.testBit 6 then some k else none }

/-- BAD_DESC (R293) (in part DEDUCED, log entry 33). -/
def badDescriptor (d : BitVec 256) : Bool :=
  let ctrl := fld d 160 32
  let k := fldN ctrl 8 6
  ctrl % 4 == 3 || ctrl.testBit 7 || fldN ctrl 14 18 != 0 || (ctrl % 4 != 1 && fld d 40 24 != 0) || fld d 104 24 != 0 || fld d 232 23 != 0 ||
  ((ctrl.testBit 5 || ctrl.testBit 6) && (decide (k < 6) || decide (39 < k)))

/-! ## Channels (R297-R299) -/

/-- LOG2N of a channel; larger values act as 16. -/
def ringLog (C : Channel) : Nat := min 16 (fld C.cfg 24 5)

/-- CH_CFG as it is in force: a write while RUNNING takes effect at the next descriptor fetch (R305). -/
def inForce (C : Channel) : Word := if C.running then C.act else C.cfg

/-- A start that has no effect is counted (R298, R299). -/
def dropStarts (n : Nat) (P : Plain) : Plain := { P with dma := { P.dma with dropped := satAdd P.dma.dropped n } }

/-- A start of a channel (R298): GO of channel 15 is ignored (R303), and every channel stays stopped until a reset or the entry
to QUARANTINE that has begun is over (R304). -/
def dmaStart (c : Fin 16) (P : Plain) : Plain :=
  let C := P.dma.ch[c]
  if c = 15 ∨ clearing P then P
  else if !C.en || (C.running && C.latch) then dropStarts 1 P
  else if C.running then modCh P c fun C => { C with latch := true }
  else modCh P c fun C => { C with running := true, act := C.cfg }

/-- The channel stops; a set latch restarts it at once (R298). -/
def stopChannel (C : Channel) : Channel :=
  if C.latch then { C with latch := false, cancel := false, running := true, cur := none } else { C with running := false, cancel := false, cur := none }

/-- A cancel (R299). -/
def dmaCancel (C : Channel) : Channel :=
  if C.running && C.cur.isSome then { C with cancel := true } else { C with running := false, latch := false, cancel := false }

/-- A channel is started by an event code: a code of Table — Start events, or 0x100 + n for trigger entry n. -/
def startedBy (C : Channel) (code : Nat) : Bool :=
  let sel := fld (inForce C) 0 6
  if code < 0x100 then sel == code else sel == 0x30 && fld (inForce C) 6 5 == code - 0x100

/-- Start events that are raised and not delivered arrive in the engine step of a cancel of channel `c`: they do not start it
and are counted (R299, R305) (in part DEDUCED, log entry 33). -/
def skipStarts (c : Fin 16) (P : Plain) : Plain :=
  let hits (e : StartEvent) : Bool := startedBy P.dma.ch[c] e.code && !bit e.skip c.val
  dropStarts (P.dma.events.filter hits).length
    { P with dma := { P.dma with events := P.dma.events.map fun e => if hits e then { e with skip := setBit e.skip c.val true } else e } }

/-- CH_CTL written (R298, R299, R303): cancels before starts. -/
def chCtlWrite (c : Fin 16) (v : Word) (P : Plain) : Plain :=
  if !awake P then P
  else
    let P := modCh P c fun C => { C with en := bit v 0 }
    if c = 15 then P
    else if bit v 2 then
      let P := modCh (skipStarts c P) c dmaCancel
      if bit v 1 then dropStarts 1 P else P
    else if bit v 1 then dmaStart c P else P

/-- CH_CTL_GO (R298). -/
def execChCtlGo (p : Fin 8) (c : Fin 16) (v : Word) (s : State) : Out := .next (modPlain s p (chCtlWrite c (setBit v 1 true)))

/-- CH_CTL_CANCEL (R299). -/
def execChCtlCancel (p : Fin 8) (c : Fin 16) (v : Word) (s : State) : Out := .next (modPlain s p (chCtlWrite c (setBit v 2 true)))

/-- DMA_START_EVENT (R298): the oldest event starts every channel that selects it (in part DEDUCED, log entry 33). -/
def execDmaStartEvent (p : Fin 8) (s : State) : Out :=
  match s.plains[p].dma.events with
  | [] => .next s
  | e :: rest => .next (modPlain s p fun P =>
      (List.finRange 16).foldl (fun Q c => if startedBy P.dma.ch[c] e.code && !bit e.skip c.val then dmaStart c Q else Q) { P with dma := { P.dma with events := rest } })

/-! ## Configuration of a channel (R301) -/

/-- QoS of a channel's transactions; 0 for BULK ring work (R301, 15 R313). -/
def qosOf (P : Plain) (c : Fin 16) : Nat := if c = 15 then 0 else fld (inForce P.dma.ch[c]) 12 4

/-- CH_CFG written (R301, R306): LOG2N only while STOPPED. -/
def chCfgPut (c : Fin 16) (v : Word) (P : Plain) : Plain :=
  let total := ((List.finRange 16).map fun i => if i = c then fld v 16 7 else fld P.dma.ch[i].cfg 16 7).sum
  if !awake P then P
  else if fld v 16 7 = 0 ∨ 64 < total then { P with dma := { P.dma with cfgErr := true } }
  else modCh P c fun C => { C with cfg := (v &&& 0x007FF7FF#32) ||| ((if C.running then C.cfg else v) &&& 0x1F000000#32) }

/-- CH_CFG_WRITE (R301). -/
def execChCfgWrite (p : Fin 8) (c : Fin 16) (v : Word) (s : State) : Out := .next (modPlain s p (chCfgPut c v))

/-! ## Timers (R302) -/

/-- TIMER_FIRE (R302). -/
def execTimerFire (p n : Fin 8) (s : State) : Out :=
  let T := s.plains[p].dma.timers[n]
  if T.period ≠ 0 ∧ T.due ≤ s.timeNs then
    .next (modPlain s p fun P => { P with dma := { P.dma with
      timers := vmod P.dma.timers n fun T => { T with count := satInc T.count, due := T.due + T.period.toNat }
      events := P.dma.events ++ [{ code := 1 + n.val }] } })
  else .next s

/-- TIMERn_PERIOD written (R302). -/
def timerPut (now : Nat) (n : Fin 8) (v : Word) (P : Plain) : Plain :=
  if !awake P then P
  else { P with dma := { P.dma with timers := vmod P.dma.timers n fun T => { T with period := v, due := now + v.toNat } } }

/-- TIMER_PERIOD_WRITE (R302). -/
def execTimerPeriodWrite (p n : Fin 8) (v : Word) (s : State) : Out := .next (modPlain s p (timerPut s.timeNs n v))

end Sys2Proof.Machine
end

