-- ==== Sys2Proof/Machine/Jobs.lean ====
section
/-! DEFINITION. The JOB operations (13 R269, 18 R368). Each acts when its descriptor has started and
records the outcome with which the firmware posts its completion. -/

namespace Sys2Proof.Machine

/-! ## Modes (18 R368, R373) -/

/-- The Plain may leave HOLD for a stepping mode (R368, R373, 19 R387). -/
def mayStep (P : Plain) : Bool := P.run.admitted && !P.run.colDirty && !P.health.incomplete && P.run.after.isNone

/-- HOLD is left for a stepping mode other than REPLAY: row 9 of the next cycle begins (R20, R197, R210, R340). The boundary at
which the Plain held stays known, so that a hold target that arrives late is ignored (08 R173). -/
def leaveHold (tstep now : Nat) (m : Mode) (P : Plain) : Plain :=
  let P := setMode (branch P) m
  let P := { P with run := { P.run with paceRef := none }, pio := { P.pio with credit := if m = .bridge then 0 else P.pio.credit } }
  recompute tstep (enterRow9 now P)

/-- The modes to which JOB MODE leads (R368). -/
def modeTarget (m : Mode) : Bool :=
  match m with
  | .run | .bridge | .transact | .checked | .valley => true
  | _ => false

/-- The mode with a code (R367). -/
def modeOfCode (n : Nat) : Option Mode :=
  [Mode.valley, .boot, .load, .hold, .run, .step, .replay, .bridge, .transact, .checked, .quarantine, .test][n]?

/-- A JOB operation that is refused. -/
def jobDone (s : State) (p : Fin 8) (seq : Word) (status result : Nat) : State := modPlain s p fun P => outcome P 0 seq status result

/-- JOB MODE for a mode that exists (in part DEDUCED, log entry 36). -/
def jobModeTo (s : State) (p : Fin 8) (seq : Word) (m : Mode) : State :=
  let P := s.plains[p]
  if P.run.after.isSome then jobDone s p seq 0x0C 0
  else if m = .valley then
    if P.run.mode = .hold ∨ P.run.mode = .quarantine then startValley (modPlain s p fun P => beginJob P seq .mode) p
    else if modeStepping P.run.mode ∧ P.sync.target.isSome then
      modPlain s p fun P => { beginJob P seq .mode with run := { P.run with modePend := some .valley } }
    else jobDone s p seq 0x0C 0
  else if !modeTarget m then jobDone s p seq 0x0C 0
  else if P.run.mode = .hold then
    if mayStep P then jobDone (modPlain s p (leaveHold s.fuses.tstepPs s.timeNs m)) p seq 0 0 else jobDone s p seq 0x0C 0
  else if modeTarget P.run.mode ∧ P.run.mode ≠ m ∧ P.run.mode ≠ .valley then
    modPlain s p fun P => { beginJob P seq .mode with run := { P.run with modePend := some m } }
  else jobDone s p seq 0x0C 0

/-- JOB_MODE (R368) (in part DEDUCED, log entry 28). -/
def execJobMode (p : Fin 8) (seq : Word) (code : Byte) (s : State) : Out :=
  if !startedNow s.plains[p] 0 seq 2 [(16, 1, code.toNat)] then .next s
  else match modeOfCode code.toNat with
    | none => .next (jobDone s p seq (if jobMode s.plains[p] then 0x13 else 0x0C) 0)
    | some m => .next (jobModeTo s p seq m)

/-- JOB_HOLD (R21). -/
def execJobHold (p : Fin 8) (seq : Word) (s : State) : Out :=
  let P := s.plains[p]
  if !startedNow P 0 seq 3 [] then .next s
  else if jobMode P then
    .next (valleyFollows (modPlain s p fun P => holdCommand s.fuses.tstepPs s.timeNs (beginJob P seq .hold)) p)
  else .next (jobDone s p seq 0x0C 0)

/-- An abort has named the descriptor before its operation began (R270) (in part DEDUCED, log entry 28). -/
def abortedFirst (P : Plain) (seq : Word) : Bool := decide (seq ∈ P.hiu.rings[(0 : Fin 4)].abortSeen)

/-- JOB_STEP (R269) (in part DEDUCED, log entry 28). -/
def execJobStep (p : Fin 8) (seq n : Word) (s : State) : Out :=
  let P := s.plains[p]
  if !startedNow P 0 seq 4 [(16, 4, n.toNat)] then .next s
  else if abortedFirst P seq then .next (jobDone s p seq 0x11 0)
  else if P.run.mode ≠ .hold ∨ !mayStep P then .next (jobDone s p seq 0x0C 0)
  else if n = 0 then .next (jobDone s p seq 0x13 0)
  else .next (modPlain s p fun P =>
    let P := leaveHold s.fuses.tstepPs s.timeNs .step (beginJob P seq .step)
    { P with run := { P.run with stepsLeft := some n.toNat } })

/-- JOB_CHECKPOINT (R191). -/
def execJobCheckpoint (p : Fin 8) (seq : Word) (s : State) : Out :=
  let P := s.plains[p]
  if !startedNow P 0 seq 5 [] then .next s
  else if abortedFirst P seq then .next (jobDone s p seq 0x11 0)
  else if jobMode P then
    .next (modPlain s p fun P => let P := beginJob P seq .checkpoint; { P with cap := { P.cap with dueJob := true } })
  else .next (jobDone s p seq 0x0C 0)

/-- JOB_REPLAY (R194). -/
def execJobReplay (p : Fin 8) (seq : Word) (slot : BitVec 4) (restore : Bool) (stop : BitVec 48) (s : State) : Out :=
  let P := s.plains[p]
  if !startedNow P 0 seq 6 [(16, 1, slot.toNat), (17, 1, b2n restore), (24, 6, stop.toNat)] then .next s
  else if abortedFirst P seq then .next (jobDone s p seq 0x11 0)
  else if P.run.mode ≠ .hold ∨ P.run.after.isSome ∨ (!restore ∧ !mayStep P) then .next (jobDone s p seq 0x0C 0)
  else .next (replayGo (modPlain s p fun P => beginJob P seq .replay) p slot.toNat restore stop)

/-- JOB_RESET (R269): the Plain reset; the descriptor completes when it is re-read. -/
def execJobReset (p : Fin 8) (seq : Word) (s : State) : Out :=
  if !startedNow s.plains[p] 0 seq 7 [] then .next s
  else .next (plainReset (modPlain s p fun P => beginJob P seq .reset) p 1)

/-! ## LINK (R269) -/

/-- A JOB LINK operation with action code `code`: `act` is the LINK_CTL write. -/
def jobLink (s : State) (p : Fin 8) (seq : Word) (code : Nat) (link : Byte) (holdOnly : Bool) (act : State → Fin 8 → Fin 8 → State) : State :=
  let P := s.plains[p]
  if !startedNow P 0 seq 8 [(16, 1, link.toNat), (17, 1, code)] then s
  else if !jobMode P || (holdOnly && decide (P.run.mode ≠ .hold)) then jobDone s p seq 0x0C 0
  else if 7 < link.toNat then jobDone s p seq 0x13 0
  else jobDone (act s p (Fin.ofNat 8 link.toNat)) p seq 0 0

/-- JOB_LINK_OPEN (R269). -/
def execJobLinkOpen (p : Fin 8) (seq : Word) (link : Byte) (s : State) : Out := .next (jobLink s p seq 0 link false ctlOpen)

/-- JOB_LINK_CLOSE (R269). -/
def execJobLinkClose (p : Fin 8) (seq : Word) (link : Byte) (s : State) : Out := .next (jobLink s p seq 1 link false ctlClose)

/-- JOB_LINK_RETRAIN (R269, R162). -/
def execJobLinkRetrain (p : Fin 8) (seq : Word) (link : Byte) (s : State) : Out := .next (jobLink s p seq 2 link true ctlRetrain)

/-- JOB_LINK_RET_REL (R269). -/
def execJobLinkRetRel (p : Fin 8) (seq : Word) (link : Byte) (s : State) : Out := .next (jobLink s p seq 3 link false ctlRetRel)

end Sys2Proof.Machine
end

