-- ==== Sys2Proof/Machine/Pio.lean ====
section
/-! DEFINITION. The PIO engines and target pins (16). An instruction row is one tick of an engine: it acts when the engine
runs and the word at its PC is that instruction; `pads` are the pad levels as they stood 5 ns before the tick (R333). -/

namespace Sys2Proof.Machine

/-! ## Pins and banks (R331-R333) -/

/-- The bank of a pin is off (R331) (in part DEDUCED, log entry 34). -/
def bankOff (bank : BitVec 12) (pin : Nat) : Bool := let v := fld bank (3 * (pin / 12)) 3; v == 0 || decide (4 < v)

/-- Pad levels as the engines and PIO_PIN read them: a bank that is off reads 0 (R331) (in part DEDUCED, log entry 34). -/
def seenPads (bank : BitVec 12) (pads : BitVec 48) : BitVec 48 :=
  (List.range 48).foldl (fun v i => if bankOff bank i then setBit v i false else v) pads

/-- The Plain is in VALLEY, in a Plain reset or in QUARANTINE, or on the way there: its target pins are high-impedance, and its
observation pins drive 0 (R341, 21 R414) (in part DEDUCED, log entry 59). -/
def pinsIdle (P : Plain) : Bool := decide (P.run.mode = .valley) || decide (P.run.mode = .quarantine) || clearing P

/-- Half nanoseconds of a tick (R333). -/
def tickHalves (E : PioEngine) : Nat := 5 * max 1 E.div.toNat

/-- The levels and output-enables that the pads had from an engine at time `t` in half ns (R333). -/
def shownAt (t : Nat) (E : PioEngine) : Byte × Byte :=
  match E.shown.find? fun x => decide (x.1 ≤ t) with
  | some x => x.2
  | none => (E.shown.getLast?.map (·.2)).getD (E.levels, E.oen)

/-- What is kept of the history: all that is younger than 5 ns and the entry before it. -/
def keepShown (now : Nat) : List (Nat × Byte × Byte) → List (Nat × Byte × Byte)
  | [] => []
  | x :: r => if x.1 + 10 ≤ 2 * now then [x] else x :: keepShown now r

/-- A tick that begins now ends the tick before it: what that one changed reaches the pads at this edge (R333). -/
def tickBegin (now : Nat) (E : PioEngine) : PioEngine :=
  if E.changed then { E with changed := false, shown := match E.shown with
    | x :: r => (2 * now, x.2) :: r
    | [] => [] } else E

/-- What the tick that `E` begins now has changed, `F`, reaches the pads at its end, one tick later (R333) (in part DEDUCED, log
entry 34). -/
def noteShown (now : Nat) (E F : PioEngine) : PioEngine :=
  if E.levels = F.levels ∧ E.oen = F.oen then F
  else { F with changed := true
                shown := (2 * now + tickHalves E, F.levels, F.oen) :: (if E.shown = [] then [(0, E.levels, E.oen)] else keepShown now E.shown) }

/-- The level with which the Plain's engines drive a pin at time `t` in half ns; none when it is high-impedance (R331, R332, 21 R414). -/
def pinDriver (t : Nat) (P : Plain) (pin : Nat) : Option Bool :=
  if bankOff P.pio.bank pin || pinsIdle P then none
  else (P.pio.eng.toList.find? fun E => decide (E.base ≤ pin) && decide (pin < E.base + 8) && bit (shownAt t E).2 (pin - E.base)).map fun E =>
    bit (shownAt t E).1 (pin - E.base)

/-- The levels of the pins at time `t` in half ns: those that are driven, and for the others the level from outside. -/
def padsAt (t : Nat) (P : Plain) (outside : BitVec 48) : BitVec 48 :=
  seenPads P.pio.bank ((List.range 48).foldl (fun v i => match pinDriver t P i with
    | some b => setBit v i b
    | none => v) outside)

/-- Pad levels as an instruction of engine `e` whose tick begins now reads them: driven pins as they stood 5 ns before; `outside` is what
the other pins had then (R332, R333). -/
def sampledPads (now : Nat) (e : Fin 4) (P : Plain) (outside : BitVec 48) : BitVec 48 := padsAt (2 * now - 10) (modEng P e (tickBegin now)) outside

/-- Pad levels as PIO_PIN shows them (R343). -/
def padLevels (now : Nat) (P : Plain) : BitVec 48 := padsAt (2 * now) P P.pio.pads

/-- Window pin `i` of an engine. -/
def windowPin (pads : BitVec 48) (E : PioEngine) (i : Nat) : Bool := bit pads (E.base + i)

/-! ## Instruction words (R334) -/

/-- The instructions. -/
inductive PioKind where
  | br | drv | xfer | ldsh | stsh | ctr | await | sigEvt | sigPace | sigDma | sigHalt | sigDelay | reserved
deriving DecidableEq, Repr

/-- The instruction of a word; `reserved` for a reserved OP, a nonzero reserved bit or a reserved field value. -/
def pioKind (w : BitVec 16) : PioKind :=
  match fld w 0 4 with
  | 1 => if fld w 8 3 ≠ 3 ∧ fld w 4 4 ≠ 0 then .reserved else .br
  | 2 => if 1 < fld w 6 2 then .reserved else .drv
  | 3 => if fld w 4 4 ≠ 0 then .reserved else .xfer
  | 4 => if fld w 4 6 ≠ 0 then .reserved else .ldsh
  | 5 => if fld w 14 2 = 3 ∨ fld w 4 9 ≠ 0 then .reserved else .stsh
  | 6 => if bit w 4 ∨ (fld w 13 2 ≠ 0 ∧ fld w 5 8 ≠ 0) then .reserved else .ctr
  | 7 => if fld w 4 8 ≠ 0 then .reserved else .await
  | 8 =>
    if bit w 4 then .reserved
    else match fld w 5 3 with
      | 0 => .sigEvt
      | 1 => if fld w 8 8 = 0 then .sigPace else .reserved
      | 2 => if fld w 8 8 = 0 then .sigDma else .reserved
      | 3 => if fld w 8 8 = 0 then .sigHalt else .reserved
      | 4 => .sigDelay
      | _ => .reserved
  | _ => .reserved

/-- The word at the PC. -/
def pioWord (E : PioEngine) : BitVec 16 := look 0 E.imem E.pc.toNat

/-- The next instruction follows in order (in part DEDUCED, log entry 34). -/
def pioNext (E : PioEngine) : PioEngine := { E with pc := E.pc + 1, blocked := false }

/-- A waiting instruction is held. -/
def pioWait (E : PioEngine) : PioEngine := { E with blocked := true }

/-- The engine executes an instruction of kind `k` in its next tick: it runs, and no reset has stopped the Plain's engines (R341, 18 R372). -/
def pioTakes (k : PioKind) (P : Plain) (E : PioEngine) : Bool := E.running && decide (pioKind (pioWord E) = k) && !clearing P

/-- Runs one tick of engine `e` when the instruction at its PC is of kind `k`. -/
def pioTick (k : PioKind) (s : State) (p : Fin 8) (e : Fin 4) (act : BitVec 16 → PioEngine → PioEngine) : State :=
  modPlain s p fun P => modEng P e fun E =>
    if pioTakes k P E then
      let E := tickBegin s.timeNs E
      noteShown s.timeNs E { act (pioWord E) E with tick := !E.tick }
    else E

/-- The outside levels that arrive with a tick. -/
def notePads (s : State) (p : Fin 8) (pads : BitVec 48) : State := modPlain s p fun P => { P with pio := { P.pio with pads := pads } }

/-! ## The instructions (R334) -/

/-- TEST of a BR: the engine after it, and whether the branch is taken. -/
def brTest (pads : BitVec 48) (w : BitVec 16) (E : PioEngine) : PioEngine × Bool :=
  match fld w 8 3 with
  | 0 => (E, true)
  | 1 => (E, E.ca == 0)
  | 2 => (E, E.cb == 0)
  | 3 => (E, windowPin pads E (fld w 5 3) == bit w 4)
  | 4 => (E, E.ocnt == 0)
  | 5 => (E, E.icnt == 32)
  | 6 => let c := if E.ca = 0 then 0 else E.ca - 1; ({ E with ca := c }, c != 0)
  | _ => let c := if E.cb = 0 then 0 else E.cb - 1; ({ E with cb := c }, c != 0)

/-- BR. -/
def pioBrAct (pads : BitVec 48) (w : BitVec 16) (E : PioEngine) : PioEngine :=
  let r := brTest pads w E
  if r.2 then { r.1 with pc := BitVec.ofNat 5 (fld w 11 5), blocked := false } else pioNext r.1

/-- PIO_BR (R334). -/
def execPioBr (p : Fin 8) (e : Fin 4) (pads : BitVec 48) (s : State) : Out :=
  let s := notePads s p pads
  .next (pioTick .br s p e (pioBrAct (sampledPads s.timeNs e s.plains[p] pads)))

/-- FUNC of a DRV on eight bits. -/
def drvFunc (func : Nat) (data v : Byte) : Byte :=
  match func with
  | 0 => data
  | 1 => v ||| data
  | 2 => v &&& ~~~data
  | _ => v ^^^ data

/-- DRV. -/
def pioDrvAct (w : BitVec 16) (E : PioEngine) : PioEngine :=
  let f := drvFunc (fld w 4 2) (BitVec.ofNat 8 (fld w 8 8))
  pioNext (if fld w 6 2 = 0 then { E with levels := f E.levels } else { E with oen := f E.oen })

/-- PIO_DRV (R334). -/
def execPioDrv (p : Fin 8) (e : Fin 4) (s : State) : Out := .next (pioTick .drv s p e pioDrvAct)

/-- XFER: the input is sampled before the output changes. -/
def pioXferAct (pads : BitVec 48) (w : BitVec 16) (E : PioEngine) : PioEngine :=
  let sample := windowPin pads E (fld w 10 3)
  let E := if bit w 9 then { E with levels := setBit E.levels (fld w 13 3) (bit E.sh 0), ocnt := E.ocnt - 1 } else E
  let E := { E with sh := E.sh >>> 1 }
  pioNext (if bit w 8 then { E with sh := setBit E.sh 31 sample, icnt := min (E.icnt + 1) 32 } else E)

/-- PIO_XFER (R334). -/
def execPioXfer (p : Fin 8) (e : Fin 4) (pads : BitVec 48) (s : State) : Out :=
  let s := notePads s p pads
  .next (pioTick .xfer s p e (pioXferAct (sampledPads s.timeNs e s.plains[p] pads)))

/-- LDSH. -/
def pioLdshAct (w : BitVec 16) (E : PioEngine) : PioEngine :=
  match E.tx with
  | x :: rest => pioNext { E with tx := rest, sh := x, ocnt := fld w 11 5 + 1, icnt := 0 }
  | [] => if bit w 10 then pioWait E else pioNext E

/-- PIO_LDSH (R334). -/
def execPioLdsh (p : Fin 8) (e : Fin 4) (s : State) : Out := .next (pioTick .ldsh s p e pioLdshAct)

/-- The word of an STSH. -/
def stshWord (src : Nat) (E : PioEngine) : Word :=
  match src with
  | 0 => if E.icnt = 0 then 0 else E.sh >>> (32 - E.icnt)
  | 1 => E.ca.setWidth 32
  | _ => E.cb.setWidth 32

/-- STSH: a held one has no effect. -/
def pioStshAct (w : BitVec 16) (E : PioEngine) : PioEngine :=
  let src := fld w 14 2
  let x := stshWord src E
  if E.rx.length < 4 then pioNext { E with rx := E.rx ++ [x], icnt := if src = 0 then 0 else E.icnt }
  else if bit w 13 then pioWait E
  else pioNext { E with icnt := if src = 0 then 0 else E.icnt, flags := setBit E.flags 2 true }

/-- PIO_STSH (R334). -/
def execPioStsh (p : Fin 8) (e : Fin 4) (s : State) : Out := .next (pioTick .stsh s p e pioStshAct)

/-- Writes CA or CB. -/
def setCounter (sel : Bool) (c : BitVec 16) (E : PioEngine) : PioEngine := if sel then { E with cb := c } else { E with ca := c }

/-- CTR. -/
def pioCtrAct (w : BitVec 16) (E : PioEngine) : PioEngine :=
  let sel := bit w 15
  let c := if sel then E.cb else E.ca
  match fld w 13 2 with
  | 0 => pioNext (setCounter sel (BitVec.ofNat 16 (fld w 5 8)) E)
  | 1 => match E.tx with
    | x :: rest => pioNext (setCounter sel (x.setWidth 16) { E with tx := rest })
    | [] => pioWait E
  | 2 => pioNext (setCounter sel (if c = 0 then 0 else c - 1) E)
  | _ => pioNext (setCounter sel (if c = 0xFFFF#16 then c else c + 1) E)

/-- PIO_CTR (R334). -/
def execPioCtr (p : Fin 8) (e : Fin 4) (s : State) : Out := .next (pioTick .ctr s p e pioCtrAct)

/-- AWAIT. -/
def pioAwaitAct (pads : BitVec 48) (w : BitVec 16) (E : PioEngine) : PioEngine :=
  if windowPin pads E (fld w 13 3) = bit w 12 then pioNext E else pioWait E

/-- PIO_AWAIT (R334). -/
def execPioAwait (p : Fin 8) (e : Fin 4) (pads : BitVec 48) (s : State) : Out :=
  let s := notePads s p pads
  .next (pioTick .await s p e (pioAwaitAct (sampledPads s.timeNs e s.plains[p] pads)))

/-- The engine executes an instruction of kind `k` in its next tick. -/
def pioAt (k : PioKind) (s : State) (p : Fin 8) (e : Fin 4) : Bool := pioTakes k s.plains[p] s.plains[p].pio.eng[e]

/-- A SIG that tells another unit: `report` acts on the Plain with IMM. -/
def pioSignal (k : PioKind) (s : State) (p : Fin 8) (e : Fin 4) (report : Nat → Plain → Plain) : State :=
  if pioAt k s p e then
    let imm := fld (pioWord s.plains[p].pio.eng[e]) 8 8
    modPlain s p fun P => modEng (report imm P) e fun E => { pioNext (tickBegin s.timeNs E) with tick := !E.tick }
  else s

/-- PIO_SIG_EVT (R334, R343). -/
def execPioSigEvt (p : Fin 8) (e : Fin 4) (s : State) : Out :=
  .next (pioSignal .sigEvt s p e fun imm P => event P 0x0150 e.val imm)

/-- A pace event of an engine (R339); in the period of a decrement it counts before it (R340). -/
def paceEvent (now : Nat) (e : Fin 4) (P : Plain) : Plain :=
  let limit := if P.pio.limit = 0 then 1 else P.pio.limit.toNat
  let taken := if P.pio.decAt = some (pioPeriod now) then 1 else 0
  if !bit P.pio.src e.val || decide (P.run.mode = .replay) then P
  else if limit ≤ P.pio.credit + taken then { P with pio := { P.pio with drop := satInc P.pio.drop } }
  else { P with pio := { P.pio with credit := P.pio.credit + 1 } }

/-- PIO_SIG_PACE (R339). -/
def execPioSigPace (p : Fin 8) (e : Fin 4) (s : State) : Out := .next (pioSignal .sigPace s p e fun _ => paceEvent s.timeNs e)

/-- PIO_SIG_DMA (R334, 14 R298): start event 0x20 + n. -/
def execPioSigDma (p : Fin 8) (e : Fin 4) (s : State) : Out :=
  .next (pioSignal .sigDma s p e fun _ P => { P with dma := { P.dma with events := P.dma.events ++ [{ code := 0x20 + e.val }] } })

/-- PIO_SIG_HALT (R334, R337) (in part DEDUCED, log entry 34). -/
def execPioSigHalt (p : Fin 8) (e : Fin 4) (s : State) : Out :=
  .next (pioTick .sigHalt s p e fun _ E => { pioNext E with running := false })

/-- SIG KIND 4 occupies IMM + 1 ticks. -/
def pioDelayAct (w : BitVec 16) (E : PioEngine) : PioEngine :=
  match E.delay.getD (fld w 8 8) with
  | 0 => pioNext { E with delay := none }
  | n + 1 => { E with delay := some n, blocked := false }

/-- PIO_SIG_DELAY (R334): one of its ticks. -/
def execPioSigDelay (p : Fin 8) (e : Fin 4) (s : State) : Out := .next (pioTick .sigDelay s p e pioDelayAct)

/-- PIO_RESERVED_INSTR (R334): the engine halts with BAD_INSTR, and PIO_ERR names its PC (in part DEDUCED, log entry 34). -/
def execPioReservedInstr (p : Fin 8) (e : Fin 4) (s : State) : Out :=
  if pioAt .reserved s p e then
    .next (modPlain s p fun P =>
      event (modEng P e fun E => { tickBegin s.timeNs E with running := false, blocked := false, tick := !E.tick, flags := setBit E.flags 3 true }) 0x0151 e.val P.pio.eng[e].pc.toNat)
  else .next s

/-! ## TX and RX (R335) -/

/-- M1 makes the access. -/
def isM1 : Agent → Bool
  | .mgrMachine | .mgrSupervisor | .mgrUser => true
  | _ => false

/-- PEn_TX written (R335). -/
def pioTxPut (e : Fin 4) (who : Agent) (v : Word) (P : Plain) : Plain :=
  if !isM1 who || !awake P then P
  else modEng P e fun E => if E.tx.length < 4 then { E with tx := E.tx ++ [v] } else { E with flags := setBit E.flags 0 true }

/-- PIO_TX_WRITE (R335). -/
def execPioTxWrite (p : Fin 8) (e : Fin 4) (who : Agent) (v : Word) (s : State) : Out := .next (modPlain s p (pioTxPut e who v))

/-- PEn_RX read: the Plain after it and the word returned; a word that the Manager takes is logged (R335, 09 R186). -/
def pioRxGet (e : Fin 4) (who : Agent) (P : Plain) : Plain × Word :=
  if !isM1 who || !awake P then (P, 0)
  else match P.pio.eng[e].rx with
    | x :: rest => (logInput (modEng P e fun E => { E with rx := rest, lastRx := x }) (recPio e x), x)
    | [] => (modEng P e fun E => { E with flags := setBit E.flags 1 true, lastRx := 0 }, 0)

/-- A word taken from RX waits for room for its record: input records are never discarded (09 R184) (in part DEDUCED, log entry 45). -/
def pioRxWaits (e : Fin 4) (who : Agent) (P : Plain) : Bool := isM1 who && awake P && !P.pio.eng[e].rx.isEmpty && decide (capSize P ≠ 0) && !inputRoom P 8

/-- PIO_RX_READ (R335). -/
def execPioRxRead (p : Fin 8) (e : Fin 4) (who : Agent) (s : State) : Out :=
  .next (if pioRxWaits e who s.plains[p] then s else modPlain s p fun P => (pioRxGet e who P).1)

/-! ## Start, stop and configuration (R331, R337, R338) -/

/-- Starts an engine: after a stop in the same period it stays stopped (R337, R338). The second component: START_LOST. -/
def startEngine (now : Nat) (E : PioEngine) : PioEngine × Bool :=
  if E.stoppedAt = some (pioPeriod now) then (E, true)
  else ({ E with running := true, pc := E.entry, blocked := false, changed := false, delay := none, startedAt := some (pioPeriod now) }, false)

/-- Stops an engine at the end of its tick (R337, R338). The second component: START_LOST. -/
def stopEngine (now : Nat) (E : PioEngine) : PioEngine × Bool :=
  ({ E with running := false, blocked := false, changed := false, delay := none, stoppedAt := some (pioPeriod now), startedAt := none },
   decide (E.startedAt = some (pioPeriod now)))

/-- Applies a start or a stop to the engines of a mask. -/
def pioMask (f : PioEngine → PioEngine × Bool) (v : Word) (P : Plain) : Plain :=
  let lost := (List.finRange 4).any fun e => bit v e.val && (f P.pio.eng[e]).2
  { P with pio := { P.pio with
      eng := vall P.pio.eng fun e E => if bit v e.val then (f E).1 else E
      startLost := P.pio.startLost || lost } }

/-- PIO_START written; in TEST, and while a reset has stopped the engines, they stay stopped (R337, R341, 18 R372) (in part DEDUCED,
log entry 34). -/
def pioStartPut (now : Nat) (v : Word) (P : Plain) : Plain :=
  if !awake P || decide (P.run.mode = .test) || clearing P then P else pioMask (startEngine now) v P

/-- PIO_START (R337). -/
def execPioStart (p : Fin 8) (v : Word) (s : State) : Out := .next (modPlain s p (pioStartPut s.timeNs v))

/-- PIO_STOP written (R337) (in part DEDUCED, log entry 34). -/
def pioStopPut (now : Nat) (v : Word) (P : Plain) : Plain := if !awake P then P else pioMask (stopEngine now) v P

/-- PIO_STOP (R337). -/
def execPioStop (p : Fin 8) (v : Word) (s : State) : Out := .next (modPlain s p (pioStopPut s.timeNs v))

/-- PIO_BANK written (R331). -/
def pioBankPut (v : Word) (P : Plain) : Plain :=
  if !awake P then P
  else if P.pio.eng.toList.any (·.running) then { P with pio := { P.pio with bankBusy := true } }
  else { P with pio := { P.pio with bank := v.setWidth 12 } }

/-- PIO_BANK_WRITE (R331). -/
def execPioBankWrite (p : Fin 8) (v : Word) (s : State) : Out := .next (modPlain s p (pioBankPut v))

/-- PEn_CFG (k = 32) or PEn_IMEMk written (R338, R343). -/
def pioCfgPut (e : Fin 4) (k : Fin 33) (v : Word) (P : Plain) : Plain :=
  if !awake P then P
  else modEng P e fun E =>
    if E.running then { E with flags := setBit E.flags 4 true }
    else if k.val < 32 then { E with imem := put 0 E.imem k.val (v.setWidth 16) }
    else if 40 < fld v 0 6 then { E with flags := setBit E.flags 5 true }
    else { E with base := fld v 0 6, entry := BitVec.ofNat 5 (fld v 8 5), div := BitVec.ofNat 16 (fld v 16 16) }

/-- PIO_CFG_WRITE (R338). -/
def execPioCfgWrite (p : Fin 8) (e : Fin 4) (k : Fin 33) (v : Word) (s : State) : Out := .next (modPlain s p (pioCfgPut e k v))

end Sys2Proof.Machine
end

