-- ==== Sys2Proof/Machine/Power.lean ====
section
/-! DEFINITION. The power and health controller (17), and the cold and warm resets and the cold start of the device
(17 R354-R361, 18 R370-R375). -/

namespace Sys2Proof.Machine

/-! ## Reports of the device -/

/-- The Plain is enabled by the fuses (00 R2). -/
def enabled (s : State) (p : Fin 8) : Bool := bit s.fuses.plainsEn p.val

/-- Signals an event to the Manager of every Plain whose domains are on (in part DEDUCED, log entry 35). -/
def eventAll (s : State) (code unit detail : Nat) : State :=
  { s with plains := vall s.plains fun _ P => if awake P then event P code unit detail else P }

/-! ## The arbiter (R346-R350) -/

/-- UNDER_BUDGET follows ARB_BUDGET < ARB_RSV; a change is signalled (R349). -/
def updateUnder (s : State) : State :=
  let now := decide (arbBudget s < arbRsv s)
  if now = s.power.under then s
  else eventAll (pf0Vector { s with power := { s.power with under := now, underSeen := s.power.underSeen || now } } 3) 0x0205 0 (b2n now)

/-- The BULK ring holds a descriptor that channel 15 has not begun: one whose outcome stands only waits to be posted. -/
def bulkWaits (P : Plain) : Bool :=
  let R := P.hiu.rings[(2 : Fin 4)]
  (List.range 32).any fun i =>
    let q := R.cmp + 1 + w32 i
    decide (i < (R.acc - R.cmp).toNat) && decide (q ∉ R.cancelled) && !begun P 2 q

/-- The DMA engine has work pending (R350): a channel runs, or the BULK ring holds a descriptor that channel 15 can take in the
Plain's mode; one that waits to be re-read is no work yet (13 R278) (in part DEDUCED, log entry 35). -/
def dmaPending (P : Plain) : Bool :=
  !clearing P && (P.dma.ch.toList.any (·.running) || (jobMode P && P.hiu.rings[(2 : Fin 4)].reread.isNone && bulkWaits P))

/-- Demand of a Plain's best-effort users: 10 W for the DMA engine, 4 W for capture overrun (R350)
(in part DEDUCED, log entry 35). -/
def demand (P : Plain) : Nat :=
  (if dmaPending P then 0x28 else 0) + (if P.cap.staging ≠ [] ∧ capSize P ≠ 0 then 0x10 else 0)

/-- R350's division of the headroom: `n` rounds over the Plains of `S`; the grants so far are 0 for every Plain of `S`. -/
def divide (req : Nat → Nat) : Nat → Nat → List Nat → Sparse Nat → Sparse Nat
  | 0, _, _, g => g
  | n + 1, h, S, g =>
    if S = [] then g
    else
      let q := h / S.length
      let C := S.filter fun p => decide (req p ≤ q)
      if C = [] then
        let extra := S.take (h - q * S.length)
        S.foldl (fun g p => put 0 g p (q + if p ∈ extra then 1 else 0)) g
      else divide req n (h - (C.map req).sum) (S.filter fun p => p ∉ C) (C.foldl (fun g p => put 0 g p (req p)) g)

/-- GRANT_INTERVAL (R350): requests, headroom and grants of the next 1 µs. -/
def execGrantInterval (s : State) : Out :=
  let s := updateUnder s
  let req : Nat → Nat := fun p => demand (s.plains.toList.getD p {})
  let zero := decide (85500 ≤ s.power.iinMax)
  let h := if zero then 0 else arbBudget s - arbRsv s
  let S := (List.range 8).filter fun p => decide (0 < req p)
  .next { s with tap := { s.tap with obsGrant := some s.timeNs }, power := { s.power with
    req := (List.range 8).foldl (fun m p => put 0 m p (req p)) []
    grant := divide req 9 h S []
    curZero := zero
    iinMax := 0 } }

/-- ARB_HOST written (R348); values above 0xED8 act as 0xED8. -/
def arbHostPut (v : Word) (s : State) : State :=
  if min (fld v 0 12) 3800 < arbRsv s then pf0Vector { s with power := { s.power with hostRefused := true } } 3
  else updateUnder { s with power := { s.power with host := fld v 0 12 } }

/-- ARB_HOST_WRITE (R348). -/
def execArbHostWrite (v : Word) (s : State) : Out := .next (arbHostPut v s)

/-! ## Power domains (R347, R356) -/

/-- The base reservation of 12 W fits (R347). -/
def baseFits (s : State) : Bool := !s.power.under && decide (arbRsv s + 0x30 ≤ arbBudget s)

/-- The Plain is served next: its base fits, and no lower-numbered Plain waits (R347). -/
def baseTurn (s : State) (p : Fin 8) : Bool := baseFits s && (List.range p.val).all fun q => !bit s.power.baseWait q

/-- Reserves the base and queues the Plain's domains: core, then columns by ascending physical number, the skipped one
left out (R347, R356). -/
def powerUp (s : State) (p : Fin 8) : State :=
  let cols := (List.finRange 9).filter fun c => decide (c.val ≠ skipCol s.fuses p)
  let s := modPlain s p fun P => { P with ldr := { P.ldr with pwrRsv := 0x30 } }
  { s with power := { s.power with
      baseWait := setBit s.power.baseWait p.val false
      switching := s.power.switching ++ (p, 9) :: cols.map fun c => (p, c.castSucc) } }

/-- A Plain asks to be switched on: its base is reserved, or it waits (R347). -/
def requestBase (s : State) (p : Fin 8) : State :=
  if baseTurn s p then powerUp s p
  else if bit s.power.baseWait p.val then s
  else pf0Vector { s with power := { s.power with baseWait := setBit s.power.baseWait p.val true } } 3

/-- BASE_RESERVATION_GRANT (R347): the lowest-numbered waiting Plain receives its base when it fits. -/
def execBaseReservationGrant (p : Fin 8) (s : State) : Out :=
  if bit s.power.baseWait p.val && baseTurn s p then .next (powerUp s p) else .next s

/-- Every domain of the Plain is on, and none is switching. -/
def domainsOn (s : State) (p : Fin 8) : Bool := bit s.power.coreOn p.val && !domainBusy s.power p

/-- TEST is entered by all enabled Plains together (01 R23, 18 R368): once the domains of every one that is to enter it are on. -/
def startTest (s : State) : State :=
  if s.power.testStart ≠ 0 ∧ (List.finRange 8).all (fun p => !bit s.power.testStart p.val || domainsOn s p) then
    { s with
      plains := vall s.plains fun p P => if bit s.power.testStart p.val then setMode P .test else P
      power := { s.power with testStart := 0 } }
  else s

/-- Every domain of the Plain is on, its state as at power-up: TEST, with the other Plains, or BOOT (18 R368, R375 row 5); a
Plain that waits for the others shows the reset value of MODE (in part DEDUCED, log entry 38). -/
def plainUp (s : State) (p : Fin 8) : State :=
  let s := modPlain s p fun P => if awake P then P else offPlain P
  let s := modPlain s p fun P => { P with run := { P.run with resetAt := s.timeNs }, mgr := { P.mgr with retiredAt := s.timeNs }, ldr := { P.ldr with pwrRsv := 0x30 } }
  if bit s.power.testStart p.val then modPlain s p fun P => { P with run := { P.run with mode := .valley } } else enterBoot s p

/-- The switch of a domain shows on or off (R366). -/
def setDomain (W : Power) (p : Fin 8) (dom : Fin 10) (on : Bool) : Power :=
  if dom.val = 9 then { W with coreOn := setBit W.coreOn p.val on }
  else { W with colOn := put 0 W.colOn p.val (setBit (look 0 W.colOn p.val) dom.val on) }

/-- The device is in reset: until COLD_START, or while a supply reset or a thermal trip holds it (R354, R361, 18 R375); the
PCIe link is down, the monitor and the sensors only read, and the I²C slave does not answer (21 R413). -/
def inReset (s : State) : Bool := !s.power.started || s.power.held || s.power.hotHeld

/-- The domain is the next of its Plain to switch off; in a reset of the device the cores wait for every column (R354, R356). -/
def offTurn (s : State) (p : Fin 8) (dom : Fin 10) : Bool :=
  (s.power.switchOff.find? fun x => decide (x.1 = p)) == some (p, dom) &&
  (decide (dom.val ≠ 9) || !inReset s || s.power.switchOff.all fun x => decide (x.2.val = 9))

/-- DOMAIN_SWITCH_DONE (R356): a domain is off, in the order of its Plain; or the domain that is switching on is on, which only the
first of the order is, once nothing of its Plain switches off any longer (in part DEDUCED, log entry 38). -/
def execDomainSwitchDone (p : Fin 8) (dom : Fin 10) (s : State) : Out :=
  if offTurn s p dom then
    .next (valleyCompletes { s with power := { setDomain s.power p dom false with switchOff := s.power.switchOff.filter (· ≠ (p, dom)) } } p)
  else if s.power.switching.head? = some (p, dom) ∧ (s.power.switchOff.all fun x => decide (x.1 ≠ p)) then
    let s := { s with power := { setDomain s.power p dom true with switching := s.power.switching.tail } }
    .next (if domainBusy s.power p then s else startTest (plainUp s p))
  else .next s

/-! ## Cold and warm reset (R354, R361, 18 R370, R371) -/

/-- The session ends and the registers of the test controller reset; DEV_RST.TEST is the argument (20 R398, R402)
(in part DEDUCED, log entry 38). -/
def tapAfterReset (devTest : Bool) (T : Tap) : Tap :=
  { ir := T.ir, irCaptured := T.irCaptured, trstLow := T.trstLow, boundary := T.boundary, scans := T.scans
    chal := Config.freshChallenge (T.chals + 1), chals := T.chals + 1, devTest := devTest }

/-- What a reset of the device leaves of the controller (R366): RST_CAUSE is written and every other register takes its reset value;
the monitor's samples, the sensors' run of hot samples, the level of RST_N and the switches themselves are no registers, and stay
(in part DEDUCED, log entry 38). -/
def powerReset (W : Power) (cause : BitVec 3) (test : BitVec 8) : Power :=
  { rstCause := cause, vinHist := W.vinHist, lowSince := W.lowSince, goodSince := W.goodSince, hot := W.hot, rstLow := W.rstLow
    colOn := W.colOn, coreOn := W.coreOn, switching := W.switching, switchOff := W.switchOff, testStart := test }

/-- All 80 domains switch off, columns first (R354, R356, R361). -/
def allOff (W : Power) : List (Fin 8 × Fin 10) := (List.finRange 8).flatMap (colsOn W) ++ (List.finRange 8).flatMap (coreIsOn W)

/-- A cold reset with its cause (R371): only NVS, the sensors' readings and RST_CAUSE remain, and every domain that is on switches off
(in part DEDUCED, log entry 38). -/
def coldReset (s : State) (cause : BitVec 3) : State :=
  let W := s.power
  { s with
    pf0 := {}
    plains := vall s.plains fun _ P => { mem := { nvs := P.mem.nvs, nvsUe := P.mem.nvsUe, nvsCe := P.mem.nvsCe }, run := { resetAt := s.timeNs } }
    power := { powerReset W cause (if s.tap.devTest then s.fuses.plainsEn else 0) with
      held := W.held, hotHeld := W.hotHeld, switching := [], switchOff := allOff W }
    tap := tapAfterReset false s.tap
    hlink := {} }

/-- Each enabled Plain of a device that runs writes its kind-4 record (R354 row 3, 12 R249) (in part DEDUCED, log entry 35). -/
def supplyRecords (s : State) : State :=
  if inReset s then s else (List.finRange 8).foldl (fun s p => if enabled s p then writeFaultRecord s p 4 else s) s

/-- VIN has been at or above 4.5 V for 1 ms, which the release of reset needs (18 R375, 21 R409, R420). -/
def vinGood (s : State) : Bool :=
  match s.power.goodSince with
  | some t => decide (t + 1000000 ≤ s.timeNs)
  | none => false

/-- A cold start (18 R375): the I²C address is sampled (21 R412), the life-cycle state is read from the fuses, the host link trains, and the enabled Plains are
switched on in ascending order; in DECOMMISSIONED none is (R380). -/
def coldStart (s : State) : State :=
  let s := { s with
    fuses := { s.fuses with lc := s.fuses.lcPend }
    power := { s.power with started := true, held := false, hotHeld := false }
    i2cAdr := Config.i2cStraps
    hlink := { rate := BitVec.ofNat 2 Config.hostLinkRate.val, width := if Config.hostLinkWide then 16 else 8, up := true, flit := Config.hostLinkRate = 2 || Config.hostLinkFlit } }
  if s.fuses.lc = 5 then s else (List.finRange 8).foldl (fun s p => if enabled s p then requestBase s p else s) s

/-- COLD_START (18 R375): RST_N is high, which releases the reset where the supply is good and no supply reset or thermal trip holds it
(21 R409, R420) (in part DEDUCED, log entry 38). -/
def execColdStart (s : State) : Out :=
  let s := { s with power := { s.power with rstLow := false } }
  if s.power.started || s.power.held || s.power.hotHeld || !vinGood s then .next s else .next (coldStart s)

/-- RST_N_ASSERT (18 R370): RST_N is low until COLD_START. In a reset that is in force already nothing else happens: a supply reset or
a thermal trip completes, and its release waits for RST_N (21 R420); low through the ramp it gives the same cold start (21 R409)
(in part DEDUCED, log entry 38). -/
def execRstNAssert (s : State) : Out :=
  let s := { s with power := { s.power with rstLow := true } }
  if inReset s then .next s else .next (coldReset s 1)

/-- A supply reset or a thermal trip no longer holds the device: it starts cold when RST_N is high too (21 R409, R420). -/
def releaseReset (s : State) : State :=
  if s.power.rstLow then { s with power := { s.power with held := false, hotHeld := false } } else coldStart s

/-- A Plain after a warm reset (R371): NVS, BOOT_CNT, PLAIN_RST_CAUSE and the results of BIST are kept, and since no domain switches
the schedule stores and snapshot buffers hold their contents (22 R426). The stack's contents are lost as in VALLEY: the
written-tags are all clear (DESIGN CHOICE, log entry 22) (in part DEDUCED, log entry 38). -/
def warmPlain (now : Nat) (P : Plain) : Plain :=
  { tiles := vall P.tiles fun _ T => { store := T.store, storeUe := T.storeUe, storeCe := T.storeCe, snapNf := T.snapNf, snapFs := T.snapFs }
    mem := { nvs := P.mem.nvs, nvsUe := P.mem.nvsUe, nvsCe := P.mem.nvsCe }
    run := { mode := P.run.mode, prev := P.run.prev, tamperPend := P.run.tamperPend, rstCause := P.run.rstCause, rstCount := P.run.rstCount
             bootCnt := P.run.bootCnt, resetAt := now }
    ldr := { pwrRsv := if P.run.mode = .valley then P.ldr.pwrRsv else 0x30 }
    health := { bistRes := P.health.bistRes } }

/-- The Plain comes up after a warm reset: at once when its domains are on, else through the arbiter. -/
def warmUp (s : State) (p : Fin 8) : State :=
  if !enabled s p then s
  else if domainsOn s p then plainUp s p
  else if s.power.switching.any (fun x => decide (x.1 = p)) then s
  else requestBase s p

/-- A warm reset with its cause (R371, R366): the PF0 registers reset but RST_CAUSE; no power domain switches
(in part DEDUCED, log entry 38). -/
def warmReset (s : State) (cause : BitVec 3) : State :=
  let s := { s with
    pf0 := {}
    plains := vall s.plains fun _ => warmPlain s.timeNs
    power := { powerReset s.power cause (if s.tap.devTest then s.fuses.plainsEn else 0) with started := true }
    tap := tapAfterReset s.tap.devTest s.tap }
  if s.fuses.lc = 5 then s else startTest ((List.finRange 8).foldl warmUp s)

/-- A device that has not started cold takes no warm reset. -/
def warmIfStarted (s : State) (cause : BitVec 3) : State := if s.power.started then warmReset s cause else s

/-- DEV_RST_WARM (18 R370). -/
def execDevRstWarm (s : State) : Out := .next (warmIfStarted s 4)

/-- PCIE_HOT_RESET (13 R258). -/
def execPcieHotReset (s : State) : Out := .next (warmIfStarted s 6)

/-! ## The supply monitor (R353, R354) -/

/-- SUPPLY_RESET (R354): VIN has been below 4.00 V for 200 ns. A device that is in reset already stays there until its supply is
good (18 R375) (in part DEDUCED, log entry 38). -/
def execSupplyReset (s : State) : Out :=
  match s.power.lowSince with
  | none => .next s
  | some t =>
    if inReset s || decide (s.timeNs < t + 200) then .next s
    else
      let s := coldReset (supplyRecords s) 2
      .next { s with power := { s.power with held := true } }

/-- SUPPLY_RESET_RELEASE (R354): VIN has been at or above 4.5 V for 1 ms, and the device starts cold, when RST_N is high too. -/
def execSupplyResetRelease (s : State) : Out :=
  if s.power.held && vinGood s then .next (if s.power.hotHeld then { s with power := { s.power with held := false } } else releaseReset s)
  else .next s

/-- The always-on domain is lost (R355): in reset with VIN below 3.2 V. The next start is a power-on; before the supply reset the
hold-up store keeps the domain (R354) (in part DEDUCED, log entry 38). -/
def aonLoss (s : State) : State :=
  let W := s.power
  { s with power := { vinMv := W.vinMv, vinHist := W.vinHist, iinMa := W.iinMa, pinQw := W.pinQw, lowSince := W.lowSince, goodSince := W.goodSince
                      rstLow := W.rstLow } }

/-- VIN_WARN in mV (R353). -/
def vinWarnMv (W : Power) : Nat := 4000 + 10 * min 45 (max 20 W.vinWarn.toNat)

/-- VIN is off or below 3.2 V: no pin is driven (21 R414). -/
def pinsOff (s : State) : Bool :=
  match s.power.vinHist.head? with
  | some mv => decide (mv < 3200)
  | none => true

/-- Level of PWR_WARN_N: asserted, low, while PWR_WARN is set, and released in a reset of the device (R353, 21 R414). -/
def pwrWarnN (s : State) : Bool := pinsOff s || inReset s || !s.power.pwrWarn

/-- Level of THERM_N: low while THERM_STAT.WARN is set and during a thermal trip (R360, R361, 21 R414). -/
def thermN (s : State) : Bool := pinsOff s || !(if inReset s then s.power.hotHeld else s.power.warn)

/-- The sticky flags of PF0 vectors 0 to 7, bit v for vector v (R364, Table — PF0 vectors). -/
def alertFlags (s : State) : BitVec 8 :=
  let W := s.power
  let flags : List Bool := [W.warnSeen, W.thermSeen, W.thrSeen, W.underSeen || W.hostRefused, decide (W.tamper ≠ 0),
    s.plains.toList.any (·.health.envOver), decide (W.trLimit ≠ 0), W.railFault]
  (flags.zipIdx).foldl (fun v x => setBit v x.2 x.1) 0

/-- Level of ALERT_N: low while a sticky flag that ALERT_MASK enables is set, and released in a reset of the device (R364, 21 R414). -/
def alertN (s : State) : Bool := pinsOff s || inReset s || decide (alertFlags s &&& s.power.alertMask = 0)

/-- PWR_WARN after a sample (R353). -/
def samplePwrWarn (mv : Nat) (s : State) : State :=
  let warn := vinWarnMv s.power
  if mv < warn ∧ !s.power.pwrWarn then
    eventAll (pf0Vector { s with power := { s.power with pwrWarn := true, warnSeen := true } } 0) 0x0200 0 mv
  else if warn + 100 < mv ∧ s.power.pwrWarn then
    eventAll (pf0Vector { s with power := { s.power with pwrWarn := false } } 0) 0x0201 0 mv
  else s

/-! ## Throttling (R352) -/

/-- PLAIN_HEALTH.THROTTLE changes: event THROTTLE and PF0 vector 2. -/
def throttleSet (s : State) (p : Fin 8) (cause : Nat) (on : Bool) : State :=
  let s := modPlain s p fun P =>
    let P := { P with health := { P.health with throttle := setBit P.health.throttle cause on } }
    event P 0x0203 0 P.health.throttle.toNat
  pf0Vector { s with power := { s.power with thrSeen := s.power.thrSeen || on } } 2

/-- The cause is present or absent now; a throttle starts with its cause. -/
def causeIs (cause : Nat) (s : State) (p : Fin 8) (present : Bool) : State :=
  let h := s.plains[p].health
  if !awake s.plains[p] then s
  else if present then
    let s := modPlain s p fun P => { P with health := { P.health with cause := setBit P.health.cause cause true } }
    if bit h.throttle cause then s else throttleSet s p cause true
  else if bit h.cause cause then
    modPlain s p fun P => { P with health := { P.health with cause := setBit P.health.cause cause false, absent := put 0 P.health.absent cause s.timeNs } }
  else s

/-- THROTTLE_END (R352): the cause has been absent for 10 µs. -/
def execThrottleEnd (p : Fin 8) (cause : Fin 4) (s : State) : Out :=
  let h := s.plains[p].health
  if bit h.throttle cause.val && !bit h.cause cause.val && decide (look 0 h.absent cause.val + 10000 ≤ s.timeNs) then .next (throttleSet s p cause.val false)
  else .next s

/-- VIN_SAMPLE (R353-R355, R349, R352): VIN in mV and the input current in mA. -/
def execVinSample (mv iinMa : Nat) (s : State) : Out :=
  let W := s.power
  let hist := (mv :: W.vinHist).take 10000
  let since (b : Bool) (old : Option Nat) : Option Nat := if b then some (old.getD s.timeNs) else none
  let s := { s with power := { W with
    vinHist := hist, vinMv := hist.sum / hist.length, iinMa := iinMa, pinQw := mv * iinMa / 250000, iinMax := max W.iinMax iinMa
    lowSince := since (decide (mv < 4000)) W.lowSince
    goodSince := since (decide (4500 ≤ mv)) W.goodSince } }
  if inReset s then .next (if mv < 3200 then aonLoss s else s)
  else
    let s := (List.finRange 8).foldl (fun s p => if enabled s p then causeIs 0 s p (decide (90000 ≤ iinMa)) else s) (samplePwrWarn mv s)
    .next (updateUnder s)

/-! ## Measured power (R351) -/

/-- The segment in force: the one of largest ENV among those executed, the lowest number first. -/
def segmentInForce (P : Plain) : List Nat → Option Nat
  | [] => none
  | g :: r => match segmentInForce P r with
    | none => some g
    | some k =>
      if look 0 P.ldr.env g < look 0 P.ldr.env k ∨ (look 0 P.ldr.env g = look 0 P.ldr.env k ∧ k < g) then some k else some g

/-- POWER_MEASURE (R351) (in part DEDUCED, log entry 35). -/
def execPowerMeasure (p : Fin 8) (qw : Word) (s : State) : Out :=
  let P := s.plains[p]
  if !awake P then .next s
  else
    let grant := look 0 s.power.grant p.val
    let s := modPlain s p fun P => { P with health := { P.health with pwrNow := qw, segs := [] } }
    match segmentInForce P P.health.segs with
    | none => .next s
    | some g =>
      if look 0 P.ldr.env g + grant < qw.toNat then
        .next (pf0Vector (modPlain s p fun P =>
          event { P with health := { P.health with envOverCnt := satInc P.health.envOverCnt, envOver := true } } 0x0204 g qw.toNat) 5)
      else .next s

/-! ## Rails (R344) -/

/-- RAIL_FAULT (R344, 19 R386): of Plain `p`, or of a device-wide rail for 8; in a reset of the device it changes nothing. -/
def execRailFault (p : Fin 9) (s : State) : Out :=
  if h : p.val < 8 then
    let q : Fin 8 := ⟨p.val, h⟩
    if inReset s ∨ (look 0 s.power.colOn q.val = 0 ∧ !bit s.power.coreOn q.val) then .next s
    else
      let s := pf0Vector { s with power := { s.power with railFault := true } } 7
      .next (raiseFault s q 0x0A 0 fun s => powerOff (closeIn s q) q)
  else if inReset s then .next s
  else .next (coldReset s 5)

/-! ## Thermal protection (R359-R361) -/

/-- Threshold of THERM_WARN (R360). -/
def thermWarnAt (W : Power) : Nat := min 105 (max 60 W.thermWarn.toNat)

/-- The adjacent regions of Plain `p` (R357): its columns in turn with the skipped one left out, each column, the SerDes and
the Basin PHY with the Manager/bus region, and that with the HIU (in part DEDUCED, log entry 35). -/
def adjacentIn (F : Fuses) (p : Fin 8) : List (Nat × Nat) :=
  let b := 12 * p.val
  let cols := (List.range 9).filter (· ≠ skipCol F p)
  ((cols.zip cols.tail) ++ cols.map (fun c => (c, 9)) ++ [(9, 10), (9, 11)]).map (fun x : Nat × Nat => (b + x.1, b + x.2)) ++ [(b + 9, 97)]

/-- The adjacent device-wide regions (in part DEDUCED, log entry 35). -/
def adjacentDev : List (Nat × Nat) := [(96, 97), (97, 98), (97, 99)]

/-- Difference of two regions' temperatures. -/
def tempDiff (t : Sparse Nat) (x : Nat × Nat) : Nat := max (look 0 t x.1) (look 0 t x.2) - min (look 0 t x.1) (look 0 t x.2)

/-- TR_LIMIT bit `i` for the pairs given; a new flag is signalled by `tell` (R359) (in part DEDUCED, log entry 35). -/
def limitFlag (i : Nat) (pairs : List (Nat × Nat)) (tell : State → Nat → Nat → State) (s : State) : State :=
  match pairs.find? fun x => decide (30 < tempDiff s.power.temp x) with
  | none => s
  | some x =>
    if bit s.power.trLimit i then s
    else tell (pf0Vector { s with power := { s.power with trLimit := setBit s.power.trLimit i true } } 6) (min x.1 x.2) (tempDiff s.power.temp x)

/-- Temperature differences (R359), in every Plain; the Manager of one whose domains are on receives the event. -/
def sampleLimits (s : State) : State :=
  let s := (List.finRange 8).foldl (fun s p =>
    limitFlag p.val (adjacentIn s.fuses p) (fun s u d => modPlain s p fun P => if awake P then event P 0x0207 u d else P) s) s
  limitFlag 8 adjacentDev (fun s u d => eventAll s 0x0207 u d) s

/-- Highest reading, with its lowest region. -/
def hottest (t : Sparse Nat) : Nat × Nat := (List.range 100).foldl (fun b n => if b.1 < look 0 t n then (look 0 t n, n) else b) (0, 0)

/-- THERM_WARN (R360). -/
def sampleWarn (s : State) : State :=
  let tj := hottest s.power.temp
  let s := { s with power := { s.power with region := tj.2 } }
  if thermWarnAt s.power ≤ tj.1 ∧ !s.power.warn then
    eventAll (pf0Vector { s with power := { s.power with warn := true, thermSeen := true } } 1) 0x0202 tj.2 tj.1
  else if tj.1 < thermWarnAt s.power - 5 then { s with power := { s.power with warn := false } }
  else s

/-- Throttle causes of the sensors (R352). -/
def sampleThrottle (s : State) : State :=
  let hotIn (s : State) (a b : Nat) : Bool := (List.range (b - a)).any fun i => decide (105 ≤ look 0 s.power.temp (a + i))
  (List.finRange 8).foldl (fun s p =>
    if enabled s p then causeIs 2 (causeIs 1 s p (hotIn s (12 * p.val) (12 * p.val + 12))) p (hotIn s 96 100) else s) s

/-- THERMAL_SAMPLE (R359-R361): the readings of the 100 regions in °C. The trip cannot be disabled: it comes in a reset of the
device too, which then lasts until the sensors have cooled (in part DEDUCED, log entry 38). -/
def execThermalSample (temps : List Nat) (s : State) : Out :=
  let old := s.power.hot
  let temp := (List.range 100).foldl (fun m n => put 0 m n (min 255 (temps.getD n (look 0 s.power.temp n)))) []
  let hot := (List.range 100).filter fun n => decide (115 ≤ look 0 temp n)
  let s := { s with power := { s.power with temp := temp, hot := hot } }
  if s.power.hotHeld then
    if (List.range 100).all (fun n => decide (look 0 temp n < 95)) then
      .next (if !s.power.held && vinGood s then releaseReset s else { s with power := { s.power with hotHeld := false } })
    else .next s
  else if hot.any (fun n => decide (n ∈ old)) then
    let s := coldReset (supplyRecords s) 3
    .next { s with power := { s.power with hotHeld := true } }
  else if inReset s then .next s
  else .next (sampleLimits (sampleThrottle (sampleWarn s)))

/-- BASIN_TEMP_SAMPLE (07 R146): the reading, HOT and the throttle of a stack above 105 °C. -/
def execBasinTempSample (p : Fin 8) (temp : Byte) (s : State) : Out :=
  let P := s.plains[p]
  if !awake P then .next s
  else
    let hot := decide (105 < temp.toNat)
    let s := modPlain s p fun P => { P with basin := { P.basin with
      temp := temp, refresh := if 85 < temp.toNat then 1 else 0, stat := if hot then setBit P.basin.stat 5 true else P.basin.stat } }
    .next (causeIs 3 s p (hot || (bit P.health.cause 3 && decide (100 ≤ temp.toNat))))

/-! ## Tamper sensors (R362) -/

/-- A Plain at a tamper detection: its secure part is wiped (R362); in VALLEY, where it is off, an enabled Plain of a DEPLOYED
device is marked for its next BOOT (18 R381). -/
def tamperPlain (deployed : Bool) (P : Plain) : Plain :=
  if awake P then { P with mem := startWipe P.mem }
  else if deployed then { P with run := { P.run with tamperPend := true } }
  else P

/-- TAMPER_DETECT (R362): every enabled Plain wipes its secure part; in DEPLOYED it enters QUARANTINE,
one in VALLEY at its next BOOT (18 R381). -/
def execTamperDetect (sensor : Fin 5) (s : State) : Out :=
  let s := { s with power := { s.power with tamper := setBit s.power.tamper sensor.val true } }
  let s := { s with plains := vall s.plains fun p => tamperPlain (enabled s p && s.fuses.lc == 3) }
  let s := eventAll (pf0Vector s 4) 0x0206 0 s.power.tamper.toNat
  if s.fuses.lc ≠ 3 then .next s
  else .next ((List.finRange 8).foldl (fun s p =>
    if awake s.plains[p] && decide (s.plains[p].run.mode ≠ .test) then raiseFault s p 0x0D 0 (fun s => enterQuarantine s p true) else s) s)

end Sys2Proof.Machine
end

