-- ==== Sys2Proof/Machine/Modes.lean ====
section
/-! DEFINITION. Plain control (18 R370-R379), the fault windows' registers (19 R385, R393), the wipe of the secure part
(15 R325) and the progress monitor (15 R317). -/

namespace Sys2Proof.Machine

/-! ## PLAIN_CTL (R370-R374, R378, R388) -/

/-- The agents whose writes of PLAIN_CTL are taken (R370). -/
def takesPlainCtl : Agent → Bool
  | .hostFn | .mgrMachine => true
  | _ => false

/-- PLAIN_MODE.REFUSED (in part DEDUCED, log entry 36). -/
def refuseCtl (s : State) (p : Fin 8) : State := modPlain s p fun P => { P with run := { P.run with refused := true } }

/-- WAKE is taken (R378, R388). -/
def wakeTaken (s : State) (p : Fin 8) : Bool :=
  decide (s.plains[p].run.mode = .valley) && enabled s p && decide (s.fuses.lc ≠ 5) && !s.plains[p].run.wakeLock && s.power.started &&
  !s.power.switching.any (fun x => decide (x.1 = p)) && !bit s.power.baseWait p.val && !domainsOn s p

/-- WAKE (R378): the exit from VALLEY starts with the base reservation. -/
def wake (s : State) (p : Fin 8) : State := if wakeTaken s p then requestBase s p else refuseCtl s p

/-- VALLEY and TEST take no Plain reset and no Manager-only reset (in part DEDUCED, log entry 36). -/
def resettable (P : Plain) : Bool := decide (P.run.mode ≠ .valley) && decide (P.run.mode ≠ .test)

/-- Virtual column of a physical column; none for the skipped one (05 R107). -/
def virtualCol (skip pc : Nat) : Option Nat := if 8 < pc ∨ pc = skip then none else some (if pc < skip then pc else pc - 1)

/-- A tile after a tile-column reset (R371, 06 R123): the image and the capture engine's state are kept. -/
def columnTile (T : Tile) : Tile :=
  { tileReset false T with overlay := T.overlay, capRef := T.capRef, capSeen := T.capSeen, capRecs := T.capRecs, under := T.under }

/-- A tile-column reset of a virtual column (R371, R373): its tiles' requests in the controller are discarded (06 R123) and its
COL_DROP_SUM bits clear (05 R112). -/
def columnReset (c : Nat) (P : Plain) : Plain :=
  let P := allTiles P fun t T => if t.val % 8 = c then columnTile T else T
  { P with
    run := { P.run with colDirty := true }
    basin := { P.basin with recv := P.basin.recv.filter fun x => x.1.val % 8 != c }
    col := { P.col with dropSum := (List.range 8).foldl (fun d r => setBit d (8 * r + c) false) P.col.dropSum } }

/-- PLAIN_CTL.COL as it acts: 9 to 15 have no stated effect and act as the reset value (00 R7). -/
def colOf (v : Word) : Nat := if fld v 4 4 ≤ 8 then fld v 4 4 else 0

/-- COL_RESET of a physical column (R373). -/
def colResetCtl (s : State) (p : Fin 8) (pc : Nat) : State :=
  let P := s.plains[p]
  match virtualCol (skipCol s.fuses p) pc with
  | none => refuseCtl s p
  | some c => if P.run.mode = .hold ∨ P.run.mode = .quarantine then modPlain s p (columnReset c) else refuseCtl s p

/-- READY (R368): BOOT to HOLD with no image; a window that ends at HOLD closes (19 R386). -/
def plainReady (s : State) (p : Fin 8) : State :=
  if s.plains[p].run.mode = .boot then modPlain s p fun P => closeAfterBoot (setMode P .hold) s.timeNs else refuseCtl s p

/-- PLAIN_CTL written: its commands in the order WAKE, else RESET, MGR_RESET, COL_RESET, READY; FAULT_ACK first (R370, R378)
(in part DEDUCED, log entry 36). -/
def plainCtlWrite (s : State) (p : Fin 8) (who : Agent) (v : Word) : State :=
  if !takesPlainCtl who then s
  else
    let s := if bit v 9 then modPlain s p fun P => { P with run := { P.run with wakeLock := false } } else s
    if bit v 0 ∧ wakeTaken s p then wake s p
    else
      let s := if bit v 0 then refuseCtl s p else s
      let s := if bit v 8 then (if who = .mgrMachine then plainReady s p else refuseCtl s p) else s
      let s := if bit v 3 then colResetCtl s p (colOf v) else s
      if bit v 1 then (if resettable s.plains[p] then plainReset s p 2 else refuseCtl s p)
      else if bit v 2 then (if resettable s.plains[p] then managerOnlyReset s p else refuseCtl s p)
      else s

/-- PLAIN_CTL_WAKE (R378). -/
def execPlainCtlWake (p : Fin 8) (who : Agent) (s : State) : Out := .next (plainCtlWrite s p who 0x1)

/-- PLAIN_CTL_RESET (R372). -/
def execPlainCtlReset (p : Fin 8) (who : Agent) (s : State) : Out := .next (plainCtlWrite s p who 0x2)

/-- PLAIN_CTL_MGR_RESET (R374). -/
def execPlainCtlMgrReset (p : Fin 8) (who : Agent) (s : State) : Out := .next (plainCtlWrite s p who 0x4)

/-- PLAIN_CTL_COL_RESET (R373). -/
def execPlainCtlColReset (p : Fin 8) (who : Agent) (col : Nat) (s : State) : Out :=
  .next (plainCtlWrite s p who (w32 (8 + col % 16 * 16)))

/-- PLAIN_CTL_READY (R368). -/
def execPlainCtlReady (p : Fin 8) (who : Agent) (s : State) : Out := .next (plainCtlWrite s p who 0x100)

/-- PLAIN_CTL_FAULT_ACK (R388). -/
def execPlainCtlFaultAck (p : Fin 8) (who : Agent) (s : State) : Out := .next (plainCtlWrite s p who 0x200)

/-! ## Rejoin (R379) -/

/-- The loader engine reads SPAD as M6; none is an error response (15 R310, R320). -/
def loaderLoad (s : State) (p : Fin 8) (off n : Nat) : State × Option (List Byte) := tagRead p 6 (spadAt off) (spadRead s p 6 off n)

/-- The record at a SPAD offset: its first 64 bytes and the runtime configuration record that follows; none outside the
ordinary part or at an uncorrectable word (in part DEDUCED, log entry 39). -/
def rejoinRecord (s : State) (p : Fin 8) (off : Nat) : State × Option (List Byte × List Byte) :=
  if off % 8 ≠ 0 ∨ secureBase < off + 64 + 668 then (s, none)
  else match loaderLoad s p off (64 + 668) with
    | (s, none) => (s, none)
    | (s, some h) =>
      let n := 668 + 520 * num h (64 + 664) 4
      if secureBase < off + 64 + n then (s, none)
      else
        let x := loaderLoad s p (off + 64) n
        (x.1, x.2.map fun cfg => (h.take 64, cfg))

/-- The overlay that the record's patches form by themselves, in a bank (R379). -/
def rejoinBank (T : Tile) (bank t : Nat) (ps : List (Nat × Nat × StepWord)) : Sparse StepWord :=
  ps.foldl (fun m x => if x.1 = t then ins m (8192 * bank + x.2.1) x.2.2 else m) (T.overlay.filter fun e => e.1 / 8192 != bank)

/-- R214's check of a rejoin record: the refusal code; 0 with the bank that takes its overlay (in part DEDUCED, log entry 39). -/
def rejoinCode (tstep : Nat) (P : Plain) (h cfg : List Byte) : Nat × Nat :=
  let code := recordCode tstep P cfg
  if code ≠ 0 then (code, 0)
  else if num cfg 0 4 ≠ num h 48 4 then (9, 0)
  else match freeBank P with
    | none => (0xF, 0)
    | some b => if (List.finRange 64).any fun t => decide (64 < bankCount (rejoinBank P.tiles[t] b t.val (patchesOf cfg)) b) then (0xF, 0) else (0, b)

/-- The capture engine reads bytes of the slot that a rejoin record names; false where one is uncorrectable, which is reported as any
word that it reads (07 R141, 19 R386) (in part DEDUCED, log entry 39). -/
def rejoinSlotRead (p : Fin 8) (h : List Byte) (o n : Nat) (s : State) : State × Bool :=
  let s := settle s p
  let base := slotBase s.plains[p].basin (num h 52 1 % 16) + o
  let sound := (wordsOf base n).all fun w => !look false s.plains[p].basin.ue w
  (engineNote p base n s, sound)

/-- The slot's epoch and tag are those of the record (R379 step 2). -/
def slotMatches (P : Plain) (h : List Byte) : Bool :=
  let k := num h 52 1 % 16
  decide (k < nSlot P.basin) && slotBytesAt P.basin k 8 4 == sub h 48 4 &&
  slotBytesAt P.basin k 12 8 == leBytes 8 (tagOf P.ldr.digest (BitVec.ofNat 384 (num h 0 48))).toNat

/-- Steps 3 to 6 of a rejoin (R379). -/
def rejoinTake (tstep bank : Nat) (h cfg : List Byte) (P : Plain) : Plain :=
  let k := num h 52 1 % 16
  let H : BitVec 384 := BitVec.ofNat 384 (num h 0 48)
  let epoch := num h 48 4
  let start := num (slotBytesAt P.basin k 0 8) 0 6
  let P := allTiles P fun t T => restoreTile P.basin k t { T with overlay := rejoinBank T bank t.val (patchesOf cfg) }
  let P := applyRecord cfg { P with basin := { P.basin with recv := [] } }
  let P := { P with
    cap := { P.cap with trigCtl := restoreEnables (num (slotBytesAt P.basin k 32 4) 0 4) P.cap.trigCtl, started := (num (slotBytesAt P.basin k 36 1) 0 1).testBit 0
                        pendStart := none, inputs := [], passIn := [], passNext := [], discarded := 0 }
    sync := { P.sync with cur := { epoch := w32 epoch, tag := tagOf P.ldr.digest H, first := start }, prev := none, pend := none, target := none, lastCycle := none }
    stall := { P.stall with bound := w32 (num cfg 20 4) }
    ldr := { P.ldr with h := H, curBank := bank, epochs := ins P.ldr.epochs epoch { record := cfg, h := H, bank := bank } }
    run := { P.run with cycle := start, step := 0, colDirty := false, heldAt := none, paceRef := none, holdNext := false, holdAsks := false, late := false, rejoinStat := setBit (P.run.rejoinStat &&& 1) 0 true }
    health := { P.health with incomplete := false } }
  recompute tstep P

/-- REJOIN_STAT.ERR and CODE after a failure, which changes nothing else (R379). -/
def rejoinFail (s : State) (p : Fin 8) (err code : Nat) : State :=
  modPlain s p fun P => { P with run := { P.run with rejoinStat := w32 (P.run.rejoinStat.toNat % 2 + err * 2 + code * 16) } }

/-- Steps 2 to 6 of a rejoin whose record has passed the checks of step 1 (R379): the slot is read, its header first; one that holds
an uncorrectable word is no match, so that nothing of it is loaded (in part DEDUCED, log entry 39). -/
def rejoinSlot (s : State) (p : Fin 8) (bank : Nat) (h cfg : List Byte) : State :=
  if nSlot s.plains[p].basin ≤ num h 52 1 % 16 then rejoinFail s p 3 0
  else
    let r := rejoinSlotRead p h 0 64 s
    if !stillIn .hold r.1.plains[p] then r.1
    else if !r.2 || !slotMatches r.1.plains[p] h then rejoinFail r.1 p 3 0
    else
      let r := rejoinSlotRead p h 64 (slotBytes - 64) r.1
      if !stillIn .hold r.1.plains[p] then r.1
      else if !r.2 then rejoinFail r.1 p 3 0
      else modPlain r.1 p (rejoinTake s.fuses.tstepPs bank h cfg)

/-- REJOIN_CTL written (R379) (in part DEDUCED, log entry 39). -/
def rejoinWrite (s : State) (p : Fin 8) (v : Word) : State :=
  let P := s.plains[p]
  let s := modPlain s p fun P => { P with run := { P.run with rejoinOff := v.setWidth 24 } }
  if !bit v 31 then s
  else if P.run.mode ≠ .hold ∨ !P.run.admitted ∨ P.ldr.switch.isSome ∨ P.run.after.isSome then rejoinFail s p 1 0
  else match rejoinRecord s p (fld v 0 24) with
    | (s, none) => rejoinFail s p 2 1
    | (s, some (h, cfg)) =>
      let P := s.plains[p]
      let c := rejoinCode s.fuses.tstepPs P h cfg
      if c.1 ≠ 0 then rejoinFail s p 2 c.1
      else rejoinSlot s p c.2 h cfg

/-- REJOIN_GO (R379): the HIU serves the block in every mode (R382), so that GO outside HOLD fails with ERR 1, in VALLEY too. -/
def execRejoinGo (p : Fin 8) (v : Word) (s : State) : Out := .next (rejoinWrite s p (setBit v 31 true))

/-! ## The boot ROM's recovery service (R377) -/

/-- The staged slot image at a SPAD offset (in part DEDUCED, log entry 39). -/
def stagedImage (s : State) (p : Fin 8) (off : Nat) : State × Option (List Byte) :=
  if secureBase < off + 4096 then (s, none)
  else match romLoad s p off 4096 with
    | (s, none) => (s, none)
    | (s, some hdr) =>
      let len := num hdr 12 4
      if 0x7FF000 < len ∨ secureBase < off + 4096 + len then (s, none) else romLoad s p off (4096 + len)

/-- The staged slot image, if it is a candidate under R376 with the provisioning record that NVS holds. -/
def stagedCandidate (s : State) (p : Fin 8) (off : Nat) : State × Option (List Byte) :=
  match stagedImage s p off with
  | (s, none) => (s, none)
  | (s, some img) => match romRead s p 0x1000000 1376 with
    | (s, none) => (s, none)
    | (s, some rec) => (s, if recordValid s.fuses rec && imageCandidate s.fuses (sub rec 0 96) img then some img else none)

/-- The message of MB0 that the boot ROM serves: staged offset and target slot (in part DEDUCED, log entry 39). -/
def installRequest (P : Plain) : Option (Nat × Nat) :=
  let B := P.hiu.mb[(0 : Fin 4)]
  let failed := fld P.run.bootStat 0 4 = 1 ∨ fld P.run.bootStat 0 4 = 2
  if P.run.mode = .quarantine ∧ !P.mgr.running ∧ failed ∧ B.go ∧ look 0 B.msg 0 = 1 then some ((look 0 B.msg 1).toNat, (look 0 B.msg 2).toNat) else none

/-- BOOT_ROM_INSTALL (R377) (in part DEDUCED, log entry 39). -/
def execBootRomInstall (p : Fin 8) (s : State) : Out :=
  match installRequest s.plains[p] with
  | none => .next s
  | some (off, slot) =>
    let ack (s : State) (code : Nat) : Out := .next (mbAckWrite s p 0 (w32 (2 ^ 31 + code)))
    if 1 < slot then ack s 1
    else match stagedCandidate s p off with
      | (s, none) => ack s 1
      | (s, some img) =>
        let w := tagWrite p 1 (nvsAt (0x800000 * slot)) (nvsWrite s p 1 (0x800000 * slot) img)
        ack w.1 (if w.2 then 0 else 2)

/-! ## FLT_CTL (19 R385, R393) -/

/-- CLOSE (R385): machine-level firmware closes a firmware-led window (in part DEDUCED, log entry 37). -/
def fltClose (s : State) (p : Fin 8) (who : Agent) : State :=
  let h := s.plains[p].health
  if who = .mgrMachine ∧ !hardwareLed h.code.toNat ∧ h.code ≠ 0x0C then modPlain s p fun P => closeWindow P s.timeNs else s

/-- CLR (R393). -/
def fltClr (h : Health) : Health := if h.winOpen then h else { h with code := 0, first := 0, second := 0 }

/-- FLT_CTL written (R393): CLOSE is applied before CLR (in part DEDUCED, log entry 37). -/
def fltCtlWrite (s : State) (p : Fin 8) (who : Agent) (v : Word) : State :=
  let s := if bit v 0 then fltClose s p who else s
  modPlain s p fun P =>
    let h := if bit v 1 then fltClr P.health else P.health
    { P with health := { h with stallUs := BitVec.ofNat 16 (fld v 16 16) } }

/-- FLT_CTL_CLOSE (R385). -/
def execFltCtlClose (p : Fin 8) (who : Agent) (s : State) : Out := .next (fltClose s p who)

/-- FLT_CTL_CLR (R393). -/
def execFltCtlClr (p : Fin 8) (s : State) : Out := .next (modPlain s p fun P => { P with health := fltClr P.health })

/-! ## The wipe (15 R325) -/

/-- SECURE_WIPE_DONE (R325): WIPING clears, WIPED is set, and a boot that waited goes on (in part DEDUCED, log entry 21). -/
def execSecureWipeDone (p : Fin 8) (s : State) : Out :=
  let P := s.plains[p]
  if !bit P.mem.stat 3 then .next s
  else
    let s := modPlain s p fun P => { P with mem := { P.mem with stat := setBit (setBit P.mem.stat 3 false) 4 true } }
    .next (if P.run.bootPend then runBootRom s p else s)

/-! ## The progress monitor (15 R317) -/

/-- The monitor runs: not in TEST or VALLEY, and not while EN = 0 (R317). -/
def progressRuns (P : Plain) : Bool := bit P.bus.pmCtl 31 && resettable P

/-- The boot ROM serves MB0, which it does by executing instructions (18 R369, R377). -/
def romServes (P : Plain) : Bool := decide (P.run.mode = .quarantine) && !P.mgr.running && !P.run.bootPend

/-- What the monitor measures: the time since the primary last retired an instruction, without that in which it waits for an event
(R317); the instructions of a boot ROM that serves MB0 retire too (in part DEDUCED, log entry 47). -/
def progressTime (P : Plain) (now : Nat) : Nat := if P.mgr.waiting || romServes P then 0 else now - P.mgr.retiredAt

/-- PM_CTL.LIMIT in ns. -/
def progressLimit (P : Plain) : Nat := fld P.bus.pmCtl 0 16 * 1000

/-- PROGRESS_WARN (R317). -/
def execProgressWarn (p : Fin 8) (s : State) : Out :=
  let P := s.plains[p]
  if progressRuns P && P.bus.pmStage == 0 && decide (progressLimit P ≤ progressTime P s.timeNs) then
    let s := modPlain s p fun P => { P with bus := { P.bus with pmStage := 1, stat := setBit P.bus.stat 3 true } }
    .next (raiseFault s p 0x09 0 fun s => s)
  else .next s

/-- PROGRESS_TIMEOUT (R317): a Plain reset with cause PROGRESS. -/
def execProgressTimeout (p : Fin 8) (s : State) : Out :=
  let P := s.plains[p]
  if progressRuns P && P.bus.pmStage == 1 && decide (2 * progressLimit P ≤ progressTime P s.timeNs) then .next (plainReset s p 5) else .next s

end Sys2Proof.Machine
end

