-- ==== Sys2Proof/Machine/Pcie.lean ====
section
/-! DEFINITION. The module's PCI Express functions (13 R255-R258): identity and capabilities, the configuration registers that
this model holds, and the MSI-X table and pending bits of BAR2. -/

namespace Sys2Proof.Machine

/-! ## Identity and capabilities (R255, R256) -/

/-- What a function reads and supports (R255, Table — Functions of R256). -/
structure FnIdentity where
  device : Nat
  classCode : Nat
  /-- Bytes of BAR0. -/
  bar0 : Nat
  /-- Bytes of BAR2: MSI-X table at 0x0, PBA at 0x8000. -/
  bar2 : Nat
  vectors : Nat
deriving DecidableEq, Repr

/-- PF0 is function 0, PF1-PF8 functions 1 to 8 (R255, R256). -/
def fnIdentity (f : Nat) : FnIdentity :=
  if f = 0 then { device := 0x8800, classCode := 0x120000, bar0 := 0x1000000, bar2 := 0x10000, vectors := 16 }
  else { device := 0x8801, classCode := 0x120000, bar0 := 0x4000000, bar2 := 0x10000, vectors := 64 }

/-- The capabilities of every function (R255). -/
structure FnCapabilities where
  ari : Bool
  msix : Bool
  aer : Bool
  tag10 : Bool
  sriov : Bool
  ats : Bool
  pri : Bool
  intx : Bool
  msi : Bool
  /-- Largest payload, in bytes. -/
  maxPayload : Nat
  /-- Largest read request, in bytes. -/
  maxRead : Nat
  /-- Lanes of the port, and GT/s of the rates it trains to. -/
  lanes : List Nat
  rates : List Nat
deriving DecidableEq, Repr

/-- See `FnCapabilities` (R255). -/
def fnCapabilities : FnCapabilities :=
  { ari := true, msix := true, aer := true, tag10 := true, sriov := false, ats := false, pri := false, intx := false, msi := false,
    maxPayload := 512, maxRead := 4096, lanes := [8, 16], rates := [16, 32, 64] }

/-! ## Configuration registers and BAR2 (R256-R258) -/

/-- Offset of Message Control in the model's configuration space (PRESUMED, log entry 57). -/
abbrev msixControl : Nat := 0xB0

/-- Bytes `n` as the code of a payload or read request size: 128 bytes is 0 (PRESUMED, the standard's, log entry 57). -/
def sizeCode (n : Nat) : Nat := Nat.log2 (n / 128)

/-- The standard's code of a rate in GT/s: 16 is 4, 32 is 5, 64 is 6 (PRESUMED, log entry 57). -/
def rateCode (r : Nat) : Nat := Nat.log2 r

/-- A set of rates as bits by code. -/
def rateBits (rs : List Nat) : Nat := (rs.map fun r => 2 ^ (rateCode r - 1)).sum

/-- The PCI Express capability at 0x70: an endpoint with the limits, tags, rates and widths of R255, and the link as trained (R255; layout
PRESUMED, the standard's, log entry 57). -/
def expressWord (H : HostLink) (o : Nat) : Word :=
  let C := fnCapabilities
  let width := C.lanes.foldl max 0
  let rate := rateCode (C.rates.foldl max 0)
  match o with
  | 0x00 => w32 (0x10 + 0xB0 * 2 ^ 8 + 2 * 2 ^ 16 + 2 ^ 31)
  | 0x04 => w32 (sizeCode C.maxPayload + 2 ^ 5 + 2 ^ 15 + 2 ^ 28)
  | 0x08 => w32 (sizeCode C.maxRead * 2 ^ 12)
  | 0x0C => w32 (rate + width * 2 ^ 4)
  | 0x10 => w32 (if H.up then (H.rate.toNat + 4) * 2 ^ 16 + H.width.toNat * 2 ^ 20 else 0)
  | 0x24 => w32 (b2n C.tag10 * (2 ^ 16 + 2 ^ 17))
  | 0x2C => w32 (rateBits C.rates * 2)
  | 0x30 => w32 (rate + b2n H.flit * 2 ^ 26)
  | _ => 0

/-- A configuration register of function `f` by byte offset: identity, Command and Status, Class Code, the capability lists of PCI Express
and MSI-X, and the extended ones of AER and ARI; no capability of those that the device does not support, and no interrupt pin (R255).
The rest of the standard's space reads 0 here (in part PRESUMED, log entry 57). -/
def configWord (H : HostLink) (F : PcieFn) (f off : Nat) : Word :=
  match off with
  | 0x00 => w32 ((fnIdentity f).device * 2 ^ 16 + Config.vendorId.toNat)
  | 0x04 => w32 (b2n F.bme * 4 + 2 ^ 20)
  | 0x08 => w32 ((fnIdentity f).classCode * 2 ^ 8)
  | 0x34 => 0x70
  | 0xB0 => w32 (0x11 + ((fnIdentity f).vectors - 1) * 2 ^ 16 + b2n F.fnMask * 2 ^ 30 + b2n F.msixOn * 2 ^ 31)
  | 0xB4 => 2
  | 0xB8 => 0x8002
  | 0x100 => if fnCapabilities.aer then w32 (0x0001 + 2 ^ 16 + 0x148 * 2 ^ 20) else 0
  | 0x148 => if fnCapabilities.ari then w32 (0x000E + 2 ^ 16) else 0
  | 0x14C => if fnCapabilities.ari then w32 ((if f < 8 then f + 1 else 0) * 2 ^ 8) else 0
  | _ => if 0x70 ≤ off ∧ off < 0xB0 then expressWord H (off - 0x70) else 0

/-- A configuration register written by the host (R256-R258) (in part PRESUMED, log entry 57). -/
def configPut (off : Nat) (v : Word) (F : PcieFn) : PcieFn :=
  match off with
  | 0x04 => { F with bme := bit v 2 }
  | 0xB0 => { F with fnMask := bit v 30, msixOn := bit v 31 }
  | _ => F

/-- A word of BAR2 (R256): the MSI-X table, then the PBA, which is read only. -/
def bar2Word (F : PcieFn) (f off : Nat) : Word :=
  let v := off / 16
  if off < 16 * (fnIdentity f).vectors then (if off % 16 = 12 then w32 (b2n (!look false F.open_ v)) else look 0 F.entry (off / 4))
  else if off = 0x8000 then F.pba.setWidth 32
  else if off = 0x8004 then w32 (F.pba.toNat / 2 ^ 32)
  else 0

/-- A word of BAR2 written by the host (R256, R257). -/
def bar2Put (f off : Nat) (v : Word) (F : PcieFn) : PcieFn :=
  if off < 16 * (fnIdentity f).vectors then
    if off % 16 = 12 then { F with open_ := put false F.open_ (off / 16) (!bit v 0) } else { F with entry := put 0 F.entry (off / 4) v }
  else F

/-! ## The host's accesses to a function -/

/-- Offsets of REGISTER_WRITE and HOST_BAR0_ACCESS beyond BAR0 name the function's other spaces: 0x400_0000 + o is offset o of BAR2, 0x500_0000 + o
offset o of its configuration space (DESIGN CHOICE, log entry 57). -/
def fnOffset (off : Nat) : Bool := decide (0x4000000 ≤ off)

/-- A word of function `f` at such an offset. -/
def fnWord (H : HostLink) (F : PcieFn) (f off : Nat) : Word :=
  if off < 0x4010000 then bar2Word F f (off - 0x4000000)
  else if 0x5000000 ≤ off ∧ off < 0x5001000 then configWord H F f (off - 0x5000000) else 0

/-- A write of function `f` at such an offset, and the vectors that it lets out. -/
def fnPut (f off : Nat) (v : Word) (F : PcieFn) : PcieFn × List Nat :=
  fnRelease (if off < 0x4010000 then bar2Put f (off - 0x4000000) v F
    else if 0x5000000 ≤ off ∧ off < 0x5001000 then configPut (off - 0x5000000) v F else F)

/-- A write of a Plain's function by the host (R256-R258). -/
def plainFnPut (s : State) (p : Fin 8) (off : Nat) (v : Word) : State :=
  let r := fnPut (p.val + 1) off v s.plains[p].hiu.fn
  sendMsix (modPlain s p fun P => modFn P fun _ => r.1) (p.val + 1) r.2

/-- A write of PF0's function by the host (R256-R258). -/
def pf0FnPut (s : State) (off : Nat) (v : Word) : State :=
  let r := fnPut 0 off v s.pf0
  sendMsix { s with pf0 := r.1 } 0 r.2

end Sys2Proof.Machine
end

