-- ==== Sys2Proof/Machine/Regions.lean ====
section
/-! DEFINITION. Core voltages and step periods of the timing regions (01 R26, 05 R111, 17 R344, R345, R357). -/

namespace Sys2Proof.Machine

/-- A timing region is self-timed: the columns, the Manager/bus regions and the HIU logic (01 R26). -/
def selfTimed (n : Nat) : Bool := (decide (n < 96) && decide (n % 12 < 10)) || n == 97

/-- The domain of a timing region is on (17 R356): the columns' own, the Plain core for the Plain's other regions, the always-on
domain for the device-wide ones (01 R24). -/
def regionOn (s : State) (n : Nat) : Bool :=
  if 96 ≤ n then true
  else if n % 12 < 9 then bit (look 0 s.power.colOn (n / 12)) (n % 12)
  else bit s.power.coreOn (n / 12)

/-! ## Periods -/

/-- Step period of region `n` at `mv`: the grade's t_step,max bounds it under all operating conditions (01 R26). -/
def periodAt (F : Fuses) (n mv : Nat) : Nat := min (Config.regionPs n mv) F.tstepPs

/-! ## Setpoints (R345) -/

/-- The lowest voltage of a column's range, 600 to 850 mV, at which the measured step period is at or below 0.95 t_step,max; the
top of the range where none is. -/
def wantedMv (F : Fuses) (n : Nat) : Nat :=
  (((List.range 251).map (600 + ·)).find? fun mv => decide (100 * periodAt F n mv ≤ 95 * F.tstepPs)).getD 850

/-- The columns of a Plain in the order in which they are adjacent: the skipped one left out (R111, R357). -/
def columnsOf (F : Fuses) (p : Fin 8) : List Nat := (List.range 9).filter (· ≠ skipCol F p)

/-- What the columns' clamp gives the column at place `i` of the list: no neighbour is left more than 100 mV higher. The lower of
two setpoints is raised, which keeps its period (in part DEDUCED, log entry 12). -/
def clampAt (wants : List Nat) (i : Nat) : Nat := ((wants.zipIdx).map fun x => x.1 - 100 * (max x.2 i - min x.2 i)).foldl max 0

/-- The highest setpoint among a Plain's columns before the clamp against the Plain core. -/
def highestWant (F : Fuses) (p : Fin 8) : Nat := ((columnsOf F p).map fun c => wantedMv F (12 * p.val + c)).foldl max 0

/-- VCORE_PLn.CORE: 750 mV without AVS; else in its range of 700 to 850 mV and within 100 mV of every column (R344, R345). -/
def coreMv (F : Fuses) (avs : Bool) (p : Fin 8) : Nat :=
  if avs then min 850 (max (max 700 (highestWant F p - 100)) (Config.regionMv p.val)) else 750

/-- VCORE_AON: 750 mV without AVS; else in its range of 720 to 780 mV and within 100 mV of every Plain core (R344, R345). -/
def aonMv (F : Fuses) (avs : Bool) : Nat :=
  if avs then min 780 (max (max 720 (((List.finRange 8).map (coreMv F true ·)).foldl max 0 - 100)) (Config.regionMv 8)) else 750

/-- VCORE_PLn.COLpc: 750 mV without AVS; else the wanted setpoint, clamped against the columns on either side, a skipped one passed
over, and against the Plain core (R345, R111). -/
def columnMv (F : Fuses) (avs : Bool) (p : Fin 8) (c : Nat) : Nat :=
  if !avs then 750
  else max (clampAt ((columnsOf F p).map fun d => wantedMv F (12 * p.val + d)) ((columnsOf F p).idxOf c)) (coreMv F true p - 100)

/-- Core voltage of a region; 0 while its domain is off. -/
def regionVolt (s : State) (n : Nat) : Nat :=
  if !regionOn s n then 0
  else if 96 ≤ n then aonMv s.fuses s.power.avs
  else if n % 12 < 9 then columnMv s.fuses s.power.avs (Fin.ofNat 8 (n / 12)) (n % 12)
  else coreMv s.fuses s.power.avs (Fin.ofNat 8 (n / 12))

/-- Measured step period of a region in ps; 0 for a clocked region and while the domain is off (R366). -/
def regionPeriod (s : State) (n : Nat) : Nat := if selfTimed n && regionOn s n then periodAt s.fuses n (regionVolt s n) else 0

/-- t_step,max of a Plain: its slowest region among the nine columns and the Manager/bus region (01 R26). -/
def plainStepMax (s : State) (p : Fin 8) : Nat := ((List.range 10).map fun k => regionPeriod s (12 * p.val + k)).foldl max 0

/-! ## Registers (R366) -/

/-- TRn_STAT. -/
def regionStat (s : State) (n : Nat) : Word := w32 (regionVolt s n + look 0 s.power.temp n * 2 ^ 12)

/-- TRn_RATE. -/
def regionRate (s : State) (n : Nat) : Word := w32 (regionPeriod s n % 2 ^ 16)

end Sys2Proof.Machine
end

