-- ==== Sys2Proof/Machine/Registers.lean ====
section
/-! DEFINITION. The register map (22 R421-R427): reads and writes of every register of a Plain's set-up window and of the
PF0 window, under the access codes of 00 R6 and R7, and the rows that are register accesses (R112, R126, R272, R330, R413). -/

namespace Sys2Proof.Machine

/-! ## Words and fields -/

/-- A word from its fields: each value with the lowest bit it occupies. -/
def pack (xs : List (Nat × Nat)) : Word := w32 (xs.foldr (fun (x : Nat × Nat) a => x.1 * 2 ^ x.2 + a) 0)

/-- The low word of a number. -/
abbrev lo32 (n : Nat) : Word := w32 n

/-- Bits 63:32 of a number. -/
abbrev hi32 (n : Nat) : Word := w32 (n / 2 ^ 32)

/-- The low word of a number replaced. -/
def setLo (n : Nat) (v : Word) : Nat := n / 2 ^ 32 * 2 ^ 32 + v.toNat

/-- Bits 63:32 of a number replaced by the low `k` bits of a word. -/
def setHi (n k : Nat) (v : Word) : Nat := fld v 0 k * 2 ^ 32 + n % 2 ^ 32

/-- A word with 32-bit word `k` of it replaced. -/
def setWord (e : BitVec 128) (k : Nat) (v : Word) : BitVec 128 :=
  (e &&& ~~~(0xFFFFFFFF#128 <<< (32 * k))) ||| (v.setWidth 128 <<< (32 * k))

/-- VALID of a capture register, written 1 to clear (W1C). -/
def w1cValid (r v : Word) : Word := r &&& ~~~(v &&& 0x80000000#32)

/-- A Plain's registers take writes of this agent: every master with a path to T5 (15 R308) (in part DEDUCED, log entry 44). -/
def reachesPlain : Agent → Bool
  | .hostFn | .mgrMachine | .mgrSupervisor | .mgrUser | .loader | .testPort => true
  | .hostPf0 | .i2c => false

/-- Every ring of the Plain has EN = 0 (R282). -/
def ringsOff (P : Plain) : Bool := P.hiu.rings.toList.all fun R => !R.en

/-- Out-of-order service is in force (R315). -/
def outOfOrder (P : Plain) : Bool :=
  P.bus.recovery || decide (P.run.mode = .boot) || decide (P.run.mode = .test) || decide (P.run.mode = .quarantine)

/-- A test scope is granted (20 R397) (in part DEDUCED, log entry 44). -/
def scopeGranted (s : State) (k : Nat) : Bool :=
  s.fuses.lc == 0 || s.fuses.lc == 1 || (s.fuses.lc != 5 && s.tap.sessOpen && bit s.tap.scope k)

/-! ## Reads of a Plain's registers -/

/-- Plain control and mode block (18 R382). -/
def readModeBlock (P : Plain) (o : Nat) : Word :=
  let R := P.run
  match o with
  | 0x00 => pack [(modeCode R.mode, 0), (modeCode R.prev, 4), (b2n R.admitted, 8), (b2n R.colDirty, 9), (b2n R.refused, 10), (b2n R.wakeLock, 11)]
  | 0x08 => pack [(R.rstCause.toNat, 0), (R.rstCount.toNat, 16)]
  | 0x0C => R.bootCnt
  | 0x10 => R.bootStat
  | 0x14 => R.fwVer
  | 0x20 => R.rejoinOff.setWidth 32
  | 0x24 => R.rejoinStat
  | _ => 0

/-- ESC and DFCAUSE as MGR_ESC shows them (12 R242, R253). -/
def escWord (M : Manager) : Word :=
  pack [((look 0 M.csr 0x234).toNat % 4, 0), (fld (look 0 M.csr 0x234) 8 8, 8), (fld (look 0 M.csr 0x232) 0 16, 16)]

/-- Manager control block (11 R239, 12 R253). -/
def readMgrBlock (P : Plain) (o : Nat) : Word :=
  let M := P.mgr
  match o with
  | 0x000 => w32 (b2n M.callMode)
  | 0x004 => pack [(M.lvl.val, 0), (b2n M.blk.isSome, 2), (b2n M.waiting, 3), (b2n M.sbStall, 4)]
  | 0x008 => pack [(M.evq.length, 0), (M.lost.toNat, 16)]
  | 0x010 => M.pc.setWidth 32
  | 0x100 => M.lsCtl
  | 0x104 => M.lsStat
  | 0x108 => M.lsDiag
  | 0x10C => escWord M
  | _ => 0

/-- A ring's registers (13 R282). -/
def readRing (R : Ring) (o : Nat) : Word :=
  match o with
  | 0x00 => pack [(R.log2, 0), (b2n R.en, 8)]
  | 0x04 => lo32 R.base.toNat
  | 0x08 => hi32 R.base.toNat
  | 0x10 => R.acc
  | 0x14 => R.start
  | 0x18 => R.cmp
  | 0x24 => R.dbDrop
  | 0x28 => R.stat.setWidth 32
  | _ => 0

/-- The acceptance buffers: readable while the descriptor lies between CMP + 1 and ACC (R282). -/
def readBuffer (H : Hiu) (o : Nat) : Word :=
  let R := H.rings[Fin.ofNat 4 (o / 0x800)]
  let k := o % 0x800 / 64
  if ((k + 32 - (R.cmp.toNat + 1) % 32) % 32) < (R.acc - R.cmp).toNat then w32 ((look 0 R.buf k).toNat / 2 ^ (8 * (o % 64))) else 0

/-- Ring block (13 R282). -/
def readRingBlock (P : Plain) (o : Nat) : Word :=
  let H := P.hiu
  if o < 0x100 then readRing H.rings[Fin.ofNat 4 (o / 0x40)] (o % 0x40)
  else if 0x1000 ≤ o ∧ o < 0x3000 then readBuffer H (o - 0x1000)
  else match o with
    | 0x100 => w32 H.cqLog2
    | 0x104 => lo32 H.cqBase.toNat
    | 0x108 => hi32 H.cqBase.toNat
    | 0x10C => H.cseq
    | 0x110 => H.pseq
    | 0x114 => pack [(b2n H.cqBad, 0), (b2n (decide (H.cqWait ≠ []) && !cqRoom H), 1)]
    | 0x200 => lo32 H.sbAddr.toNat
    | 0x204 => hi32 H.sbAddr.toNat
    | 0x208 => w32 (b2n H.sbEn)
    | 0x300 => lo32 H.hwin.toNat
    | 0x304 => hi32 H.hwin.toNat
    | 0x400 => w32 (b2n H.fwRefused)
    | _ => 0

/-- Mailbox block (13 R288); MB_LOCK apart. -/
def readMbBlock (P : Plain) (o : Nat) : Word :=
  let H := P.hiu
  if o < 0x400 then
    let B := H.mb[Fin.ofNat 4 (o / 0x100)]
    let k := o % 0x100
    if k < 0x40 then look 0 B.msg (k / 4)
    else match k with
      | 0x40 => pack [(B.len.toNat, 0), (b2n B.go, 8), (b2n B.done, 9)]
      | 0x44 => B.code.setWidth 32
      | 0x4C => pack [(B.holder.toNat, 0), (B.stat.toNat, 4)]
      | _ => 0
  else match o with
    | 0x400 => H.dbStat
    | 0x404 => H.dbStat
    | 0x408 => H.dbMgr
    | 0x40C => H.dbHost
    | _ => 0

/-- A DMA channel's registers (14 R306). -/
def readChannel (C : Channel) (o : Nat) : Word :=
  match o with
  | 0x00 => C.cfg
  | 0x04 => lo32 C.dbase.toNat
  | 0x08 => hi32 C.dbase.toNat
  | 0x0C => C.head.setWidth 32
  | 0x10 => w32 (b2n C.en)
  | 0x14 => pack [(b2n C.running, 0), (b2n C.latch, 1), (b2n C.empty, 2), (b2n C.err, 3), (b2n C.fetchErr, 4), (C.last.toNat, 8)]
  | 0x18 => C.done
  | _ => 0

/-- DMA block (14 R306). -/
def readDmaBlock (P : Plain) (o : Nat) : Word :=
  let D := P.dma
  if 0x10 ≤ o ∧ o < 0x50 then
    let T := D.timers[Fin.ofNat 8 ((o - 0x10) / 8)]
    if o % 8 = 0 then T.period else T.count
  else if 0x1000 ≤ o ∧ o < 0x1400 then readChannel D.ch[Fin.ofNat 16 ((o - 0x1000) / 0x40)] (o % 0x40)
  else match o with
    | 0x0 => D.dropped
    | 0x4 => pack [((List.finRange 16).foldr (fun c a => b2n D.ch[c].running * 2 ^ c.val + a) 0, 0), (b2n D.cfgErr, 16)]
    | _ => 0

/-- Bus matrix block (15 R330). -/
def readBusBlock (P : Plain) (o : Nat) : Word :=
  let B := P.bus
  match o with
  | 0x00 => w32 (b2n B.recovery)
  | 0x04 => pack [(B.stat.toNat, 0), (b2n (outOfOrder P), 4)]
  | 0x08 => B.unmapLo
  | 0x0C => B.unmapHi
  | 0x10 => B.errLo
  | 0x14 => B.errHi
  | 0x20 => B.prio
  | 0x24 => B.qos
  | 0x28 => B.age.setWidth 32
  | 0x30 => B.pmCtl
  | 0x34 => B.pmStage.setWidth 32
  | _ => 0

/-- SPAD control block (15 R330); `repair` is the fuses' SPAD_REPAIR (in part DEDUCED, log entry 50). -/
def readMemBlock (repair : Nat) (P : Plain) (o : Nat) : Word :=
  let M := P.mem
  if 0x20 ≤ o ∧ o < 0x40 then look 0 M.conf ((o - 0x20) / 4)
  else match o with
    | 0x000 => M.stat.setWidth 32
    | 0x004 => M.ceCnt
    | 0x008 => M.ueCnt
    | 0x00C => M.ueAddr
    | 0x010 => w32 (repair % 2 ^ 16)
    | 0x100 => pack [(M.nvsStat.toNat, 0), (M.nvsBusy, 3)]
    | 0x104 => M.nvsCeCnt
    | 0x108 => M.nvsUeCnt
    | 0x10C => lo32 M.nvsWr.toNat
    | 0x110 => M.nvsWrHi
    | _ => 0

/-- A PIO engine's registers (16 R343); PEn_RX apart. -/
def readEngine (E : PioEngine) (o : Nat) : Word :=
  if 0x80 ≤ o then (look 0 E.imem ((o - 0x80) / 4)).setWidth 32
  else match o with
    | 0x00 => pack [(E.base, 0), (E.entry.toNat, 8), (E.div.toNat, 16)]
    | 0x04 => pack [(E.pc.toNat, 0), (b2n E.running, 5), (b2n E.blocked, 6), (E.tx.length, 7), (E.rx.length, 10), (E.flags.toNat, 16)]
    | 0x10 => pack [(E.ca.toNat, 0), (E.cb.toNat, 16)]
    | 0x14 => E.sh
    | 0x18 => pack [(E.ocnt, 0), (E.icnt, 8)]
    | 0x1C => pack [(E.levels.toNat, 0), (E.oen.toNat, 8)]
    | _ => 0

/-- PIO block (16 R343): a pin of a bank that is off reads 0 (R331). -/
def readPioBlock (now : Nat) (P : Plain) (o : Nat) : Word :=
  let I := P.pio
  if 0x100 ≤ o ∧ o < 0x500 then readEngine I.eng[Fin.ofNat 4 ((o - 0x100) / 0x100)] (o % 0x100)
  else match o with
    | 0x00 => I.bank.setWidth 32
    | 0x0C => pack [((List.finRange 4).foldr (fun e a => b2n I.eng[e].running * 2 ^ e.val + a) 0, 0), (b2n I.bankBusy, 8), (b2n I.startLost, 9)]
    | 0x10 => pack [(I.src.toNat, 0), (I.credit, 8), (I.limit.toNat, 16)]
    | 0x14 => I.drop
    | 0x18 => lo32 (padLevels now P).toNat
    | 0x1C => hi32 (padLevels now P).toNat
    | _ => 0

/-- The frame is held as returned (08 R175) (in part DEDUCED, log entry 23). -/
def isReturned : FrameMark → Bool
  | .returned _ => true
  | _ => false

/-- A register of a link (08 R179). REPLAY_k of a slot that holds no frame reads 0, and of two frames in a slot the older is shown
(DESIGN CHOICE, log entry 55). -/
def readLink (L : Link) (o : Nat) : Word :=
  if 0x1000 ≤ o ∧ o < 0x1100 then look 0 L.chan ((o - 0x1000) / 4)
  else if 0x1100 ≤ o ∧ o < 0x1200 then pack [(look 0 L.cred ((o - 0x1100) / 4), 0), (b2n (look false L.granted ((o - 0x1100) / 4)), 31)]
  else if 0x8000 ≤ o ∧ o < 0xA000 then
    match L.replay.find? fun h => decide (h.frame.seq.toNat % 256 = (o - 0x8000) / 0x20) with
    | some h => w32 (leNat (((frameBytes h.frame).drop (o % 0x20)).take 4))
    | none => 0
  else match o with
    | 0x00 => pack [(b2n L.en, 0), (b2n L.foreign, 1)]
    | 0x04 => pack [(linkCode L.state, 0), (L.width, 3), (L.refuse.toNat, 7), (L.closeReason.toNat, 10), (b2n L.closePeer, 13), (L.flags.toNat, 16)]
    | 0x08 => pack [(L.txNext.toNat, 0), (L.txAck.toNat, 12)]
    | 0x0C => L.rxNext.setWidth 32
    | 0x10 => L.fecCe
    | 0x14 => L.fecUe
    | 0x18 => L.crcCnt
    | 0x1C => L.replayCnt
    | 0x20 => L.retrainCnt
    | 0x24 => L.drop
    | 0x28 => L.txDisc
    | 0x2C => L.refused
    | 0x30 => pack [((L.replay.head?.map fun h => h.frame.seq.toNat).getD 0, 0),
        ((L.replay.filter (isReturned ·.mark)).length, 12), ((L.replay.filter fun h => decide (h.mark = .unconfirmed)).length, 21)]
    | 0x34 => lo32 L.peerCyc.toNat
    | 0x38 => pack [(L.peerCyc.toNat / 2 ^ 32, 0), (L.peerFlags.toNat, 16)]
    | 0x3C => L.peerEpoch
    | 0x40 => lo32 L.peerTag.toNat
    | 0x44 => hi32 L.peerTag.toNat
    | _ => 0

/-- Sync registers (08 R179). -/
def readSync (P : Plain) (o : Nat) : Word :=
  let Y := P.sync
  match o with
  | 0x00 => pack [(Y.diam.toNat, 0), (Y.tmo.toNat, 8)]
  | 0x04 => pack [(Y.stat.toNat, 0), (b2n Y.target.isSome, 5), (b2n (decide (P.run.phase = .row9) && !gateOk P), 6), (b2n Y.pend.isSome, 7)]
  | 0x08 => Y.cur.epoch
  | 0x0C => (Y.prev.map (·.epoch)).getD 0
  | 0x10 => lo32 Y.cur.tag.toNat
  | 0x14 => hi32 Y.cur.tag.toNat
  | 0x18 => lo32 (Y.target.getD 0)
  | 0x1C => hi32 (Y.target.getD 0)
  | 0x20 => lo32 ((Y.pend.map (·.first)).getD 0)
  | 0x24 => hi32 ((Y.pend.map (·.first)).getD 0)
  | 0x28 => Y.gateNs
  | _ => 0

/-- Pass link block. -/
def readLinkBlock (P : Plain) (o : Nat) : Word :=
  if o < 0x80000 then readLink P.links[Fin.ofNat 8 (o / 0x10000)] (o % 0x10000)
  else if 0xF0000 ≤ o then readSync P (o - 0xF0000) else 0

/-- Basin block (07 R148). -/
def readBasinBlock (P : Plain) (o : Nat) : Word :=
  let B := P.basin
  if 0x20 ≤ o ∧ o < 0x34 then w32 (look 0 B.rsv ((o - 0x20) / 4))
  else if 0x40 ≤ o ∧ o < 0x68 then w32 (look 0 (if o % 8 = 0 then B.areaBase else B.areaSize) ((o - 0x40) / 8))
  else if 0x1000 ≤ o ∧ o < 0x2000 then w32 ((look 0 B.rgn ((o - 0x1000) / 16)).toNat / 2 ^ (8 * (o % 16)))
  else match o with
    | 0x00 => w32 (b2n B.scrubEn)
    | 0x04 => pack [(B.stat.toNat, 0), (B.refresh.toNat, 8), (b2n P.run.admitted, 31)]
    | 0x08 => B.ceCnt
    | 0x0C => B.ueCnt
    | 0x10 => B.ueLo
    | 0x14 => B.ueHi
    | 0x18 => B.ovl
    | 0x1C => B.temp.setWidth 32
    | 0x34 => w32 (960 - rsvSum B)
    | 0x70 => w32 B.head
    | 0x74 => w32 B.tail
    | 0x78 => B.gen
    | _ => 0

/-- A word of a checkpoint directory entry (09 R199). -/
def readDir (C : Capture) (o : Nat) : Word :=
  match find C.dir (o / 0x10), o % 0x10 with
  | some e, 0 => e.gen
  | some e, 4 => lo32 e.start
  | some e, 8 => pack [(e.start / 2 ^ 32 % 2 ^ 16, 0), (1, 31)]
  | _, _ => 0

/-- A word of a trigger entry (09 R199). -/
def readTrig (C : Capture) (o : Nat) : Word :=
  let n := o / 0x20
  match o % 0x20 with
  | 0x00 => look 0 C.trigMask n
  | 0x04 => look 0 C.trigMatch n
  | 0x08 => look 0 C.trigKey n
  | 0x0C => look 0 C.trigCyc n
  | 0x10 => look 0 C.trigCtl n
  | _ => 0

/-- Capture, replay and trigger block (09 R199). -/
def readCapBlock (P : Plain) (o : Nat) : Word :=
  let C := P.cap
  if 0x200 ≤ o ∧ o < 0x300 then readDir C (o - 0x200)
  else if 0x1000 ≤ o ∧ o < 0x1400 then readTrig C (o - 0x1000)
  else match o with
    | 0x000 => pack [(b2n C.started, 0), (b2n C.gap, 1), (b2n C.wrapped, 2), (b2n C.stall, 3)]
    | 0x004 => C.records
    | 0x008 => C.gapCnt
    | 0x010 => pack [(b2n C.noDelta, 2), (b2n C.lossy, 3), (C.depth.toNat, 4)]
    | 0x014 => lo32 C.sel.toNat
    | 0x018 => hi32 C.sel.toNat
    | 0x01C => pack [(C.winLo.toNat, 0), (C.winHi.toNat, 16)]
    | 0x020 => lo32 C.head
    | 0x024 => hi32 C.head
    | 0x028 => lo32 C.oldest
    | 0x02C => hi32 C.oldest
    | 0x100 => pack [(C.period.toNat, 0), (C.keep.toNat, 24)]
    | 0x104 => pack [(b2n (C.due || C.dueJob), 0), (b2n C.draining.isSome, 1), (nSlot P.basin, 2), (C.lastSlot.toNat, 7)]
    | 0x108 => C.skip
    | 0x300 => pack [(C.rplSlot.toNat, 0), (b2n C.rplRestore, 4)]
    | 0x304 => lo32 C.rplStop.toNat
    | 0x308 => hi32 C.rplStop.toNat
    | 0x30C => pack [(b2n C.rplActive, 0), (b2n C.rplDone, 1), (C.rplErr.toNat, 2)]
    | 0x800 => C.hit
    | 0x804 => lo32 C.hitCyc.toNat
    | 0x808 => hi32 C.hitCyc.toNat
    | _ => 0

/-- The tile of a per-tile register at 0x10 × (8r + c). -/
abbrev tileAt (o : Nat) : Fin 64 := Fin.ofNat 64 (o / 0x10)

/-- TILE_FLAG_SUM from a first tile on (03 R71). -/
def flagSum (P : Plain) (first : Nat) : Word :=
  w32 ((List.range 32).foldr (fun i a => b2n (P.tiles[Fin.ofNat 64 (first + i)].stat != 0) * 2 ^ i + a) 0)

/-- Per-tile transport and operation registers (03 R71, 04 R96). -/
def readTileRegs (P : Plain) (o : Nat) : Word :=
  if o < 0x400 then
    let T := P.tiles[tileAt o]
    match o % 0x10 with
    | 0x0 => T.stat
    | 0x4 => T.fault
    | 0x8 => T.opstat
    | _ => 0
  else if o = 0x400 then flagSum P 0
  else if o = 0x404 then flagSum P 32
  else 0

/-- Col registers (05 R112); `skip` is COL_MAP.SKIP_COL. -/
def readColRegs (skip : Nat) (P : Plain) (o : Nat) : Word :=
  let C := P.col
  if 0x30 ≤ o ∧ o < 0x54 then look 0 C.lag ((o - 0x30) / 4)
  else match o with
    | 0x00 => pack [(skip, 0), (b2n (skip != 8), 4)]
    | 0x04 => w32 (b2n C.freeze * 2)
    | 0x08 => C.fault
    | 0x10 => lo32 C.dropSum.toNat
    | 0x14 => hi32 C.dropSum.toNat
    | 0x18 => C.dropCnt
    | 0x20 => lo32 C.hops.toNat
    | 0x24 => C.hopsHi
    | _ => 0

/-- Queue and stall registers (06 R126). -/
def readQueueRegs (P : Plain) (o : Nat) : Word :=
  if o < 0x400 then
    let T := P.tiles[tileAt o]
    match o % 0x10 with
    | 0x0 => pack [(T.q0.length, 0), (T.q1.length, 8), (T.q2.length, 16), (T.q3.length, 24)]
    | 0x4 => pack [(T.q4.length, 0), (T.q5.length, 8), (T.q6.length, 16), (T.q7.length, 24)]
    | 0x8 => T.tqFlags
    | _ => 0
  else match o with
    | 0x400 => w32 (b2n P.stall.freeze * 2)
    | 0x404 => P.stall.waitSteps
    | 0x408 => P.stall.bpSteps
    | 0x40C => P.stall.last
    | 0x410 => P.stall.max
    | 0x414 => P.stall.bound
    | 0x418 => P.stall.overCnt
    | _ => 0

/-- EPS_STAT.FREE: banks that no epoch holds (10 R216, R218) (in part DEDUCED, log entry 44). -/
def banksFree (P : Plain) : Nat := if P.run.admitted then 4 - ((List.range 4).filter fun b => b ∈ banksUsed P).length else 4

/-- EPS_STAT.USED: distinct patched indices of the current bank in the fullest tile. -/
def banksFullest (P : Plain) : Nat := (P.tiles.toList.map fun T => bankCount T.overlay P.ldr.curBank).foldl max 0

/-- Loader registers (10 R218). -/
def readLoaderRegs (P : Plain) (o : Nat) : Word :=
  let D := P.ldr
  if 0x100 ≤ o ∧ o < 0x200 then w32 (look 0 D.env ((o - 0x100) / 4))
  else match o with
    | 0x00 => pack [(D.phase.toNat, 0), (D.code.toNat, 4), (D.detail.toNat, 8), (b2n P.run.admitted, 31)]
    | 0x04 => w32 D.vplain
    | 0x08 => w32 D.len
    | 0x0C => lo32 D.digest.toNat
    | 0x10 => hi32 D.digest.toNat
    | 0x14 => D.vlink
    | 0x20 => D.certNs
    | 0x24 => D.tdcLast
    | 0x28 => D.tdcMax
    | 0x2C => D.overCnt
    | 0x40 => pack [(b2n D.paceEn, 0), (b2n D.paceRefused, 1), (D.stepPs, 16)]
    | 0x44 => D.period
    | 0x48 => D.lateCnt
    | 0x50 => w32 D.pwrRsv
    | 0x60 => pack [(D.curBank, 0), (banksFree P, 2), (D.lastRef.toNat, 8), (banksFullest P, 12)]
    | 0x200 => w32 P.mem.tcaSel.val
    | _ => 0

/-- Loader and tile configuration block. -/
def readTileBlock (skip : Nat) (P : Plain) (o : Nat) : Word :=
  if o < 0x8000 then readLoaderRegs P o
  else if o < 0x9000 then readTileRegs P (o - 0x8000)
  else if o < 0xA000 then readColRegs skip P (o - 0x9000)
  else if o < 0xB000 then readQueueRegs P (o - 0xA000)
  else 0

/-- The fault registers (19 R393). -/
def readFaultRegs (h : Health) (o : Nat) : Word :=
  match o with
  | 0x100 => fltStat h
  | 0x104 => pack [(h.stallUs.toNat, 16)]
  | 0x108 => lo32 h.fltCyc.toNat
  | 0x10C => hi32 h.fltCyc.toNat
  | 0x110 => h.fltWhere
  | 0x114 => h.fltCount
  | _ => 0

/-- Plain power and health block (17 R366, 19 R393). -/
def readHealthBlock (P : Plain) (o : Nat) : Word :=
  match o with
  | 0x000 => P.health.pwrNow
  | 0x004 => P.health.envOverCnt
  | 0x008 => pack [(P.health.throttle.toNat, 0), (b2n P.health.envOver, 4)]
  | _ => readFaultRegs P.health o

/-- OBS_CTL and OBS_SELt of a Plain or of the device (20 R402). -/
def readObs (en : BitVec 4) (denied : Bool) (sel : Sparse (BitVec 11)) (o : Nat) : Word :=
  match o with
  | 0x0 => pack [(en.toNat, 0), (b2n denied, 4)]
  | 0x4 => (look 0 sel 0).setWidth 32
  | 0x8 => (look 0 sel 1).setWidth 32
  | 0xC => (look 0 sel 2).setWidth 32
  | 0x10 => (look 0 sel 3).setWidth 32
  | _ => 0

/-- Plain test mux block (20 R402). -/
def readTestBlock (P : Plain) (o : Nat) : Word :=
  if o = 0x100 then P.health.bistRes else readObs P.health.obsEn P.health.obsDenied P.health.obsSel o

/-- A register of a Plain's window as a read without effects shows it; reserved registers read 0 (R7, R424). -/
def peekReg (now : Nat) (F : Fuses) (p : Fin 8) (P : Plain) (off : Nat) : Word :=
  let o := off % 0x100000
  match off / 0x100000 with
  | 0x0 => readModeBlock P o
  | 0x1 => readMgrBlock P o
  | 0x2 => readRingBlock P o
  | 0x3 => readMbBlock P o
  | 0x4 => readDmaBlock P o
  | 0x5 => readBusBlock P o
  | 0x6 => readMemBlock (look 0 F.repair p.val) P o
  | 0x7 => readPioBlock now P o
  | 0x8 => readLinkBlock P o
  | 0x9 => readBasinBlock P o
  | 0xA => readCapBlock P o
  | 0xB => readTileBlock (skipCol F p) P o
  | 0xC => readHealthBlock P o
  | 0xD => readTestBlock P o
  | _ => 0

/-! ## Reads with effects -/

/-- A read of COL_HOPS_LO captures the high half (05 R112). -/
def captureHops (P : Plain) : Plain := { P with col := { P.col with hopsHi := hi32 P.col.hops.toNat } }

/-- COL_HOPS_READ (R112). -/
def execColHopsRead (p : Fin 8) (s : State) : Out := .next (if awake s.plains[p] then modPlain s p captureHops else s)

/-- A read of NVS_WR_LO captures the high half (15 R330). -/
def captureNvsWr (P : Plain) : Plain := { P with mem := { P.mem with nvsWrHi := hi32 P.mem.nvsWr.toNat } }

/-- NVS_WR_READ (R330). -/
def execNvsWrRead (p : Fin 8) (s : State) : Out := .next (if awake s.plains[p] then modPlain s p captureNvsWr else s)

/-- A link counter after a read of it (R6). -/
def clearLinkCounter (o : Nat) (L : Link) : Link :=
  match o with
  | 0x10 => { L with fecCe := 0 }
  | 0x14 => { L with fecUe := 0 }
  | 0x18 => { L with crcCnt := 0 }
  | 0x1C => { L with replayCnt := 0 }
  | 0x20 => { L with retrainCnt := 0 }
  | 0x24 => { L with drop := 0 }
  | 0x28 => { L with txDisc := 0 }
  | 0x2C => { L with refused := 0 }
  | _ => L

/-- An RC counter at an offset is cleared (R6): DROPPED_EVENTS and the link counters. -/
def clearCounter (off : Nat) (P : Plain) : Plain :=
  if off = 0x400000 then { P with dma := { P.dma with dropped := 0 } }
  else if 0x800000 ≤ off ∧ off < 0x880000 then modLink P (Fin.ofNat 8 ((off - 0x800000) / 0x10000)) (clearLinkCounter (off % 0x10000))
  else P

/-- RC_COUNTER_READ (R6): the read returns the count and clears it. -/
def execRcCounterRead (p : Fin 8) (off : BitVec 28) (s : State) : Out :=
  let P := s.plains[p]
  .next (if awake P then { modPlain s p (clearCounter off.toNat) with readData := peekReg s.timeNs s.fuses p P off.toNat } else s)

/-- The registers that the HIU serves in VALLEY (18 R378) (in part DEDUCED, log entry 22). -/
def servedInValley (off : Nat) : Bool := decide (off < 0x100000) || (decide (0xC00100 ≤ off) && decide (off < 0xC00118))

/-- A read of a Plain's register by an agent: the state after it and the word (R421, R424) (in part DEDUCED, log entry 44). -/
def readReg (s : State) (p : Fin 8) (who : Agent) (off : Nat) : State × Word :=
  let P := s.plains[p]
  let w := peekReg s.timeNs s.fuses p P off
  if !awake P then (s, if servedInValley off then w else 0xFFFFFFFF)
  else if 0x300000 ≤ off ∧ off < 0x300400 ∧ off % 0x100 = 0x48 then mbLockGet s p (Fin.ofNat 4 ((off - 0x300000) / 0x100)) who
  else if 0x700100 ≤ off ∧ off < 0x700500 ∧ off % 0x100 = 0x0C then
    let r := pioRxGet (Fin.ofNat 4 ((off - 0x700100) / 0x100)) who P
    (modPlain s p fun _ => r.1, r.2)
  else if off = 0xB09020 then (modPlain s p captureHops, w)
  else if off = 0x60010C then (modPlain s p captureNvsWr, w)
  else (modPlain s p (clearCounter off), w)

/-! ## Writes of a Plain's registers -/

/-- Plain control and mode block (18 R382). -/
def writeModeBlock (s : State) (p : Fin 8) (who : Agent) (o : Nat) (v : Word) : State :=
  match o with
  | 0x00 => if bit v 10 then modPlain s p fun P => { P with run := { P.run with refused := false } } else s
  | 0x04 => plainCtlWrite s p who v
  | 0x20 => rejoinWrite s p v
  | 0x24 => modPlain s p fun P => { P with run := { P.run with rejoinStat := w1c P.run.rejoinStat (v &&& 1) } }
  | _ => s

/-- LS_CTL as written: a reserved policy stores 0 (R7, 12 R253) (in part DEDUCED, log entry 42). -/
def lsCtlWord (v : Word) : Word := pack [(if fld v 0 2 < 2 then fld v 0 2 else 0, 0), (if fld v 2 2 < 3 then fld v 2 2 else 0, 2)]

/-- Manager control block; the first write of MGR_CFG after a reset, as a rule the boot ROM's, locks it (00 R6, 11 R233, R239,
12 R253). -/
def writeMgrBlock (o : Nat) (v : Word) (P : Plain) : Plain :=
  match o with
  | 0x000 => if P.mgr.callLock then P else { P with mgr := { P.mgr with callMode := bit v 0, callLock := true } }
  | 0x100 => { P with mgr := { P.mgr with lsCtl := lsCtlWord v } }
  | 0x104 => { P with mgr := { P.mgr with lsStat := w1c P.mgr.lsStat (v &&& 3) } }
  | _ => P

/-- A ring's registers (13 R282). -/
def writeRing (s : State) (p : Fin 8) (r : Fin 4) (o : Nat) (v : Word) : State :=
  let upd (f : Ring → Ring) : State := modPlain s p fun P => modRing P r f
  match o with
  | 0x00 => ringCfgPut s p r v
  | 0x04 => upd fun R => { R with base := BitVec.ofNat 64 (setLo R.base.toNat (v &&& 0xFFFFF000#32)) }
  | 0x08 => upd fun R => { R with base := BitVec.ofNat 64 (setHi R.base.toNat 32 v) }
  | 0x0C => ringDoorbell s p r v
  | 0x1C => ringInitWrite s p r v
  | 0x20 => if r = 0 then ringAbortWrite s p v else s
  | 0x28 => upd fun R => { R with stat := w1c R.stat (v.setWidth 6) }
  | _ => s

/-- Ring block (13 R282) (in part DEDUCED, log entry 29). -/
def writeRingBlock (s : State) (p : Fin 8) (o : Nat) (v : Word) : State :=
  let upd (f : Hiu → Hiu) : State := modPlain s p fun P => { P with hiu := f P.hiu }
  let off := ringsOff s.plains[p]
  let n := fld v 0 5
  if o < 0x100 then writeRing s p (Fin.ofNat 4 (o / 0x40)) (o % 0x40) v
  else match o with
    | 0x100 => if off then upd fun H =>
        let G := { H with cqLog2 := if 6 ≤ n ∧ n ≤ 16 then n else 6 }
        { G with cqFull := G.cqFull && !cqRoom G } else s
    | 0x104 => upd fun H => { H with cqBase := BitVec.ofNat 64 (setLo H.cqBase.toNat v) }
    | 0x108 => upd fun H => { H with cqBase := BitVec.ofNat 64 (setHi H.cqBase.toNat 32 v) }
    | 0x10C => cqCseqPut s p v
    | 0x114 => if bit v 0 then upd fun H => { H with cqBad := false } else s
    | 0x200 => if off then upd fun H => { H with sbAddr := BitVec.ofNat 64 (setLo H.sbAddr.toNat (v &&& 0xFFFFFF00#32)) } else s
    | 0x204 => if off then upd fun H => { H with sbAddr := BitVec.ofNat 64 (setHi H.sbAddr.toNat 32 v) } else s
    | 0x208 => sbCtlPut s p v
    | 0x300 => if off then upd fun H => { H with hwin := BitVec.ofNat 64 (setLo H.hwin.toNat (v &&& 0xFFFFF000#32)) } else s
    | 0x304 => if off then upd fun H => { H with hwin := BitVec.ofNat 64 (setHi H.hwin.toNat 32 v) } else s
    | 0x400 => fwStartWrite s p v
    | 0x404 => upd fun H => { H with fwRes := BitVec.ofNat 64 (setLo H.fwRes.toNat v) }
    | 0x408 => upd fun H => { H with fwRes := BitVec.ofNat 64 (setHi H.fwRes.toNat 32 v) }
    | 0x40C => fwPostWrite s p v
    | _ => s

/-- Mailbox block (13 R288). -/
def writeMbBlock (s : State) (p : Fin 8) (who : Agent) (o : Nat) (v : Word) : State :=
  let H := s.plains[p].hiu
  let m : Fin 4 := Fin.ofNat 4 (o / 0x100)
  let upd (f : Mailbox → Mailbox) : State := modPlain s p fun P => modMb P m f
  if o < 0x400 then
    if o % 0x100 < 0x40 then upd (msgWrite (o % 0x100 / 4) who v)
    else match o % 0x100 with
      | 0x40 => mbCtlWrite s p m who v
      | 0x44 => mbAckWrite s p m v
      | 0x48 => mbLockPut s p m who v
      | 0x4C => upd fun B => { B with stat := w1c B.stat (BitVec.ofNat 4 (fld v 4 4)) }
      | _ => s
  else match o with
    | 0x400 => dbUpdate s p (w1c H.dbStat v) H.dbMgr H.dbHost
    | 0x404 => dbSetBits s p v
    | 0x408 => dbUpdate s p H.dbStat v H.dbHost
    | 0x40C => dbUpdate s p H.dbStat H.dbMgr v
    | _ => s

/-- Channel registers that take writes only while the channel is STOPPED (14 R306). -/
def writeStopped (c : Fin 16) (f : Channel → Channel) (P : Plain) : Plain := modCh P c fun C => if C.running then C else f C

/-- A DMA channel's registers (14 R306). -/
def writeChannel (c : Fin 16) (o : Nat) (v : Word) (P : Plain) : Plain :=
  match o with
  | 0x00 => chCfgPut c v P
  | 0x04 => writeStopped c (fun C => { C with dbase := BitVec.ofNat 40 (setLo C.dbase.toNat (v &&& 0xFFFFFFE0#32)) }) P
  | 0x08 => writeStopped c (fun C => { C with dbase := BitVec.ofNat 40 (setHi C.dbase.toNat 8 v) }) P
  | 0x0C => writeStopped c (fun C => { C with head := v.setWidth 16 }) P
  | 0x10 => chCtlWrite c v P
  | 0x14 => modCh P c fun C => { C with empty := C.empty && !bit v 2, err := C.err && !bit v 3, fetchErr := C.fetchErr && !bit v 4 }
  | _ => P

/-- DMA block (14 R306). -/
def writeDmaBlock (now o : Nat) (v : Word) (P : Plain) : Plain :=
  if 0x10 ≤ o ∧ o < 0x50 then (if o % 8 = 0 then timerPut now (Fin.ofNat 8 ((o - 0x10) / 8)) v P else P)
  else if 0x1000 ≤ o ∧ o < 0x1400 then writeChannel (Fin.ofNat 16 ((o - 0x1000) / 0x40)) (o % 0x40) v P
  else if o = 4 ∧ bit v 16 then { P with dma := { P.dma with cfgErr := false } }
  else P

/-- BM_CTL written (15 R315, R330). -/
def bmCtlPut (v : Word) (P : Plain) : Plain := { P with bus := { P.bus with recovery := bit v 0 } }

/-- BM_CTL_RECOVERY (R315): with no access outstanding every master changes service at once. -/
def execBmCtlRecovery (p : Fin 8) (who : Agent) (v : Word) (s : State) : Out :=
  .next (if awake s.plains[p] && reachesPlain who then modPlain s p (bmCtlPut v) else s)

/-- PM_CTL written (15 R317, R330): while EN = 0 the monitor does not count. -/
def pmCtlPut (now : Nat) (v : Word) (P : Plain) : Plain :=
  let P := { P with bus := { P.bus with pmCtl := v &&& 0x8000FFFF#32 } }
  match P.bus.pmHeld, bit v 31 with
  | none, false => { P with bus := { P.bus with pmHeld := some now } }
  | some t, true => { P with
      bus := { P.bus with pmHeld := none }
      mgr := { P.mgr with retiredAt := if P.mgr.retiredAt ≤ t then P.mgr.retiredAt + (now - t) else now } }
  | _, _ => P

/-- Bus matrix block (15 R330). -/
def writeBusBlock (now o : Nat) (v : Word) (P : Plain) : Plain :=
  let upd (f : Bus → Bus) : Plain := { P with bus := f P.bus }
  match o with
  | 0x00 => bmCtlPut v P
  | 0x04 => upd fun B => { B with stat := w1c B.stat (v.setWidth 4) }
  | 0x0C => upd fun B => { B with unmapHi := w1cValid B.unmapHi v }
  | 0x14 => upd fun B => { B with errHi := w1cValid B.errHi v }
  | 0x20 => upd fun B => { B with prio := v &&& 0x0F1F1F1F#32 }
  | 0x24 => upd fun B => { B with qos := v &&& 0xFF#32 }
  | 0x28 => upd fun B => { B with age := v.setWidth 16 }
  | 0x30 => pmCtlPut now v P
  | _ => P

/-- SPAD_CTL.CLR: every memory counter but the NVS write count (15 R330). -/
def clearMemCounters (P : Plain) : Plain :=
  { P with mem := { P.mem with ceCnt := 0, ueCnt := 0, conf := [], nvsCeCnt := 0, nvsUeCnt := 0 } }

/-- SPAD_CTL_CLR (R330). -/
def execSpadCtlClr (p : Fin 8) (s : State) : Out := .next (if awake s.plains[p] then modPlain s p clearMemCounters else s)

/-- SPAD control block (15 R330). -/
def writeMemBlock (o : Nat) (v : Word) (P : Plain) : Plain :=
  match o with
  | 0x000 => { P with mem := { P.mem with stat := w1c P.mem.stat (v.setWidth 5 &&& 0b10111#5) } }
  | 0x00C => { P with mem := { P.mem with ueAddr := w1cValid P.mem.ueAddr v } }
  | 0x040 => if bit v 0 then clearMemCounters P else P
  | 0x100 => { P with mem := { P.mem with nvsStat := w1c P.mem.nvsStat (v.setWidth 3) } }
  | _ => P

/-- PIO block (16 R343). -/
def writePioBlock (now : Nat) (who : Agent) (o : Nat) (v : Word) (P : Plain) : Plain :=
  if 0x100 ≤ o ∧ o < 0x500 then
    let e : Fin 4 := Fin.ofNat 4 ((o - 0x100) / 0x100)
    let k := o % 0x100
    if 0x80 ≤ k then pioCfgPut e (Fin.ofNat 33 ((k - 0x80) / 4)) v P
    else match k with
      | 0x00 => pioCfgPut e 32 v P
      | 0x04 => modEng P e fun E => { E with flags := w1c E.flags (BitVec.ofNat 6 (fld v 16 6)) }
      | 0x08 => pioTxPut e who v P
      | _ => P
  else match o with
    | 0x00 => pioBankPut v P
    | 0x04 => pioStartPut now v P
    | 0x08 => pioStopPut now v P
    | 0x0C => { P with pio := { P.pio with bankBusy := P.pio.bankBusy && !bit v 8, startLost := P.pio.startLost && !bit v 9 } }
    | 0x10 => { P with pio := { P.pio with src := v.setWidth 4, limit := BitVec.ofNat 8 (fld v 16 8) } }
    | _ => P

/-- A link's registers (08 R179): CHAN_n only in LOAD. -/
def writeLink (s : State) (p l : Fin 8) (o : Nat) (v : Word) : State :=
  if 0x1000 ≤ o ∧ o < 0x1100 then
    modPlain s p fun P => if P.run.mode = .load then modLink P l fun L => { L with chan := put 0 L.chan ((o - 0x1000) / 4) (v &&& 0xFFFFF#32) } else P
  else match o with
    | 0x0 => linkCtlWrite s p l v
    | 0x4 => modPlain s p fun P => modLink P l fun L => { L with flags := w1c L.flags (BitVec.ofNat 8 (fld v 16 8)) }
    | _ => s

/-- Pass link block (08 R179): SYNC_CTL only in LOAD. -/
def writeLinkBlock (s : State) (p : Fin 8) (o : Nat) (v : Word) : State :=
  if o < 0x80000 then writeLink s p (Fin.ofNat 8 (o / 0x10000)) (o % 0x10000) v
  else match o with
    | 0xF0000 => modPlain s p fun P =>
        if P.run.mode = .load then { P with sync := { P.sync with diam := v.setWidth 8, tmo := BitVec.ofNat 16 (fld v 8 16) } } else P
    | 0xF0004 => modPlain s p fun P => { P with sync := { P.sync with stat := w1c P.sync.stat (v.setWidth 5) } }
    | _ => s

/-- Writable bits of the four words of a region entry (07 R148). -/
def rgnMask : Nat → Word
  | 0 => 0x007FFFFF
  | 1 => 0x007FFFFF
  | 2 => 0x0000007F
  | _ => 0xFFFFFFFF

/-- Region table and service areas (07 R148): only in LOAD. -/
def writeLayout (o : Nat) (v : Word) (B : Basin) : Basin :=
  if 0x1000 ≤ o then
    let n := (o - 0x1000) / 16
    let k := o % 16 / 4
    { B with rgn := put 0 B.rgn n (setWord (look 0 B.rgn n) k (v &&& rgnMask k)) }
  else if o % 8 = 0 then { B with areaBase := put 0 B.areaBase ((o - 0x40) / 8) (fld v 0 23) }
  else { B with areaSize := put 0 B.areaSize ((o - 0x40) / 8) (fld v 0 23) }

/-- Basin block (07 R148). -/
def writeBasinBlock (o : Nat) (v : Word) (P : Plain) : Plain :=
  let upd (f : Basin → Basin) : Plain := { P with basin := f P.basin }
  if 0x20 ≤ o ∧ o < 0x34 then upd (rsvWrite P.run.mode (Fin.ofNat 5 ((o - 0x20) / 4)) v)
  else if (0x40 ≤ o ∧ o < 0x68) ∨ (0x1000 ≤ o ∧ o < 0x2000) then (if P.run.mode = .load then upd (writeLayout o v) else P)
  else match o with
    | 0x00 => upd (basinCtl v)
    | 0x04 => upd fun B => { B with stat := w1c B.stat (v.setWidth 6) }
    | 0x14 => upd fun B => { B with ueHi := w1cValid B.ueHi v }
    | 0x18 => upd fun B => { B with ovl := w1cValid B.ovl v }
    | 0x74 => upd fun B => { B with tail := fld v 0 29 }
    | _ => P

/-- A word of a trigger entry (09 R199). -/
def writeTrig (n k : Nat) (v : Word) (C : Capture) : Capture :=
  match k with
  | 0x00 => { C with trigMask := put 0 C.trigMask n v }
  | 0x04 => { C with trigMatch := put 0 C.trigMatch n v }
  | 0x08 => { C with trigKey := put 0 C.trigKey n (v &&& 0x007FFFFF#32) }
  | 0x0C => { C with trigCyc := put 0 C.trigCyc n v }
  | 0x10 => { C with trigCtl := put 0 C.trigCtl n (v &&& 0x03FFFFFF#32) }
  | _ => C

/-- CAP_SEL, CAP_TAGWIN and the trigger entries: only in LOAD and HOLD (09 R190). -/
def writeSelection (o : Nat) (v : Word) (C : Capture) : Capture :=
  match o with
  | 0x14 => { C with sel := BitVec.ofNat 64 (setLo C.sel.toNat v) }
  | 0x18 => { C with sel := BitVec.ofNat 64 (setHi C.sel.toNat 32 v) }
  | 0x1C => { C with winLo := v.setWidth 16, winHi := BitVec.ofNat 16 (fld v 16 16) }
  | _ => writeTrig ((o - 0x1000) / 0x20) (o % 0x20) v C

/-- Capture, replay and trigger block (09 R199). -/
def writeCapBlock (s : State) (p : Fin 8) (o : Nat) (v : Word) : State :=
  let upd (f : Capture → Capture) : State := modPlain s p fun P => { P with cap := f P.cap }
  let m := s.plains[p].run.mode
  if (0x14 ≤ o ∧ o < 0x20) ∨ (0x1000 ≤ o ∧ o < 0x1400) then (if m = .load ∨ m = .hold then upd (writeSelection o v) else s)
  else match o with
    | 0x000 => upd fun C => { C with gap := C.gap && !bit v 1, wrapped := C.wrapped && !bit v 2, stall := C.stall && !bit v 3 }
    | 0x010 => modPlain s p (capCtlWrite v)
    | 0x100 => modPlain s p (ckptCtlWrite v)
    | 0x300 => rplCtlWrite s p v
    | 0x304 => upd fun C => { C with rplStop := BitVec.ofNat 48 (setLo C.rplStop.toNat v) }
    | 0x308 => upd fun C => { C with rplStop := BitVec.ofNat 48 (setHi C.rplStop.toNat 16 v) }
    | 0x30C => if bit v 1 then upd fun C => { C with rplDone := false } else s
    | _ => s

/-- Per-tile transport and operation registers (03 R71, 04 R96). -/
def writeTileRegs (o : Nat) (v : Word) (P : Plain) : Plain :=
  modTile P (tileAt o) fun T => match o % 0x10 with
    | 0x0 => { T with stat := w1c T.stat (v &&& 0x000300FF#32) }
    | 0x4 => { T with fault := w1cValid T.fault v }
    | 0x8 => { T with opstat := w1c T.opstat (v &&& 0x3F#32) }
    | _ => T

/-- COL_CTL written (05 R112). -/
def colCtlPut (v : Word) (P : Plain) : Plain :=
  let C := { P.col with freeze := bit v 1 }
  { P with col := if bit v 0 then colClear C else C }

/-- COL_CTL_CLR (R112). -/
def execColCtlClr (p : Fin 8) (v : Word) (s : State) : Out :=
  .next (if awake s.plains[p] then modPlain s p (colCtlPut (setBit v 0 true)) else s)

/-- Col registers (05 R112). -/
def writeColRegs (o : Nat) (v : Word) (P : Plain) : Plain :=
  match o with
  | 0x04 => colCtlPut v P
  | 0x08 => { P with col := { P.col with fault := w1cValid P.col.fault v } }
  | 0x10 => { P with col := { P.col with dropSum := w1c P.col.dropSum (v.setWidth 64) } }
  | 0x14 => { P with col := { P.col with dropSum := w1c P.col.dropSum (v.setWidth 64 <<< 32) } }
  | _ => P

/-- QS_CTL written (06 R126). -/
def qsCtlPut (v : Word) (P : Plain) : Plain :=
  let S := { P.stall with freeze := bit v 1 }
  { P with stall := if bit v 0 then { S with waitSteps := 0, bpSteps := 0, max := 0, overCnt := 0 } else S }

/-- QS_CTL_CLR (R126). -/
def execQsCtlClr (p : Fin 8) (v : Word) (s : State) : Out :=
  .next (if awake s.plains[p] then modPlain s p (qsCtlPut (setBit v 0 true)) else s)

/-- Loader and tile configuration block (03, 04, 05, 06, 10, 22 R425). -/
def writeTileBlock (tstep o : Nat) (v : Word) (P : Plain) : Plain :=
  if o < 0x8000 then
    match o with
    | 0x40 => paceWrite tstep v P
    | 0x200 => { P with mem := { P.mem with tcaSel := Fin.ofNat 64 (fld v 0 6) } }
    | _ => P
  else if o < 0x8400 then writeTileRegs (o - 0x8000) v P
  else if 0x9000 ≤ o ∧ o < 0xA000 then writeColRegs (o - 0x9000) v P
  else if 0xA000 ≤ o ∧ o < 0xA400 then
    if o % 0x10 = 8 then modTile P (tileAt (o - 0xA000)) fun T => { T with tqFlags := w1c T.tqFlags (v &&& 0xFFFF#32) } else P
  else if o = 0xA400 then qsCtlPut v P
  else P

/-- Plain power and health block (17 R366, 19 R393). -/
def writeHealthBlock (s : State) (p : Fin 8) (who : Agent) (o : Nat) (v : Word) : State :=
  match o with
  | 0x008 => if bit v 4 then modPlain s p fun P => { P with health := { P.health with envOver := false } } else s
  | 0x104 => fltCtlWrite s p who v
  | _ => s

/-- Agents whose writes of an observation register are taken: M4, M1 at machine level and M7 (20 R400). -/
def takesObs : Agent → Bool
  | .hostFn | .mgrMachine | .testPort => true
  | _ => false

/-- The time at which a select change that is made now has settled: at most 100 ns later (20 R399). -/
def settledAt (now : Nat) : Nat := now + min 100 Config.obsSettle

/-- The settling times after a write of OBS_SELt that changes its pair (20 R399). -/
def obsAtPut (now o : Nat) (v : Word) (sel : Sparse (BitVec 11)) (at0 : Sparse Nat) : Sparse Nat :=
  let t := (o - 4) / 4
  if 4 ≤ o ∧ o < 0x14 ∧ look 0 sel t ≠ v.setWidth 11 then put 0 at0 t (settledAt now) else at0

/-- OBS_SELt at an offset. -/
def obsSelPut (o : Nat) (v : Word) (sel : Sparse (BitVec 11)) : Sparse (BitVec 11) :=
  if 4 ≤ o ∧ o < 0x14 then put 0 sel ((o - 4) / 4) (v.setWidth 11) else sel

/-- An observation register of a Plain (20 R400). -/
def obsPut (s : State) (p : Fin 8) (who : Agent) (o : Nat) (v : Word) : State :=
  if 0x14 ≤ o then s
  else if takesObs who && scopeGranted s 1 then
    modPlain s p fun P => { P with health := if o = 0 then { P.health with obsEn := v.setWidth 4, obsDenied := P.health.obsDenied && !bit v 4 }
      else { P.health with obsSel := obsSelPut o v P.health.obsSel, obsAt := obsAtPut s.timeNs o v P.health.obsSel P.health.obsAt } }
  else modPlain s p fun P => { P with health := { P.health with obsDenied := true } }

/-- An observation register of the device (20 R400), which the host writes through PF0 (in part DEDUCED, log entry 44). -/
def obsDevPut (s : State) (who : Agent) (o : Nat) (v : Word) : State :=
  if 0x14 ≤ o then s
  else if (takesObs who || who == .hostPf0) && scopeGranted s 1 then
    { s with tap := if o = 0 then { s.tap with obsEn := v.setWidth 4, obsDenied := s.tap.obsDenied && !bit v 4 }
      else { s.tap with obsSel := obsSelPut o v s.tap.obsSel, obsAt := obsAtPut s.timeNs o v s.tap.obsSel s.tap.obsAt } }
  else { s with tap := { s.tap with obsDenied := true } }

/-- A write of a register of an awake Plain (R424). -/
def pokeReg (s : State) (p : Fin 8) (who : Agent) (off : Nat) (v : Word) : State :=
  let o := off % 0x100000
  let upd (f : Plain → Plain) : State := modPlain s p f
  match off / 0x100000 with
  | 0x0 => writeModeBlock s p who o v
  | 0x1 => upd (writeMgrBlock o v)
  | 0x2 => writeRingBlock s p o v
  | 0x3 => writeMbBlock s p who o v
  | 0x4 => upd (writeDmaBlock s.timeNs o v)
  | 0x5 => upd (writeBusBlock s.timeNs o v)
  | 0x6 => upd (writeMemBlock o v)
  | 0x7 => upd (writePioBlock s.timeNs who o v)
  | 0x8 => writeLinkBlock s p o v
  | 0x9 => upd (writeBasinBlock o v)
  | 0xA => writeCapBlock s p o v
  | 0xB => upd (writeTileBlock s.fuses.tstepPs o v)
  | 0xC => writeHealthBlock s p who o v
  | 0xD => obsPut s p who o v
  | _ => s

/-- A doorbell register of a ring. -/
def isDoorbell (off : Nat) : Bool := decide (0x200000 ≤ off) && decide (off < 0x200100) && decide (off % 0x40 = 0x0C)

/-- The status-block registers of a fuse-disabled Plain, whose block reports VALLEY (13 R256) (in part DEDUCED, log entry 22). -/
def disabledBlock (s : State) (p : Fin 8) (off : Nat) : Bool :=
  !bit s.fuses.plainsEn p.val && decide (0x200200 ≤ off) && decide (off ≤ 0x200208)

/-- A write of a register of a Plain by an agent; what the Basin controller has received takes effect before the region table or
an area changes (07 R147); in VALLEY the HIU takes the blocks it serves, and doorbells (18 R378,
13 R264) (in part DEDUCED, log entry 44). -/
def writeReg (s : State) (p : Fin 8) (who : Agent) (off : Nat) (v : Word) : State :=
  let s := if decide (0x900040 ≤ off) && decide (off < 0x902000) && awake s.plains[p] then settle s p else s
  if awake s.plains[p] || servedInValley off || isDoorbell off || disabledBlock s p off then pokeReg s p who off v else s

/-- A host access to an offset that decodes to no target: BM_STAT.HOST_UNMAP (15 R309); in VALLEY the matrix is off. -/
def hostUnmap (s : State) (p : Fin 8) : State :=
  modPlain s p fun P => if awake P then { P with bus := { P.bus with stat := setBit P.bus.stat 2 true } } else P

/-! ## The PF0 window (22 R422) -/

/-- ARB_VNEED in mV (17 R363). -/
def vNeed (s : State) : Nat := ceilDiv (arbRsv s * 1000) 3312 * 10

/-- THERM_STAT.THR_PL (17 R366). -/
def throttled (s : State) : Nat := (List.finRange 8).foldr (fun p a => b2n (s.plains[p].health.throttle != 0) * 2 ^ p.val + a) 0

/-- PSW_PLn (17 R366). -/
def pswWord (s : State) (p : Fin 8) : Word :=
  pack [((look 0 s.power.colOn p.val).toNat, 0), (b2n (bit s.power.coreOn p.val), 9), (b2n (domainBusy s.power p), 31)]

/-- Arbiter registers (17 R366); in a reset of the device the arbiter reserves nothing (in part DEDUCED, log entry 38). -/
def readArb (s : State) (o : Nat) : Word :=
  let W := s.power
  if 0x40 ≤ o ∧ o < 0x60 then w32 (look 0 W.req ((o - 0x40) / 4))
  else if 0x60 ≤ o ∧ o < 0x80 then w32 (look 0 W.grant ((o - 0x60) / 4))
  else match o with
    | 0x00 => w32 W.host
    | 0x04 => W.vadm.setWidth 32
    | 0x08 => w32 (arbBudget s)
    | 0x0C => if inReset s then 0 else w32 (arbRsv s)
    | 0x10 => if inReset s then 0 else w32 (vNeed s)
    | 0x14 => pack [(b2n W.under, 0), (b2n W.underSeen, 1), (b2n W.hostRefused, 2), (b2n W.curZero, 3), (W.baseWait.toNat, 8)]
    | _ => 0

/-- Supply, reset, regulator, tamper and alert registers (17 R366). -/
def readSupply (W : Power) (o : Nat) : Word :=
  match o with
  | 0x000 => W.vinWarn.setWidth 32
  | 0x004 => pack [(b2n W.pwrWarn, 0), (b2n W.warnSeen, 1), (b2n W.railFault, 2)]
  | 0x008 => w32 W.vinMv
  | 0x00C => w32 W.iinMa
  | 0x010 => w32 W.pinQw
  | 0x014 => W.rstCause.setWidth 32
  | 0x018 => w32 (b2n W.avs)
  | 0x100 => W.tamper.setWidth 32
  | 0x200 => W.alertMask.setWidth 32
  | _ => 0

/-- Timing region registers (17 R366). -/
def readRegions (s : State) (o : Nat) : Word :=
  if o < 0x320 then (if o % 8 = 0 then regionStat s (o / 8) else regionRate s (o / 8))
  else if o = 0x400 then s.power.trLimit.setWidth 32 else 0

/-- TAP, BIST and device observation registers (20 R402). -/
def readTap (T : Tap) (o : Nat) : Word :=
  match o with
  | 0x00 => pack [(T.scope.toNat, 0), (b2n T.sessOpen, 4), (b2n T.fail, 5), (b2n T.denied, 6), (T.fails.toNat, 16)]
  | 0x04 => T.chal
  | 0x10 => pack [(T.bistPlains.toNat, 0), (T.bistSel.toNat, 8)]
  | 0x14 => pack [(b2n T.bistBusy, 0), (b2n T.bistDone, 1), (b2n T.bistRefused, 2), (T.failPl.toNat, 8)]
  | _ => if 0x100 ≤ o then readObs T.obsEn T.obsDenied T.obsSel (o - 0x100) else 0

/-- A register of the PF0 window; reserved registers read 0 (R7, R421, R422). -/
def readPf0 (s : State) (off : Nat) : Word :=
  let F := s.fuses
  let o := off % 0x10000
  match off / 0x10000 with
  | 0 => match o with
    | 0x0 => 0x00018800
    | 0x4 => pack [(F.plainsEn.toNat, 0), (F.bin.toNat, 8), (F.tstepPs, 16)]
    | 0x8 => lo32 F.serial.toNat
    | 0xC => hi32 F.serial.toNat
    | _ => 0
  | 1 => match o with
    | 0x0 => pack [(F.lc.toNat, 0), (F.lcPend.toNat, 3), (b2n s.tap.lcRefused, 6)]
    | 0x4 => F.fwMinVer
    | 0x8 => w32 (b2n s.tap.devTest * 2)
    | _ => 0
  | 2 => readArb s o
  | 3 => readSupply s.power o
  | 4 => match o with
    | 0x0 => s.power.thermWarn.setWidth 32
    | 0x4 => pack [(b2n s.power.warn, 0), (b2n s.power.thermSeen, 1), (b2n s.power.thrSeen, 2), (throttled s, 8), (s.power.region, 16)]
    | _ => 0
  | 5 => readRegions s o
  | 6 => if o < 0x20 then pswWord s (Fin.ofNat 8 (o / 4)) else 0
  | 7 => readTap s.tap o
  | 8 => if o = 0 then pack [(s.hlink.rate.toNat, 0), (s.hlink.width.toNat, 2), (b2n s.hlink.up, 7), (b2n s.hlink.flit, 8)] else 0
  | _ => 0

/-- BIST_CTL written (20 R401): GO starts the selected tests; the earlier results end. A GO outside TEST mode (no Plain is in it) or
while BUSY is ignored. -/
def bistCtlWrite (s : State) (v : Word) : State :=
  let s := { s with tap := { s.tap with bistPlains := v.setWidth 8, bistSel := BitVec.ofNat 3 (fld v 8 3) } }
  let test := s.plains.toList.any fun P => decide (P.run.mode = .test)
  if !bit v 31 then s
  else if s.tap.bistBusy || !test then { s with tap := { s.tap with bistRefused := true } }
  else { s with
    tap := { s.tap with bistBusy := true, failPl := 0, bistRun := s.tap.bistPlains, bistTests := s.tap.bistSel }
    plains := vall s.plains fun _ P => { P with health := { P.health with bistRes := 0xF0 } } }

/-- DEV_RST.TEST written (20 R397): only while scope 0 is granted, else DENIED. -/
def devTestWrite (s : State) (v : Word) : State :=
  if scopeGranted s 0 then { s with tap := { s.tap with devTest := bit v 1 } } else { s with tap := { s.tap with denied := true } }

/-- DEV_RST written (18 R382, 20 R397): TEST is written with every write; WARM starts a warm reset, which samples TEST. -/
def devRstWrite (s : State) (v : Word) : State :=
  let s := devTestWrite s v
  if bit v 0 then warmIfStarted s 4 else s

/-- DEV_RST_TEST_WRITE (R397): only the TEST bit of the value. -/
def execDevRstTestWrite (v : Word) (s : State) : Out := .next (devTestWrite s v)

/-- A write of a register of the PF0 window by the host (R422). -/
def writePf0 (s : State) (who : Agent) (off : Nat) (v : Word) : State :=
  let upd (f : Power → Power) : State := { s with power := f s.power }
  match off with
  | 0x10000 => if bit v 6 then { s with tap := { s.tap with lcRefused := false } } else s
  | 0x10008 => devRstWrite s v
  | 0x20000 => arbHostPut v s
  | 0x20004 => upd fun W => { W with vadm := v.setWidth 16 }
  | 0x20014 => upd fun W => { W with underSeen := W.underSeen && !bit v 1, hostRefused := W.hostRefused && !bit v 2 }
  | 0x30000 => upd fun W => { W with vinWarn := v.setWidth 6 }
  | 0x30004 => upd fun W => { W with warnSeen := W.warnSeen && !bit v 1, railFault := W.railFault && !bit v 2 }
  | 0x30018 => upd fun W => { W with avs := bit v 0 }
  | 0x30100 => upd fun W => { W with tamper := w1c W.tamper (v.setWidth 5) }
  | 0x30200 => upd fun W => { W with alertMask := v.setWidth 8 }
  | 0x40000 => upd fun W => { W with thermWarn := v.setWidth 8 }
  | 0x40004 => upd fun W => { W with thermSeen := W.thermSeen && !bit v 1, thrSeen := W.thrSeen && !bit v 2 }
  | 0x50400 => upd fun W => { W with trLimit := w1c W.trLimit (v.setWidth 9) }
  | 0x70000 => { s with tap := { s.tap with fail := s.tap.fail && !bit v 5, denied := s.tap.denied && !bit v 6 } }
  | 0x70010 => bistCtlWrite s v
  | 0x70014 => { s with tap := { s.tap with bistDone := s.tap.bistDone && !bit v 1, bistRefused := s.tap.bistRefused && !bit v 2 } }
  | _ => if 0x70100 ≤ off ∧ off < 0x70114 then obsDevPut s who (off - 0x70100) v else s

/-! ## The rows -/

/-- OBS_WRITE (R400). -/
def execObsWrite (p : Fin 9) (who : Agent) (off : BitVec 28) (v : Word) (s : State) : Out :=
  let o := off.toNat
  if o % 4 ≠ 0 then .next s
  else if h : p.val < 8 then
    let q : Fin 8 := ⟨p.val, h⟩
    .next (if awake s.plains[q] ∧ 0xD00000 ≤ o then obsPut s q who (o - 0xD00000) v else s)
  else .next (if 0x70100 ≤ o then obsDevPut s who (o - 0x70100) v else s)

/-- The bits of a PF0 register that the I²C slave writes: none where it is refused (21 R413) (in part DEDUCED, log entry 44). -/
def i2cMask (off : Nat) : Option Word :=
  match off with
  | 0x20000 => some 0xFFF
  | 0x30000 => some 0x3F
  | 0x40000 => some 0xFF
  | 0x30200 => some 0xFF
  | 0x30004 => some 0x6
  | 0x40004 => some 0x6
  | 0x20014 => some 0x6
  | 0x30100 => some 0x1F
  | _ => none

/-- The I²C slave's 7-bit address (21 R413): the level of its three pins at the last cold start. -/
def i2cAddress (s : State) : BitVec 7 := 0x58 + s.i2cAdr.setWidth 7

/-- I2C_WRITE (21 R413): a transaction to the slave's address, which nobody answers while the device is in reset (21 R420). -/
def execI2cWrite (off : BitVec 24) (v : Word) (s : State) : Out :=
  if inReset s then .next { s with nak := true } else match i2cMask off.toNat with
  | some m => .next (writePf0 { s with nak := false } .i2c off.toNat (v &&& m))
  | none => .next { s with nak := true }

/-- I2C_READ (21 R413). -/
def execI2cRead (off : BitVec 24) (s : State) : Out :=
  if inReset s ∨ off.toNat % 4 ≠ 0 then .next { s with nak := true }
  else .next { s with nak := false, readData := readPf0 s off.toNat }

end Sys2Proof.Machine
end

