-- ==== Sys2Proof/Machine/Bus.lean ====
section
/-! DEFINITION. The bus matrix (15 R307-R316): paths, error responses, access rules, the order and arbitration of accesses, the
host's accesses to a Plain's window, and the write-backs of SPAD and NVS (R320, R326). -/

namespace Sys2Proof.Machine

/-! ## Paths and rules (R308-R311) -/

/-- The path of a master to a target in a direction exists (R308) (in part DEDUCED, log entry 44). -/
def hasPath (m : Nat) (write : Bool) : Target → Bool
  | .spad _ => m == 1 || m == 4 || m == 7 || (write && m == 3) || (!write && (m == 0 || m == 2 || m == 6))
  | .basin _ => m == 1 || m == 5 || m == 6 || m == 7 || (write && m == 3) || (!write && m == 2)
  | .regs _ => m == 1 || m == 4 || m == 6 || m == 7
  | .rom _ => !write && (m == 0 || m == 1 || m == 7)
  | .nvs _ => m == 1 || m == 7 || (write && m == 3) || (!write && m == 2)
  | .host _ => m == 1 || m == 7 || (write && m == 3) || (!write && (m == 2 || m == 6))
  | .tca _ => m == 1 || m == 4 || m == 6 || m == 7
  | .unmapped => false

/-- The agent that a master's register access is made by. -/
def agentOf (m lvl : Nat) : Agent :=
  match m with
  | 4 => .hostFn
  | 6 => .loader
  | 7 => .testPort
  | _ => if lvl = 2 then .mgrMachine else if lvl = 1 then .mgrSupervisor else .mgrUser

/-- R323 and R325 deny an access to the secure part. -/
def secureDenied (P : Plain) (m lvl n : Nat) : Target → Bool
  | .spad off => meetsSecure off n && (bit P.mem.stat 3 || !(m == 1 && lvl == 2))
  | _ => false

/-- A burst of 64-byte-aligned beats. -/
def isBurst (a n : Nat) : Bool := a % 64 == 0 && n % 64 == 0 && decide (0 < n)

/-- A naturally aligned access of 1, 2, 4 or 8 bytes, or a burst. -/
def plainSize (a n : Nat) : Bool := ((n == 1 || n == 2 || n == 4 || n == 8) && a % n == 0) || isBurst a n

/-- T9 serves the access in the Plain's mode (R311). -/
def tcaMode (mode : Mode) (m lvl : Nat) (write : Bool) : Bool :=
  if write then
    (m == 6 && decide (mode = .load)) || (m == 1 && lvl == 2 && decide (mode = .hold)) || (m == 7 && decide (mode = .test))
  else decide (mode = .load) || decide (mode = .hold)

/-- Size, alignment, mode and master keep R311 at the target. -/
def sizeOk (mode : Mode) (m lvl : Nat) (write : Bool) (a n : Nat) : Target → Bool
  | .regs _ => (n == 4 || n == 8) && a % n == 0
  | .tca _ => ((n == 8 && a % 8 == 0) || isBurst a n) && tcaMode mode m lvl write
  | _ => plainSize a n

/-! ## The aperture (22 R425, R426) -/

/-- A schedule-store word of the aperture carries an error of the given kind. -/
def tcaHas (m : Sparse Bool) (off : Nat) : Bool := decide (off < 0x400000) && look false m (off / 8)

/-- An aperture read of `k` 64-bit words of tile `t`; a corrected word sets STORE_CE, and none is the error response with its
KIND. -/
def tcaRead (t : Fin 64) (off k : Nat) (P : Plain) : Plain × (List Byte ⊕ Nat) :=
  let T := P.tiles[t]
  let offs := (List.range k).map fun i => off + 8 * i
  if offs.any fun o => (tcaWord T o).isNone then (P, .inr 4)
  else if offs.any (tcaHas T.storeUe) then (P, .inr 5)
  else
    (if offs.any (tcaHas T.storeCe) then modTile P t fun T => setStat T 7 else P,
     .inl (offs.flatMap fun o => leBytes 8 ((tcaWord T o).getD 0)))

/-- An aperture write of 64-bit words of tile `t`; false where the layout lists no writable word. -/
def tcaWrite (t : Fin 64) (off : Nat) (bs : List Byte) (P : Plain) : Plain × Bool :=
  let offs := (List.range (bs.length / 8)).map fun i => off + 8 * i
  if offs.all fun o => (tcaSet P.tiles[t] o 0).2 then
    (modTile P t fun T => offs.foldl (fun T o => (tcaSet T o (leNat ((bs.drop (o - off)).take 8))).1) T, true)
  else (P, false)

/-! ## One access (R310, R316) -/

/-- An access that the matrix carries: master, Manager level, direction, address, bytes, and the tile that an aperture access
selects (R307, R425). -/
structure Access where
  master : Nat
  lvl : Nat
  write : Bool
  addr : Nat
  size : Nat
  tile : Fin 64
deriving DecidableEq, Repr

/-- The KIND of the error response that the matrix gives before the access reaches its target, in R310's order. -/
def matrixCause (P : Plain) (x : Access) : Option Nat :=
  let t := decodeAddr x.addr
  if !hasPath x.master x.write t then some 1
  else if secureDenied P x.master x.lvl x.size t then some 2
  else if !sizeOk P.run.mode x.master x.lvl x.write x.addr x.size t then some 4
  else none

/-- An error response of a kind (in part DEDUCED, log entry 50). -/
def busFault (s : State) (p : Fin 8) (m a kind : Nat) : State × BusAnswer :=
  (modPlain s p fun P => noteBusError (if kind = 2 then denySecure P else P) m a kind, .error)

/-- An access to an unmapped address never completes and holds its master (R316). -/
def busUnmapped (s : State) (p : Fin 8) (m a : Nat) : State × BusAnswer :=
  (modPlain s p fun P =>
    let B := { P.bus with stat := setBit P.bus.stat 0 true, hung := if m ∈ P.bus.hung then P.bus.hung else P.bus.hung ++ [m] }
    { P with bus := if bit B.unmapHi 31 then B
        else { B with unmapLo := w32 a, unmapHi := w32 (a / 2 ^ 32 % 2 ^ 8 + m % 8 * 2 ^ 8 + 2 ^ 31) } }, .hung)

/-- A read of 32-bit registers, low word first (R311). -/
def busReadRegs (s : State) (p : Fin 8) (who : Agent) (off : Nat) : Nat → State × List Byte
  | 0 => (s, [])
  | k + 1 =>
    let r := readReg s p who off
    let t := busReadRegs r.1 p who (off + 4) k
    (t.1, leBytes 4 r.2.toNat ++ t.2)

/-- A write of 32-bit registers, low word first (R311). -/
def busWriteRegs (s : State) (p : Fin 8) (who : Agent) (off : Nat) : Nat → List Byte → State
  | 0, _ => s
  | k + 1, bs => busWriteRegs (writeReg s p who off (w32 (leNat (bs.take 4)))) p who (off + 4) k (bs.drop 4)

/-- The answer of a memory read. -/
def answerOf (r : State × Option (List Byte)) : State × BusAnswer :=
  match r.2 with
  | some bs => (r.1, .data bs)
  | none => (r.1, .error)

/-- The answer of a write. -/
def doneOf (r : State × Bool) : State × BusAnswer := (r.1, if r.2 then .data [] else .error)

/-- A read that meets the rules, at its target (in part DEDUCED, log entry 50). -/
def busReadAt (s : State) (p : Fin 8) (x : Access) : State × BusAnswer :=
  match decodeAddr x.addr with
  | .spad off => answerOf (tagRead p x.master x.addr (spadRead s p x.master off x.size))
  | .regs off => let r := busReadRegs s p (agentOf x.master x.lvl) off (x.size / 4); (r.1, .data r.2)
  | .rom off => (s, .data ((List.range x.size).map fun i => Config.romByte (off + i)))
  | .tca off =>
    let r := tcaRead x.tile off (x.size / 8) s.plains[p]
    match r.2 with
    | .inl bs => (modPlain s p fun _ => r.1, .data bs)
    | .inr kind => busFault s p x.master x.addr kind
  | _ => answerOf (memRead s p x.master x.addr x.size)

/-- A write that meets the rules, at its target (in part DEDUCED, log entry 50). -/
def busWriteAt (s : State) (p : Fin 8) (x : Access) (bs : List Byte) : State × BusAnswer :=
  match decodeAddr x.addr with
  | .spad off => doneOf (tagWrite p x.master x.addr (spadWrite s p x.master off bs))
  | .regs off => (busWriteRegs s p (agentOf x.master x.lvl) off (bs.length / 4) bs, .data [])
  | .tca off =>
    let r := tcaWrite x.tile off bs s.plains[p]
    if r.2 then (modPlain s p fun _ => r.1, .data []) else busFault s p x.master x.addr 4
  | _ => doneOf (memStore (fun s off bs => basinWrite s p (basinMaster x.master) x.master off bs) s p x.master x.lvl x.addr bs)

/-- `n` bytes of write data. -/
def dataOf (n : Nat) (bs : List Byte) : List Byte := (bs ++ List.replicate n 0).take n

/-- An access at the matrix and its target; a Basin write is not logged yet (in part DEDUCED, log entry 50). -/
def serveAccess (s : State) (p : Fin 8) (x : Access) (data : List Byte) : State × BusAnswer :=
  if decodeAddr x.addr = .unmapped then busUnmapped s p x.master x.addr
  else match matrixCause s.plains[p] x with
    | some kind => busFault s p x.master x.addr kind
    | none => if x.write then busWriteAt s p x (dataOf x.size data) else busReadAt s p x

/-- ORIGIN of the external writes of a master (09 R186): the Manager's and the DMA engine's Basin writes are logged. -/
def originOf (m : Nat) : Option Nat := if m = 1 then some 2 else if m = 3 then some 1 else none

/-- The records of a Basin write that has been made (09 R186). -/
def logAccess (m a : Nat) (bs : List Byte) (P : Plain) : Plain :=
  match originOf m, decodeAddr a with
  | some o, .basin off => logExt o off bs P
  | _, _ => P

/-- An access that its target cannot take yet: a logged Basin write, or a word taken from a PIO engine, waits for room in
staging (09 R184). -/
def accessWaits (P : Plain) (m lvl : Nat) (write : Bool) (a n : Nat) : Bool :=
  match decodeAddr a, write with
  | .basin off, true => (originOf m).isSome && extWaits P off n
  | .regs off, false =>
    decide (0x700100 ≤ off) && decide (off < 0x700500) && (List.range (n / 4)).any fun i =>
      (off + 4 * i) % 0x100 == 0x0C && pioRxWaits (Fin.ofNat 4 ((off - 0x700100) / 0x100)) (agentOf m lvl) P
  | _, _ => false

/-! ## Order of a master's accesses (R314-R316) -/

/-- A master's accesses that are outstanding, in order of issue. -/
def ofMaster (B : Bus) (m : Fin 8) : List BusWait := B.queue.filter fun e => decide (e.req.master = m)

/-- The service of a master: it changes only when it has no outstanding access (R315). -/
def serviceOf (P : Plain) (m : Fin 8) : Bool :=
  match ofMaster P.bus m with
  | e :: _ => e.loose
  | [] => outOfOrder P

/-- The lowest ID that no outstanding access of the master holds (R315). -/
def freeId (es : List BusWait) : Nat := ((List.range 8).find? fun i => es.all fun e => decide (e.id ≠ i)).getD 0

/-- A master issues an access; in out-of-order service one that already has 8 outstanding issues none (R314, R315). `own` marks the
access that the command in execution makes. -/
def busIssue (own : Bool) (now : Nat) (r : BusReq) (P : Plain) : Plain :=
  let es := ofMaster P.bus r.master
  let loose := serviceOf P r.master
  let tile : Fin 64 := if r.master = 6 then Fin.ofNat 64 r.tag else P.mem.tcaSel
  if loose && decide (8 ≤ es.length) then P
  else { P with bus := { P.bus with queue := P.bus.queue ++
    [{ req := r, id := if loose then freeId es else 0, loose := loose, since := now, tile := tile, own := own }] } }

/-- The target of an address, T0 to T9; 10 for none (R307, R309). -/
def targetNo (a : Nat) : Nat :=
  match decodeAddr a with
  | .spad off => off / 2 ^ 22
  | .basin _ => 4
  | .regs _ => 5
  | .rom _ => 6
  | .nvs _ => 7
  | .host _ => 8
  | .tca _ => 9
  | .unmapped => 10

/-- Bytes of the next piece of an access to address `a` that has `n` bytes left: a burst goes in pieces of at most 16 beats (R312), of
which one SPAD bank serves those that lie in it (R318), and an access of 8 bytes to registers is two of 4 (R311). -/
def pieceSize (a n : Nat) : Nat :=
  match decodeAddr a with
  | .regs _ => min n 4
  | .spad off => if n % 64 = 0 then min (min n 1024) (2 ^ 21 - off % 2 ^ 21) else n
  | _ => if n % 64 = 0 then min n 1024 else n

/-- An outstanding access as a whole. -/
def wholeOf (e : BusWait) : Access :=
  { master := e.req.master.val, lvl := e.req.lvl.val, write := e.req.write, addr := e.req.addr.toNat, size := e.req.size, tile := e.tile }

/-- The piece of an access `x` of which `moved` bytes have been served; one that the matrix answers with an error response is answered
as a whole (R310, R323). -/
def pieceOf (P : Plain) (x : Access) (moved : Nat) : Access :=
  if (matrixCause P x).isSome then x
  else
    let a := (x.addr + moved) % 2 ^ 40
    { x with addr := a, size := pieceSize a (x.size - moved) }

/-- The next piece of an access. -/
def nextPiece (P : Plain) (e : BusWait) : Access := pieceOf P (wholeOf e) e.moved

/-- The access stands at its target: in normal service it is the master's oldest, in out-of-order service its oldest at that target, and
it does not hang (R314-R316). -/
def standsFirst (P : Plain) (e : BusWait) : Bool :=
  let mine := ofMaster P.bus e.req.master
  let first := (if e.loose then mine.filter fun d => decide (targetNo d.req.addr.toNat = targetNo e.req.addr.toNat) else mine).head?
  decide (first = some e) && !e.hung && (e.loose || decide (e.req.master.val ∉ P.bus.hung))

/-- The access waits for room: for a logged Basin burst, room for what has been written of its part of 32 KiB and the next piece
(09 R184, R186). -/
def roomWaits (P : Plain) (e : BusWait) : Bool :=
  let x := nextPiece P e
  match decodeAddr x.addr with
  | .basin _ => accessWaits P x.master x.lvl x.write (x.addr - e.moved % 32768) (e.moved % 32768 + x.size)
  | _ => accessWaits P x.master x.lvl x.write x.addr x.size

/-- The access stands at its target and can be taken. -/
def atTarget (P : Plain) (e : BusWait) : Bool := standsFirst P e && !roomWaits P e

/-- An access that comes to stand at its target waits there from now on (R313). -/
def noteStanding (now : Nat) (P : Plain) : Plain :=
  { P with bus := { P.bus with queue := P.bus.queue.map fun e => if !e.standing && standsFirst P e then { e with standing := true, since := now } else e } }

/-! ## Arbitration (R313, R318, R321) -/

/-- The port at which a piece is served: each SPAD bank has one for reads and one for writes (R318). An access that does not
reach its target has none, and waits for nobody (R308, R310, R316). -/
def portOf (P : Plain) (x : Access) : Option Nat :=
  if decodeAddr x.addr = .unmapped ∨ (matrixCause P x).isSome then none
  else match decodeAddr x.addr with
    | .spad off => some (2 * (off / 2 ^ 21) + b2n x.write)
    | _ => some (12 + targetNo x.addr)

/-- The rank of an access that stands at a target (R313). -/
def rankOf (P : Plain) (now : Nat) (e : BusWait) : Nat :=
  let B := P.bus
  if B.age ≠ 0 ∧ B.age.toNat < now - e.since then 31
  else match e.req.master.val with
    | 0 | 1 => if e.req.lvl = 2 then fld B.prio 0 5 else fld B.prio 24 4
    | 2 | 3 => qosOf P (Fin.ofNat 16 e.req.tag)
    | 4 => fld B.prio 8 5
    | 5 => fld B.qos 0 4
    | 6 => fld B.qos 4 4
    | _ => fld B.prio 16 5

/-- Place of a master in the round robin after the one served last. -/
def turn (last m : Fin 8) : Nat := (m.val + 15 - last.val) % 8

/-- At T4 an access belongs to a reserved class, which the Basin controller serves first: M1's traffic to the firmware class, M5's to the
capture or checkpoint class, where it has a reservation (R313, 07 R135, R138); the rate of a reservation is timing (in part
DEDUCED, log entry 50). -/
def reservedAt (P : Plain) (k : Nat) (e : BusWait) : Bool :=
  decide (k = 16) && match e.req.master.val with
    | 1 => decide (look 0 P.basin.rsv 4 ≠ 0)
    | 5 => decide (look 0 P.basin.rsv 1 ≠ 0) || decide (look 0 P.basin.rsv 2 ≠ 0)
    | _ => false

/-- Access `a` is served before access `b` at port `k` (R313). -/
def before (P : Plain) (now k : Nat) (a b : BusWait) : Bool :=
  let x := rankOf P now a
  let y := rankOf P now b
  let last := look 0 P.bus.last k
  if reservedAt P k a ≠ reservedAt P k b then reservedAt P k a
  else if x ≠ y then decide (y < x)
  else if x = 31 ∧ a.since ≠ b.since then decide (a.since < b.since)
  else decide (turn last a.req.master < turn last b.req.master)

/-- The access that a port serves among those that stand at it. -/
def winnerOf (P : Plain) (now k : Nat) : List BusWait → Option BusWait
  | [] => none
  | e :: rest => match winnerOf P now k rest with
    | none => some e
    | some d => if before P now k d e then some d else some e

/-- The accesses that stand at port `k`. -/
def atPort (P : Plain) (k : Nat) : List BusWait := P.bus.queue.filter fun e => atTarget P e && decide (portOf P (nextPiece P e) = some k)

/-- The accesses that stand before the matrix and reach no target. -/
def atNone (P : Plain) : List BusWait := P.bus.queue.filter fun e => atTarget P e && decide (portOf P (nextPiece P e) = none)

/-- The port at which each winner is served in this matrix step; those that reach no target come first, then writes, then
reads, so that a read sees the bytes that a write of the same step covers (R319). -/
def winners (P : Plain) (now : Nat) : List BusWait :=
  let all := (List.range 22).flatMap fun k => (winnerOf P now k (atPort P k)).toList
  atNone P ++ all.filter (·.req.write) ++ all.filter fun e => !e.req.write

/-- The matrix steps for which master `m` waits at SPAD port `k` while the port serves another: one for each beat served. -/
def stepsLost (P : Plain) (now : Nat) (m : Fin 8) (k : Nat) : Nat :=
  match winnerOf P now k (atPort P k) with
  | none => 0
  | some w => if m ≠ w.req.master ∧ (atPort P k).any fun e => decide (e.req.master = m) then max 1 (ceilDiv (nextPiece P w).size 64) else 0

/-- A master whose accesses stand at SPAD ports that serve others counts the matrix steps in which one of them waits (R321). -/
def countConflicts (now : Nat) (P : Plain) : Plain :=
  (List.finRange 8).foldl (fun Q m =>
    let n := (List.range 16).foldl (fun a k => max a (stepsLost P now m k)) 0
    if n = 0 then Q else { Q with mem := { Q.mem with conf := put 0 Q.mem.conf m.val (satAdd (look 0 Q.mem.conf m.val) n) } }) P

/-! ## Service (R312-R321) -/

/-- The records of a Basin burst, at the end of each part of 32 KiB and of the burst; `stop` bytes of it have been written
(09 R186). -/
def logPart (e : BusWait) (stop : Nat) (P : Plain) : Plain :=
  let first := (stop - 1) / 32768 * 32768
  if e.req.write ∧ 0 < stop ∧ (stop % 32768 = 0 ∨ e.req.size ≤ stop) then
    logAccess e.req.master.val (e.req.addr.toNat + first) (sub (dataOf e.req.size e.req.data) first (stop - first)) P
  else P

/-- What one piece of `n` bytes leaves of an access: it goes on, or its response is given (R310, R312, R316). -/
def afterPiece (now : Nat) (e : BusWait) (n : Nat) (answer : BusAnswer) (P : Plain) : Plain :=
  let stop := e.moved + n
  let d : BusWait := { e with moved := stop, since := now, got := e.got ++ (match answer with
    | .data bs => bs
    | _ => if e.req.write then [] else List.replicate n 0xFF), bad := e.bad || decide (answer = .error) }
  let B := P.bus
  if answer = .hung then { P with bus := { B with queue := B.queue.replace e { e with hung := true }, answer := .hung } }
  else if stop < e.req.size then { P with bus := { B with queue := B.queue.replace e d } }
  else
    let out : BusAnswer := if d.bad then .error else .data d.got
    { P with bus := { B with queue := B.queue.erase e, answer := out, served := B.served ++ [{ master := e.req.master, id := e.id, answer := out }] } }

/-- One access is served by one piece; its port's round robin moves on. An access that a reset in this step has abandoned is not
served. -/
def serveOne (p : Fin 8) (s : State) (e : BusWait) : State :=
  let P := s.plains[p]
  if e ∉ P.bus.queue then s
  else
    let x := nextPiece P e
    let r := serveAccess s p x (sub (dataOf e.req.size e.req.data) e.moved x.size)
    modPlain r.1 p fun Q =>
      let Q := if e.bad ∨ r.2 ≠ .data [] then Q else logPart e (e.moved + x.size) Q
      let Q := match portOf P x with
        | some k => { Q with bus := { Q.bus with last := put 0 Q.bus.last k e.req.master } }
        | none => Q
      afterPiece s.timeNs e x.size r.2 Q

/-- One matrix step serves the winner at every port (R313, R318, R319); accesses that then come to stand at their targets wait there
from now on. -/
def matrixStep (p : Fin 8) (ws : List BusWait) (s : State) : State :=
  modPlain (ws.foldl (serveOne p) (modPlain s p (countConflicts s.timeNs))) p (noteStanding s.timeNs)

/-- BUS_ACCESS_SERVED (R307, R312-R321): the masters issue the accesses given, and one matrix step is made. -/
def execBusAccessServed (p : Fin 8) (waiting : List BusReq) (s : State) : Out :=
  if !awake s.plains[p] then .next s
  else
    let s := modPlain s p fun P =>
      noteStanding s.timeNs (waiting.foldl (fun P r => busIssue false s.timeNs r P) { P with bus := { P.bus with served := [] } })
    .next (matrixStep p (winners s.plains[p] s.timeNs) s)

/-! ## Accesses that a command makes itself (R312-R314) -/

/-- The port of an access that has been served turns its round robin. -/
def notePort (x : Access) (P : Plain) : Plain :=
  match portOf P x with
  | some k => { P with bus := { P.bus with last := put 0 P.bus.last k (Fin.ofNat 8 x.master) } }
  | none => P

/-- The access for whose turn the command waits leaves the queue. -/
def dropOwn (P : Plain) : Plain := { P with bus := { P.bus with queue := P.bus.queue.filter fun e => !e.own } }

/-- Matrix steps pass, at most `n`, until the access of the command in execution is served: all that R313 and R314 put before it is
served first, and in its own step the writes that a read sees (R319). The second component is false when it cannot be served. -/
def awaitTurn (p : Fin 8) : Nat → State → State × Bool
  | 0, s => (modPlain s p dropOwn, false)
  | n + 1, s =>
    let ws := winners s.plains[p] s.timeNs
    match ws.find? (·.own) with
    | some e =>
      let first := ws.filter fun d => !d.own && (decide (portOf s.plains[p] (nextPiece s.plains[p] d) = none) || (d.req.write && !e.req.write))
      (modPlain (matrixStep p first s) p dropOwn, (matrixStep p first s).plains[p].bus.queue.any (·.own))
    | none => if ws = [] then (modPlain s p dropOwn, false) else awaitTurn p n (matrixStep p ws s)

/-- Matrix steps that the accesses outstanding need at most. -/
def stepsNeeded (B : Bus) : Nat := (B.queue.map fun e => e.req.size / 64 + 2).sum + 1

/-- An access or piece that a command makes waits for its turn behind the accesses outstanding (R312-R314); false when it cannot be
served. Where none is outstanding its turn comes at once. `tag` is the channel of a DMA access. -/
def takeTurn (s : State) (p : Fin 8) (tag : Nat) (x : Access) : State × Bool :=
  let P := s.plains[p]
  let r : State × Bool :=
    if P.bus.queue = [] then (s, true)
    else
      let req : BusReq := { master := Fin.ofNat 8 x.master, lvl := Fin.ofNat 3 x.lvl, write := x.write, addr := BitVec.ofNat 40 x.addr,
                            size := x.size, data := [], tag := tag }
      awaitTurn p (stepsNeeded P.bus) (modPlain s p fun P => noteStanding s.timeNs (busIssue true s.timeNs req P))
  if r.2 then (modPlain r.1 p (notePort x), true) else r

/-- The pieces of an access `x` from byte `moved` on, each in its turn: at most `n` (R311, R312). -/
def busPieces (p : Fin 8) (x : Access) (data : List Byte) : Nat → Nat → List Byte → Bool → State → State × BusAnswer
  | 0, _, _, _, s => (s, .none)
  | n + 1, moved, got, bad, s =>
    let y := pieceOf s.plains[p] x moved
    match takeTurn s p 0 y with
    | (s, false) => (s, .none)
    | (s, true) =>
      let r := serveAccess s p y (sub data moved y.size)
      let bad := bad || decide (r.2 = .error)
      let got := got ++ match r.2 with
        | .data bs => bs
        | _ => if x.write then [] else List.replicate y.size 0xFF
      if r.2 = .hung then r
      else if moved + y.size < x.size then busPieces p x data n (moved + y.size) got bad r.1
      else (r.1, if bad then .error else .data got)

/-- One access of a master at a level that a command makes: its causes of an error response are examined in R310's order
(in part DEDUCED, log entry 50). -/
def busAccess (s : State) (p : Fin 8) (m lvl : Nat) (write : Bool) (a n : Nat) (data : List Byte) : State × BusAnswer :=
  let x : Access := { master := m, lvl := lvl, write := write, addr := a, size := n, tile := s.plains[p].mem.tcaSel }
  let r := busPieces p x (dataOf n data) (n / 4 + 2) 0 [] false s
  (if write ∧ r.2 = .data [] then modPlain r.1 p (logAccess m a (dataOf n data)) else r.1, r.2)

/-! ## Host accesses to a Plain's window (R309, 18 R378) -/

/-- All-ones data of a read. -/
def onesOf (write : Bool) (n : Nat) : BusAnswer := .data (if write then [] else List.replicate n 0xFF)

/-- A host access in VALLEY: the HIU serves its blocks, and doorbells (18 R378, 13 R264) (in part DEDUCED, log entry 22). -/
def hostInValley (s : State) (p : Fin 8) (off n : Nat) (write : Bool) (data : List Byte) : State × BusAnswer :=
  if off < 0xE00000 ∧ (n = 4 ∨ n = 8) ∧ off % n = 0 then
    if write then (busWriteRegs s p .hostFn off (n / 4) (dataOf n data), .data [])
    else let r := busReadRegs s p .hostFn off (n / 4); (r.1, .data r.2)
  else (s, onesOf write n)

/-- A host access to BAR0 of a Plain's function: M4's access in its turn; one that cannot be served stays outstanding (R309, R314). -/
def hostAccess (s : State) (p : Fin 8) (off n : Nat) (write : Bool) (data : List Byte) : State × BusAnswer :=
  if !awake s.plains[p] then hostInValley s p off n write data
  else if decodeAddr off = .unmapped then (hostUnmap s p, onesOf write n)
  else
    let r := busAccess s p 4 0 write off n data
    if r.2 = .none then
      (modPlain r.1 p (busIssue false s.timeNs { master := 4, lvl := 0, write := write, addr := BitVec.ofNat 40 off, size := n, data := data, tag := 0 }), .none)
    else (r.1, if r.2 = .error then onesOf write n else r.2)

/-! ## Register writes (22 R422, R424) -/

/-- A write of a Plain by its function: a register of BAR0, another target of the matrix, or the function's BAR2 and configuration
space (13 R256, 15 R309) (in part DEDUCED, log entry 50). -/
def hostWrite (s : State) (p : Fin 8) (off : Nat) (v : Word) : State :=
  if fnOffset off then plainFnPut s p off v
  else if off < 0xE00000 then writeReg s p .hostFn off v
  else (hostAccess s p off 4 true (leBytes 4 v.toNat)).1

/-- A write of a Plain by the host through PF0: the mailboxes, of which PF0 is owner 2, and the doorbell bits (13 R284, R286) (in part
DEDUCED, log entry 31). -/
def pf0PlainWrite (s : State) (p : Fin 8) (off : Nat) (v : Word) : State :=
  if 0x300000 ≤ off ∧ off < 0x300410 then writeReg s p .hostPf0 off v else s

/-- A host access to the configuration space or BAR2 of a Plain's function (13 R255, R256). -/
def hostFnAccess (s : State) (p : Fin 8) (off n : Nat) (write : Bool) (data : List Byte) : State × BusAnswer :=
  if n ≠ 4 ∨ off % 4 ≠ 0 then (s, onesOf write n)
  else if write then (plainFnPut s p off (w32 (leNat (dataOf 4 data))), .data [])
  else (s, .data (leBytes 4 (fnWord s.hlink s.plains[p].hiu.fn (p.val + 1) off).toNat))

/-- A host access to PF0: to its window, of 4 bytes, naturally aligned; any other reads all ones and writes nothing (22 R421). -/
def hostPf0Access (s : State) (off n : Nat) (write : Bool) (data : List Byte) : State :=
  let v := w32 (leNat (dataOf 4 data))
  if n ≠ 4 ∨ off % 4 ≠ 0 then (if write then s else { s with readData := 0xFFFFFFFF#32 })
  else if fnOffset off then (if write then pf0FnPut s off v else { s with readData := fnWord s.hlink s.pf0 0 off })
  else if write then writePf0 s .hostPf0 off v
  else { s with readData := readPf0 s off }

/-- HOST_BAR0_ACCESS (R309, R310, 22 R421): `p` names a Plain's function, or PF0 for 8. Offsets beyond BAR0 name the function's other
spaces (DESIGN CHOICE, log entry 57). -/
def execHostBar0Access (p : Fin 9) (off : BitVec 28) (size : Nat) (write : Bool) (data : List Byte) (s : State) : Out :=
  if h : p.val < 8 then
    let q : Fin 8 := ⟨p.val, h⟩
    let x := if fnOffset off.toNat then hostFnAccess s q off.toNat size write data else hostAccess s q off.toNat size write data
    .next (modPlain x.1 q fun P => { P with bus := { P.bus with answer := x.2 } })
  else .next (hostPf0Access s off.toNat size write data)

/-- REGISTER_WRITE (R7, R422, R424): `p` names a Plain's window, or PF0 for 8. -/
def execRegisterWrite (p : Fin 9) (who : Agent) (off : BitVec 28) (v : Word) (s : State) : Out :=
  let o := off.toNat
  if o % 4 ≠ 0 then .next s
  else if h : p.val < 8 then
    let q : Fin 8 := ⟨p.val, h⟩
    .next (match who with
      | .hostFn => hostWrite s q o v
      | .hostPf0 => pf0PlainWrite s q o v
      | _ => if reachesPlain who then writeReg s q who o v else s)
  else .next (if who = .hostPf0 then (if fnOffset o then pf0FnPut s o v else writePf0 s who o v) else s)

/-- The pairs of a REG_WRITE descriptor keep R272. -/
def pairsOk (pairs : List (Word × Word)) : Bool :=
  decide (1 ≤ pairs.length) && decide (pairs.length ≤ 5) &&
  pairs.all fun (x : Word × Word) => decide (x.1.toNat % 4 = 0) && decide (x.1.toNat < 0x1000000)

/-- Where a REG_WRITE descriptor holds its operands (R272): COUNT, then the pairs. -/
def regWriteFields (pairs : List (Word × Word)) : List (Nat × Nat × Nat) :=
  (16, 4, pairs.length) :: (pairs.take 5).zipIdx.flatMap fun x => [(24 + 8 * x.2, 4, x.1.1.toNat), (28 + 8 * x.2, 4, x.1.2.toNat)]

/-- REG_WRITE (R272): the writes are made in order as host writes. -/
def execRegWrite (p : Fin 8) (seq : Word) (pairs : List (Word × Word)) (s : State) : Out :=
  let done (s : State) (status : Nat) : State := modPlain s p fun P => outcome P 3 seq status 0
  if !startedNow s.plains[p] 3 seq 2 (regWriteFields pairs) then .next s
  else if !pairsOk pairs then .next (done s 0x13)
  else .next (done (pairs.foldl (fun s (x : Word × Word) => hostWrite s p x.1.toNat x.2) s) 0)

/-! ## Write-backs (R320, R326) -/

/-- SPAD_CE_WRITEBACK (R320): the oldest corrected word is written back. -/
def execSpadCeWriteback (p : Fin 8) (s : State) : Out :=
  .next (modPlain s p fun P => match P.mem.writeBack with
    | [] => P
    | w :: rest => { P with mem := { P.mem with writeBack := rest, spadCe := put false P.mem.spadCe w false } })

/-- NVS_LINE_WRITE_DONE (R326). -/
def execNvsLineWriteDone (p : Fin 8) (s : State) : Out :=
  .next (modPlain s p fun P => { P with mem := { P.mem with nvsBusy := P.mem.nvsBusy - 1 } })

end Sys2Proof.Machine
end

