-- ==== Sys2Proof/Machine/Load.lean ====
section
/-! DEFINITION. What the loader engine reads over the bus matrix, and the rows that it executes: the verification and commitment of an
image (10 R200-R208) and the posting of an epoch switch (10 R214-R216). -/

namespace Sys2Proof.Machine

/-- A read of M6 at its turn: an error response returns all ones (R310) (in part DEDUCED, log entry 25). -/
def ldPiece (s : State) (p : Fin 8) (a n : Nat) : State × List Byte :=
  match decodeAddr a with
  | .nvs _ => (modPlain s p fun P => noteBusError P 6 a 1, List.replicate n 0xFF)
  | _ => let r := memRead s p 6 a n; (r.1, r.2.getD (List.replicate n 0xFF))

/-- The pieces of a burst of M6, each in its turn (15 R312, R313): at most `k`. -/
def ldPieces (p : Fin 8) : Nat → Nat → Nat → State → State × List Byte
  | 0, _, _, s => (s, [])
  | k + 1, a, n, s =>
    let m := min n 1024
    let t := takeTurn s p 0 { master := 6, lvl := 0, write := false, addr := a, size := m, tile := 0 }
    let r := ldPiece t.1 p a m
    if n ≤ m then r
    else
      let u := ldPieces p k (a + m) (n - m) r.1
      (u.1, r.2 ++ u.2)

/-- The loader's read of image bytes: whole where no access is outstanding, else piece by piece. An error response returns all ones
(R310). -/
def ldRead (s : State) (p : Fin 8) (a n : Nat) : State × List Byte :=
  if s.plains[p].bus.queue = [] then ldPiece s p a n else ldPieces p (n / 1024 + 1) a n s

/-- The key unit reads the secure part by its private path; none while a wipe runs or where a word is uncorrectable (15 R308,
R320, R323, R325). -/
def keyUnitRead (s : State) (p : Fin 8) (off n : Nat) : State × Option (List Byte) :=
  if bit s.plains[p].mem.stat 3 then (s, none) else spadRead s p 6 (secureBase + off) n

/-- The key unit's answer for a slot: none above 15, and none when it is not VALID, is being wiped or is unreadable
(R201, R324, R329). -/
def keySlot (s : State) (p : Fin 8) (k : Nat) : State × Option (List Byte) :=
  if 16 ≤ k then (s, none)
  else
    let x := keyUnitRead s p (0x40 * k) 33
    (x.1, match x.2 with
      | some b => if (b.getD 32 0).getLsbD 0 then some (b.take 32) else none
      | none => none)

/-- A part's plaintext, or its refusal code (R201, R206 step 3) (in part DEDUCED, log entry 25). -/
def openPart (s : State) (p : Fin 8) (keyslot : Nat) (e raw : List Byte) : State × (List Byte ⊕ Nat) :=
  if (e.getD 3 0).getLsbD 0 then
    match keySlot s p keyslot with
    | (s, none) => (s, .inr 4)
    | (s, some key) => (s, match Config.aesGcmDecrypt key (sub e 24 12) (sub e 0 4) raw (sub e 36 16) with
      | none => .inr 3
      | some pt => digestOk e pt)
  else (s, if s.fuses.lc = 3 then .inr 4 else digestOk e raw)

/-- Reads the parts of `v`, kinds 1-6 (R206 step 3): plaintexts, or refusal code and part index. -/
def readParts (p : Fin 8) (addr v : Nat) (man : List Byte) : List Nat → State → State × (Parts ⊕ (Nat × Nat))
  | [], s => (s, .inl [])
  | k :: ks, s =>
    let i := partIndex man v k
    let e := partEntry man i
    let r := ldRead s p (addr + num e 8 8) (num e 16 8)
    match openPart r.1 p (num man 12 1) e r.2 with
    | (s, .inr code) => (s, .inr (code, i))
    | (s, .inl pt) => match readParts p addr v man ks s with
      | (s, .inl pts) => (s, .inl (pt :: pts))
      | x => x

/-- What VERIFY finds (R206 steps 2-4): the manifest and the power reservation, or refusal code and DETAIL. A signing key that is
wiped, unreadable or absent is a missing key (17 R362) (in part DEDUCED, log entry 25). -/
def verifyImage (s : State) (p : Fin 8) (addr len vplain : Nat) (bind : DWord) : State × ((List Byte × Nat) ⊕ (Nat × Nat)) :=
  let hdr := ldRead s p addr (min len 64)
  let n := 64 + 128 * min (num hdr.2 8 4) 24576 + 96
  let r := ldRead hdr.1 p addr (min len n)
  let man := r.2
  let k := keyUnitRead r.1 p 0x400 97
  let s := k.1
  let key := k.2.getD []
  match manifestBad man len with
  | some i => (s, .inr (1, i))
  | none =>
    let signed := 64 + 128 * num man 8 4
    if !(key.getD 96 0).getLsbD 0 then (s, .inr (4, 0xFFFF))
    else if !(Config.ecdsaVerify (key.take 96) (Config.sha384 (sub man 0 signed)) (sub man signed 96)) then (s, .inr (2, 0xFFFF))
    else if num man 6 2 ≤ vplain then (s, .inr (5, 0xFFFF))
    else match plainPart s.fuses.lc man with
    | some i => (s, .inr (4, i))
    | none => match readParts p addr vplain man [1, 2, 3, 4, 5, 6] s with
      | (s, .inr e) => (s, .inr e)
      | (s, .inl pts) => match contentsBad s.fuses p (num man 16 4) bind (partIndex man vplain) pts with
        | some e => (s, .inr e)
        | none =>
          let d := pts.getD 0 []
          let rv := envelopeOf d (pts.getD 1 [])
          if overBandwidth d s.plains[p].basin then (s, .inr (0xA, 0xFFFF))
          else if !powerAdmits s p rv then (s, .inr (0xB, 0xFFFF))
          else (s, .inl (man, rv))

/-- JOB_LOAD (R206 steps 1-5): VERIFY, admission, and entry to LOAD; a refusal completes the job, and an abort stops it (R270). -/
def execJobLoad (p : Fin 8) (seq : Word) (addr len : DWord) (vplain : BitVec 16) (bind : DWord) (s : State) : Out :=
  let P := s.plains[p]
  if !startedNow P 0 seq 1 [(16, 8, addr.toNat), (24, 8, len.toNat), (32, 2, vplain.toNat), (40, 8, bind.toNat)] then .next s
  else if seq ∈ P.hiu.rings[(0 : Fin 4)].abortSeen then .next (modPlain s p fun P => outcome P 0 seq 0x11 0)
  else if P.run.mode ≠ .hold ∨ P.run.after.isSome ∨ (s.fuses.lc ≠ 2 ∧ s.fuses.lc ≠ 3) then
    .next (modPlain s p fun P => outcome (ldrCode P 0xC 0xFFFF) 0 seq 0x0C 0xFFFF)
  else
    let v := verifyImage s p addr.toNat len.toNat vplain.toNat bind
    if !stillIn .hold v.1.plains[p] then .next v.1
    else .next (modPlain v.1 p fun P => match v.2 with
      | .inr (code, detail) => outcome (ldrCode P code detail) 0 seq code detail
      | .inl (man, rv) => enterLoad (beginJob P seq .load) { seq := seq, man := man, addr := addr, len := len, vplain := vplain.toNat, bind := bind } rv)

/-- LOAD_COMMIT (R206 steps 5-9, R208): once no link closes any longer, every part is read again, checked against the manifest
that VERIFY has checked, and written. The tiles' requests that the controller still holds take effect under the old region
table, and leave it with the queues that step 7 empties (07 R147) (in part DEDUCED, log entry 54). -/
def execLoadCommit (p : Fin 8) (s : State) : Out :=
  let P := s.plains[p]
  match P.ldr.load with
  | none => .next s
  | some J =>
    if P.run.mode ≠ .load ∨ P.links.toList.any closingLink then .next s
    else
      let r := readParts p J.addr.toNat J.vplain J.man [1, 2, 3, 4, 5, 6] (settle s p)
      if !stillIn .load r.1.plains[p] then .next r.1
      else .next (modPlain r.1 p fun P => match r.2 with
        | .inr (code, i) => loadFail P (if code = 4 then 4 else 0xD) i
        | .inl pts => commitImage s.timeNs s.fuses.tstepPs J J.man pts P)

/-- EPOCH_SWITCH (R214-R216): the record is checked and becomes pending, or the descriptor is refused or late
(in part DEDUCED, log entry 26). -/
def execEpochSwitch (p : Fin 8) (seq : Word) (target : BitVec 48) (addr : DWord) (len : Word) (s : State) : Out :=
  let P := s.plains[p]
  let done (s : State) (code : Nat) (late : Bool) : Out := .next (modPlain s p fun P =>
    let P := { P with ldr := { P.ldr with lastRef := if late then P.ldr.lastRef else BitVec.ofNat 4 code }
                      sync := if late then { P.sync with stat := setBit P.sync.stat 4 true } else P.sync }
    outcome P 3 seq code 0)
  if !startedNow P 3 seq 1 [(16, 6, target.toNat), (24, 8, addr.toNat), (32, 4, len.toNat)] then .next s
  else if P.run.mode = .load ∨ P.ldr.load.isSome then done s 0xE false
  else if !(modeStepping P.run.mode || decide (P.run.mode = .hold)) || !P.run.admitted then done s 0xC false
  else if P.ldr.switch.isSome then done s 0xE false
  else
    let x := ldRead s p addr.toNat len.toNat
    let s := x.1
    let r := x.2
    let before := P.run.after
    let P := s.plains[p]
    let code := recordCode s.fuses.tstepPs P r
    if !(modeStepping P.run.mode || decide (P.run.mode = .hold)) || !P.run.admitted || decide (P.run.after ≠ before) then .next s
    else if code = 1 then done s 1 false
    else if w32 (num r 0 4) ≠ P.sync.cur.epoch + 1 then done s 0xE false
    else if code ≠ 0 then done s code false
    else if switchLate P target.toNat then done s 0x14 true
    else match freeBank P with
      | none => done s 0xF false
      | some bank =>
        let ps := patchesOf r
        let ovl (t : Fin 64) : Sparse StepWord := mergedBank P.tiles[t] P.ldr.curBank bank t.val ps
        if (List.finRange 64).any fun t => decide (64 < bankCount (ovl t) bank) then done s 0xF false
        else .next (modPlain s p fun P =>
          let h := Config.sha384 (leBytes 48 P.ldr.h.toNat ++ r)
          let epoch := P.sync.cur.epoch + 1
          let tag := tagOf P.ldr.digest h
          let P := allTiles P fun t T => { T with overlay := mergedBank T P.ldr.curBank bank t.val ps }
          { P with ldr := { P.ldr with lastRef := 0, switch := some { seq := seq, target := target.toNat, epoch := epoch, record := r, h := h, tag := tag, bank := bank } }
                   sync := { P.sync with pend := some { epoch := epoch, tag := tag, first := target.toNat } } })

end Sys2Proof.Machine
end

