-- ==== Sys2Proof/Machine/MgrUnits.lean ====
section
/-! DEFINITION. The Manager's instruction word, ports, arithmetic units, segments and CSRs (11 R219-R228, R237; 12
R240-R242). -/

namespace Sys2Proof.Machine

/-! ## The instruction (R219) -/

/-- A move slot. -/
structure MgrMove where
  slot : Nat
  gsel : Nat
  simm : Bool
  src : Nat
  dst : Nat
deriving DecidableEq, Repr

/-- Slot `i` of an instruction. -/
def mgrSlot (w i : Nat) : MgrMove :=
  let x := fldN w (28 * i) 28
  { slot := i, gsel := fldN x 25 3, simm := x.testBit 24, src := fldN x 12 12, dst := fldN x 0 12 }

/-- The four slots. -/
def mgrSlots (w : Nat) : List MgrMove := (List.range 4).map (mgrSlot w)

/-- EXT. -/
def mgrExt (w : Nat) : Nat := fldN w 112 16

/-- A number sign-extended from its low `n` bits to 64 bits. -/
def sext64 (x n : Nat) : DWord := (BitVec.ofNat n x).signExtend 64

/-! ## Ports (R223) -/

/-- The port can be read. -/
def mgrIsSrc (n : Nat) : Bool :=
  decide (n ≤ 0x43) || n == 0x8F || n == 0xAF || n == 0x110 || n == 0x111 || (decide (0x120 ≤ n) && decide (n ≤ 0x129))

/-- The operand ports. -/
def mgrIsOperand (n : Nat) : Bool :=
  n ∈ [0x80, 0xA0, 0xC0, 0xC1, 0xC8, 0xC9, 0xD0, 0xD1, 0xD2, 0x100, 0x101, 0x102, 0x103, 0x104, 0x118, 0x119]

/-- The port can be written without a trigger. -/
def mgrIsDst (n : Nat) : Bool :=
  decide (n ≤ 0x3F) || (decide (0x41 ≤ n) && decide (n ≤ 0x43)) || mgrIsOperand n || n == 0x125 || n == 0x126

/-- The unit that a port triggers: 0 and 1 the ALUs, 2 MUL, 3 DIV, 4 LS, 5 BR, 6 BLK, 7 QU, 8 CSR. -/
def mgrUnitOf (n : Nat) : Option Nat :=
  if 0x81 ≤ n ∧ n ≤ 0x8D then some 0
  else if 0xA1 ≤ n ∧ n ≤ 0xAD then some 1
  else if 0xC2 ≤ n ∧ n ≤ 0xC4 then some 2
  else if 0xCA ≤ n ∧ n ≤ 0xCD then some 3
  else if 0xD3 ≤ n ∧ n ≤ 0xDE then some 4
  else if 0xF0 ≤ n ∧ n ≤ 0xF4 then some 5
  else if 0x105 ≤ n ∧ n ≤ 0x107 then some 6
  else if n = 0x112 then some 7
  else if n = 0x11A ∨ n = 0x11B then some 8
  else none

/-- The D port of a long operation's trigger (R226). -/
def mgrDPort (n : Nat) : Option Nat :=
  if 0xC2 ≤ n ∧ n ≤ 0xC4 then some 0xC1
  else if 0xCA ≤ n ∧ n ≤ 0xCD then some 0xC9
  else if 0xD3 ≤ n ∧ n ≤ 0xD9 then some 0xD2
  else if 0x105 ≤ n ∧ n ≤ 0x107 then some 0x104
  else if n = 0x11A then some 0x119
  else none

/-- General register `i`; g0 reads 0. -/
def mgrG (M : Manager) (i : Nat) : DWord := if i = 0 then 0 else look 0 M.g i

/-- Writes a general register; a write of g0 is discarded (R220). -/
def mgrSetG (M : Manager) (i : Nat) (v : DWord) : Manager := if i = 0 then M else { M with g := put 0 M.g i v }

/-- Sets a register's scoreboard bit; a D of 0 sets none (R226). -/
def mgrMark (M : Manager) (i : Nat) : Manager := if i = 0 then M else { M with board := put false M.board i true }

/-- A result arrives: the register is written and its bit clears (R226). -/
def mgrResult (M : Manager) (i : Nat) (v : DWord) : Manager := { mgrSetG M i v with board := put false M.board i false }

/-- The register's bit is set. -/
def mgrPending (M : Manager) (i : Nat) : Bool := look false M.board i

/-- TSP of the current level. -/
def mgrTsp (M : Manager) : DWord := look 0 M.tsp M.lvl.val

/-- SSP of the current level. -/
def mgrSsp (M : Manager) : DWord := look 0 M.ssp M.lvl.val

/-- Writes TSP of the current level. -/
def mgrSetTsp (M : Manager) (v : DWord) : Manager := { M with tsp := put 0 M.tsp M.lvl.val v }

/-- Writes SSP of the current level. -/
def mgrSetSsp (M : Manager) (v : DWord) : Manager := { M with ssp := put 0 M.ssp M.lvl.val v }

/-- What a source port reads at the start of the step `E` (R221, R223). -/
def mgrRead (M : Manager) (E : MgrDelay) (ext n : Nat) : DWord :=
  if n ≤ 0x3F then mgrG M n
  else if n = 0x40 then 1
  else if n ≤ 0x43 then BitVec.ofNat 64 (b2n (look false M.pr (n - 0x40)))
  else match n with
    | 0x110 => M.evq.headD 0
    | 0x111 => BitVec.ofNat 64 M.evq.length
    | 0x120 => sext64 ext 16
    | 0x121 => BitVec.ofNat 64 ext
    | 0x122 => sext64 (ext * 2 ^ 16) 32
    | 0x123 => M.pc
    | 0x124 => BitVec.ofNat 64 M.lvl.val
    | 0x125 => mgrTsp M
    | 0x126 => mgrSsp M
    | 0x127 => BitVec.ofNat 64 E.step
    | 0x128 => BitVec.ofNat 64 (E.cycle % 2 ^ 48)
    | 0x129 => BitVec.ofNat 64 E.nsec
    | n => look 0 M.ports n

/-- The move executes: its guard holds; a reserved guard never does (R219, R222). -/
def mgrExecutes (M : Manager) (m : MgrMove) : Bool :=
  if m.gsel = 0 then true
  else if m.gsel ≤ 3 then look false M.pr m.gsel
  else if m.gsel ≤ 6 then !look false M.pr (m.gsel - 3)
  else false

/-- The executing moves of an instruction. -/
def mgrMovesOf (M : Manager) (w : Nat) : List MgrMove := (mgrSlots w).filter (mgrExecutes M)

/-- The datum of a move. -/
def mgrDatum (M : Manager) (E : MgrDelay) (ext : Nat) (m : MgrMove) : DWord := if m.simm then sext64 m.src 12 else mgrRead M E ext m.src

/-- The executing moves of an instruction with what they read in the step `E`. -/
def mgrData (M : Manager) (E : MgrDelay) (w : Nat) : List (MgrMove × DWord) := (mgrMovesOf M w).map fun m => (m, mgrDatum M E (mgrExt w) m)

/-! ## ALU, multiplier and divider (R224, R225) -/

/-- `a` sign-extended from bit `k`. -/
def sextFrom (a : DWord) (k : Nat) : DWord := (a <<< (63 - k)).sshiftRight (63 - k)

/-- ALU operation `k` (port less the unit's base) of operand `a` and datum `b` (R224). -/
def mgrAlu (k : Nat) (a b : DWord) : DWord :=
  let n := b.toNat % 64
  match k with
  | 1 => a + b
  | 2 => a - b
  | 3 => a &&& b
  | 4 => a ||| b
  | 5 => a ^^^ b
  | 6 => a &&& ~~~b
  | 7 => a <<< n
  | 8 => a >>> n
  | 9 => a.sshiftRight n
  | 10 => if a = b then 1 else 0
  | 11 => if a.slt b then 1 else 0
  | 12 => if a.ult b then 1 else 0
  | _ => sextFrom a n

/-- MUL.LO, MUL.HIU and MUL.HIS (R223). -/
def mgrMul (port : Nat) (a b : DWord) : DWord :=
  if port = 0xC2 then a * b
  else if port = 0xC3 then BitVec.ofNat 64 (a.toNat * b.toNat / 2 ^ 64)
  else BitVec.ofInt 64 (a.toInt * b.toInt / 2 ^ 64)

/-- DIV.DIVU, DIVS, REMU and REMS of dividend `a` by datum `b` (R225). A signed quotient is rounded toward zero, and the remainder has the
sign of the dividend (DESIGN CHOICE, log entry 40). -/
def mgrDiv (port : Nat) (a b : DWord) : DWord :=
  if b = 0 then (if port = 0xCA ∨ port = 0xCB then 0xFFFFFFFFFFFFFFFF#64 else a)
  else if port = 0xCA then a / b
  else if port = 0xCB then a.sdiv b
  else if port = 0xCC then a % b
  else a.srem b

/-! ## CSRs (R237, R241, R242) -/

/-- CSR `n` as stored. -/
def mgrCsr (M : Manager) (n : Nat) : DWord := look 0 M.csr n

/-- Stores a CSR. -/
def mgrSetCsr (M : Manager) (n : Nat) (v : DWord) : Manager := { M with csr := put 0 M.csr n v }

/-- A table lists the CSR. -/
def mgrCsrListed (n : Nat) : Bool :=
  n == 0 || n == 0x20 || (decide (0x100 ≤ n) && decide (n < 0x160) && decide (n % 0x20 < 0x10)) ||
  (decide (0x180 ≤ n) && decide (n ≤ 0x184)) || (decide (0x210 ≤ n) && decide (n ≤ 0x215)) ||
  (decide (0x220 ≤ n) && decide (n ≤ 0x225)) || (decide (0x230 ≤ n) && decide (n ≤ 0x234))

/-- A level may read or write a listed CSR (R241). -/
def mgrCsrAllows (lvl n : Nat) (write : Bool) : Bool :=
  if n = 0 then !write
  else if n = 0x20 then write
  else if n < 0x140 ∨ (0x180 ≤ n ∧ n < 0x220) then decide (1 ≤ lvl)
  else decide (lvl = 2)

/-- What CSR.RD reads. -/
def mgrCsrRead (M : Manager) (n : Nat) : DWord := if n = 0 then BitVec.ofNat 64 (b2n M.callMode) else mgrCsr M n

/-- The bits of a CSR that hold what is written (R237, R242, R235). -/
def mgrCsrMask (n : Nat) : DWord :=
  if n < 0x160 then (if n % 2 = 0 then 0xFFFFFFFFFF#64 else 0xF00000FFFFFFFFFF#64)
  else if n = 0x180 then 0x800000000000FFFF#64
  else if n < 0x200 then 0xFFFFFFFFFFFFFFFF#64
  else match n with
    | 0x210 | 0x220 | 0x211 | 0x221 | 0x231 | 0x233 => 0xFFFFFFFFFF#64
    | 0x212 | 0x222 => 0x80000000000000FF#64
    | 0x214 | 0x224 => 0xF#64
    | 0x230 => 0x2FE#64
    | 0x232 => 0xFFFF#64
    | 0x234 => 0xFF00#64
    | _ => 0xFFFFFFFFFFFFFFFF#64

/-- CSR.WR of a listed CSR that is storage: bits 1:0 of ESC are read only. -/
def mgrCsrWrite (M : Manager) (n : Nat) (v : DWord) : Manager :=
  if n = 0x20 then M
  else if n = 0x234 then mgrSetCsr M n ((v &&& mgrCsrMask n) ||| (mgrCsr M n &&& 0x3#64))
  else mgrSetCsr M n (v &&& mgrCsrMask n)

/-- ESC.ENTRY. -/
def escEntry (M : Manager) : Bool := bit (mgrCsr M 0x234) 0

/-- ESC.DF. -/
def escDf (M : Manager) : Bool := bit (mgrCsr M 0x234) 1

/-- Writes ESC.ENTRY or ESC.DF. -/
def escSet (M : Manager) (i : Nat) (b : Bool) : Manager := mgrSetCsr M 0x234 (setBit (mgrCsr M 0x234) i b)

/-! ## Segments (R228) -/

/-- BASE of a segment slot. -/
def segBase (M : Manager) (lvl slot : Nat) : Nat := (mgrCsr M (0x100 + 0x20 * lvl + 2 * slot)).toNat % 2 ^ 40

/-- LIMIT and rights of a segment slot. -/
def segLimit (M : Manager) (lvl slot : Nat) : DWord := mgrCsr M (0x101 + 0x20 * lvl + 2 * slot)

/-- The Plain internal address of an offset. -/
def segAddr (M : Manager) (lvl slot : Nat) (off : DWord) : Nat := (segBase M lvl slot + off.toNat) % 2 ^ 40

/-- An access to be checked: bytes `off + len - 1 : off` of a slot, with the bit of the right that it needs (60 R, 61 W,
62 X). -/
structure SegUse where
  slot : Nat
  off : DWord
  len : Nat
  right : Nat
deriving DecidableEq, Repr

/-- The segment cause of an access and its VAL; none when it is permitted (R228). -/
def segCause (M : Manager) (lvl : Nat) (u : SegUse) : Option (Nat × DWord) :=
  let L := segLimit M lvl u.slot
  let limit := L.toNat % 2 ^ 40
  if !bit L 63 then some (2, BitVec.ofNat 64 u.slot)
  else if limit < u.off.toNat ∨ limit - u.off.toNat < u.len - 1 then some (3, u.off)
  else if !bit L u.right then some (4, u.off)
  else none

/-! ## What an instruction's triggers need -/

/-- The value of an operand port once the instruction's operand moves are made (R221). -/
def mgrOperands (M : Manager) (xs : List (MgrMove × DWord)) : Manager :=
  xs.foldl (fun M (x : MgrMove × DWord) => if mgrIsOperand x.1.dst then { M with ports := put 0 M.ports x.1.dst x.2 } else M) M

/-- The number in a port. -/
def mgrPort (M : Manager) (n : Nat) : DWord := look 0 M.ports n

/-- Bytes of a load or store trigger. -/
def mgrSize (n : Nat) : Nat :=
  match n with
  | 0xD3 | 0xD7 | 0xDA => 1
  | 0xD4 | 0xD8 | 0xDB => 2
  | 0xD5 | 0xD9 | 0xDC => 4
  | _ => 8

/-- The registers g4k-g4k+3 of the set bits of a mask, ascending (R233). -/
def mgrSaved (mask : Nat) : List Nat := ((List.range 16).filter mask.testBit).flatMap fun k => [4 * k, 4 * k + 1, 4 * k + 2, 4 * k + 3]

/-- Offsets at which CALL stores, with the data: the return stack in mode 0, the frame in mode 1 (R233). -/
def mgrCallStores (M : Manager) (ext : Nat) : List (DWord × DWord) :=
  if !M.callMode then [(mgrTsp M - 8, M.pc + 16)]
  else
    let regs := mgrSaved ext
    let base := mgrSsp M - BitVec.ofNat 64 (16 + 8 * regs.length)
    (base, BitVec.ofNat 64 ext) :: (base + 8, M.pc + 16) ::
      regs.zipIdx.map fun (x : Nat × Nat) => (base + 16 + BitVec.ofNat 64 (8 * x.2), mgrG M x.1)

/-- The slot of the call stack: TS in mode 0, SS in mode 1. -/
def mgrCallSlot (M : Manager) : Nat := if M.callMode then 2 else 3

/-- Offsets from which RET loads at its trigger. -/
def mgrRetLoads (M : Manager) : List DWord := if M.callMode then [mgrSsp M, mgrSsp M + 8] else [mgrTsp M]

/-- Values that must be multiples of a number, with the VAL of MISALIGNED: for the trigger of move `x` (R228, R232, R234). -/
def mgrAligns (M N : Manager) (ext : Nat) (x : MgrMove × DWord) : List (Nat × Nat × DWord) :=
  let n := x.1.dst
  let a := mgrPort N 0xD0
  let src := mgrPort N 0x100
  let dst := mgrPort N 0x101
  let len := fldN (mgrPort N 0x103).toNat 0 32
  if 0xD3 ≤ n ∧ n ≤ 0xDD then [(a.toNat, mgrSize n, a)]
  else if n = 0xF0 then [(x.2.toNat, 16, x.2)]
  else if n = 0xF1 then (x.2.toNat, 16, x.2) :: (mgrCallStores M ext).map fun (o : DWord × DWord) => (o.1.toNat, 8, o.1)
  else if n = 0xF2 then (mgrRetLoads M).map fun o => (o.toNat, 8, o)
  else if n = 0x106 then [(dst.toNat, 8, dst), (len, 8, dst)]
  else if n = 0x105 ∨ n = 0x107 then [(src.toNat, 8, src), (dst.toNat, 8, dst), (len, 8, src)]
  else []

/-- The segment accesses that the trigger of a move makes (R228, R233, R234). -/
def mgrUses (M N : Manager) (ext : Nat) (x : MgrMove × DWord) : List SegUse :=
  let n := x.1.dst
  let seg := (mgrPort N 0x102).toNat
  let len := fldN (mgrPort N 0x103).toNat 0 32
  let src (right : Nat) : SegUse := { slot := fldN seg 0 3, off := mgrPort N 0x100, len := len, right := right }
  let dst (right : Nat) : SegUse := { slot := fldN seg 3 3, off := mgrPort N 0x101, len := len, right := right }
  let ls (right : Nat) : SegUse := { slot := fldN (mgrPort N 0xD1).toNat 0 3, off := mgrPort N 0xD0, len := mgrSize n, right := right }
  if 0xD3 ≤ n ∧ n ≤ 0xD9 then [ls 60]
  else if 0xDA ≤ n ∧ n ≤ 0xDD then [ls 61]
  else if n = 0xF1 then (mgrCallStores M ext).map fun (o : DWord × DWord) => { slot := mgrCallSlot M, off := o.1, len := 8, right := 61 }
  else if n = 0xF2 then (mgrRetLoads M).map fun o => { slot := mgrCallSlot M, off := o, len := 8, right := 60 }
  else if len = 0 then []
  else if n = 0x105 then [src 60, dst 61]
  else if n = 0x106 then [dst 61]
  else if n = 0x107 then [src 60, dst 60]
  else []

/-! ## Illegal instructions (R222) -/

/-- Slots of the executing moves in `xs` that share `key` with another of them. -/
def sharing (key : MgrMove → Option Nat) (xs : List MgrMove) : List Nat :=
  (xs.filter fun x => (key x).isSome && xs.any fun y => y.slot != x.slot && key y == key x).map (·.slot)

/-- The destination that a move writes, unless it is g0 or a trigger. -/
def mgrDest (m : MgrMove) : Option Nat := if m.dst = 0 ∨ mgrUnitOf m.dst ≠ none then none else some m.dst

/-- Slots that make an instruction illegal whatever its data are (R222). -/
def mgrIllegal (M : Manager) (ms : List MgrMove) : List Nat :=
  let es := ms.filter (mgrExecutes M)
  ((ms.filter fun m => m.gsel == 7 || (!m.simm && !mgrIsSrc m.src) || !(mgrIsDst m.dst || (mgrUnitOf m.dst).isSome)).map (·.slot)) ++
  sharing mgrDest es ++ sharing (fun m => mgrUnitOf m.dst) es

/-- Result registers of the long operations that the moves trigger, with their slots. -/
def mgrLongRegs (N : Manager) (es : List MgrMove) : List (Nat × Nat) :=
  es.filterMap fun m => (mgrDPort m.dst).map fun d => (fldN (mgrPort N d).toNat 0 6, m.slot)

/-- CSR number that CSR.RD or CSR.WR names. -/
def mgrCsrNum (N : Manager) : Nat := fldN (mgrPort N 0x118).toNat 0 12

/-- Slots that make an instruction illegal with its data: a move writes a long operation's result register, or a CSR
number is not listed (R222, R241) (in part DEDUCED, log entry 40). -/
def mgrIllegalData (N : Manager) (es : List MgrMove) : List Nat :=
  (mgrLongRegs N es).flatMap (fun (x : Nat × Nat) => if x.1 = 0 then [] else (es.filter fun m => m.dst == x.1).flatMap fun m => [m.slot, x.2]) ++
  (es.filter fun m => (m.dst == 0x11A || m.dst == 0x11B) && !mgrCsrListed (mgrCsrNum N)).map (·.slot)

/-- The lowest of some slots. -/
def lowest (xs : List Nat) : Nat := xs.foldl min 3

/-! ## The scoreboard (R226) -/

/-- The instruction stalls on a register that its moves read or write, on a busy block unit, or on a register that CALL saves. -/
def mgrStallsEarly (M : Manager) (ext : Nat) (es : List MgrMove) : Bool :=
  es.any fun m =>
    (!m.simm && decide (m.src ≤ 0x3F) && mgrPending M m.src) || (decide (m.dst ≤ 0x3F) && mgrPending M m.dst) ||
    (mgrUnitOf m.dst == some 6 && M.blk.isSome) || (m.dst == 0xF1 && M.callMode && (mgrSaved ext).any (mgrPending M))

/-- The instruction stalls on the result register that a long operation names. -/
def mgrStallsLate (M N : Manager) (es : List MgrMove) : Bool := (mgrLongRegs N es).any fun (x : Nat × Nat) => mgrPending M x.1

end Sys2Proof.Machine
end

