-- ==== Sys2Proof/Machine/Manager.lean ====
section
/-! DEFINITION. The Manager core pair: issue, traps, memory, block operations and lockstep (11, 12). -/

namespace Sys2Proof.Machine

/-- Applies `f` to the Manager of Plain `p`. -/
def modMgr (s : State) (p : Fin 8) (f : Manager → Manager) : State := modPlain s p fun P => { P with mgr := f P.mgr }

/-- The Manager runs firmware. -/
def mgrRuns (P : Plain) : Bool := P.mgr.running && awake P

/-! ## Traps (12 R243-R248) -/

/-- BLKPROG after an operation is stopped, with the scoreboard bit of its register cleared (R235). The unit does not stop before a
group that hangs has ended, which is never (R245, 15 R316) (in part DEDUCED, log entry 41). -/
def mgrSaveBlock (M : Manager) : Manager :=
  match M.blk with
  | none => M
  | some b =>
    if b.hung then { M with blk := some { b with stopping := true } } else
    let M := mgrSetCsr M 0x180 (BitVec.ofNat 64 (b.kind % 4 + b.reg % 64 * 2 ^ 2 + b.seg.toNat * 2 ^ 8 + b.lvl.val * 2 ^ 14 + 2 ^ 63))
    let M := mgrSetCsr (mgrSetCsr M 0x181 b.src) 0x182 b.dst
    let M := mgrSetCsr (mgrSetCsr M 0x183 (BitVec.ofNat 64 (b.len % 2 ^ 32 + b.done * 2 ^ 32))) 0x184 b.pat
    { M with blk := none, board := put false M.board b.reg false }

/-- A saved operation resumes at a return to its level (R235) (in part DEDUCED, log entry 41). -/
def mgrResumeBlock (step : Nat) (n : Fin 3) (M : Manager) : Manager :=
  let b0 := (mgrCsr M 0x180).toNat
  let seg := fldN b0 8 6
  if b0.testBit 63 && fldN b0 14 2 == n.val && decide (fldN b0 0 2 ≠ 3) && M.blk.isNone then
    let M := mgrMark (mgrSetCsr M 0x180 (BitVec.ofNat 64 (b0 % 2 ^ 63))) (fldN b0 2 6)
    { M with blk := some { kind := fldN b0 0 2, reg := fldN b0 2 6, seg := BitVec.ofNat 6 seg, lvl := n,
                           src := mgrCsr M 0x181, dst := mgrCsr M 0x182, len := fldN (mgrCsr M 0x183).toNat 0 32,
                           done := fldN (mgrCsr M 0x183).toNat 32 32, pat := mgrCsr M 0x184
                           srcAt := BitVec.ofNat 40 (segAddr M n.val (fldN seg 0 3) (mgrCsr M 0x181))
                           dstAt := BitVec.ofNat 40 (segAddr M n.val (fldN seg 3 3) (mgrCsr M 0x182)), step := step } }
  else M

/-- The trap cause may be delegated (R243). -/
def delegable (c : Nat) : Bool := (decide (1 ≤ c) && decide (c ≤ 7)) || c == 9

/-- The first instruction of a handler issues three steps after the one that follows (R245). -/
def trapDelay (M : Manager) : Manager := { M with steps := M.steps + 3, waiting := false, sbStall := false }

/-- Entry of cause `c` with value `x` and resumption offset `epc` (R245). -/
def mgrEnter (c : Nat) (x epc : DWord) (M : Manager) : Manager :=
  let M := mgrSaveBlock (trapDelay M)
  let t : Fin 3 := if M.lvl.val < 2 ∧ delegable c ∧ bit (mgrCsr M 0x230) c then 1 else 2
  let base := 0x200 + 0x10 * t.val
  let status := mgrCsr M (base + 4)
  let M := mgrSetCsr M (base + 1) (epc &&& 0xFFFFFFFFFF#64)
  let M := mgrSetCsr M (base + 2) (BitVec.ofNat 64 (c + (if c = 8 then 2 ^ 63 else 0)))
  let M := mgrSetCsr M (base + 3) x
  let M := mgrSetCsr M (base + 4) (BitVec.ofNat 64 (b2n (bit status 0) * 2 + M.lvl.val * 4))
  let M := escSet M 0 true
  { M with lvl := t, pc := mgrCsr M base, entered := t }

/-- Escalation of cause `c` raised at `raiser` during an entry (R247). -/
def mgrDouble (c : Nat) (raiser : DWord) (M : Manager) : Manager :=
  let M := mgrSaveBlock (trapDelay M)
  let first := fld (mgrCsr M (0x202 + 0x10 * M.entered.val)) 0 8
  let esc := mgrCsr M 0x234
  let count := min 255 (fld esc 8 8 + 1)
  let M := mgrSetCsr M 0x232 (BitVec.ofNat 64 (first + c * 2 ^ 8))
  let M := mgrSetCsr M 0x233 (raiser &&& 0xFFFFFFFFFF#64)
  let M := mgrSetCsr M 0x234 (BitVec.ofNat 64 (2 + count * 2 ^ 8))
  { M with lvl := 2, pc := mgrCsr M 0x231 }

/-! ## The effects of an instruction (R221-R237) -/

/-- Register, predicate and stack-pointer moves (R221). -/
def mgrMoves (xs : List (MgrMove × DWord)) (M : Manager) : Manager :=
  xs.foldl (fun M (x : MgrMove × DWord) =>
    let n := x.1.dst
    if n ≤ 0x3F then mgrSetG M n x.2
    else if 0x41 ≤ n ∧ n ≤ 0x43 then { M with pr := put false M.pr (n - 0x40) (bit x.2 0) }
    else if n = 0x125 then mgrSetTsp M x.2
    else if n = 0x126 then mgrSetSsp M x.2
    else M) M

/-- A long operation is triggered: its result arrives after its latency (R226). -/
def mgrLong (step unit reg lat : Nat) (v : DWord) (M : Manager) : Manager :=
  mgrMark { M with long := M.long ++ [{ unit := unit, reg := reg, value := v, due := step + lat }] } reg

/-- A memory operation is issued in Manager step `step` (R229, R230) (in part DEDUCED, log entry 40). -/
def mgrIssue (step : Nat) (use : MgrUse) (lvl : Fin 3) (addr size : Nat) (v : DWord) (M : Manager) : Manager :=
  { M with mem := M.mem ++ [{ use := use, addr := BitVec.ofNat 40 addr, size := size, data := v, lvl := lvl, step := step }] }

/-- The Plain internal address of LS.A in the slot of LS.S. -/
def mgrLsAddr (M N : Manager) : Nat := segAddr M M.lvl.val (fldN (mgrPort N 0xD1).toNat 0 3) (mgrPort N 0xD0)

/-- A load or store trigger (R229, R230). -/
def mgrLs (M N : Manager) (step n : Nat) (v : DWord) (A : Manager) : Manager :=
  let d := fldN (mgrPort N 0xD2).toNat 0 6
  if n = 0xDE then { A with fence := true }
  else if 0xDA ≤ n then mgrIssue step .store M.lvl (mgrLsAddr M N) (mgrSize n) v A
  else mgrMark (mgrIssue step (.load d (decide (0xD7 ≤ n))) M.lvl (mgrLsAddr M N) (mgrSize n) 0 A) d

/-- CALL's stores, in order. -/
def mgrCall (M : Manager) (step ext : Nat) (target : DWord) (A : Manager) : Manager :=
  let st := mgrCallStores M ext
  let A := st.foldl (fun A (x : DWord × DWord) => mgrIssue step .store M.lvl (segAddr M M.lvl.val (mgrCallSlot M) x.1) 8 x.2 A) A
  let low := (st.headD (0, 0)).1
  let A := if M.callMode then mgrSetSsp A low else mgrSetTsp A low
  { A with pc := target }

/-- BR.TRET at level 1 or 2 (R246). -/
def mgrTret (M : Manager) (step : Nat) (A : Manager) : Manager :=
  let base := 0x200 + 0x10 * M.lvl.val
  let status := mgrCsr M (base + 4)
  let n : Fin 3 := if fld status 2 2 < M.lvl.val then Fin.ofNat 3 (fld status 2 2) else M.lvl
  let A := mgrSetCsr A (base + 4) (setBit status 0 (bit status 1))
  let A := if M.lvl = 2 then escSet A 1 false else A
  mgrResumeBlock step n { A with lvl := n, pc := mgrCsr M (base + 1) }

/-- A branch trigger (R231-R233, R246); what RET does follows in `mgrFinish`. -/
def mgrBranch (M : Manager) (step ext n : Nat) (v : DWord) (A : Manager) : Manager :=
  match n with
  | 0xF0 => { A with pc := v }
  | 0xF1 => mgrCall M step ext v A
  | 0xF2 => A
  | 0xF3 => { A with flush := true }
  | _ => mgrTret M step A

/-- A block operation starts; its Plain internal addresses are formed now (R228, R234). -/
def mgrBlock (M N : Manager) (step n : Nat) (v : DWord) (A : Manager) : Manager :=
  let d := fldN (mgrPort N 0x104).toNat 0 6
  let seg := (mgrPort N 0x102).toNat
  mgrMark { A with blk := some { kind := n - 0x105, reg := d, seg := BitVec.ofNat 6 seg, lvl := M.lvl, src := mgrPort N 0x100,
                                 dst := mgrPort N 0x101, len := fldN (mgrPort N 0x103).toNat 0 32, done := 0, pat := v
                                 srcAt := BitVec.ofNat 40 (segAddr M M.lvl.val (fldN seg 0 3) (mgrPort N 0x100))
                                 dstAt := BitVec.ofNat 40 (segAddr M M.lvl.val (fldN seg 3 3) (mgrPort N 0x101)), step := step } } d

/-- What one trigger does, but for CSR.WR: `M` stands at the start of the step, `N` holds the operand ports. -/
def mgrTrigger (M N : Manager) (step ext : Nat) (x : MgrMove × DWord) (A : Manager) : Manager :=
  let n := x.1.dst
  match mgrUnitOf n with
  | some 0 => { A with ports := put 0 A.ports 0x8F (mgrAlu (n - 0x80) (mgrPort N 0x80) x.2) }
  | some 1 => { A with ports := put 0 A.ports 0xAF (mgrAlu (n - 0xA0) (mgrPort N 0xA0) x.2) }
  | some 2 => mgrLong step 0 (fldN (mgrPort N 0xC1).toNat 0 6) 4 (mgrMul n (mgrPort N 0xC0) x.2) A
  | some 3 => mgrLong step 1 (fldN (mgrPort N 0xC9).toNat 0 6) 20 (mgrDiv n (mgrPort N 0xC8) x.2) A
  | some 4 => mgrLs M N step n x.2 A
  | some 5 => mgrBranch M step ext n x.2 A
  | some 6 => mgrBlock M N step n x.2 A
  | some 7 => { A with waiting := true }
  | some 8 => if n = 0x11A then mgrLong step 2 (fldN (mgrPort N 0x119).toNat 0 6) 2 (mgrCsrRead M (mgrCsrNum N)) A else A
  | _ => A

/-- QU.EV has read a record, which is never 0: code 0 is the empty queue's (R236). -/
def readsEvent (xs : List (MgrMove × DWord)) : Bool := xs.any fun x => !x.1.simm && x.1.src == 0x110 && decide (x.2 ≠ 0)

/-- QU.EV pops the head record; the pop that leaves room inserts a LOST record (R236). -/
def mgrPop (M : Manager) : Manager :=
  let M := { M with evq := M.evq.drop 1 }
  if M.lost ≠ 0 ∧ M.evq.length < 64 then { M with evq := M.evq ++ [evRecord 0x0001 0 M.lost.toNat], lost := 0 } else M

/-- Everything an instruction does that raises no precise trap. Several moves that read QU.EV read the one head record, which is popped
once (DESIGN CHOICE, log entry 40); one that found the queue empty pops nothing (R238). -/
def mgrEffects (step ext : Nat) (xs : List (MgrMove × DWord)) (M : Manager) : Manager :=
  let N := mgrOperands M xs
  let A := mgrMoves xs N
  let A := if readsEvent xs then mgrPop A else A
  let A := { A with pc := M.pc + 16 }
  let A := xs.foldl (fun A (x : MgrMove × DWord) => mgrTrigger M N step ext x A) A
  match xs.find? (fun (x : MgrMove × DWord) => x.1.dst == 0x11B) with
  | none => A
  | some x => let A := mgrCsrWrite A (mgrCsrNum N) x.2; if mgrCsrNum N = 0x20 then { A with envCall := some (x.2, M.pc) } else A

/-- The instruction `w` branches: its own predicates are those of the start of its step (R238). -/
def mgrBranches (M : Manager) (w : Nat) : Bool := (mgrMovesOf M w).any fun m => mgrUnitOf m.dst == some 5 && m.dst != 0xF3

/-- ESC.ENTRY clears when the handler's first instruction retires without a trap (R245); a branch issues its target a step
later (R232), unless ENV_CALL is taken, whose handler issues in step s + 4 (R245) (in part DEDUCED, log entry 40). -/
def mgrSettle (branch : Bool) (M : Manager) : Manager :=
  let N := { if M.envCall.isNone ∧ escEntry M then escSet M 0 false else M with retired := M.retired + 1 }
  if branch && M.envCall.isNone then { N with steps := N.steps + 1 } else N

/-- A RET starts: it loads the return offset, in mode 1 after the mask (R233) (in part DEDUCED, log entry 41). -/
def mgrHold (E : MgrDelay) (w : BitVec 128) (M : Manager) : Manager :=
  let addr (off : DWord) : Nat := segAddr M M.lvl.val (mgrCallSlot M) off
  let A := if M.callMode then mgrIssue E.step .ret0 M.lvl (addr (mgrSsp M + 8)) 8 0 (mgrIssue E.step .ret1 M.lvl (addr (mgrSsp M)) 8 0 M)
           else mgrIssue E.step .ret0 M.lvl (addr (mgrTsp M)) 8 0 M
  { A with ret := some { word := w, data := (mgrData M E w.toNat).map (·.2), step := E.step } }

/-- The registers that a RET in mode 1 restores, with the offsets of their words (R233). -/
def mgrRestores (M : Manager) (r : RetHold) : List (Nat × DWord) :=
  if M.callMode then (mgrSaved ((r.mask.getD 0).toNat % 2 ^ 16)).zipIdx.map fun x => (x.1, mgrSsp M + 16 + BitVec.ofNat 64 (8 * x.2))
  else []

/-- A RET that has its return offset: the instruction's moves, the loads of the saved registers, the stack pointer and the
jump (R233). It does not stall on a register to be restored whose result is still pending: what arrives first clears the bit, and
what arrives later overwrites the register (DESIGN CHOICE, log entry 41). -/
def mgrFinish (E : MgrDelay) (r : RetHold) (M : Manager) : Manager :=
  let A := mgrEffects E.step (mgrExt r.word.toNat) ((mgrMovesOf M r.word.toNat).zip r.data) M
  let regs := mgrRestores M r
  let A := regs.foldl (fun A (x : Nat × DWord) => mgrMark (mgrIssue E.step (.load x.1 false) M.lvl (segAddr M M.lvl.val 2 x.2) 8 0 A) x.1) A
  let A := if M.callMode then mgrSetSsp A (mgrSsp M + BitVec.ofNat 64 (16 + 8 * regs.length)) else mgrSetTsp A (mgrTsp M + 8)
  { A with pc := r.off.getD 0, ret := none }

/-! ## What a core does in a step (12 R250) -/

/-- What a decision of the step `E` does in a core: the primary and the shadow apply the same. -/
def mgrApply (E : MgrDelay) (a : MgrAct) (M : Manager) : Manager :=
  match a with
  | .issue w => mgrSettle (mgrBranches M w.toNat) (mgrEffects E.step (mgrExt w.toNat) (mgrData M E w.toNat) M)
  | .hold w => mgrHold E w M
  | .finish => match M.ret with
    | some r => mgrSettle true (mgrFinish E r M)
    | none => M
  | .fetch last =>
    let a := segAddr M M.lvl.val 0 M.pc + (if last then 15 else 0)
    { M with fetchReq := some { line := a % 2 ^ 40 / 64, lvl := M.lvl, step := E.step } }
  | .trap c x epc raiser =>
    let M := { M with envCall := none, ret := none }
    if escEntry M then mgrDouble c raiser M else mgrEnter c x epc M

/-- The data of a load arrive (in part DEDUCED, log entry 41). -/
def mgrDeliver (o : MgrOp) (v : DWord) (M : Manager) : Manager :=
  match o.use with
  | .load r _ => mgrResult M r v
  | .ret0 => { M with ret := M.ret.map fun h => { h with off := some v } }
  | .ret1 => { M with ret := M.ret.map fun h => { h with mask := some v } }
  | .store => M

/-- Results of long operations that fall due before step `step` are written (R226). -/
def mgrArrive (step : Nat) (M : Manager) : Manager :=
  M.long.foldl (fun M o => if o.due ≤ step then mgrResult M o.reg o.value else M)
    { M with long := M.long.filter fun o => decide (step < o.due) }

/-- The precise cause that comes first in R244's order after ILLEGAL_INSTR, with its VAL. -/
def mgrCause (M N : Manager) (ext : Nat) (xs : List (MgrMove × DWord)) : Option (Nat × DWord) :=
  let lvl := M.lvl.val
  let priv := xs.findSome? fun (x : MgrMove × DWord) =>
    if x.1.dst = 0xF4 ∧ lvl = 0 then some (6, 0x0F4)
    else if (x.1.dst = 0x11A ∨ x.1.dst = 0x11B) ∧ !mgrCsrAllows lvl (mgrCsrNum N) (x.1.dst == 0x11B) then some (6, BitVec.ofNat 64 (mgrCsrNum N))
    else none
  let mis := (xs.flatMap (mgrAligns M N ext)).findSome? fun (a : Nat × Nat × DWord) => if a.1 % a.2.1 ≠ 0 then some (5, a.2.2) else none
  let segs := (xs.flatMap (mgrUses M N ext)).filterMap (segCause M lvl)
  let seg (c : Nat) : Option (Nat × DWord) := segs.find? fun (x : Nat × DWord) => x.1 == c
  priv.orElse fun _ => mis.orElse fun _ => (seg 2).orElse fun _ => (seg 3).orElse fun _ => seg 4

/-- A precise trap: the instruction has had no effect, and EPC names it (R243). -/
def mgrPrecise (M : Manager) (c : Nat) (x : DWord) : MgrAct := .trap c x M.pc M.pc

/-- What becomes of the fetched instruction `w` in the step `E`: it stalls (none), traps, waits for its return offset, or issues
(R222-R226, R243, R244) (in part DEDUCED, log entry 40). -/
def mgrVerdict (E : MgrDelay) (w : Nat) (M : Manager) : Option MgrAct :=
  let ext := mgrExt w
  let es := mgrMovesOf M w
  let xs := mgrData M E w
  let N := mgrOperands M xs
  let bad := mgrIllegal M (mgrSlots w) ++ mgrIllegalData N es
  if mgrStallsEarly M ext es ∨ mgrStallsLate M N es then none
  else if bad ≠ [] then some (mgrPrecise M 1 (BitVec.ofNat 64 (lowest bad)))
  else match mgrCause M N ext xs with
    | some (c, x) => some (mgrPrecise M c x)
    | none => some (if es.any fun m => m.dst == 0xF2 then .hold (BitVec.ofNat 128 w) else .issue (BitVec.ofNat 128 w))

/-- What becomes of a RET that waits, once its return offset and mask have arrived: a misaligned offset and a load of a saved
register that R228 does not permit are precise traps of the RET (R232, R233) (in part DEDUCED, log entry 41). -/
def mgrRetVerdict (M : Manager) (r : RetHold) : Option MgrAct :=
  match r.off with
  | none => none
  | some off =>
    if M.callMode ∧ r.mask = none then none
    else if off.toNat % 16 ≠ 0 then some (mgrPrecise M 5 off)
    else
      let segs := (mgrRestores M r).filterMap fun x => segCause M M.lvl.val { slot := 2, off := x.2, len := 8, right := 60 }
      let seg (c : Nat) : Option (Nat × DWord) := segs.find? fun x => x.1 == c
      match (seg 2).orElse fun _ => (seg 3).orElse fun _ => seg 4 with
      | some (c, x) => some (mgrPrecise M c x)
      | none => some .finish

/-! ## The pair (12 R250-R253) -/

/-- The comparator compares: it is not in the unchecked state (R253) (in part DEDUCED, log entry 42). -/
def lockstepChecked (M : Manager) : Bool := !bit M.lsStat 4

/-- A fetch request as a bus request: the read of a line (R231). -/
def fetchBusReq (r : FetchReq) : MgrOp :=
  { use := .load 0 false, addr := BitVec.ofNat 40 (64 * r.line), size := 64, data := 0, lvl := r.lvl, step := r.step }

/-- What the comparator sees of a core after the step `step` (R250) (in part DEDUCED, log entry 42). -/
def mgrOut (step : Nat) (M : Manager) : MgrOut :=
  { reqs := ((M.fetchReq.toList.map fetchBusReq) ++ M.mem).filter fun o => decide (o.step = step)
    blk := M.blk, csr := M.csr, g := M.g, lvl := M.lvl }

/-- The shadow's own block operation, as far as the primary's has got (R250). -/
def mgrFollow (own now : Option BlkOp) : Option BlkOp :=
  match own, now with
  | some b, some d => some { b with done := d.done, hung := d.hung, stopping := d.stopping }
  | _, _ => none

/-- The shadow executes a step of the primary with what the delay registers hold of it (R250). -/
def mgrRepeat (e : MgrDelay) (M : Manager) : Manager :=
  let M := { M with csr := e.csr, callMode := e.callMode, evq := e.evq, lost := e.lost, blk := mgrFollow M.blk e.blk, mem := [] }
  let M := e.loads.foldl (fun M (x : MgrOp × DWord) => mgrDeliver x.1 x.2 M) M
  let M := e.results.foldl (fun M (x : Nat × DWord) => mgrResult M x.1 x.2) M
  e.acts.foldl (fun M a => mgrApply e a M) (mgrArrive e.step M)

/-- The step that the shadow executes now, two behind the primary (R250). -/
def shadowStep (L : Lockstep) : Option MgrDelay := if 2 ≤ L.delay.length then L.delay.head? else none

/-- The shadow executes its step; true where its outputs equal the primary's (R250). -/
def shadowRun (L : Lockstep) : Lockstep × Bool :=
  match shadowStep L with
  | none => (L, true)
  | some e =>
    let M := mgrRepeat e L.shadow
    ({ L with shadow := M, delay := L.delay.drop 1 }, decide (mgrOut e.step M = e.out))

/-- A Manager step begins: long results that fall due are written, and the delay registers take what enters the core (R226,
R250). Service of M1 changes only with nothing outstanding (15 R315). -/
def mgrBegin (now : Nat) (P : Plain) : Plain :=
  let M := P.mgr
  let e : MgrDelay := { step := M.steps, pc := M.pc, nsec := now - P.run.resetAt, cycle := P.run.cycle, evq := M.evq, lost := M.lost,
                        csr := M.csr, callMode := M.callMode, blk := M.blk, loads := P.lock.loads, results := P.lock.results }
  { P with mgr := { mgrArrive M.steps M with steps := M.steps + 1, sbStall := false
                                             loose := if M.mem = [] ∧ M.blk = none then outOfOrder P else M.loose }
           lock := { P.lock with now := some e, loads := [], results := [] } }

/-- The step ends: its entry goes into the delay registers, unless the pair runs unchecked (R250, R253). -/
def mgrEnd (P : Plain) : Plain :=
  let L := P.lock
  match L.now with
  | none => P
  | some e =>
    if lockstepChecked P.mgr then { P with lock := { L with now := none, delay := L.delay ++ [{ e with out := mgrOut e.step P.mgr }] } }
    else { P with lock := { L with now := none } }

/-- The primary takes a decision, which the delay registers record (R250). -/
def mgrAct (a : MgrAct) (P : Plain) : Plain :=
  match P.lock.now with
  | none => P
  | some e => { P with mgr := mgrApply e a P.mgr, lock := { P.lock with now := some { e with acts := e.acts ++ [a] } } }

/-- The comparator has compared what Manager step `step` did (R250). -/
def mgrCompared (P : Plain) (step : Nat) : Bool := P.lock.delay.all fun e => decide (step < e.step)

/-! ## Traps of the pair (12 R245-R248) -/

/-- The third fault (R248): a fault record of kind 1, then a Plain reset with cause THIRD_FAULT (in part DEDUCED, log entry 42). -/
def thirdFault (s : State) (p : Fin 8) : State :=
  let s := writeFaultRecord (modMgr s p fun M => { M with running := false }) p 1
  raiseFault s p 0x08 0 fun s => plainReset s p 4

/-- A trap of cause `c`, value `x`, resumption offset `epc`, raised by the instruction at `raiser` (R245). -/
def mgrTrap (s : State) (p : Fin 8) (c : Nat) (x epc raiser : DWord) : State :=
  let s := modPlain s p fun P => { P with health := { P.health with obsTrap := some s.timeNs } }
  if escDf s.plains[p].mgr then thirdFault s p
  else modPlain s p (mgrAct (.trap c x epc raiser))

/-- An error response: a BUS_ERROR is pending with the first address (R229, R244) (in part DEDUCED, log entry 41). -/
def mgrBusError (a : Nat) (M : Manager) : Manager := { M with busErr := some (M.busErr.getD (BitVec.ofNat 40 a)) }

/-- The level that EVENT targets (R244). -/
def eventTarget (M : Manager) : Nat := if bit (mgrCsr M 0x230) 9 ∧ M.lvl.val < 2 then 1 else 2

/-- EVENT is taken before the next instruction (R244, R248); one taken while a handler is being entered escalates as R245 says
(in part DEDUCED, log entry 40). -/
def eventTaken (M : Manager) : Bool :=
  decide (M.evq ≠ []) && !escDf M &&
  (decide (M.lvl.val < eventTarget M) || (decide (M.lvl.val = eventTarget M) && bit (mgrCsr M (0x204 + 0x10 * eventTarget M)) 0))

/-! ## Fetch (11 R231) -/

/-- A line enters the fetch buffer; with 16 lines in use it replaces one of them, but not the line `keep`, which the instruction that
is being fetched needs too. -/
def fetchFill (keep line : Nat) (bs : List Byte) (M : Manager) : Manager :=
  let i := (Config.fetchVictim M.fetches).val
  let i := if (M.fetch[i]?).map (·.1) = some keep then (i + 1) % 16 else i
  let kept := if M.fetch.length < 16 then M.fetch else M.fetch.eraseIdx i
  { M with fetch := kept ++ [(line, bs)], fetches := M.fetches + 1, fetchReq := none }

/-- What a fetch gives. -/
inductive Fetched where
  | bytes (bs : List Byte)
  | stall
  | error (addr : Nat)
deriving DecidableEq, Repr

/-- The fetch request of the Manager goes to the bus matrix by M0 once the comparator has compared it (R250, 15 R314); the second
component is the address of one that is answered by an error response. -/
def fetchIssue (s : State) (p : Fin 8) (pa : Nat) : State × Option Nat :=
  let P := s.plains[p]
  match P.mgr.fetchReq with
  | none => (s, none)
  | some r =>
    if !mgrCompared P r.step || decide (0 ∈ P.bus.hung) then (s, none)
    else match busAccess s p 0 r.lvl.val false (64 * r.line) 64 [] with
      | (s, .data bs) => (modMgr s p (fetchFill (pa / 64) r.line bs), none)
      | (s, .error) => (modMgr s p fun M => { M with fetchReq := none }, some (64 * r.line))
      | (s, .hung) => (modMgr s p fun M => { M with fetchReq := none }, none)
      | (s, .none) => (s, none)

/-- The 16 bytes at an address, which may lie in two lines; or which of the lines is missing. -/
def fetchBytes (M : Manager) (pa : Nat) : List Byte ⊕ Bool :=
  match find M.fetch (pa / 64) with
  | none => .inr false
  | some a =>
    if pa % 64 ≤ 48 then .inl (sub a (pa % 64) 16)
    else match find M.fetch ((pa + 15) % 2 ^ 40 / 64) with
      | none => .inr true
      | some b => .inl (sub (a ++ b) (pa % 64) 16)

/-- The instruction at an address is fetched: from the buffer, or a request for the line that is missing is made in this step, unless one
is outstanding or M0 hangs (R231). An error response to a request that is no longer needed has no effect (in part DEDUCED, log
entry 41). -/
def fetchAt (s : State) (p : Fin 8) (pa : Nat) : State × Fetched :=
  let r := fetchIssue s p pa
  let P := r.1.plains[p]
  match fetchBytes P.mgr pa with
  | .inl bs => (r.1, .bytes bs)
  | .inr last =>
    let line := (if last then pa + 15 else pa) % 2 ^ 40 / 64
    if r.2 = some (64 * line) then (r.1, .error (64 * line))
    else if P.mgr.fetchReq.isSome || decide (0 ∈ P.bus.hung) then (r.1, .stall)
    else (modPlain r.1 p (mgrAct (.fetch last)), .stall)

/-! ## The primary's step (R221, R231, R236, R244) -/

/-- A retirement: the progress monitor starts anew, and a progress window closes (15 R317, 19 R386). -/
def mgrRetire (now : Nat) (P : Plain) : Plain :=
  let Q := { P with mgr := { P.mgr with retiredAt := now } }
  if Q.bus.pmStage = 1 then
    let Q := { Q with bus := { Q.bus with pmStage := 0 } }
    if Q.health.code = 0x09 then closeWindow Q now else Q
  else Q

/-- An ENV_CALL is taken after its instruction (R243). -/
def mgrEnvCall (s : State) (p : Fin 8) : State :=
  match s.plains[p].mgr.envCall with
  | none => s
  | some (x, raiser) => mgrTrap s p 7 x s.plains[p].mgr.pc raiser

/-- The primary does what has been decided: a stall on the scoreboard (R226), a trap, or the instruction. -/
def mgrDo (s : State) (p : Fin 8) : Option MgrAct → State
  | none => modMgr s p fun M => { M with sbStall := true }
  | some (.trap c x epc raiser) => mgrTrap s p c x epc raiser
  | some (.hold w) => modPlain s p (mgrAct (.hold w))
  | some (.fetch b) => modPlain s p (mgrAct (.fetch b))
  | some a => mgrEnvCall (modPlain s p fun P => mgrRetire s.timeNs (mgrAct a P)) p

/-- The instruction at PC is fetched and runs in the step `E` (R228, R231). -/
def mgrFetchRun (s : State) (p : Fin 8) (E : MgrDelay) : State :=
  let M := s.plains[p].mgr
  if M.pc.toNat % 16 ≠ 0 then mgrDo s p (some (mgrPrecise M 5 M.pc))
  else match segCause M M.lvl.val { slot := 0, off := M.pc, len := 16, right := 62 } with
    | some (c, x) => mgrDo s p (some (mgrPrecise M c (if c = 2 then M.pc else x)))
    | none => match fetchAt s p (segAddr M M.lvl.val 0 M.pc) with
      | (s, .bytes bs) => mgrDo s p (mgrVerdict E (leNat bs) s.plains[p].mgr)
      | (s, .stall) => s
      | (s, .error a) =>
        if escEntry s.plains[p].mgr then modMgr s p (mgrBusError a)
        else mgrDo s p (some (mgrPrecise s.plains[p].mgr 8 (BitVec.ofNat 64 a)))

/-- A store of the Manager has not been accepted (R230). -/
def storesWait (M : Manager) : Bool := M.mem.any fun o => decide (o.use = .store)

/-- Time during which the Manager waits for an event is not counted by the progress monitor (15 R317). -/
def noteWaiting (now : Nat) (M : Manager) : Manager := if M.waiting then { M with retiredAt := now } else M

/-- The primary's turn in the step `E`: a RET that waits, pending traps, then the next instruction (R221, R236, R244); none while a block
unit that a trap stops has not stopped (R245) (in part DEDUCED, log entry 40). -/
def mgrNext (s : State) (p : Fin 8) (E : MgrDelay) : State :=
  let s := modMgr s p (noteWaiting s.timeNs)
  let M := s.plains[p].mgr
  if M.blk.any (·.stopping) then s else
  match M.ret with
  | some r => match mgrRetVerdict M r with
    | none => s
    | some a => mgrDo s p (some a)
  | none =>
  match M.busErr, escEntry M with
  | some a, false => mgrTrap (modMgr s p fun M => { M with busErr := none }) p 8 (a.setWidth 64) M.pc M.pc
  | _, _ =>
    if eventTaken M then mgrTrap s p 9 (BitVec.ofNat 64 (fld (M.evq.headD 0) 0 16)) M.pc M.pc
    else if (M.fence || M.flush) && storesWait M then s
    else if M.waiting && decide (M.evq = []) then s
    else
      let s := modMgr s p fun M => { M with fence := false, waiting := false, fetch := if M.flush then [] else M.fetch, flush := false }
      mgrFetchRun s p E

/-! ## Memory operations (11 R228-R230, 15 R314-R316) -/

/-- The Manager's operations of which one may be served next: in normal service the oldest, in out-of-order service the oldest
at each target among eight; none that hangs, that has not been compared, or that waits for room (R230, R250)
(in part DEDUCED, log entry 41). -/
def mgrFronts (P : Plain) : List MgrOp :=
  let M := P.mgr
  let out := (M.mem.filter fun o => o.got.isNone).take 8
  let ops := if M.loose then out.filter fun o => decide (out.find? (fun d => targetNo d.addr.toNat == targetNo o.addr.toNat) = some o)
    else if 1 ∈ P.bus.hung then [] else out.take 1
  ops.filter fun o => !o.hung && mgrCompared P o.step && !accessWaits P 1 o.lvl.val (decide (o.use = .store)) o.addr.toNat o.size

/-- A memory operation of the Manager reaches its target in its turn; one that hangs, or cannot be served, stays where it is (15 R313,
R316), and so does a load until its data are written (in part DEDUCED, log entry 41). -/
def mgrServe (s : State) (p : Fin 8) (o : MgrOp) : State × BusAnswer :=
  let r := busAccess s p 1 o.lvl.val (decide (o.use = .store)) o.addr.toNat o.size (leBytes o.size o.data.toNat)
  (modMgr r.1 p fun M => { M with mem := if r.2 = .hung then M.mem.replace o { o with hung := true }
                                         else if r.2 = .none ∨ o.use ≠ .store then M.mem else M.mem.erase o }, r.2)

/-- The value that a load writes. -/
def loadValue (o : MgrOp) (bs : List Byte) : DWord :=
  match o.use with
  | .load _ true => sext64 (leNat bs) (8 * o.size)
  | _ => BitVec.ofNat 64 (leNat bs)

/-- The data of a load arrive at the primary, and at the shadow through the delay registers (R229, R250). -/
def mgrLoaded (o : MgrOp) (v : DWord) (P : Plain) : Plain :=
  { P with mgr := mgrDeliver o v P.mgr
           lock := if lockstepChecked P.mgr then { P.lock with loads := P.lock.loads ++ [(o, v)] } else P.lock }

/-- The load writes a general register: LS results are written in trigger order (R227). -/
def isResult (o : MgrOp) : Bool :=
  match o.use with
  | .load _ _ => true
  | _ => false

/-- Loads whose data have come back are written, the oldest first, as far as no earlier one is still outstanding (R227): at most `n`. -/
def mgrWriteLoads : Nat → Plain → Plain
  | 0, P => P
  | n + 1, P => match P.mgr.mem.find? isResult with
    | none => P
    | some o => match o.got with
      | none => P
      | some v => mgrWriteLoads n (mgrLoaded o v { P with mgr := { P.mgr with mem := P.mgr.mem.erase o } })

/-- The data of a load come back: those of a RET reach it at once, those of a general register in trigger order (R227, R233). -/
def mgrReturned (o : MgrOp) (v : DWord) (P : Plain) : Plain :=
  let M := P.mgr
  if isResult o then mgrWriteLoads M.mem.length { P with mgr := { M with mem := M.mem.replace o { o with got := some v } } }
  else mgrLoaded o v { P with mgr := { M with mem := M.mem.erase o } }

/-- LOAD_DATA_RETURN (R229, R233): a load completes (in part DEDUCED, log entry 41). -/
def execLoadDataReturn (p : Fin 8) (s : State) : Out :=
  let P := s.plains[p]
  match (mgrFronts P).find? fun o => decide (o.use ≠ .store) with
  | none => .next s
  | some o =>
    if !mgrRuns P then .next s
    else
      let r := mgrServe s p o
      if !mgrRuns r.1.plains[p] then .next r.1
      else match r.2 with
        | .data bs => .next (modPlain r.1 p (mgrReturned o (loadValue o bs)))
        | .error => .next (modMgr (modPlain r.1 p (mgrReturned o 0xFFFFFFFFFFFFFFFF#64)) p (mgrBusError o.addr.toNat))
        | _ => .next r.1

/-- MANAGER_STORE_ACCEPT (R230): a store is accepted (in part DEDUCED, log entry 41). -/
def execManagerStoreAccept (p : Fin 8) (s : State) : Out :=
  let P := s.plains[p]
  match (mgrFronts P).find? fun o => decide (o.use = .store) with
  | none => .next s
  | some o =>
    if !mgrRuns P then .next s
    else
      let r := mgrServe s p o
      if r.2 = .error ∧ mgrRuns r.1.plains[p] then .next (modMgr r.1 p (mgrBusError o.addr.toNat)) else .next r.1

/-- LONG_RESULT (R226): the oldest result that is due is written. -/
def execLongResult (p : Fin 8) (s : State) : Out :=
  let M := s.plains[p].mgr
  match M.long.find? (fun o => decide (o.due ≤ M.steps)) with
  | none => .next s
  | some o => .next (modMgr s p fun M => mgrResult { M with long := M.long.erase o } o.reg o.value)

/-! ## Lockstep failures (12 R251) -/

/-- Both cores stop; the failure is recorded with the offset of the compared output, and reported (R251). `kind` is
LS_STAT.CF_KIND, 0 for a mismatch (in part DEDUCED, log entry 42). With a Plain reset under way the two are one Plain reset, whose
cause is LOCKSTEP (18 R381). -/
def lockstepFailure (s : State) (p : Fin 8) (kind : Nat) : State :=
  let P := s.plains[p]
  let M := P.mgr
  let policy := if kind = 0 then fld M.lsCtl 0 2 else fld M.lsCtl 2 2
  let on : Bool := kind != 0 && policy == 2
  let stat := if kind = 0 then setBit M.lsStat 0 true
    else setBit (w32 (M.lsStat.toNat / 16 * 16 + kind * 4 + M.lsStat.toNat % 4)) 1 true
  let stat := if on then setBit stat 4 true else stat
  let pc := match shadowStep P.lock with
    | some e => e.pc
    | none => M.pc
  let s := modPlain s p fun P =>
    { P with mgr := { M with lsStat := stat, lsDiag := w32 pc.toNat, running := on }
             lock := if on then { P.lock with delay := [], loads := [], results := [] } else P.lock }
  let s := writeFaultRecord s p (if kind = 0 then 2 else 3)
  raiseFault s p (if kind = 0 then 0x06 else 0x07) 0 fun s =>
    if on then modPlain s p fun P => closeWindow P s.timeNs
    else if policy = 1 ∨ resetting s.plains[p] then plainReset s p 6
    else enterQuarantine s p true

/-! ## Block operations (R234, R235) -/

/-- What one group of a block operation gives. -/
inductive BlkGroup where
  /-- The group is done. -/
  | more
  /-- COMPARE has found a difference at a byte offset from the start. -/
  | differs (off : Nat)
  /-- An access of it cannot be served yet. -/
  | waits
  /-- M1 hangs. -/
  | hung
deriving DecidableEq, Repr

/-- Eight-byte reads of a block operation; a failed read gives ones and raises BUS_ERROR. -/
def blkRead (p : Fin 8) (lvl : Nat) : Nat → State → Nat → State × (List Byte ⊕ BlkGroup)
  | 0, s, _ => (s, .inl [])
  | k + 1, s, a =>
    let go (s : State) (bs : List Byte) : State × (List Byte ⊕ BlkGroup) :=
      match blkRead p lvl k s ((a + 8) % 2 ^ 40) with
      | (s, .inl cs) => (s, .inl (bs ++ cs))
      | r => r
    match busAccess s p 1 lvl false a 8 [] with
    | (s, .data bs) => go s bs
    | (s, .error) => go (modMgr s p (mgrBusError a)) (List.replicate 8 0xFF)
    | (s, .hung) => (s, .inr .hung)
    | (s, .none) => (s, .inr .waits)

/-- Eight-byte writes of a block operation; a failed write changes nothing and raises BUS_ERROR. -/
def blkWrite (p : Fin 8) (lvl : Nat) : Nat → State → Nat → List Byte → State × BlkGroup
  | 0, s, _, _ => (s, .more)
  | k + 1, s, a, bs =>
    match busAccess s p 1 lvl true a 8 (bs.take 8) with
    | (s, .data _) => blkWrite p lvl k s ((a + 8) % 2 ^ 40) (bs.drop 8)
    | (s, .error) => blkWrite p lvl k (modMgr s p (mgrBusError a)) ((a + 8) % 2 ^ 40) (bs.drop 8)
    | (s, .hung) => (s, .hung)
    | (s, .none) => (s, .waits)

/-- Position of the first 8-byte word in which two byte lists of `k` words differ. -/
def wordDiff : Nat → List Byte → List Byte → Option Nat
  | 0, _, _ => none
  | k + 1, a, b => if a.take 8 = b.take 8 then (wordDiff k (a.drop 8) (b.drop 8)).map (· + 8) else some 0

/-- One group of up to 64 bytes (R234). -/
def blkGroup (s : State) (p : Fin 8) (b : BlkOp) : State × BlkGroup :=
  let n := min 64 (b.len - b.done) / 8
  let src := (b.srcAt.toNat + b.done) % 2 ^ 40
  let dst := (b.dstAt.toNat + b.done) % 2 ^ 40
  if b.kind = 1 then blkWrite p b.lvl.val n s dst ((List.replicate n (leBytes 8 b.pat.toNat)).flatten)
  else match blkRead p b.lvl.val n s src with
    | (s, .inr g) => (s, g)
    | (s, .inl bs) =>
      if b.kind = 0 then blkWrite p b.lvl.val n s dst bs
      else match blkRead p b.lvl.val n s dst with
        | (s, .inr g) => (s, g)
        | (s, .inl cs) => (s, match wordDiff n bs cs with
          | some o => .differs (b.done + o)
          | none => .more)

/-- The requests of the next group of a block operation: addresses, sizes, directions, levels, and the pattern of a FILL; a COPY writes
what it has read (R234). -/
def blkRequests (b : BlkOp) : List MgrOp :=
  let n := min 64 (b.len - b.done)
  let src : MgrOp := { use := .load b.reg false, addr := b.srcAt + BitVec.ofNat 40 b.done, size := n, data := 0, lvl := b.lvl }
  let dst (use : MgrUse) (v : DWord) : MgrOp := { use := use, addr := b.dstAt + BitVec.ofNat 40 b.done, size := n, data := v, lvl := b.lvl }
  match b.kind with
  | 0 => [src, dst .store 0]
  | 1 => [dst .store b.pat]
  | _ => [src, dst (.load b.reg false) 0]

/-- The comparator finds the requests of the shadow's group equal (R250). -/
def blkCompared (P : Plain) (b : BlkOp) : Bool :=
  !lockstepChecked P.mgr || P.lock.shadow.blk.any fun d => decide (blkRequests { d with done := b.done } = blkRequests b)

/-- The block unit can go on: the shadow has executed its start, the memory operations issued before it are complete, and its target has
room for the next group (R230, R250, 09 R184); one of length 0 makes no request and ends at once (R234) (in part DEDUCED, log
entry 41). -/
def blkReady (P : Plain) (b : BlkOp) : Bool :=
  let M := P.mgr
  let n := min 64 (b.len - b.done)
  mgrRuns P && !b.hung && (decide (b.len ≤ b.done) || (mgrCompared P b.step &&
  (M.mem.isEmpty || (M.loose && M.mem.all fun o => o.hung || o.got.isSome)) && (M.loose || decide (1 ∉ P.bus.hung)) &&
  (b.kind == 1 || !accessWaits P 1 b.lvl.val false ((b.srcAt.toNat + b.done) % 2 ^ 40) n) &&
  !accessWaits P 1 b.lvl.val (b.kind != 2) ((b.dstAt.toNat + b.done) % 2 ^ 40) n))

/-- The block operation ends: its result reaches the primary, and the shadow through the delay registers (R234, R250). -/
def blkEnd (v : DWord) (P : Plain) : Plain :=
  match P.mgr.blk with
  | none => P
  | some b => { P with mgr := mgrResult { P.mgr with blk := none } b.reg v
                       lock := if lockstepChecked P.mgr then { P.lock with results := P.lock.results ++ [(b.reg, v)] } else P.lock }

/-- The block unit's part of a Manager step: one group, once the comparator has found the shadow's requests for it equal, with the last one
the end of the operation (R234, R235, R250, R251) (in part DEDUCED, log entry 41). -/
def blkStep (s : State) (p : Fin 8) : State :=
  match s.plains[p].mgr.blk with
  | none => s
  | some b =>
    let set (f : BlkOp → BlkOp) (s : State) : State := modMgr s p fun M => { M with blk := M.blk.map f }
    if !blkReady s.plains[p] b then s
    else
    let ends (s : State) : State := modPlain s p (blkEnd (if b.kind = 2 then 0xFFFFFFFFFFFFFFFF#64 else 0))
    if b.len ≤ b.done then ends s
    else if !blkCompared s.plains[p] b then lockstepFailure s p 0
    else match blkGroup s p b with
      | (s, .more) => if b.len ≤ b.done + 64 then ends s else set (fun d => { d with done := d.done + 64 }) s
      | (s, .differs off) => modPlain s p (blkEnd (BitVec.ofNat 64 off))
      | (s, .waits) => s
      | (s, .hung) => set (fun d => { d with hung := true }) s

/-- `k` parts of the block unit, one after another. -/
def blkRun (p : Fin 8) : Nat → State → State
  | 0, s => s
  | k + 1, s => blkRun p k (blkStep s p)

/-- BLOCK_OP_DONE (R234): the block operation moves its remaining groups and writes its result register (in part DEDUCED,
log entry 41). -/
def execBlockOpDone (p : Fin 8) (s : State) : Out :=
  match s.plains[p].mgr.blk with
  | none => .next s
  | some b => .next (blkRun p (ceilDiv (b.len - b.done) 64 + 1) s)

/-! ## The step of the pair (12 R250-R254) -/

/-- One step of the primary with its block unit. -/
def mgrStep (s : State) (p : Fin 8) : State :=
  let s := blkStep s p
  if !mgrRuns s.plains[p] then s
  else
    let s := modPlain s p (mgrBegin s.timeNs)
    match s.plains[p].lock.now with
    | none => s
    | some e => modPlain (mgrNext s p e) p mgrEnd

/-- MANAGER_INSTRUCTION (R221, R250): one step of the pair. `lockstep` says what fails in the checker: 0 nothing, 1 a core's
output, 2 the parity of a delay register, 3 the comparator's rails (R251). With a failure no trap of the step is entered, and
no instruction issues (R254). -/
def execManagerInstruction (p : Fin 8) (lockstep : BitVec 2) (s : State) : Out :=
  let P := s.plains[p]
  if !mgrRuns P then .next s
  else if !lockstepChecked P.mgr then .next (mgrStep s p)
  else
    let r := shadowRun P.lock
    if lockstep ≠ 0 then .next (lockstepFailure s p (lockstep.toNat - 1))
    else if !r.2 then .next (lockstepFailure s p 0)
    else .next (mgrStep (modPlain s p fun P => { P with lock := r.1 }) p)

/-- LOCKSTEP_SELF_TEST (R252): every 2^20 steps a mismatch is injected into the next of the compared
bit groups; `detected` says that the injected mismatch was found within 2 steps, and
`realMismatch` that a real one fell in the same step (R254) (in part DEDUCED, log entry 42). -/
def execLockstepSelfTest (p : Fin 8) (detected realMismatch : Bool) (s : State) : Out :=
  let M := s.plains[p].mgr
  if !mgrRuns s.plains[p] ∨ !lockstepChecked M ∨ M.steps < M.testedAt + 2 ^ 20 then .next s
  else
    let s := modPlain s p fun P => { P with mgr := { P.mgr with testedAt := P.mgr.testedAt + 2 ^ 20 }, lock := { P.lock with group := P.lock.group + 1 } }
    if realMismatch then .next (lockstepFailure s p 0)
    else if detected then
      let tests := min (2 ^ 24 - 1) (fld M.lsStat 8 24 + 1)
      .next (modMgr s p fun M => { M with lsStat := w32 (M.lsStat.toNat % 256 + tests * 256) })
    else .next (lockstepFailure s p 3)

end Sys2Proof.Machine
end

