-- ==== Sys2Proof/Machine/Observe.lean ====
section
/-! DEFINITION. The observation multiplexer trees (20 R399, R400): the level of every OBS_PLn and OBS_DEV pin; and the states of all
pins (21 R414), those of the boundary register under its number (20 R394). A level is shown as it stands, without the latency of
at most 20 ns (timing), and a pulse lasts 5 ns (DESIGN CHOICE, log entry 59). -/

namespace Sys2Proof.Machine

/-- A pulse that began at a time still stands: pulses are stretched to 5 ns (R400). -/
def pulse (now : Nat) (at0 : Option Nat) : Bool :=
  match at0 with
  | some t => decide (now < t + 5)
  | none => false

/-- Toggles once every 256 counts. -/
def toggle256 (n : Nat) : Bool := n.testBit 8

/-- A WAIT on qj is holding the step (06 R115). -/
def waitHolds (P : Plain) (j : Nat) : Bool :=
  canStep P && (badTile P).isNone &&
  (List.finRange 64).any fun t => swWait (stepWord P.ldr.curBank P.tiles[t] P.run.step) j && !waitMet P.tiles[t] j

/-- Column signals 2pc and 2pc + 1: the step toggle of a column that takes part in stepping, and last to the join. -/
def columnSignal (s : State) (p : Fin 8) (i : Nat) : Bool :=
  let P := s.plains[p]
  let pc := i / 2
  decide (pc < 9) && bit (look 0 s.power.colOn p.val) pc && (if i % 2 = 0 then toggle256 (joined P) else bit P.col.lastJoin pc)

/-- Link signals 0x040 + 2l and 0x041 + 2l. -/
def linkSignal (P : Plain) (i : Nat) : Bool :=
  let L := P.links[Fin.ofNat 8 (i / 2)]
  if i % 2 = 0 then decide (L.state = .active) else decide (L.state = .retrain) || L.replayFrom.isSome

/-- Table — Plain signals; an index that it does not list is 0 (R399). -/
def plainSignal (s : State) (p : Fin 8) (i : Nat) : Bool :=
  let P := s.plains[p]
  if i < 0x12 then columnSignal s p i
  else if 0x20 ≤ i ∧ i < 0x28 then waitHolds P (i - 0x20)
  else if 0x40 ≤ i ∧ i < 0x50 then linkSignal P (i - 0x40)
  else if 0x80 ≤ i ∧ i < 0x84 then P.pio.eng[Fin.ofNat 4 (i - 0x80)].tick
  else if 0x84 ≤ i ∧ i < 0x88 then P.pio.eng[Fin.ofNat 4 (i - 0x84)].blocked
  else match i with
    | 0x28 => decide (P.run.phase = .backPressure)
    | 0x30 => pulse s.timeNs P.health.obsRow1
    | 0x31 => decide (P.run.phase = .row9) && !gateOk P
    | 0x32 => decide (P.run.mode = .hold)
    | 0x33 => P.health.winOpen
    | 0x60 => toggle256 P.mgr.retired
    | 0x61 => P.mgr.sbStall
    | 0x62 => pulse s.timeNs P.health.obsTrap
    | _ => false

/-- Table — Device signals; an index that it does not list is 0 (R399). -/
def deviceSignal (s : State) (i : Nat) : Bool :=
  match i with
  | 0 => s.hlink.up
  | 1 => pulse s.timeNs s.tap.obsDoorbell
  | 2 => s.power.pwrWarn
  | 3 => s.plains.toList.any fun P => P.health.throttle != 0
  | 4 => s.power.under
  | 5 => pulse s.timeNs s.tap.obsGrant
  | _ => false

/-- Pin `k` of the four trees: tree k / 2 drives the even signal of its pair on its lower pin and the odd one on its higher; the
pin is 0 while the tree is off or settles (R399). -/
def obsPin (now : Nat) (en : BitVec 4) (sel : Sparse (BitVec 11)) (at0 : Sparse Nat) (signal : Nat → Bool) (k : Fin 8) : Bool :=
  let t := k.val / 2
  bit en t && decide (look 0 at0 t ≤ now) && signal (2 * (look 0 sel t).toNat + k.val % 2)

/-- OBS_PLn[k] (R399, 21 R414). -/
def obsPlain (s : State) (p : Fin 8) (k : Fin 8) : Bool :=
  let H := s.plains[p].health
  !inReset s && !pinsIdle s.plains[p] && obsPin s.timeNs H.obsEn H.obsSel H.obsAt (plainSignal s p) k

/-- OBS_DEV[k] (R399, 21 R414). -/
def obsDev (s : State) (k : Fin 8) : Bool := !inReset s && obsPin s.timeNs s.tap.obsEn s.tap.obsSel s.tap.obsAt (deviceSignal s) k

/-! ## Pin states (21 R414) -/

/-- An open-drain output: it pulls low or is released. -/
def openDrain (level : Bool) : Option Bool := if level then none else some false

/-- The level that the device gives a pin of the boundary register when the TAP does not drive it, none where it is high-impedance
or an input. Pin 48n + i is TGT_PLn[i]; 384 to 392 are the sideband pins in the order of 21 R404; 393 + 8n + k is OBS_PLn[k]; 457 + k
is OBS_DEV[k] (DESIGN CHOICE, log entry 49). -/
def pinFunction (s : State) (i : Nat) : Option Bool :=
  if pinsOff s then none
  else if i < 384 then if inReset s then none else pinDriver (2 * s.timeNs) s.plains[Fin.ofNat 8 (i / 48)] (i % 48)
  else if i < 393 then match i - 384 with
    | 1 => openDrain (alertN s)
    | 2 => openDrain (pwrWarnN s)
    | 3 => openDrain (thermN s)
    | _ => none
  else if i < 457 then some (obsPlain s (Fin.ofNat 8 ((i - 393) / 8)) (Fin.ofNat 8 ((i - 393) % 8)))
  else some (obsDev s (Fin.ofNat 8 (i - 457)))

/-- The level that the device gives a pin: in EXTEST and CLAMP from the boundary register, in HIGHZ none (20 R395). -/
def pinOut (s : State) (i : Nat) : Option Bool :=
  match s.tap.pins with
  | .normal => pinFunction s i
  | .highz => none
  | _ => if bit s.tap.boundary.drive i then some (bit s.tap.boundary.level i) else none

/-- The levels at the pins of the boundary register, `outside` where the device drives none. -/
def pinLevels (s : State) (outside : BitVec 465) : BitVec 465 :=
  (List.range 465).foldl (fun v i => match pinOut s i with
    | some b => setBit v i b
    | none => v) outside

/-- State of a serial output (21 R414). -/
inductive TxState where
  | highImpedance | idle | active
deriving DecidableEq, Repr

/-- Pass TX lanes of link `l` (21 R414). -/
def passTx (s : State) (p l : Fin 8) : TxState :=
  if pinsOff s then .highImpedance
  else if inReset s || decide (s.plains[p].links[l].state = .off) then .idle
  else .active

/-- PCIe TX lanes (21 R414). -/
def pcieTx (s : State) : TxState := if pinsOff s then .highImpedance else if inReset s then .idle else .active

/-- TDO is driven while a register is shifted (IEEE 1149.1), but in a cold reset and below 3.2 V (21 R414). -/
def tdoDriven (s : State) (shifting : Bool) : Bool := shifting && !pinsOff s && !inReset s && !s.tap.trstLow

end Sys2Proof.Machine
end

