-- ==== Sys2Proof/Machine/TestPort.lean ====
section
/-! DEFINITION. The test access port: TAP instructions, TESTCTL and M7, authorisation, life-cycle transitions and BIST
(20 R394-R401, 18 R380). -/

namespace Sys2Proof.Machine

/-- Applies `f` to the test controller. -/
def modTap (s : State) (f : Tap → Tap) : State := { s with tap := f s.tap }

/-! ## Instructions (R394, R395) -/

/-- The identification of the device (R395). -/
abbrev idcode : BitVec 112 := 0x1880056F

/-- An instruction is selected: the pins leave what the last one drove, and Capture-DR loads `v`. -/
def selectInstr (code : Byte) (pins : PinDrive) (v : BitVec 112) (T : Tap) : Tap := { T with ir := code, pins := pins, captured := v }

/-- The bypass register is selected. -/
def selectBypass (T : Tap) : Tap := selectInstr 0xFF .normal 0 T

/-- An instruction that is not permitted: bypass, and DENIED (R395) (in part DEDUCED, log entry 43). -/
def denyInstr (s : State) : State := modTap s fun T => { selectBypass T with denied := true }

/-- The session ends; outside the BLANK and TEST life-cycle states every EN of the observation pins clears (R398, R400). -/
def endSession (s : State) : State :=
  let s := modTap s fun T => { T with scope := 0, sessOpen := false }
  if s.fuses.lc = 0 ∨ s.fuses.lc = 1 then s
  else { s with
    tap := { s.tap with obsEn := 0 }
    plains := vall s.plains fun _ P => { P with health := { P.health with obsEn := 0 } } }

/-- M7 is released, and the locks of owner 6 with LOCK_LOST (R394, 13 R284, R285). -/
def releaseM7 (P : Plain) : Plain :=
  { P with
    bus := { P.bus with hung := P.bus.hung.filter (· ≠ 7), queue := P.bus.queue.filter fun e => decide (e.req.master ≠ 7) }
    hiu := { P.hiu with mb := vall P.hiu.mb fun _ B => if B.holder = 6 then { B with holder := 0, lockLost := true, lostByMgr := false } else B } }

/-- An instruction is shifted in: the instruction register captures 0b0000_0001 (R394). While TRST_N is low the TAP stays in reset,
and nothing happens (21 R412) (in part DEDUCED, log entry 49). -/
def scanned (s : State) (f : State → State) : Out :=
  .next (if s.tap.trstLow then s else f (modTap s fun T => { T with irCaptured := 0x01 }))

/-- TAP_RESET (R394): by TRST_N, which then stays low, or by five TCK periods with TRST_N high: a free value (log entry 49) (in part
DEDUCED, log entry 38). -/
def execTapReset (s : State) : Out :=
  let s := endSession s
  .next { s with
    tap := { selectInstr 0x01 .normal idcode s.tap with tcStatus := 0, trstLow := Config.trstHeld s.tap.scans, scans := s.tap.scans + 1 }
    plains := vall s.plains fun _ => releaseM7 }

/-- TAP_IDCODE (R395). -/
def execTapIdcode (s : State) : Out := scanned s fun s => modTap s (selectInstr 0x01 .normal idcode)

/-- The boundary register captures the levels of the pins and takes the contents that are shifted in (R394, R395). The levels of the pins
that the device does not drive, and the contents, come from outside: free values (log entry 49). -/
def boundaryScan (s : State) : State :=
  modTap s fun T => { T with
    scans := T.scans + 1
    boundary := { sampled := pinLevels s (Config.scanOutside T.scans), level := Config.scanLevel T.scans, drive := Config.scanDrive T.scans } }

/-- TAP_SAMPLE_PRELOAD (R395): the pins go on as they are. -/
def execTapSamplePreload (s : State) : Out :=
  scanned s fun s => boundaryScan (modTap s fun T => { T with ir := 0x02, pins := .normal })

/-- Boundary-scan control of the pins is permitted: scope 2, in TEST mode (R395) (in part DEDUCED, log entry 43). -/
def pinsPermitted (s : State) : Bool := scopeGranted s 2 && s.plains.toList.any fun P => decide (P.run.mode = .test)

/-- An instruction that drives the pins (R395). -/
def drivePins (s : State) (code : Byte) (pins : PinDrive) : State :=
  if pinsPermitted s then modTap s fun T => { T with ir := code, pins := pins, captured := if code = 0x03 then T.captured else 0 } else denyInstr s

/-- TAP_EXTEST (R395): the pins are driven from what the boundary register held, captured, and then driven from its new contents. -/
def execTapExtest (s : State) : Out :=
  scanned s fun s => if pinsPermitted s then boundaryScan (drivePins s 0x03 .extest) else denyInstr s

/-- TAP_CLAMP (R395). -/
def execTapClamp (s : State) : Out := scanned s fun s => drivePins s 0x04 .clamp

/-- TAP_HIGHZ (R395). -/
def execTapHighz (s : State) : Out := scanned s fun s => drivePins s 0x05 .highz

/-- TAP_BYPASS (R395): BYPASS, or a reserved code. -/
def execTapBypass (s : State) : Out := scanned s fun s => modTap s selectBypass

/-! ## Authorisation (R397, R398) -/

/-- TAP_AUTH (R398): a token is shifted in. In DECOMMISSIONED the instruction is refused; tokens are ignored after a refusal
and while one is under verification (in part DEDUCED, log entry 43). -/
def execTapAuth (token : BitVec 1664) (s : State) : Out :=
  scanned s fun s => if s.fuses.lc = 5 then denyInstr s
  else modTap s fun T =>
    { T with ir := 0x10, pins := .normal, token := if T.lockedAt.isSome ∨ T.token.isSome then T.token else some token }

/-- Bytes of a token. -/
def tokenBytes (t : BitVec 1664) : List Byte := leBytes 208 t.toNat

/-- The token passes the checks of R398. -/
def tokenAccepted (s : State) (t : BitVec 1664) : Bool :=
  let b := tokenBytes t
  num b 0 4 == s.tap.chal.toNat && num b 8 8 == s.fuses.serial.toNat && Config.sha384 (sub b 16 96) == s.fuses.testKeyHash &&
  Config.ecdsaVerify (sub b 16 96) (Config.sha384 (b.take 112)) (sub b 112 96)

/-- A life-cycle transition keeps R380's order. -/
def lcForward (a b : Nat) : Bool := (b == a + 1 && decide (b ≤ 5)) || (a == 2 && b == 4) || (b == 5 && decide (a < 5))

/-- A permitted transition (R380): the fuses are burned, every secure part is wiped, and the session ends
(in part DEDUCED, log entry 43). -/
def lcBurn (s : State) (b : Nat) : State :=
  endSession { s with
    fuses := { s.fuses with lcPend := BitVec.ofNat 3 b }
    plains := vall s.plains fun _ P => if awake P then { P with mem := startWipe P.mem } else P }

/-- A request for a transition by a token (R380): without a valid token only BLANK to TEST is taken
(in part DEDUCED, log entry 43). -/
def lcRequest (s : State) (valid : Bool) (b : Nat) : State :=
  let a := s.fuses.lcPend.toNat
  if lcForward a b && (valid || (a == 0 && b == 1)) then lcBurn s b else modTap s fun T => { T with lcRefused := true }

/-- The challenge takes a new random value (R398). -/
def newChallenge (T : Tap) : Tap := { T with chal := Config.freshChallenge (T.chals + 1), chals := T.chals + 1, token := none }

/-- AUTH_VERIFY_DONE (R398) (in part DEDUCED, log entry 43). -/
def execAuthVerifyDone (s : State) : Out :=
  match s.tap.token with
  | none => .next s
  | some t =>
    let ok := tokenAccepted s t
    let scope := num (tokenBytes t) 4 4
    let s := modTap s newChallenge
    let s := if ok then modTap s fun T => { T with scope := BitVec.ofNat 4 scope, sessOpen := true, tcStatus := if T.tcStatus = 3 then 3 else 0 }
      else modTap s fun T => { T with fail := true, fails := if T.fails = 0xFFFF#16 then T.fails else T.fails + 1, lockedAt := some s.timeNs }
    .next (if scope.testBit 3 then lcRequest s ok (fldN scope 8 3) else s)

/-- AUTH_LOCKOUT_END (R398): 100 ms after a refusal. -/
def execAuthLockoutEnd (s : State) : Out :=
  match s.tap.lockedAt with
  | some t => if t + 100000000 ≤ s.timeNs then .next (modTap s fun T => { T with lockedAt := none }) else .next s
  | none => .next s

/-! ## TESTCTL (R396) -/

/-- What Capture-DR of TESTCTL loads. -/
def testctlWord (T : Tap) : BitVec 112 :=
  BitVec.ofNat 112 (T.tcAddr.toNat + T.tcData.toNat * 2 ^ 40 + T.tcStatus.toNat * 2 ^ 104 + T.tcSize.toNat * 2 ^ 106 + T.tcPlain.toNat * 2 ^ 108)

/-- A scan of TESTCTL captures status and data. -/
def captureTestctl (s : State) : State := modTap s fun T => selectInstr 0x11 .normal (testctlWord T) T

/-- The access that M7 of a Plain makes; a Plain that is disabled or in VALLEY gives an error response by itself
(in part DEDUCED, log entry 43). -/
def m7Access (s : State) (p : Fin 8) (write : Bool) (addr n : Nat) (bs : List Byte) : State × BusAnswer :=
  if !bit s.fuses.plainsEn p.val || !awake s.plains[p] then (s, .error) else busAccess s p 7 0 write addr n bs

/-- Update-DR of TESTCTL with CMD 1 or 2 (R396). -/
def testctlAccess (s : State) (p : Fin 8) (addr : BitVec 40) (sizeCode : BitVec 2) (write : Bool) (data : DWord) : State :=
  if !scopeGranted s 0 then denyInstr s
  else
    let s := captureTestctl s
    if s.tap.tcStatus = 3 then modTap s fun T => { T with denied := true }
    else
      let n := 2 ^ sizeCode.toNat
      let r := m7Access s p write addr.toNat n (leBytes n data.toNat)
      let put (status : BitVec 2) (v : DWord) (T : Tap) : Tap :=
        { T with tcAddr := addr, tcSize := sizeCode, tcPlain := BitVec.ofNat 3 p.val, tcStatus := status, tcData := v }
      match r.2 with
      | .data bs => modTap r.1 (put 1 (BitVec.ofNat 64 (leNat bs)))
      | .error => modTap r.1 (put 2 (if write then 0 else BitVec.ofNat 64 (2 ^ (8 * n) - 1)))
      | _ => modTap r.1 fun T => put 3 T.tcData T

/-- TESTCTL_READ (R396). -/
def execTestctlRead (p : Fin 8) (addr : BitVec 40) (sizeCode : BitVec 2) (s : State) : Out :=
  scanned s fun s => testctlAccess s p addr sizeCode false 0

/-- TESTCTL_WRITE (R396). -/
def execTestctlWrite (p : Fin 8) (addr : BitVec 40) (sizeCode : BitVec 2) (data : DWord) (s : State) : Out :=
  scanned s fun s => testctlAccess s p addr sizeCode true data

/-- TESTCTL_POLL (R396). -/
def execTestctlPoll (s : State) : Out := scanned s fun s => if scopeGranted s 0 then captureTestctl s else denyInstr s

/-! ## BIST (R401) -/

/-- BIST_GO (R401). -/
def execBistGo (v : Word) (s : State) : Out := .next (bistCtlWrite s (setBit v 31 true))

/-- A tile after the march test: its schedule store and snapshot buffers hold what the test leaves. -/
def bistTile (t : Fin 64) (T : Tile) : Tile :=
  let word (base k : Nat) : Word := (Config.bistPattern (2 ^ 20 * (t.val + 1) + base + k)).setWidth 32
  { T with
    store := (List.range 8192).filterMap fun k => let w := Config.bistPattern (2 ^ 20 * (t.val + 1) + k); if w = 0 then none else some (k, w)
    storeUe := [], storeCe := []
    snapNf := (List.range 256).filterMap fun k => if word 8192 k = 0 then none else some (k, word 8192 k)
    snapFs := (List.range 32768).filterMap fun k => if word 16384 k = 0 then none else some (k, word 16384 k) }

/-- BIST_RES of a Plain (R401, R402): `r` gives what the march tests of schedule stores and SPAD find, and the NVS test finds the
lines that hold uncorrectable errors. -/
def bistWord (sel : BitVec 3) (r : Word) (P : Plain) : Word :=
  let lines := if bit sel 2 then P.mem.nvsUe.length else 0
  let found := if fld sel 0 2 = 0 then 0 else fld r 16 16
  pack [(fld r 0 2 &&& fld sel 0 2, 0), (b2n (decide (0 < lines)), 2), (if bit sel 0 then fld r 4 4 else 0xF, 4), (min 0xFFFF (found + lines), 16)]

/-- A Plain after its selected tests, with its result word (R401, R402): the SPAD test ends with SPAD initialised (15 R322). -/
def bistPlain (sel : BitVec 3) (r : Word) (P : Plain) : Plain :=
  let w := bistWord sel r P
  let P := if bit sel 0 then allTiles P bistTile else P
  let P := if bit sel 1 then { P with mem := { P.mem with spad := [], spadUe := [], spadCe := [], writeBack := [] } } else P
  { P with health := { P.health with bistRes := w } }

/-- BIST_DONE (R401): `results` are what the march tests of PL0-PL7 give, in the layout of BIST_RES. -/
def execBistDone (results : List Word) (s : State) : Out :=
  if !s.tap.bistBusy then .next s
  else
    let tested (p : Fin 8) : Bool := bit s.tap.bistRun p.val && decide (s.plains[p].run.mode = .test)
    let plains := vall s.plains fun p P => if tested p then bistPlain s.tap.bistTests (results.getD p.val 0xF0) P else P
    let fails := (List.finRange 8).foldl (fun (m : Byte) p => setBit m p.val (tested p && fld plains[p].health.bistRes 0 3 != 0)) 0
    .next { s with plains := plains, tap := { s.tap with bistBusy := false, bistDone := true, failPl := fails } }

end Sys2Proof.Machine
end

