-- ==== Sys2Proof/Machine/Transfers.lean ====
section
/-! DEFINITION. What the engines of a Plain move over the bus matrix: the capture and checkpoint drains (09 R184, R192), the
transfers of the DMA engine and the descriptors of its channels (14), BULK (13 R276) and XACT (13 R273-R275). -/

namespace Sys2Proof.Machine

/-! ## Capture and checkpoint drains (09 R180, R192) -/

/-- Staging drains: at BASIN_RSV1's rate always, and faster, which is all there is where nothing is reserved, only with a power grant
(R184, 17 R350). -/
def drains (s : State) (p : Fin 8) : Bool := decide (look 0 s.plains[p].basin.rsv 1 ≠ 0) || granted s p

/-- A write of M5 to Basin offset `off`: a class with a reservation is served first, one without waits for its turn (07 R135,
15 R313). -/
def captureTurn (s : State) (p : Fin 8) (k off n : Nat) : State × Bool :=
  if look 0 s.plains[p].basin.rsv k ≠ 0 then (s, true)
  else takeTurn s p 0 { master := 5, lvl := 0, write := true, addr := 0x1000000000 + off, size := n, tile := 0 }

/-- CAPTURE_DRAIN (R180, R184, R185): the oldest staged record drains into the capture area. -/
def execCaptureDrain (p : Fin 8) (s : State) : Out :=
  let P := s.plains[p]
  let size := capSize P
  match P.cap.staging with
  | [] => .next s
  | r :: rest =>
    if size = 0 ∨ !drains s p then .next s
    else
      let t := captureTurn s p 1 (look 0 P.basin.areaBase 0 * 4096 + P.cap.drained % size) r.bytes.length
      .next (if !t.2 then t.1 else modPlain t.1 p fun P =>
      let stop := P.cap.drained + r.bytes.length
      let C := { P.cap with staging := rest, drained := stop, head := stop % size }
      { P with basin := ringWrite (look 0 P.basin.areaBase 0 * 4096) size (r.bytes.length / size + 2) P.cap.drained r.bytes P.basin
               cap := if size < stop then overwrite (stop - size) C else C })

/-- CHECKPOINT_DRAIN_DONE (R192, R193): the snapshot buffers have drained and the checkpoint becomes valid
(in part DEDUCED, log entry 46). -/
def execCheckpointDrainDone (p : Fin 8) (s : State) : Out :=
  match s.plains[p].cap.draining with
  | none => .next s
  | some d =>
    let t := captureTurn s p 2 (slotBase s.plains[p].basin d.slot) 64
    .next (if !t.2 then t.1 else modPlain t.1 p fun P =>
      let P := { P with basin := rawWrite (slotBase P.basin d.slot) (ckptBytes d.header P.tiles) P.basin }
      let P := { P with cap := { P.cap with draining := none,
                                            dir := if d.spoiled then P.cap.dir else ins P.cap.dir d.slot { gen := d.gen, start := d.start, epoch := d.epoch } } }
      retireOldest P)

/-! ## Transfers (14 R290-R294) -/

/-- The kind of target that an address decodes to. -/
def targetKind (a : Nat) : Nat :=
  match decodeAddr a with
  | .spad _ => 1
  | .basin _ => 2
  | .nvs _ => 3
  | .host _ => 4
  | _ => 0

/-- A data write can arrive after the write-back: its target takes it without an error, and no log record waits for it (R296)
(DESIGN CHOICE, log entry 58). -/
def mayBeLate (P : Plain) (a : Nat) : Bool :=
  match decodeAddr a with
  | .spad off => !meetsSecure off 64
  | .basin off => !(logsExt P && loggedRange P.basin off 64)
  | .host _ => P.hiu.fn.bme
  | _ => false

/-- The data writes of a Plain that were issued and have not arrived now arrive, in order (R296). -/
def arriveLate (s : State) (p : Fin 8) : State :=
  let ws := s.plains[p].dma.late
  if ws = [] then s
  else ws.foldl (fun s w => (memWrite s p 3 0 1 w.addr w.bytes).1) (modPlain s p fun P => { P with dma := { P.dma with late := [] } })

/-- What M3 issues to the target of address `a` takes effect after all it has issued there before, and in normal service after all it has
issued anywhere (15 R314, R315). -/
def arriveAt (s : State) (p : Fin 8) (a : Nat) : State :=
  let P := s.plains[p]
  if !outOfOrder P || P.dma.late.any (fun w => decide (targetKind w.addr = targetKind a)) then arriveLate s p else s

/-- How a transfer is made: the channel whose QoS its accesses carry; the target kind of the descriptor when its data writes to other
targets arrive late (R296); the origin of its log records (09 R186); and whether it is still in execution, which a reset or QUARANTINE
ends at once (R304). -/
structure Mover where
  chan : Nat
  late : Option Nat
  origin : Nat
  live : Plain → Bool

/-- A group of 64 bytes is written: it arrives now, or later (R296). -/
def storeGroup (V : Mover) (T : Transfer) (s : State) (p : Fin 8) (a : Nat) (bs : List Byte) : State × Bool :=
  match V.late with
  | some k =>
    if mayBeLate s.plains[p] a && decide (targetKind a ≠ k) && decide (targetKind a ≠ targetKind T.src) then
      (modPlain s p fun P => { P with dma := { P.dma with late := P.dma.late ++ [{ addr := a, bytes := bs }] } }, true)
    else memStore (fun s off bs => basinWrite s p (basinMaster 3) 3 off bs) (arriveAt s p a) p 3 0 a bs
  | none => memStore (fun s off bs => basinWrite s p (basinMaster 3) 3 off bs) (arriveAt s p a) p 3 0 a bs

/-- 1 ns passes with no command waiting: data writes on their way arrive (R296) (DESIGN CHOICE, log entries 2 and 58). -/
def tick (s : State) : State := { (List.finRange 8).foldl arriveLate s with timeNs := s.timeNs + 1 }

/-- Groups of 64 bytes `i` to `i + n - 1` of a COPY or FILL: the state, what has been written, and the status and result of a
group that failed (R292, R294). Once the transfer has been stopped no further group is written (R304). -/
def moveGroups (V : Mover) (p : Fin 8) (T : Transfer) : Nat → Nat → State → List (Nat × List Byte) → State × List (Nat × List Byte) × Option (Nat × Nat)
  | 0, _, s, w => (s, w, none)
  | n + 1, i, s, w =>
    let r : State × Option (List Byte) := match T.op with
      | .fill => (s, some ((List.range 8).flatMap fun _ => leBytes 8 T.src))
      | _ => memRead s p 2 (wrapAt T.wrapSrc T.src (64 * i)) 64
    match r with
    | (s, none) => (s, w, some (4, 64 * i))
    | (s, some bs) =>
      let a := wrapAt T.wrapDst T.dst (64 * i)
      if !V.live s.plains[p] then (s, w, none)
      else match storeGroup V T s p a bs with
        | (s, false) => (s, w, some (5, 64 * i))
        | (s, true) => if V.live s.plains[p] then moveGroups V p T n (i + 1) s (w ++ [(a, bs)]) else (s, w, none)

/-- The first byte in which two lists differ. -/
def firstDiff : List Byte → List Byte → Option Nat
  | a :: r, b :: t => if a = b then (firstDiff r t).map (· + 1) else some 0
  | _, _ => none

/-- Groups `i` to `i + n - 1` of a COMPARE: the status and result of a group that failed or differs (R292). -/
def compareGroups (V : Mover) (p : Fin 8) (T : Transfer) : Nat → Nat → State → State × Option (Nat × Nat)
  | 0, _, s => (s, none)
  | n + 1, i, s =>
    match memRead s p 2 (wrapAt T.wrapSrc T.src (64 * i)) 64 with
    | (s, none) => (s, some (4, 64 * i))
    | (s, some a) =>
      if !V.live s.plains[p] then (s, none) else match memRead s p 2 (wrapAt T.wrapDst T.dst (64 * i)) 64 with
      | (s, none) => (s, some (4, 64 * i))
      | (s, some b) => match firstDiff a b with
        | some k => (s, some (6, 64 * i + k))
        | none => if V.live s.plains[p] then compareGroups V p T n (i + 1) s else (s, none)

/-- Groups of a piece: 16 beats (15 R312). -/
abbrev pieceGroups : Nat := 16

/-- Groups of a part of 32 KiB, which is logged as it completes (09 R186). -/
abbrev partGroups : Nat := 512

/-- Groups of the next piece of a transfer. -/
def nextGroups (T : Transfer) (X : Progress) : Nat := min pieceGroups (T.len / 64 - X.moved)

/-- Staging has room for the record of what a transfer has written since its last record, the next piece included
(09 R184, R300). -/
def pieceRoom (P : Plain) (T : Transfer) (X : Progress) : Bool :=
  match T.op, decodeAddr (checkedRange T.wrapDst T.dst T.len).1 with
  | .compare, _ => true
  | _, .basin off =>
    !(logsExt P && loggedRange P.basin off (checkedRange T.wrapDst T.dst T.len).2) ||
    inputRoom P ((X.part.map (·.2.length)).sum + 64 * nextGroups T X + 32)
  | _, _ => true

/-- The next piece of a transfer that has passed its checks: the state, the progress, and status and result once the transfer is
over. What has been written is logged at the end of each part of 32 KiB and of the transfer (R292, R294, 09 R186) (in part
DEDUCED, log entry 33). -/
def movePiece (V : Mover) (p : Fin 8) (T : Transfer) (X : Progress) (s : State) : State × Progress × Option (Nat × Nat) :=
  let n := nextGroups T X
  let stop := X.moved + n
  let log (w : List (Nat × List Byte)) (s : State) : State := modPlain s p (logRuns V.origin w)
  match T.op with
  | .compare =>
    let r := compareGroups V p T n X.moved s
    (r.1, { X with moved := stop }, match r.2 with
      | some e => some e
      | none => if T.len / 64 ≤ stop then some (0, T.len) else none)
  | _ =>
    let r := moveGroups V p T n X.moved s X.part
    match r.2.2 with
    | some e => (log r.2.1 r.1, { moved := stop, part := [] }, some e)
    | none =>
      if T.len / 64 ≤ stop then (log r.2.1 r.1, { moved := stop, part := [] }, some (0, T.len))
      else if stop % partGroups = 0 then (log r.2.1 r.1, { moved := stop, part := [] }, none)
      else (r.1, { moved := stop, part := r.2.1 }, none)

/-- The accesses of the next piece wait for their turn at their targets: M2's reads, then M3's write (15 R312-R314). -/
def pieceTurn (V : Mover) (p : Fin 8) (T : Transfer) (X : Progress) (s : State) : State × Bool :=
  let n := 64 * nextGroups T X
  let turn (m : Nat) (wrap : Option Nat) (start : Nat) (r : State × Bool) : State × Bool :=
    if r.2 && decide (0 < n) then
      takeTurn r.1 p V.chan { master := m, lvl := 0, write := decide (m = 3), addr := wrapAt wrap start (64 * X.moved), size := n, tile := 0 }
    else r
  match T.op with
  | .fill => turn 3 T.wrapDst T.dst (s, true)
  | .copy => turn 3 T.wrapDst T.dst (turn 2 T.wrapSrc T.src (s, true))
  | .compare => turn 2 T.wrapDst T.dst (turn 2 T.wrapSrc T.src (s, true))

/-- Pieces of a transfer, at most `n`, until it is over, is stopped, or waits for room in staging. -/
def runPieces (V : Mover) (p : Fin 8) (T : Transfer) : Nat → Progress → State → State × Progress × Option (Nat × Nat)
  | 0, X, s => (s, X, none)
  | n + 1, X, s =>
    if !pieceRoom s.plains[p] T X then (s, X, none)
    else
      let t := pieceTurn V p T X s
      if !t.2 || !V.live t.1.plains[p] then (t.1, X, none)
      else
        let r := movePiece V p T X t.1
        if !V.live r.1.plains[p] then (r.1, r.2.1, none)
        else match r.2.2 with
          | some e => (r.1, r.2.1, some e)
          | none => runPieces V p T n r.2.1 r.1

/-- The pieces of a transfer. -/
def pieceCount (T : Transfer) : Nat := T.len / 1024 + 1

/-! ## Execution of descriptors (14 R291-R301) -/

/-- The status of a channel's descriptor before it is executed; REPLAY_BLOCK holds while the Plain is in REPLAY (R300). -/
def jobStatus (P : Plain) (j : DmaJob) : Nat := transferStatus P (badDescriptor j.desc) (transferOf j.desc)

/-- Step 5 of R295: the completion is a start event. One that would start its own channel in the step in which a cancel stops it
is discarded (R299, R305). -/
def raiseCompletion (c : Fin 16) (P : Plain) : Plain :=
  let own := P.dma.ch[c].cancel && startedBy P.dma.ch[c] (0x10 + c.val)
  let e : StartEvent := { code := 0x10 + c.val, skip := setBit 0 c.val own }
  let P := { P with dma := { P.dma with events := P.dma.events ++ [e] } }
  if own then dropStarts 1 P else P

/-- The status is an error (R297). -/
def isError (status : Nat) : Bool := status != 0 && status != 6

/-- Steps 3 and 4 of R295 for a channel: CH_DONE, CH_STAT, and DMA_DONE or DMA_ERR. -/
def countDone (c : Fin 16) (d : BitVec 256) (status index : Nat) (P : Plain) : Plain :=
  let P := modCh P c fun C => { C with done := satInc C.done, last := BitVec.ofNat 8 status, err := C.err || isError status }
  if isError status then event P 0x0141 c.val status else if bit d 163 then event P 0x0140 c.val index else P

/-- R295 and R297 for a descriptor of channels 0 to 14; a double fault on the write-back stops the engine there (R304)
(in part DEDUCED, log entry 33). -/
def finishRing (s : State) (p : Fin 8) (c : Fin 16) (d : BitVec 256) (status result : Nat) : State :=
  let C := s.plains[p].dma.ch[c]
  let a := C.dbase.toNat + 32 * C.head.toNat
  let s := (memWrite (arriveAt s p a) p 3 0 1 (a + 24) (leBytes 4 result ++ [BitVec.ofNat 8 status, 0, 0])).1
  if s.plains[p].dma.ch[c].cur.isNone then s else
  let s := (memWrite s p 3 0 1 (a + 31) [0]).1
  if s.plains[p].dma.ch[c].cur.isNone then s else
  modPlain s p fun P =>
    let P := modCh P c fun C => { C with head := BitVec.ofNat 16 ((C.head.toNat + 1) % 2 ^ ringLog C) }
    let P := raiseCompletion c (countDone c d status C.head.toNat P)
    modCh P c fun C =>
      if isError status ∨ C.cancel then stopChannel { C with latch := false }
      else if bit d 164 then stopChannel C
      else { C with cur := none }

/-- R295 and R303 for a BULK descriptor: no write-back; the channel stops and the outcome stands. -/
def finishBulk (s : State) (p : Fin 8) (j : DmaJob) (status result : Nat) : State :=
  modPlain s p fun P =>
    let P := raiseCompletion 15 (countDone 15 j.desc status 0 P)
    let P := modCh P 15 fun C => { C with running := false, cur := none }
    if status = 0 then outcome P 2 j.seq 0 0
    else if status = 6 then outcome P 2 j.seq 0x1A result
    else outcome P 2 j.seq 0x18 (status + result * 2 ^ 32)

/-- The descriptor in execution completes with a status and result. -/
def finishDescriptor (s : State) (p : Fin 8) (c : Fin 16) (j : DmaJob) (status result : Nat) : State :=
  if c = 15 then finishBulk s p j status result else finishRing s p c j.desc status result

/-- Staging has room for the records of a write-back (R184, R300). -/
def backRoom (P : Plain) (c : Fin 16) : Bool :=
  let C := P.dma.ch[c]
  match decodeAddr (C.dbase.toNat + 32 * C.head.toNat) with
  | .basin off => decide (c = 15) || !(logsExt P && loggedRange P.basin off 32) || inputRoom P 64
  | _ => true

/-- A channel has data that the engine can move now (R301). -/
def dataReady (P : Plain) (c : Fin 16) : Bool :=
  match P.dma.ch[c].cur with
  | some j => decide (jobStatus P j = 0) && pieceRoom P (transferOf j.desc) j.done && backRoom P c
  | none => false

/-- The engine serves channel `c` before channel `d`: the higher QoS first, equal ones in round robin (R301). -/
def servedBefore (P : Plain) (c d : Fin 16) : Bool :=
  let turn (x : Fin 16) : Nat := (x.val + 31 - P.dma.last.val) % 16
  decide (qosOf P d < qosOf P c) || (decide (qosOf P c = qosOf P d) && decide (turn c < turn d))

/-- The engine serves channel `c` now (R301). -/
def engineServes (P : Plain) (c : Fin 16) : Bool :=
  dataReady P c && (List.finRange 16).all fun d => decide (d = c) || !dataReady P d || servedBefore P c d

/-- How the data writes of a descriptor arrive (R296): with BARRIER = 0, and in out-of-order service, since normal service keeps the order
of issue (15 R314), the free choice says whether those to other targets than the descriptor's arrive after its write-back. -/
def lateness (P : Plain) (c : Fin 16) (d : BitVec 256) : Option Nat :=
  let C := P.dma.ch[c]
  if !bit d 162 && outOfOrder P && Config.dmaLate P.dma.loose then some (targetKind (C.dbase.toNat + 32 * C.head.toNat)) else none

/-- The descriptor in execution on a channel goes on by at most `n` pieces: it completes, waits for room in staging, or has been
moved in part (R292-R301). Nothing runs without a grant (R300) or once the engine has been stopped (R304), which a double fault
on one of its own accesses does too (18 R388). -/
def runChannel (n : Nat) (s : State) (p : Fin 8) (c : Fin 16) : State :=
  let P := s.plains[p]
  match P.dma.ch[c].cur with
  | none => s
  | some j =>
    let ends (s : State) (status result : Nat) : State :=
      finishDescriptor (modPlain s p fun P => { P with dma := { P.dma with loose := if bit j.desc 162 then P.dma.loose else P.dma.loose + 1 } }) p c j status result
    if clearing P || !granted s p || !backRoom P c then s
    else if jobStatus P j ≠ 0 then ends s (jobStatus P j) 0
    else if !engineServes P c then s
    else
      let V : Mover := { chan := c.val, late := lateness P c j.desc, origin := 1, live := fun P => (P.dma.ch[c].cur.map (·.desc)) == some j.desc }
      let r := runPieces V p (transferOf j.desc) n j.done (modPlain s p fun P => { P with dma := { P.dma with last := c } })
      if r.1.plains[p].dma.ch[c].cur ≠ some j then r.1
      else match r.2.2 with
        | some (status, result) => ends r.1 status result
        | none => modPlain r.1 p fun P => modCh P c fun C => { C with cur := some { j with done := r.2.1 } }

/-- A RUNNING channel fetches its next descriptor (R291, R297, R298); the checks of R290 and R293 are made on the fields as
fetched (in part DEDUCED, log entry 33). -/
def fetchDescriptor (s : State) (p : Fin 8) (c : Fin 16) : State :=
  let C := s.plains[p].dma.ch[c]
  let a := C.dbase.toNat + 32 * C.head.toNat
  let r : State × Option (List Byte) := if inDmaRow true (a, 32) && inDmaRow true (C.dbase.toNat, 32) then memRead s p 2 a 32 else (s, none)
  let s := modPlain r.1 p fun P => modCh P c fun C => { C with act := C.cfg }
  if !r.1.plains[p].dma.ch[c].running then r.1 else
  match r.2 with
  | none => modPlain s p fun P => event (modCh P c fun C => stopChannel { C with fetchErr := true }) 0x0142 c.val C.head.toNat
  | some bs =>
    let d : BitVec 256 := BitVec.ofNat 256 (leNat bs)
    if !bit d 255 then modPlain s p fun P => modCh P c fun C => stopChannel { C with empty := true }
    else modPlain s p fun P => modCh P c fun C => { C with cur := some { desc := d } }

/-- DMA_DESCRIPTOR_FETCH (R298): a RUNNING channel fetches its next descriptor; with one in execution it moves that one's next
piece, so that other masters' accesses may fall between two pieces (15 R312). -/
def execDmaDescriptorFetch (p : Fin 8) (c : Fin 16) (s : State) : Out :=
  let C := s.plains[p].dma.ch[c]
  if !C.running || clearing s.plains[p] || !granted s p then .next s
  else if C.cur.isSome then .next (runChannel 1 s p c)
  else if c = 15 then .next s
  else .next (fetchDescriptor s p c)

/-- DMA_DESCRIPTOR_COMPLETE (R292-R297, R300): the rest of the transfer is made and the descriptor written back; a logged write
waits for room in staging. -/
def execDmaDescriptorComplete (p : Fin 8) (c : Fin 16) (s : State) : Out :=
  match s.plains[p].dma.ch[c].cur with
  | none => .next s
  | some j => .next (runChannel (pieceCount (transferOf j.desc)) s p c)

/-! ## BULK (13 R276, 14 R303) -/

/-- A BULK operation as channel 15 executes it: BARRIER and STOP set, no write-back (R303). -/
def bulkDesc (T : Transfer) : BitVec 256 :=
  let op := match T.op with
    | .copy => 0
    | .fill => 1
    | .compare => 2
  BitVec.ofNat 256 (T.src + T.dst * 2 ^ 64 + T.len * 2 ^ 128 + (op + 4 + 16) * 2 ^ 160 + 2 ^ 255)

/-- A BULK descriptor begins on channel 15, or goes on there (R276, R303, R304) (in part DEDUCED, log entry 32). -/
def bulkRun (s : State) (p : Fin 8) (seq : Word) (op : Nat) (fs : List (Nat × Nat × Nat)) (T : Transfer) : State :=
  let P := s.plains[p]
  match P.dma.ch[(15 : Fin 16)].cur with
  | some j => if j.seq = seq then runChannel (pieceCount T) s p 15 else s
  | none =>
    if !startedNow P 2 seq op fs then s
    else if !jobMode P then modPlain s p fun P => outcome P 2 seq 0x0C 0
    else runChannel (pieceCount T) (modPlain s p fun P => modCh P 15 fun C =>
      { C with running := true, act := C.cfg, cur := some { desc := bulkDesc T, seq := seq } }) p 15

/-- BULK_COPY (R276). -/
def execBulkCopy (p : Fin 8) (seq : Word) (src dst : DWord) (len : Word) (s : State) : Out :=
  .next (bulkRun s p seq 1 [(16, 8, src.toNat), (24, 8, dst.toNat), (32, 4, len.toNat)] { op := .copy, src := src.toNat, dst := dst.toNat, len := len.toNat })

/-- BULK_FILL (R276). -/
def execBulkFill (p : Fin 8) (seq : Word) (dst : DWord) (len : Word) (pattern : DWord) (s : State) : Out :=
  .next (bulkRun s p seq 2 [(24, 8, dst.toNat), (32, 4, len.toNat), (40, 8, pattern.toNat)]
    { op := .fill, src := pattern.toNat, dst := dst.toNat, len := len.toNat })

/-- BULK_COMPARE (R276). -/
def execBulkCompare (p : Fin 8) (seq : Word) (src dst : DWord) (len : Word) (s : State) : Out :=
  .next (bulkRun s p seq 3 [(16, 8, src.toNat), (24, 8, dst.toNat), (32, 4, len.toNat)] { op := .compare, src := src.toNat, dst := dst.toNat, len := len.toNat })

/-! ## XACT (R273-R275) -/

/-- The outcome of an XACT descriptor. -/
def xactDone (s : State) (p : Fin 8) (seq : Word) (status result : Nat) : State := modPlain s p fun P => outcome P 1 seq status result

/-- WOFF, LEN and CYCLE of an XACT descriptor keep R273. -/
def xactFieldsOk (P : Plain) (cycle woff len : Nat) : Bool :=
  decide (woff % 64 = 0) && decide (len % 64 = 0) && decide (len ≤ 0x100000) && decide (woff + len ≤ look 0 P.basin.areaSize 3 * 4096) &&
  decide (P.hiu.xactPrev ≤ cycle)

/-- The operands of a WRITE or READ keep R273, which moves data at HADDR. -/
def xactOperandsOk (P : Plain) (cycle haddr woff len : Nat) : Bool :=
  xactFieldsOk P cycle woff len && decide (0x8000000000 ≤ haddr) && decide (haddr + len ≤ 0x10000000000)

/-- XACT_ADVANCE (R274): XACT_LIMIT took its CYCLE when it was accepted. WOFF and LEN are read from the descriptor; HADDR, at which it moves
nothing, is not checked (R273) (in part DEDUCED, log entry 32). -/
def execXactAdvance (p : Fin 8) (seq : Word) (cycle : BitVec 48) (s : State) : Out :=
  let P := s.plains[p]
  let d := descOf P.hiu.rings[(1 : Fin 4)] seq
  if !startedNow P 1 seq 0 [(16, 6, cycle.toNat)] then .next s
  else
    let s := modPlain s p fun P => { P with hiu := { P.hiu with xactPrev := cycle.toNat } }
    .next (xactDone s p seq (if !jobMode P then 0x0C else if xactFieldsOk P cycle.toNat (descField d 32 4) (descField d 36 4) then 0 else 0x13) 0)

/-- Cycle `n` has begun (R273); the cycle that was abandoned has (in part DEDUCED, log entry 32). -/
def cycleBegun (P : Plain) (n : Nat) : Bool :=
  decide (n < P.run.cycle) || (decide (n = P.run.cycle) && (inCycle P || P.health.incomplete))

/-- A transfer is performed now: in rows 7 to 9 of its boundary, or while the Plain holds (R273). -/
def xactActive (P : Plain) (x : Xact) : Bool :=
  x.active ||
  (if x.write then (decide (P.run.phase = .row9) && decide (x.cycle = P.run.cycle)) || (decide (P.run.mode = .hold) && decide (P.run.cycle ≤ x.cycle))
   else (decide (P.run.phase = .row9) || decide (P.run.mode = .hold)) && decide (x.cycle + 1 = P.run.cycle))

/-- An XACT WRITE or READ starts (in part DEDUCED, log entry 32). -/
def startXact (s : State) (p : Fin 8) (seq : Word) (write : Bool) (cycle haddr woff len : Nat) : State :=
  let P := s.plains[p]
  if !startedNow P 1 seq (if write then 1 else 2) [(16, 6, cycle), (24, 8, haddr), (32, 4, woff), (36, 4, len)] then s
  else
    let s := modPlain s p fun P => { P with hiu := { P.hiu with xactPrev := cycle } }
    if !jobMode P then xactDone s p seq 0x0C 0
    else if !xactOperandsOk P cycle haddr woff len then xactDone s p seq 0x13 0
    else if cycleBegun P (if write then cycle else cycle + 1) then xactDone s p seq 0x16 0
    else modPlain s p fun P => { P with hiu := { P.hiu with
      xacts := P.hiu.xacts ++ [{ seq := seq, write := write, cycle := cycle, haddr := BitVec.ofNat 64 haddr, woff := woff, len := len, active := false }] } }

/-- XACT_WRITE (R273). -/
def execXactWrite (p : Fin 8) (seq : Word) (cycle : BitVec 48) (haddr : DWord) (woff len : Word) (s : State) : Out :=
  .next (startXact s p seq true cycle.toNat haddr.toNat woff.toNat len.toNat)

/-- XACT_READ (R273). -/
def execXactRead (p : Fin 8) (seq : Word) (cycle : BitVec 48) (haddr : DWord) (woff len : Word) (s : State) : Out :=
  .next (startXact s p seq false cycle.toNat haddr.toNat woff.toNat len.toNat)

/-- The first transfer for which `f` holds, and the others (in part DEDUCED, log entry 32). -/
def takeXact (f : Xact → Bool) : List Xact → Option (Xact × List Xact)
  | [] => none
  | x :: r => if f x then some (x, r) else (takeXact f r).map fun y => (y.1, x :: y.2)

/-- XACT_TRANSFER_DONE (R273, R275, R186): the first transfer that is due moves its data, as far as staging has room for the
records of a logged write (R184) (in part DEDUCED, log entry 32). -/
def execXactTransferDone (p : Fin 8) (s : State) : Out :=
  let P := s.plains[p]
  match takeXact (xactActive P) P.hiu.xacts with
  | none => .next s
  | some (x, rest) =>
    let win := 0x1000000000 + look 0 P.basin.areaBase 3 * 4096 + x.woff
    let T : Transfer := { op := .copy, src := if x.write then x.haddr.toNat else win, dst := if x.write then win else x.haddr.toNat, len := x.len }
    let put (xs : List Xact) (s : State) : State := modPlain s p fun P => { P with hiu := { P.hiu with xacts := xs } }
    if x.len = 0 then .next (xactDone (put rest s) p x.seq 0 0)
    else
      let V : Mover := { chan := 15, late := none, origin := 0, live := fun P => decide (x ∈ P.hiu.xacts) }
      let r := runPieces V p T (pieceCount T) x.done s
      .next (if x ∉ r.1.plains[p].hiu.xacts then r.1 else match r.2.2 with
        | none => put (P.hiu.xacts.map fun y => if y = x then { x with done := r.2.1 } else y) r.1
        | some (0, _) => xactDone (put rest r.1) p x.seq 0 0
        | some (code, result) => xactDone (put rest r.1) p x.seq 0x18 (code + result * 2 ^ 32))

end Sys2Proof.Machine
end

