-- ==== Sys2Proof/Machine/Dispatch.lean ====
section
/-! DEFINITION. The meaning of every command: one arm for each row of the opcode table, in the table's order. -/

namespace Sys2Proof.Machine

def exec (i : Instr) (s : State) : Host.Outcome State Fault Refusal :=
  match i with
  | .stepRelease p lastCols => Sys2Proof.Machine.execStepRelease p lastCols s
  | .backPressureStallEnd p => Sys2Proof.Machine.execBackPressureStallEnd p s
  | .boundarySequence p => Sys2Proof.Machine.execBoundarySequence p s
  | .captureRoomFreed p => Sys2Proof.Machine.execCaptureRoomFreed p s
  | .cycleRelease p => Sys2Proof.Machine.execCycleRelease p s
  | .stallTimeout p => Sys2Proof.Machine.execStallTimeout p s
  | .captureQ7Pop p t => Sys2Proof.Machine.execCaptureQ7Pop p t s
  | .captureDrain p => Sys2Proof.Machine.execCaptureDrain p s
  | .checkpointDrainDone p => Sys2Proof.Machine.execCheckpointDrainDone p s
  | .mmRequestTake p t => Sys2Proof.Machine.execMmRequestTake p t s
  | .mmRequestComplete p t => Sys2Proof.Machine.execMmRequestComplete p t s
  | .patrolScrub p word => Sys2Proof.Machine.execPatrolScrub p word s
  | .basinTempSample p temp => Sys2Proof.Machine.execBasinTempSample p temp s
  | .passTxTake p l => Sys2Proof.Machine.execPassTxTake p l s
  | .frameSend p l => Sys2Proof.Machine.execFrameSend p l s
  | .dataFrameRx p l f => Sys2Proof.Machine.execDataFrameRx p l f s
  | .cycleFrameRx p l f => Sys2Proof.Machine.execCycleFrameRx p l f s
  | .creditFrameRx p l f => Sys2Proof.Machine.execCreditFrameRx p l f s
  | .openFrameRx p l f => Sys2Proof.Machine.execOpenFrameRx p l f s
  | .refuseFrameRx p l f => Sys2Proof.Machine.execRefuseFrameRx p l f s
  | .closingFrameRx p l f => Sys2Proof.Machine.execClosingFrameRx p l f s
  | .returnFrameRx p l f => Sys2Proof.Machine.execReturnFrameRx p l f s
  | .trainFrameRx p l f => Sys2Proof.Machine.execTrainFrameRx p l f s
  | .reservedFrameRx p l f => Sys2Proof.Machine.execReservedFrameRx p l f s
  | .ackRx p l rx => Sys2Proof.Machine.execAckRx p l rx s
  | .nakRx p l rx => Sys2Proof.Machine.execNakRx p l rx s
  | .replayTimeout p l => Sys2Proof.Machine.execReplayTimeout p l s
  | .creditReturnTimeout p l => Sys2Proof.Machine.execCreditReturnTimeout p l s
  | .passRxPush p l chan => Sys2Proof.Machine.execPassRxPush p l chan s
  | .laneFail p l working => Sys2Proof.Machine.execLaneFail p l working s
  | .retrainDone p l => Sys2Proof.Machine.execRetrainDone p l s
  | .retrainAttemptFail p l working => Sys2Proof.Machine.execRetrainAttemptFail p l working s
  | .linkTrained p l width => Sys2Proof.Machine.execLinkTrained p l width s
  | .openResend p l => Sys2Proof.Machine.execOpenResend p l s
  | .heldRepeat p => Sys2Proof.Machine.execHeldRepeat p s
  | .syncLost p l => Sys2Proof.Machine.execSyncLost p l s
  | .closeDeliveryEnd p l => Sys2Proof.Machine.execCloseDeliveryEnd p l s
  | .closeTimeout p l => Sys2Proof.Machine.execCloseTimeout p l s
  | .linkCtlEn p l v => Sys2Proof.Machine.execLinkCtlEn p l v s
  | .linkCtlRetrain p l => Sys2Proof.Machine.execLinkCtlRetrain p l s
  | .linkCtlClose p l => Sys2Proof.Machine.execLinkCtlClose p l s
  | .linkCtlRetRel p l => Sys2Proof.Machine.execLinkCtlRetRel p l s
  | .linkCtlOpen p l => Sys2Proof.Machine.execLinkCtlOpen p l s
  | .capCtlStart p v => Sys2Proof.Machine.execCapCtlStart p v s
  | .capCtlStop p v => Sys2Proof.Machine.execCapCtlStop p v s
  | .ckptCtlNow p v => Sys2Proof.Machine.execCkptCtlNow p v s
  | .rplCtlGo p v => Sys2Proof.Machine.execRplCtlGo p v s
  | .replayLogInject p => Sys2Proof.Machine.execReplayLogInject p s
  | .colCtlClr p v => Sys2Proof.Machine.execColCtlClr p v s
  | .qsCtlClr p v => Sys2Proof.Machine.execQsCtlClr p v s
  | .basinCtlClr p v => Sys2Proof.Machine.execBasinCtlClr p v s
  | .spadCtlClr p => Sys2Proof.Machine.execSpadCtlClr p s
  | .colHopsRead p => Sys2Proof.Machine.execColHopsRead p s
  | .nvsWrRead p => Sys2Proof.Machine.execNvsWrRead p s
  | .rcCounterRead p off => Sys2Proof.Machine.execRcCounterRead p off s
  | .basinRsvWrite p k v => Sys2Proof.Machine.execBasinRsvWrite p k v s
  | .paceCtlWrite p v => Sys2Proof.Machine.execPaceCtlWrite p v s
  | .jobLoad p seq addr len vplain bind => Sys2Proof.Machine.execJobLoad p seq addr len vplain bind s
  | .loadCommit p => Sys2Proof.Machine.execLoadCommit p s
  | .jobMode p seq code => Sys2Proof.Machine.execJobMode p seq code s
  | .jobHold p seq => Sys2Proof.Machine.execJobHold p seq s
  | .jobStep p seq n => Sys2Proof.Machine.execJobStep p seq n s
  | .jobCheckpoint p seq => Sys2Proof.Machine.execJobCheckpoint p seq s
  | .jobReplay p seq slot restore stop => Sys2Proof.Machine.execJobReplay p seq slot restore stop s
  | .jobReset p seq => Sys2Proof.Machine.execJobReset p seq s
  | .jobLinkOpen p seq link => Sys2Proof.Machine.execJobLinkOpen p seq link s
  | .jobLinkClose p seq link => Sys2Proof.Machine.execJobLinkClose p seq link s
  | .jobLinkRetrain p seq link => Sys2Proof.Machine.execJobLinkRetrain p seq link s
  | .jobLinkRetRel p seq link => Sys2Proof.Machine.execJobLinkRetRel p seq link s
  | .epochSwitch p seq target addr len => Sys2Proof.Machine.execEpochSwitch p seq target addr len s
  | .regWrite p seq pairs => Sys2Proof.Machine.execRegWrite p seq pairs s
  | .xactAdvance p seq cycle => Sys2Proof.Machine.execXactAdvance p seq cycle s
  | .xactWrite p seq cycle haddr woff len => Sys2Proof.Machine.execXactWrite p seq cycle haddr woff len s
  | .xactRead p seq cycle haddr woff len => Sys2Proof.Machine.execXactRead p seq cycle haddr woff len s
  | .xactTransferDone p => Sys2Proof.Machine.execXactTransferDone p s
  | .bulkCopy p seq src dst len => Sys2Proof.Machine.execBulkCopy p seq src dst len s
  | .bulkFill p seq dst len pattern => Sys2Proof.Machine.execBulkFill p seq dst len pattern s
  | .bulkCompare p seq src dst len => Sys2Proof.Machine.execBulkCompare p seq src dst len s
  | .ringDb p r v => Sys2Proof.Machine.execRingDb p r v s
  | .descriptorAccept p r => Sys2Proof.Machine.execDescriptorAccept p r s
  | .ringAbort p q => Sys2Proof.Machine.execRingAbort p q s
  | .fwStart p v => Sys2Proof.Machine.execFwStart p v s
  | .fwPost p v => Sys2Proof.Machine.execFwPost p v s
  | .ringInit p r v => Sys2Proof.Machine.execRingInit p r v s
  | .ringCfgWrite p r v => Sys2Proof.Machine.execRingCfgWrite p r v s
  | .cqCseqWrite p v => Sys2Proof.Machine.execCqCseqWrite p v s
  | .completionRecordWrite p => Sys2Proof.Machine.execCompletionRecordWrite p s
  | .statusBlockWrite p => Sys2Proof.Machine.execStatusBlockWrite p s
  | .descriptorReread p r => Sys2Proof.Machine.execDescriptorReread p r s
  | .functionLevelReset p => Sys2Proof.Machine.execFunctionLevelReset p s
  | .mbGo p m who v => Sys2Proof.Machine.execMbGo p m who v s
  | .mbAck p m v => Sys2Proof.Machine.execMbAck p m v s
  | .mbLockRead p m who => Sys2Proof.Machine.execMbLockRead p m who s
  | .mbLockRelease p m who => Sys2Proof.Machine.execMbLockRelease p m who s
  | .dbSet p v => Sys2Proof.Machine.execDbSet p v s
  | .dbStatClear p v => Sys2Proof.Machine.execDbStatClear p v s
  | .dbMaskWrite p host v => Sys2Proof.Machine.execDbMaskWrite p host v s
  | .managerInstruction p lockstep => Sys2Proof.Machine.execManagerInstruction p lockstep s
  | .longResult p => Sys2Proof.Machine.execLongResult p s
  | .loadDataReturn p => Sys2Proof.Machine.execLoadDataReturn p s
  | .managerStoreAccept p => Sys2Proof.Machine.execManagerStoreAccept p s
  | .blockOpDone p => Sys2Proof.Machine.execBlockOpDone p s
  | .lockstepSelfTest p detected realMismatch => Sys2Proof.Machine.execLockstepSelfTest p detected realMismatch s
  | .progressWarn p => Sys2Proof.Machine.execProgressWarn p s
  | .progressTimeout p => Sys2Proof.Machine.execProgressTimeout p s
  | .chCtlGo p c v => Sys2Proof.Machine.execChCtlGo p c v s
  | .chCtlCancel p c v => Sys2Proof.Machine.execChCtlCancel p c v s
  | .dmaStartEvent p => Sys2Proof.Machine.execDmaStartEvent p s
  | .dmaDescriptorFetch p c => Sys2Proof.Machine.execDmaDescriptorFetch p c s
  | .dmaDescriptorComplete p c => Sys2Proof.Machine.execDmaDescriptorComplete p c s
  | .timerFire p n => Sys2Proof.Machine.execTimerFire p n s
  | .timerPeriodWrite p n v => Sys2Proof.Machine.execTimerPeriodWrite p n v s
  | .chCfgWrite p c v => Sys2Proof.Machine.execChCfgWrite p c v s
  | .busAccessServed p waiting => Sys2Proof.Machine.execBusAccessServed p waiting s
  | .hostBar0Access p off size write data => Sys2Proof.Machine.execHostBar0Access p off size write data s
  | .bmCtlRecovery p who v => Sys2Proof.Machine.execBmCtlRecovery p who v s
  | .spadCeWriteback p => Sys2Proof.Machine.execSpadCeWriteback p s
  | .nvsLineWriteDone p => Sys2Proof.Machine.execNvsLineWriteDone p s
  | .secureWipeDone p => Sys2Proof.Machine.execSecureWipeDone p s
  | .pioBr p e pads => Sys2Proof.Machine.execPioBr p e pads s
  | .pioDrv p e => Sys2Proof.Machine.execPioDrv p e s
  | .pioXfer p e pads => Sys2Proof.Machine.execPioXfer p e pads s
  | .pioLdsh p e => Sys2Proof.Machine.execPioLdsh p e s
  | .pioStsh p e => Sys2Proof.Machine.execPioStsh p e s
  | .pioCtr p e => Sys2Proof.Machine.execPioCtr p e s
  | .pioAwait p e pads => Sys2Proof.Machine.execPioAwait p e pads s
  | .pioSigEvt p e => Sys2Proof.Machine.execPioSigEvt p e s
  | .pioSigPace p e => Sys2Proof.Machine.execPioSigPace p e s
  | .pioSigDma p e => Sys2Proof.Machine.execPioSigDma p e s
  | .pioSigHalt p e => Sys2Proof.Machine.execPioSigHalt p e s
  | .pioSigDelay p e => Sys2Proof.Machine.execPioSigDelay p e s
  | .pioReservedInstr p e => Sys2Proof.Machine.execPioReservedInstr p e s
  | .pioTxWrite p e who v => Sys2Proof.Machine.execPioTxWrite p e who v s
  | .pioRxRead p e who => Sys2Proof.Machine.execPioRxRead p e who s
  | .pioStart p v => Sys2Proof.Machine.execPioStart p v s
  | .pioStop p v => Sys2Proof.Machine.execPioStop p v s
  | .pioBankWrite p v => Sys2Proof.Machine.execPioBankWrite p v s
  | .pioCfgWrite p e k v => Sys2Proof.Machine.execPioCfgWrite p e k v s
  | .grantInterval => Sys2Proof.Machine.execGrantInterval s
  | .powerMeasure p qw => Sys2Proof.Machine.execPowerMeasure p qw s
  | .throttleEnd p cause => Sys2Proof.Machine.execThrottleEnd p cause s
  | .vinSample mv iinMa => Sys2Proof.Machine.execVinSample mv iinMa s
  | .supplyReset => Sys2Proof.Machine.execSupplyReset s
  | .supplyResetRelease => Sys2Proof.Machine.execSupplyResetRelease s
  | .railFault p => Sys2Proof.Machine.execRailFault p s
  | .thermalSample temps => Sys2Proof.Machine.execThermalSample temps s
  | .tamperDetect sensor => Sys2Proof.Machine.execTamperDetect sensor s
  | .arbHostWrite v => Sys2Proof.Machine.execArbHostWrite v s
  | .baseReservationGrant p => Sys2Proof.Machine.execBaseReservationGrant p s
  | .domainSwitchDone p dom => Sys2Proof.Machine.execDomainSwitchDone p dom s
  | .coldStart => Sys2Proof.Machine.execColdStart s
  | .rstNAssert => Sys2Proof.Machine.execRstNAssert s
  | .devRstWarm => Sys2Proof.Machine.execDevRstWarm s
  | .pcieHotReset => Sys2Proof.Machine.execPcieHotReset s
  | .plainCtlWake p who => Sys2Proof.Machine.execPlainCtlWake p who s
  | .plainCtlReset p who => Sys2Proof.Machine.execPlainCtlReset p who s
  | .plainCtlMgrReset p who => Sys2Proof.Machine.execPlainCtlMgrReset p who s
  | .plainCtlColReset p who col => Sys2Proof.Machine.execPlainCtlColReset p who col s
  | .plainCtlReady p who => Sys2Proof.Machine.execPlainCtlReady p who s
  | .plainCtlFaultAck p who => Sys2Proof.Machine.execPlainCtlFaultAck p who s
  | .rejoinGo p v => Sys2Proof.Machine.execRejoinGo p v s
  | .bootRomInstall p => Sys2Proof.Machine.execBootRomInstall p s
  | .fltCtlClose p who => Sys2Proof.Machine.execFltCtlClose p who s
  | .fltCtlClr p => Sys2Proof.Machine.execFltCtlClr p s
  | .tapReset => Sys2Proof.Machine.execTapReset s
  | .tapIdcode => Sys2Proof.Machine.execTapIdcode s
  | .tapSamplePreload => Sys2Proof.Machine.execTapSamplePreload s
  | .tapExtest => Sys2Proof.Machine.execTapExtest s
  | .tapClamp => Sys2Proof.Machine.execTapClamp s
  | .tapHighz => Sys2Proof.Machine.execTapHighz s
  | .tapBypass => Sys2Proof.Machine.execTapBypass s
  | .tapAuth token => Sys2Proof.Machine.execTapAuth token s
  | .authVerifyDone => Sys2Proof.Machine.execAuthVerifyDone s
  | .authLockoutEnd => Sys2Proof.Machine.execAuthLockoutEnd s
  | .testctlRead p addr sizeCode => Sys2Proof.Machine.execTestctlRead p addr sizeCode s
  | .testctlWrite p addr sizeCode data => Sys2Proof.Machine.execTestctlWrite p addr sizeCode data s
  | .testctlPoll => Sys2Proof.Machine.execTestctlPoll s
  | .bistGo v => Sys2Proof.Machine.execBistGo v s
  | .bistDone results => Sys2Proof.Machine.execBistDone results s
  | .devRstTestWrite v => Sys2Proof.Machine.execDevRstTestWrite v s
  | .obsWrite p who off v => Sys2Proof.Machine.execObsWrite p who off v s
  | .i2cWrite off v => Sys2Proof.Machine.execI2cWrite off v s
  | .i2cRead off => Sys2Proof.Machine.execI2cRead off s
  | .registerWrite p who off v => Sys2Proof.Machine.execRegisterWrite p who off v s
  | .frameCheckFail p l => Sys2Proof.Machine.execFrameCheckFail p l s

end Sys2Proof.Machine
end

