-- ==== Sys2Proof/WellFormed.lean ====
section
/-! DEFINITION. Which commands are well-formed: the checks on operands that their types do not make, each with a name; and
the Plain that a command is addressed to. -/

namespace Sys2Proof

/-- A check that an ill-formed command fails. -/
inductive Problem where
  /-- A register offset is a multiple of 4 (00 R6). -/
  | registerOffset
  /-- An access has 1, 2, 4 or 8 bytes, or whole beats of 64 (15 R311). -/
  | accessSize
  /-- A write carries as many bytes as it writes. -/
  | dataLength
  /-- A link has 4 lanes, a short link 8 (08 R149). -/
  | lanes
  /-- A codeword has 128 bytes (08 R149). -/
  | codeword
  /-- One reading for each of the 100 timing regions (17 R357). -/
  | readings
  /-- One result for each Plain (20 R401). -/
  | results
  /-- PLAIN_CTL.COL has four bits (18 R382). -/
  | column
  /-- A 64-bit word of the 24 GiB Basin (07 R127). -/
  | basinWord
deriving DecidableEq, Repr

/-- The problem, unless the check holds. -/
def check (ok : Bool) (p : Problem) : List Problem := if ok then [] else [p]

/-- The check of a register offset. -/
def registerOffset (off : Nat) : List Problem := check (off % 4 == 0) .registerOffset

/-- The checks of an access. -/
def access (size : Nat) (write : Bool) (data : List Byte) : List Problem :=
  check (size == 1 || size == 2 || size == 4 || size == 8 || (decide (0 < size) && size % 64 == 0)) .accessSize ++
  check (!write || data.length == size) .dataLength

/-- The check of a number of lanes. -/
def lanes (l : Fin 8) (n : Nat) : List Problem := check (decide (n ≤ if l.val < 6 then 4 else 8)) .lanes

/-- The checks of a received codeword: its lane, and how many of its 128 bytes are bad. -/
def codeword (l : Fin 8) (lane bad : Nat) : List Problem := lanes l (lane + 1) ++ check (decide (bad ≤ 128)) .codeword

/-- The check of a list's length. -/
def listLength (p : Problem) (want got : Nat) : List Problem := check (want == got) p

/-- The checks that a command fails. -/
def Instr.problems (i : Instr) : List Problem :=
  match i with
  | .stepRelease _ _ => []
  | .backPressureStallEnd _ => []
  | .boundarySequence _ => []
  | .captureRoomFreed _ => []
  | .cycleRelease _ => []
  | .stallTimeout _ => []
  | .captureQ7Pop _ _ => []
  | .captureDrain _ => []
  | .checkpointDrainDone _ => []
  | .mmRequestTake _ _ => []
  | .mmRequestComplete _ _ => []
  | .patrolScrub _ word => check (decide (word < 0x600000000 / 8)) .basinWord
  | .basinTempSample _ _ => []
  | .passTxTake _ _ => []
  | .frameSend _ _ => []
  | .dataFrameRx _ _ _ => []
  | .cycleFrameRx _ _ _ => []
  | .creditFrameRx _ _ _ => []
  | .openFrameRx _ _ _ => []
  | .refuseFrameRx _ _ _ => []
  | .closingFrameRx _ _ _ => []
  | .returnFrameRx _ _ _ => []
  | .trainFrameRx _ _ _ => []
  | .reservedFrameRx _ _ _ => []
  | .ackRx _ l rx => codeword l rx.lane rx.bad
  | .nakRx _ l rx => codeword l rx.lane rx.bad
  | .replayTimeout _ _ => []
  | .creditReturnTimeout _ _ => []
  | .passRxPush _ _ _ => []
  | .laneFail _ l working => lanes l working
  | .retrainDone _ l => lanes l.link l.width
  | .retrainAttemptFail _ l working => lanes l working
  | .linkTrained _ l width => lanes l width
  | .openResend _ _ => []
  | .heldRepeat _ => []
  | .syncLost _ _ => []
  | .closeDeliveryEnd _ _ => []
  | .closeTimeout _ _ => []
  | .linkCtlEn _ _ _ => []
  | .linkCtlRetrain _ _ => []
  | .linkCtlClose _ _ => []
  | .linkCtlRetRel _ _ => []
  | .linkCtlOpen _ _ => []
  | .capCtlStart _ _ => []
  | .capCtlStop _ _ => []
  | .ckptCtlNow _ _ => []
  | .rplCtlGo _ _ => []
  | .replayLogInject _ => []
  | .colCtlClr _ _ => []
  | .qsCtlClr _ _ => []
  | .basinCtlClr _ _ => []
  | .spadCtlClr _ => []
  | .colHopsRead _ => []
  | .nvsWrRead _ => []
  | .rcCounterRead _ off => registerOffset off.toNat
  | .basinRsvWrite _ _ _ => []
  | .paceCtlWrite _ _ => []
  | .jobLoad _ _ _ _ _ _ => []
  | .loadCommit _ => []
  | .jobMode _ _ _ => []
  | .jobHold _ _ => []
  | .jobStep _ _ _ => []
  | .jobCheckpoint _ _ => []
  | .jobReplay _ _ _ _ _ => []
  | .jobReset _ _ => []
  | .jobLinkOpen _ _ _ => []
  | .jobLinkClose _ _ _ => []
  | .jobLinkRetrain _ _ _ => []
  | .jobLinkRetRel _ _ _ => []
  | .epochSwitch _ _ _ _ _ => []
  | .regWrite _ _ _ => []
  | .xactAdvance _ _ _ => []
  | .xactWrite _ _ _ _ _ _ => []
  | .xactRead _ _ _ _ _ _ => []
  | .xactTransferDone _ => []
  | .bulkCopy _ _ _ _ _ => []
  | .bulkFill _ _ _ _ _ => []
  | .bulkCompare _ _ _ _ _ => []
  | .ringDb _ _ _ => []
  | .descriptorAccept _ _ => []
  | .ringAbort _ _ => []
  | .fwStart _ _ => []
  | .fwPost _ _ => []
  | .ringInit _ _ _ => []
  | .ringCfgWrite _ _ _ => []
  | .cqCseqWrite _ _ => []
  | .completionRecordWrite _ => []
  | .statusBlockWrite _ => []
  | .descriptorReread _ _ => []
  | .functionLevelReset _ => []
  | .mbGo _ _ _ _ => []
  | .mbAck _ _ _ => []
  | .mbLockRead _ _ _ => []
  | .mbLockRelease _ _ _ => []
  | .dbSet _ _ => []
  | .dbStatClear _ _ => []
  | .dbMaskWrite _ _ _ => []
  | .managerInstruction _ _ => []
  | .longResult _ => []
  | .loadDataReturn _ => []
  | .managerStoreAccept _ => []
  | .blockOpDone _ => []
  | .lockstepSelfTest _ _ _ => []
  | .progressWarn _ => []
  | .progressTimeout _ => []
  | .chCtlGo _ _ _ => []
  | .chCtlCancel _ _ _ => []
  | .dmaStartEvent _ => []
  | .dmaDescriptorFetch _ _ => []
  | .dmaDescriptorComplete _ _ => []
  | .timerFire _ _ => []
  | .timerPeriodWrite _ _ _ => []
  | .chCfgWrite _ _ _ => []
  | .busAccessServed _ waiting => waiting.flatMap fun r => access r.size r.write r.data
  | .hostBar0Access _ _ size write data => access size write data
  | .bmCtlRecovery _ _ _ => []
  | .spadCeWriteback _ => []
  | .nvsLineWriteDone _ => []
  | .secureWipeDone _ => []
  | .pioBr _ _ _ => []
  | .pioDrv _ _ => []
  | .pioXfer _ _ _ => []
  | .pioLdsh _ _ => []
  | .pioStsh _ _ => []
  | .pioCtr _ _ => []
  | .pioAwait _ _ _ => []
  | .pioSigEvt _ _ => []
  | .pioSigPace _ _ => []
  | .pioSigDma _ _ => []
  | .pioSigHalt _ _ => []
  | .pioSigDelay _ _ => []
  | .pioReservedInstr _ _ => []
  | .pioTxWrite _ _ _ _ => []
  | .pioRxRead _ _ _ => []
  | .pioStart _ _ => []
  | .pioStop _ _ => []
  | .pioBankWrite _ _ => []
  | .pioCfgWrite _ _ _ _ => []
  | .grantInterval => []
  | .powerMeasure _ _ => []
  | .throttleEnd _ _ => []
  | .vinSample _ _ => []
  | .supplyReset => []
  | .supplyResetRelease => []
  | .railFault _ => []
  | .thermalSample temps => listLength .readings 100 temps.length
  | .tamperDetect _ => []
  | .arbHostWrite _ => []
  | .baseReservationGrant _ => []
  | .domainSwitchDone _ _ => []
  | .coldStart => []
  | .rstNAssert => []
  | .devRstWarm => []
  | .pcieHotReset => []
  | .plainCtlWake _ _ => []
  | .plainCtlReset _ _ => []
  | .plainCtlMgrReset _ _ => []
  | .plainCtlColReset _ _ col => check (decide (col < 16)) .column
  | .plainCtlReady _ _ => []
  | .plainCtlFaultAck _ _ => []
  | .rejoinGo _ _ => []
  | .bootRomInstall _ => []
  | .fltCtlClose _ _ => []
  | .fltCtlClr _ => []
  | .tapReset => []
  | .tapIdcode => []
  | .tapSamplePreload => []
  | .tapExtest => []
  | .tapClamp => []
  | .tapHighz => []
  | .tapBypass => []
  | .tapAuth _ => []
  | .authVerifyDone => []
  | .authLockoutEnd => []
  | .testctlRead _ _ _ => []
  | .testctlWrite _ _ _ _ => []
  | .testctlPoll => []
  | .bistGo _ => []
  | .bistDone results => listLength .results 8 results.length
  | .devRstTestWrite _ => []
  | .obsWrite _ _ off _ => registerOffset off.toNat
  | .i2cWrite off _ => registerOffset off.toNat
  | .i2cRead off => registerOffset off.toNat
  | .registerWrite _ _ off _ => registerOffset off.toNat
  | .frameCheckFail _ _ => []

/-- Every check of a well-formed command holds. -/
def Instr.wellFormed (i : Instr) : Bool := i.problems.isEmpty

/-- The Plain that a command is addressed to; none for a command of the whole device. -/
def Instr.plain (i : Instr) : Option (Fin 8) :=
  match i with
  | .stepRelease p _ => some p
  | .backPressureStallEnd p => some p
  | .boundarySequence p => some p
  | .captureRoomFreed p => some p
  | .cycleRelease p => some p
  | .stallTimeout p => some p
  | .captureQ7Pop p _ => some p
  | .captureDrain p => some p
  | .checkpointDrainDone p => some p
  | .mmRequestTake p _ => some p
  | .mmRequestComplete p _ => some p
  | .patrolScrub p _ => some p
  | .basinTempSample p _ => some p
  | .passTxTake p _ => some p
  | .frameSend p _ => some p
  | .dataFrameRx p _ _ => some p
  | .cycleFrameRx p _ _ => some p
  | .creditFrameRx p _ _ => some p
  | .openFrameRx p _ _ => some p
  | .refuseFrameRx p _ _ => some p
  | .closingFrameRx p _ _ => some p
  | .returnFrameRx p _ _ => some p
  | .trainFrameRx p _ _ => some p
  | .reservedFrameRx p _ _ => some p
  | .ackRx p _ _ => some p
  | .nakRx p _ _ => some p
  | .replayTimeout p _ => some p
  | .creditReturnTimeout p _ => some p
  | .passRxPush p _ _ => some p
  | .laneFail p _ _ => some p
  | .retrainDone p _ => some p
  | .retrainAttemptFail p _ _ => some p
  | .linkTrained p _ _ => some p
  | .openResend p _ => some p
  | .heldRepeat p => some p
  | .syncLost p _ => some p
  | .closeDeliveryEnd p _ => some p
  | .closeTimeout p _ => some p
  | .linkCtlEn p _ _ => some p
  | .linkCtlRetrain p _ => some p
  | .linkCtlClose p _ => some p
  | .linkCtlRetRel p _ => some p
  | .linkCtlOpen p _ => some p
  | .capCtlStart p _ => some p
  | .capCtlStop p _ => some p
  | .ckptCtlNow p _ => some p
  | .rplCtlGo p _ => some p
  | .replayLogInject p => some p
  | .colCtlClr p _ => some p
  | .qsCtlClr p _ => some p
  | .basinCtlClr p _ => some p
  | .spadCtlClr p => some p
  | .colHopsRead p => some p
  | .nvsWrRead p => some p
  | .rcCounterRead p _ => some p
  | .basinRsvWrite p _ _ => some p
  | .paceCtlWrite p _ => some p
  | .jobLoad p _ _ _ _ _ => some p
  | .loadCommit p => some p
  | .jobMode p _ _ => some p
  | .jobHold p _ => some p
  | .jobStep p _ _ => some p
  | .jobCheckpoint p _ => some p
  | .jobReplay p _ _ _ _ => some p
  | .jobReset p _ => some p
  | .jobLinkOpen p _ _ => some p
  | .jobLinkClose p _ _ => some p
  | .jobLinkRetrain p _ _ => some p
  | .jobLinkRetRel p _ _ => some p
  | .epochSwitch p _ _ _ _ => some p
  | .regWrite p _ _ => some p
  | .xactAdvance p _ _ => some p
  | .xactWrite p _ _ _ _ _ => some p
  | .xactRead p _ _ _ _ _ => some p
  | .xactTransferDone p => some p
  | .bulkCopy p _ _ _ _ => some p
  | .bulkFill p _ _ _ _ => some p
  | .bulkCompare p _ _ _ _ => some p
  | .ringDb p _ _ => some p
  | .descriptorAccept p _ => some p
  | .ringAbort p _ => some p
  | .fwStart p _ => some p
  | .fwPost p _ => some p
  | .ringInit p _ _ => some p
  | .ringCfgWrite p _ _ => some p
  | .cqCseqWrite p _ => some p
  | .completionRecordWrite p => some p
  | .statusBlockWrite p => some p
  | .descriptorReread p _ => some p
  | .functionLevelReset p => some p
  | .mbGo p _ _ _ => some p
  | .mbAck p _ _ => some p
  | .mbLockRead p _ _ => some p
  | .mbLockRelease p _ _ => some p
  | .dbSet p _ => some p
  | .dbStatClear p _ => some p
  | .dbMaskWrite p _ _ => some p
  | .managerInstruction p _ => some p
  | .longResult p => some p
  | .loadDataReturn p => some p
  | .managerStoreAccept p => some p
  | .blockOpDone p => some p
  | .lockstepSelfTest p _ _ => some p
  | .progressWarn p => some p
  | .progressTimeout p => some p
  | .chCtlGo p _ _ => some p
  | .chCtlCancel p _ _ => some p
  | .dmaStartEvent p => some p
  | .dmaDescriptorFetch p _ => some p
  | .dmaDescriptorComplete p _ => some p
  | .timerFire p _ => some p
  | .timerPeriodWrite p _ _ => some p
  | .chCfgWrite p _ _ => some p
  | .busAccessServed p _ => some p
  | .hostBar0Access p _ _ _ _ => if h : p.val < 8 then some ⟨p.val, h⟩ else none
  | .bmCtlRecovery p _ _ => some p
  | .spadCeWriteback p => some p
  | .nvsLineWriteDone p => some p
  | .secureWipeDone p => some p
  | .pioBr p _ _ => some p
  | .pioDrv p _ => some p
  | .pioXfer p _ _ => some p
  | .pioLdsh p _ => some p
  | .pioStsh p _ => some p
  | .pioCtr p _ => some p
  | .pioAwait p _ _ => some p
  | .pioSigEvt p _ => some p
  | .pioSigPace p _ => some p
  | .pioSigDma p _ => some p
  | .pioSigHalt p _ => some p
  | .pioSigDelay p _ => some p
  | .pioReservedInstr p _ => some p
  | .pioTxWrite p _ _ _ => some p
  | .pioRxRead p _ _ => some p
  | .pioStart p _ => some p
  | .pioStop p _ => some p
  | .pioBankWrite p _ => some p
  | .pioCfgWrite p _ _ _ => some p
  | .grantInterval => none
  | .powerMeasure p _ => some p
  | .throttleEnd p _ => some p
  | .vinSample _ _ => none
  | .supplyReset => none
  | .supplyResetRelease => none
  | .railFault p => if h : p.val < 8 then some ⟨p.val, h⟩ else none
  | .thermalSample _ => none
  | .tamperDetect _ => none
  | .arbHostWrite _ => none
  | .baseReservationGrant p => some p
  | .domainSwitchDone p _ => some p
  | .coldStart => none
  | .rstNAssert => none
  | .devRstWarm => none
  | .pcieHotReset => none
  | .plainCtlWake p _ => some p
  | .plainCtlReset p _ => some p
  | .plainCtlMgrReset p _ => some p
  | .plainCtlColReset p _ _ => some p
  | .plainCtlReady p _ => some p
  | .plainCtlFaultAck p _ => some p
  | .rejoinGo p _ => some p
  | .bootRomInstall p => some p
  | .fltCtlClose p _ => some p
  | .fltCtlClr p => some p
  | .tapReset => none
  | .tapIdcode => none
  | .tapSamplePreload => none
  | .tapExtest => none
  | .tapClamp => none
  | .tapHighz => none
  | .tapBypass => none
  | .tapAuth _ => none
  | .authVerifyDone => none
  | .authLockoutEnd => none
  | .testctlRead p _ _ => some p
  | .testctlWrite p _ _ _ => some p
  | .testctlPoll => none
  | .bistGo _ => none
  | .bistDone _ => none
  | .devRstTestWrite _ => none
  | .obsWrite p _ _ _ => if h : p.val < 8 then some ⟨p.val, h⟩ else none
  | .i2cWrite _ _ => none
  | .i2cRead _ => none
  | .registerWrite p _ _ _ => if h : p.val < 8 then some ⟨p.val, h⟩ else none
  | .frameCheckFail p _ => some p

/-- The link at which a command brings a frame; none for every other command (01 R15). -/
def Instr.frameLink (i : Instr) : Option (Fin 8) :=
  match i with
  | .dataFrameRx _ l _ | .cycleFrameRx _ l _ | .creditFrameRx _ l _ | .openFrameRx _ l _ | .refuseFrameRx _ l _
  | .closingFrameRx _ l _ | .returnFrameRx _ l _ | .trainFrameRx _ l _ | .reservedFrameRx _ l _ | .frameCheckFail _ l => some l
  | _ => none

end Sys2Proof
end

