-- ==== Sys2Proof/Safety.lean ====
section
/-! DEFINITION. What counts as a safe run, in the terms that the statements use: which part of the state a command
changes, and the invariant that every step keeps. -/

namespace Sys2Proof.Machine

/-- Between `s` and `t` nothing of the module changes outside Plain `p`. -/
def OnlyPlain (p : Fin 8) (s t : State) : Prop := t = { s with plains := s.plains.set p t.plains[p] }

/-- Between `s` and `t` no other Plain than `p` changes (01 R13). -/
def OthersKept (p : Fin 8) (s t : State) : Prop := ∀ q : Fin 8, q ≠ p → t.plains[q] = s.plains[q]

/-- The life-cycle fuses run forward (18 R380), and the host memory and the record of the columns that are on are in
canonical form. -/
def Inv (s : State) : Prop :=
  s.fuses.lc.toNat ≤ s.fuses.lcPend.toNat ∧ s.fuses.lcPend.toNat ≤ 5 ∧ Memory.wf Config.hostFree s.hostMem = true ∧
  Sparse.wf (fun _ => (0 : BitVec 9)) s.power.colOn = true

/-- The memories of every Plain are in canonical form: Basin data and block tags, SPAD and NVS, and the Manager's general
registers, ports and CSRs. -/
def MemInv (s : State) : Prop :=
  ∀ q : Fin 8, Memory.wf Config.basinFree s.plains[q].basin.data = true ∧ Sparse.wf (fun _ => false) s.plains[q].basin.tags = true ∧
    Memory.wf zeroByte s.plains[q].mem.spad = true ∧ Memory.wf zeroByte s.plains[q].mem.nvs = true ∧
    Sparse.wf (fun _ => (0 : DWord)) s.plains[q].mgr.g = true ∧ Sparse.wf (fun _ => (0 : DWord)) s.plains[q].mgr.ports = true ∧
    Sparse.wf (fun _ => (0 : DWord)) s.plains[q].mgr.csr = true

/-- A run is safe when every step answers a next state in which the invariant holds; no command of this block stops. -/
def SafeStep (s : State) : Prop := ∃ t, step s = .next t ∧ Inv t

end Sys2Proof.Machine
end

