-- ==== Sys2Proof/Certificates/Slice0/Obligations.lean ====
section
/-! DEFINITION. The statements of this row, one `def` each; every docstring names the rules that it formalises. -/

open Sys2Proof Sys2Proof.Machine

/-- STEP_RELEASE executes one step in all tiles and goes on to the next; what moves, units and routers do in it (spec/02_four_state_values.md (R35; R36; R38; R39), spec/03_tile_transport.md (R46; R47; R49; R50; R52; R53; R55; R58; R69; R71), spec/04_tile_operations.md (R73; R76; R77; R78; R79; R80; R81; R82; R83), spec/05_col_network.md (R101; R102; R110), spec/06_decoupling_queues.md (R115; R118; R119)). -/
def Obligations.StepReleaseExecutesTheStep : Prop :=
  let quiet (sw : StepWord) (js : List Nat) : Prop := ∀ j, j < 24 → j ∉ js → fldN (swSlot sw j) 21 3 = 0 ∧ (swSlot sw j).testBit 20 = true
  let slotIs (sw : StepWord) (j src dst gsel : Nat) (inv : Bool) : Prop :=
    j < 24 ∧ fldN (swSlot sw j) 10 10 = src ∧ fldN (swSlot sw j) 0 10 = dst ∧ fldN (swSlot sw j) 21 3 = gsel ∧ (swSlot sw j).testBit 20 = inv
  (∀ (p : Fin 8) (cols : BitVec 9) (s : State),
    canStep s.plains[p] = true → replayReady s.plains[p] = true → badTile s.plains[p] = none → allWaitsMet s.plains[p] = true →
    (executeTiles (flagCorrections s.plains[p])).toList.any heldPush = false →
    ∃ t, exec (.stepRelease p cols) s = .next t ∧ OnlyPlain p s t ∧
      (∀ k : Fin 64, t.plains[p].tiles[k] =
        setStatIf (decide (t.plains[p].run.step < t.plains[p].ldr.len) && (badTile t.plains[p]).isNone && !allWaitsMet t.plains[p] &&
          storeCorrects s.plains[p].ldr.curBank s.plains[p].tiles[k] (s.plains[p].run.step + 1)) 7 (executeTiles (flagCorrections s.plains[p]))[k]) ∧
      t.plains[p].run = { s.plains[p].run with step := s.plains[p].run.step + 1, stepCount := s.plains[p].run.stepCount + 1, phase := .stepping } ∧
      t.plains[p] = { s.plains[p] with tiles := t.plains[p].tiles, col := t.plains[p].col, stall := t.plains[p].stall,
                                       health := t.plains[p].health, run := t.plains[p].run, mgr := t.plains[p].mgr } ∧
      t.plains[p].health = { s.plains[p].health with segs := t.plains[p].health.segs } ∧
      (s.plains[p].run.mode ≠ .checked → t.plains[p].mgr = s.plains[p].mgr)) ∧
  (∀ (T : Tile) (sw : StepWord) (cycle step len stamp : Nat) (checked : Bool),
    let T' := tileStep cycle step len stamp checked sw T
    (∀ i a d gsel inv, slotIs sw i a d gsel inv → quiet sw [i] → a < 256 → d < 256 → ¬(gsel = 0 ∧ inv = true) →
      let g : Pos := if gsel = 0 then 1 else look 2 T.gd gsel
      T'.nf = (if unk g = true then put laneX T.nf d (merge (look laneX T.nf d) (look laneX T.nf a))
               else if g.getLsbD 0 = inv then T.nf else put laneX T.nf d (look laneX T.nf a)) ∧
      bit T'.stat 3 = (bit T.stat 3 || unk g) ∧ T'.fs = T.fs ∧ T'.gd = T.gd ∧ T'.opstat = T.opstat ∧ T'.tqFlags = T.tqFlags ∧ T'.fault = T.fault ∧
      T'.q0 = T.q0 ∧ T'.q1 = T.q1 ∧ T'.q2 = T.q2 ∧ T'.q3 = T.q3 ∧ T'.q4 = T.q4 ∧ T'.q5 = T.q5 ∧ T'.q6 = T.q6 ∧ T'.q7 = T.q7) ∧
    (∀ i j a b d, i < j → slotIs sw i a d 0 false → slotIs sw j b d 0 false → quiet sw [i, j] → a < 256 → b < 256 → d < 256 →
      T'.nf = put laneX T.nf d laneX ∧ bit T'.stat 2 = true ∧
      (checked = true → bit T.fault 31 = false → T'.fault = w32 (step % 2 ^ 13 + i * 2 ^ 16 + 2 * 2 ^ 21 + 2 ^ 31))) ∧
    (∀ i a d n, slotIs sw i a d 0 false → quiet sw [i] → popQueue a = some n → d < 256 →
      T'.nf = put laneX T.nf d ((popList T n).headD laneX) ∧ popList T' n = (popList T n).tail ∧
      (popList T n = [] → bit T'.stat 16 = true ∧ bit T'.tqFlags n = true)) ∧
    (∀ i a d, slotIs sw i a d 0 false → quiet sw [i] → a < 256 → Sparse.wf (fun _ => laneX) T.ports = true →
      let x := look laneX T.nf a
      let op (p : Nat) : Word := look laneX T.ports p
      let shows (p : Nat) (v : Word) : Prop := step + 1 < len → look laneX T'.ports p = v ∧ p ∈ T'.arrived
      let comes (p : Nat) (v : Word) : Prop := ({ port := p, value := v, due := step + 2, trig := step, slot := i } : InFlight) ∈ T'.inflight
      (∀ n, n < 6 → d = 0x140 + 8 * n → shows (0x141 + 8 * n) (ofPos fun k => pos (look laneX T.nf (swSelect sw n k / 16)) (swSelect sw n k % 16))) ∧
      (∀ n, n < 8 → (d = 0x103 + 8 * n → shows (0x106 + 8 * n) (lutEval .exactX (swTable sw n) (op (0x100 + 8 * n)) (op (0x101 + 8 * n)) (op (0x102 + 8 * n)) x)) ∧
        (d = 0x104 + 8 * n → shows (0x106 + 8 * n) (lutEval .pessimistic (swTable sw n) (op (0x100 + 8 * n)) (op (0x101 + 8 * n)) (op (0x102 + 8 * n)) x)) ∧
        (d = 0x105 + 8 * n → shows (0x106 + 8 * n) (lutEval .twoState (swTable sw n) (op (0x100 + 8 * n)) (op (0x101 + 8 * n)) (op (0x102 + 8 * n)) x))) ∧
      (0x171 ≤ d → d ≤ 0x184 → shows 0x18F (bwEval d (op 0x170) x)) ∧
      (0x192 ≤ d → d ≤ 0x198 → comes 0x199 (arEval d (op 0x190) (op 0x191) x).1 ∧ comes 0x19A (arEval d (op 0x190) (op 0x191) x).2) ∧
      (d = 0x1A1 → comes 0x1A3 (if allk x 15 = true then look laneX T.fs (val x 15) else laneX) ∧ (allk x 15 = false → bit T'.opstat 0 = true)) ∧
      (d = 0x1A2 → T'.fs = (if allk (op 0x1A0) 15 = true then put laneX T.fs (val (op 0x1A0) 15) x else T.fs) ∧ (allk (op 0x1A0) 15 = false → bit T'.opstat 0 = true))) ∧
    (∀ i j a b d, i ≠ j → slotIs sw i a 0x190 0 false → slotIs sw j b d 0 false → quiet sw [i, j] → a < 256 → b < 256 → 0x192 ≤ d → d ≤ 0x198 →
      Sparse.wf (fun _ => laneX) T.ports = true →
      ({ port := 0x199, value := (arEval d (look laneX T.nf a) (look laneX T.ports 0x191) (look laneX T.nf b)).1, due := step + 2, trig := step, slot := j } : InFlight) ∈ T'.inflight)) ∧
  (∀ (P : Plain) (t : Fin 64) (o : Nat), o < 4 →
    (neighbour t o = none → inReg (executeTiles P)[t] o = laneX) ∧
    (∀ n, neighbour t o = some n →
      let sw := stepWord P.ldr.curBank P.tiles[n] P.run.step
      let code := swColx sw ((o + 2) % 4)
      inReg (executeTiles P)[t] o =
        if code = 0 ∨ code = 7 then laneX else if code ≤ 4 then inReg P.tiles[n] (code - 1)
        else match offerOf P.run.cycle P.run.step sw P.tiles[n] with
          | none => laneX
          | some (w, dir) => if code = 6 ∨ dir = (o + 2) % 4 then w else laneX)) ∧
  (∀ (tbl : Nat → Nat) (i0 i1 i2 d : Word) (k : Nat), k < 16 → pos (lutEval .twoState tbl i0 i1 i2 d) k =
    if (tbl k).testBit (b2n ((pos i0 k).getLsbD 0) + 2 * b2n ((pos i1 k).getLsbD 0) + 4 * b2n ((pos i2 k).getLsbD 0) + 8 * b2n ((pos d k).getLsbD 0)) then 1 else 0) ∧
  (∀ a d ci : Word,
    (allk a 16 = true → allk d 16 = true →
      bwEval 0x171 a d = mk (val a 16 &&& val d 16) ∧ bwEval 0x172 a d = mk (val a 16 ||| val d 16) ∧ bwEval 0x173 a d = mk (val a 16 ^^^ val d 16) ∧
      bwEval 0x174 a d = mk (65535 - (val a 16 &&& val d 16)) ∧ bwEval 0x175 a d = mk (65535 - (val a 16 ||| val d 16)) ∧
      bwEval 0x176 a d = mk (65535 - (val a 16 ^^^ val d 16)) ∧ bwEval 0x177 a d = mk (65535 - val d 16) ∧ bwEval 0x178 a d = mk (val a 16 &&& (65535 - val d 16)) ∧
      bwEval 0x17D a d = one (if val d 16 = 65535 then 1 else 0) ∧ bwEval 0x17E a d = one (if val d 16 = 0 then 0 else 1) ∧
      arEval 0x192 a ci d = (mk ((val a 16 + val d 16) % 65536), one (if 65536 ≤ val a 16 + val d 16 then 1 else 0)) ∧
      arEval 0x194 a ci d = (mk ((val a 16 + 65536 - val d 16) % 65536), one (if val a 16 < val d 16 then 1 else 0)) ∧
      arEval 0x196 a ci d = (one (if val a 16 = val d 16 then 1 else 0), 0) ∧ arEval 0x197 a ci d = (one (if val a 16 < val d 16 then 1 else 0), 0) ∧
      arEval 0x198 a ci d = (one (if (BitVec.ofNat 16 (val a 16)).slt (BitVec.ofNat 16 (val d 16)) then 1 else 0), 0)) ∧
    (∀ k, k < 16 → (∃ j, j ≤ k ∧ (unk (pos a j) = true ∨ unk (pos d j) = true)) → pos (arEval 0x192 a ci d).1 k = 2 ∧ (arEval 0x192 a ci d).2 = one 2) ∧
    (∀ k, k < 16 → (∀ j, j ≤ k → unk (pos a j) = false ∧ unk (pos d j) = false) →
      pos (arEval 0x192 a ci d).1 k = if (val a (k + 1) + val d (k + 1)).testBit k then 1 else 0))

/-- A stall holds the step until it may go on; one longer than STALL_US abandons the cycle with fault 0x0B (spec/06_decoupling_queues.md (R115; R116; R119; R124), spec/19_faults_and_guarantees.md (R385; R386; R387)). -/
def Obligations.StallsHoldAStepAndEnd : Prop :=
  (∀ (p : Fin 8) (cols : BitVec 9) (s : State),
    canStep s.plains[p] = true → replayReady s.plains[p] = true → badTile s.plains[p] = none → allWaitsMet s.plains[p] = false →
    exec (.stepRelease p cols) s =
      .next (modPlain s p fun P => { flagCorrections P with stall := { P.stall with since := some (P.stall.since.getD s.timeNs) } })) ∧
  (∀ (p : Fin 8) (s : State),
    s.plains[p].run.phase = .backPressure → s.plains[p].tiles.toList.all heldHasRoom = true →
    ∃ t, exec (.backPressureStallEnd p) s = .next t ∧ OnlyPlain p s t ∧
      (∀ k : Fin 64, t.plains[p].tiles[k] =
        setStatIf (t.plains[p].stall.since.isSome && storeCorrects s.plains[p].ldr.curBank s.plains[p].tiles[k] (s.plains[p].run.step + 1)) 7 (admitHeld s.plains[p].tiles[k])) ∧
      t.plains[p].run = { s.plains[p].run with phase := .stepping, step := s.plains[p].run.step + 1 } ∧
      t.plains[p].stall.since = (if t.plains[p].run.step < t.plains[p].ldr.len ∧ badTile t.plains[p] = none ∧ allWaitsMet t.plains[p] = false then some s.timeNs else none) ∧
      (∀ b, s.plains[p].stall.since = some b → t.plains[p].stall.acc = s.plains[p].stall.acc + (s.timeNs - b)) ∧
      t.plains[p].col = { colLag s.plains[p].col.lagPend (skipCol s.fuses p) s.plains[p].col with lagPend := 0, lastJoin := s.plains[p].col.lagPend } ∧
      t.plains[p] = { s.plains[p] with tiles := t.plains[p].tiles, run := t.plains[p].run, stall := t.plains[p].stall, col := t.plains[p].col }) ∧
  (∀ (p : Fin 8) (s : State) (b : Nat),
    modeStepping s.plains[p].run.mode = true → (s.plains[p].run.phase = .stepping ∨ s.plains[p].run.phase = .backPressure) →
    s.plains[p].stall.since = some b → s.plains[p].health.stallUs ≠ 0 → s.plains[p].health.stallUs.toNat * 1000 < s.timeNs - b →
    s.plains[p].health.winOpen = false → s.plains[p].run.modePend ≠ some .valley →
    ∃ t, exec (.stallTimeout p) s = .next t ∧ OthersKept p s t ∧
      t.plains[p].run.mode = .hold ∧ t.plains[p].run.phase = .stopped ∧ t.plains[p].run.cycle = s.plains[p].run.cycle ∧
      t.plains[p].health.incomplete = true ∧ t.plains[p].health.winOpen = true ∧ t.plains[p].health.code = 0x0B ∧
      t.plains[p].tiles = s.plains[p].tiles ∧ t.plains[p].basin = s.plains[p].basin)

/-- At the end of a cycle the boundary waits in row 2 for room, the model's choice of log 45 for its own records (R184), or runs its rows (spec/01_plains_and_the_module.md (R20; R21; R22), spec/08_pass_links.md (R169; R171; R173), spec/09_capture_and_replay.md (R180; R184; R189; R191; R192), spec/10_images_and_certificates.md (R214), spec/18_modes_resets_startup.md (R369)). It rests on the model's choices of log entries 45. -/
def Obligations.BoundaryEndsTheCycle : Prop :=
  let ran (p : Fin 8) (s t : State) : Prop :=
    (t.plains[p].run.phase = .row2 ∧ t.plains[p].cap.outq ≠ [] ∧ t.plains[p].run.cycle = s.plains[p].run.cycle) ∨
    t.plains[p].run.cycle = s.plains[p].run.cycle + 1 ∨ t.plains[p].run.mode = .quarantine ∨ t.plains[p].run.mode = .valley ∨
    t.plains[p].run.after.isSome = true
  let waits (p : Fin 8) (X : Plain) (t : State) : Prop :=
    t.plains[p] = { X with run := { X.run with phase := .row2 }, cap := { X.cap with stall := X.cap.stall || valueWaits X } }
  (∀ (p : Fin 8) (s : State),
    (canEnd s.plains[p] = true →
      let X := consumeRest (row1 s.timeNs s.plains[p])
      ∃ t, exec (.boundarySequence p) s = .next t ∧ OthersKept p s t ∧ if restWaits X || boundaryWaits X then waits p X t else ran p s t) ∧
    (s.plains[p].run.phase = .row2 → s.plains[p].cap.outq = [] →
      let X := consumeRest s.plains[p]
      ∃ t, exec (.captureRoomFreed p) s = .next t ∧ OthersKept p s t ∧ if restWaits X || boundaryWaits X then waits p X t else ran p s t) ∧
    (s.plains[p].run.phase = .row2 → s.plains[p].cap.outq ≠ [] → (fillStaging s.plains[p].cap.outq s.plains[p].cap).outq ≠ [] →
      exec (.captureRoomFreed p) s = .next (modPlain s p fun P => { P with cap := fillStaging P.cap.outq P.cap }))) ∧
  (∀ (p : Fin 8) (s : State),
    let P := s.plains[p]
    let c := P.run.cycle
    let action := (trigWinner P.cap (trigSet P c)).map (trigAction P.cap)
    let target := if action = some 1 then minTarget P.sync.target (holdTarget P c) else P.sync.target
    let due := P.cap.due || decide (action = some 5) || (decide (P.cap.period ≠ 0) && decide ((c + 1) % P.cap.period.toNat = 0))
    canEnd P = true → P.run.mode ≠ .replay → capSize P = 0 → P.cap.outq = [] →
    (∀ k : Fin 64, P.tiles[k].q7 = [] ∧ P.tiles[k].q0 = [] ∧ P.tiles[k].held0 = none) → P.basin.recv = [] →
    P.run.after = none → P.run.modePend = none → P.run.holdNext = false → P.run.holdAsks = false →
    (∀ l : Fin 8, P.links[l].failMismatch = false ∧ P.links[l].failSkew = false) →
    ∃ t f, exec (.boundarySequence p) s = .next t ∧ OthersKept p s t ∧ t.plains[p].run.cycle = c + 1 ∧
      t.plains[p].sync.cur = (match P.ldr.switch with
        | some w => if w.target = c + 1 then { epoch := w.epoch, tag := w.tag, first := w.target } else P.sync.cur
        | none => P.sync.cur) ∧
      t.plains[p].sync.lastCycle = some f ∧ f.typ = 2 ∧ f.flags.getLsbD 0 = target.isSome ∧ f.flags.getLsbD 1 = false ∧
      f.payload = BitVec.ofNat 192 (leNat (cyclePayload (c + 1) t.plains[p].sync.cur.epoch t.plains[p].sync.cur.tag (target.getD 0))) ∧
      (∀ l : Fin 8, t.plains[p].links[l].dueCycle = if P.links[l].state = .active then P.links[l].dueCycle ++ [f] else P.links[l].dueCycle) ∧
      (if action = some 0 ∨ P.run.holdCmd = true ∨ P.run.stepsLeft.map Nat.pred = some 0 ∨ target.any (· ≤ c) = true then
        t.plains[p].run.mode = .hold ∧ t.plains[p].run.phase = .stopped ∧ t.plains[p].run.holdCmd = false ∧ t.plains[p].sync.target = none
       else t.plains[p].run.mode = P.run.mode ∧ t.plains[p].run.phase = .row9 ∧ t.plains[p].run.row9At = s.timeNs ∧ t.plains[p].sync.target = target) ∧
      (due = true → P.cap.dueJob = false →
        if ckptOkAll P = true ∧ P.cap.draining = none then
          ∀ k, freeSlot P = some k →
            (∃ d, t.plains[p].cap.draining = some d ∧ d.slot = k ∧ d.start = c + 1 ∧ d.epoch = t.plains[p].sync.cur.epoch.toNat ∧ d.spoiled = false) ∧
            t.plains[p].cap.due = false ∧
            (∀ (j : Fin 64) a, (a < 256 → look laneX t.plains[p].tiles[j].snapNf a = look laneX P.tiles[j].nf a) ∧
              (a < 32768 → look laneX t.plains[p].tiles[j].snapFs a = look laneX P.tiles[j].fs a))
        else t.plains[p].cap.skip = satInc P.cap.skip ∧ t.plains[p].cap.draining = P.cap.draining))

/-- CYCLE_RELEASE releases step 0 of the cycle once gate, pacing and transfers permit (spec/01_plains_and_the_module.md (R20), spec/08_pass_links.md (R172), spec/10_images_and_certificates.md (R212), spec/16_pio_engines.md (R340)). -/
def Obligations.CycleReleaseBeginsStepZero : Prop :=
  ∀ (p : Fin 8) (s : State), canRelease s.timeNs s.plains[p] = true →
    (s.plains[p].run.mode = .replay → s.plains[p].basin.ce = [] ∧ s.plains[p].basin.ue = []) →
    ∃ t, exec (.cycleRelease p) s = .next t ∧ OnlyPlain p s t ∧
      t.plains[p].run.phase = .stepping ∧ t.plains[p].run.step = 0 ∧ t.plains[p].run.cycle = s.plains[p].run.cycle ∧
      t.plains[p].run.mode = s.plains[p].run.mode ∧ t.plains[p].run.cycleStart = s.timeNs ∧ t.plains[p].stall.acc = 0 ∧
      t.plains[p].ldr.lateCnt = (if startsLate s.timeNs s.plains[p] = true then satInc s.plains[p].ldr.lateCnt else s.plains[p].ldr.lateCnt) ∧
      t.plains[p].pio.credit = (if s.plains[p].run.mode = .bridge then s.plains[p].pio.credit - 1 else s.plains[p].pio.credit) ∧
      t.plains[p] = { s.plains[p] with tiles := t.plains[p].tiles, run := t.plains[p].run, ldr := t.plains[p].ldr,
                                       stall := t.plains[p].stall, pio := t.plains[p].pio, cap := t.plains[p].cap, links := t.plains[p].links } ∧
      ∀ l : Fin 8, t.plains[p].links[l] = { s.plains[p].links[l] with recovered := false }

/-- CAPTURE_Q7_POP and CAPTURE_DRAIN: consume one q7 entry, drain one staged record; that only a draining share stops popping is log 45's choice (spec/09_capture_and_replay.md (R180; R182; R184; R185)). It rests on the model's choices of log entries 45. -/
def Obligations.CaptureConsumesAndDrains : Prop :=
  (∀ (p : Fin 8) (k : Fin 64) (s : State) (e : CapEntry) (rest : List CapEntry), s.plains[p].tiles[k].q7 = e :: rest →
    (q7Pops s.plains[p].run.phase s.plains[p].tiles[k] = false → exec (.captureQ7Pop p k) s = .next s) ∧
    (q7Pops s.plains[p].run.phase s.plains[p].tiles[k] = true → popStops s.plains[p] = true →
      exec (.captureQ7Pop p k) s = .next (modPlain s p fun P => { P with cap := { P.cap with stall := true } })) ∧
    (q7Pops s.plains[p].run.phase s.plains[p].tiles[k] = true → popStops s.plains[p] = false →
      ∃ t, exec (.captureQ7Pop p k) s = .next t ∧ OnlyPlain p s t ∧
        (∀ j : Fin 64, j ≠ k → t.plains[p].tiles[j] = s.plains[p].tiles[j]) ∧
        t.plains[p].tiles[k] = { admitHeld { s.plains[p].tiles[k] with q7 := rest } with
          capSeen := s.plains[p].tiles[k].capSeen ++ [e], capRef := t.plains[p].tiles[k].capRef, capRecs := t.plains[p].tiles[k].capRecs } ∧
        (s.plains[p].tiles[k].held7 = none → t.plains[p].tiles[k].q7 = rest) ∧
        (if logging s.plains[p] = true ∧ selected s.plains[p].cap k e = true then
          let ref := find s.plains[p].tiles[k].capRef (e.tag.toNat % 1024)
          let old := (ref.map (·.2)).getD 0
          let record : Option DWord :=
            if s.plains[p].cap.noDelta = true ∨ s.plains[p].run.cycle % 2 ^ (s.plains[p].cap.depth.toNat + 8) = 0 ∨ ref.map (·.1) ≠ some e.tag then
              some (recValue 2 k e.tag e.data)
            else if e.data = old then none else some (recValue 3 k e.tag (e.data ^^^ old))
          let refs := ins s.plains[p].tiles[k].capRef (e.tag.toNat % 1024) (e.tag, e.data)
          match record with
          | none => t.plains[p].tiles[k].capRecs = s.plains[p].tiles[k].capRecs ∧ t.plains[p].tiles[k].capRef = refs ∧ t.plains[p].cap = s.plains[p].cap
          | some r =>
            if s.plains[p].cap.lossy = true ∧ (0 < s.plains[p].cap.discarded ∨ valueFull s.plains[p] = true) then
              t.plains[p].tiles[k].capRecs = s.plains[p].tiles[k].capRecs ∧ t.plains[p].tiles[k].capRef = s.plains[p].tiles[k].capRef ∧
              t.plains[p].cap = { s.plains[p].cap with discarded := s.plains[p].cap.discarded + 1, gapCnt := satInc s.plains[p].cap.gapCnt, gap := true }
            else
              t.plains[p].tiles[k].capRecs = s.plains[p].tiles[k].capRecs ++ [r] ∧ t.plains[p].tiles[k].capRef = refs ∧
              t.plains[p].cap = { s.plains[p].cap with records := satInc s.plains[p].cap.records }
        else t.plains[p].tiles[k].capRecs = s.plains[p].tiles[k].capRecs ∧ t.plains[p].tiles[k].capRef = s.plains[p].tiles[k].capRef ∧ t.plains[p].cap = s.plains[p].cap) ∧
        t.plains[p] = { s.plains[p] with tiles := t.plains[p].tiles, cap := t.plains[p].cap })) ∧
  (∀ (p : Fin 8) (s : State) (r : StageRec) (rest : List StageRec), s.plains[p].cap.staging = r :: rest → capSize s.plains[p] ≠ 0 →
    (look 0 s.plains[p].basin.rsv 1 = 0 → granted s p = false → exec (.captureDrain p) s = .next s) ∧
    (look 0 s.plains[p].basin.rsv 1 ≠ 0 ∨ (granted s p = true ∧ s.plains[p].bus.queue = []) →
    ∃ t, exec (.captureDrain p) s = .next t ∧ OnlyPlain p s t ∧
      t.plains[p].cap.staging = rest ∧ t.plains[p].cap.drained = s.plains[p].cap.drained + r.bytes.length ∧
      t.plains[p].cap.head = (s.plains[p].cap.drained + r.bytes.length) % capSize s.plains[p] ∧
      t.plains[p].basin = ringWrite (look 0 s.plains[p].basin.areaBase 0 * 4096) (capSize s.plains[p]) (r.bytes.length / capSize s.plains[p] + 2) s.plains[p].cap.drained r.bytes s.plains[p].basin ∧
      (if s.plains[p].cap.drained + r.bytes.length ≤ capSize s.plains[p] then
        t.plains[p].cap = { s.plains[p].cap with staging := t.plains[p].cap.staging, drained := t.plains[p].cap.drained, head := t.plains[p].cap.head }
       else t.plains[p].cap.wrapped = true) ∧
      t.plains[p] = { s.plains[p] with basin := t.plains[p].basin, cap := t.plains[p].cap,
                                       bus := { s.plains[p].bus with last := t.plains[p].bus.last } }))

/-- CAP_CTL and CKPT_CTL writes take their fields, and a drained checkpoint becomes valid unless the journal overflowed (spec/07_basin_memory.md (R145), spec/09_capture_and_replay.md (R190; R191; R192; R193; R199), spec/18_modes_resets_startup.md (R378)). -/
def Obligations.CaptureControlAndDrainedCheckpoint : Prop :=
  (∀ (p : Fin 8) (v : Word) (s : State),
    if s.plains[p].run.mode = .valley then
      exec (.capCtlStart p v) s = .next s ∧ exec (.capCtlStop p v) s = .next s ∧ exec (.ckptCtlNow p v) s = .next s
    else
      exec (.capCtlStart p v) s = .next (modPlain s p fun P => { P with cap := { P.cap with
        noDelta := v.getLsbD 2, lossy := v.getLsbD 3, depth := v.extractLsb' 4 4,
        pendStart := if v.getLsbD 1 then P.cap.pendStart else some true } }) ∧
      exec (.capCtlStop p v) s = .next (modPlain s p fun P => { P with cap := { P.cap with
        noDelta := v.getLsbD 2, lossy := v.getLsbD 3, depth := v.extractLsb' 4 4,
        pendStart := if v.getLsbD 0 then P.cap.pendStart else some false } }) ∧
      exec (.ckptCtlNow p v) s = .next (modPlain s p fun P => { P with cap := { P.cap with
        period := v.extractLsb' 0 24, keep := v.extractLsb' 24 4, due := true } })) ∧
  (∀ (p : Fin 8) (s : State) (d : CkptDrain), s.plains[p].cap.draining = some d →
    look 0 s.plains[p].basin.rsv 2 ≠ 0 ∨ s.plains[p].bus.queue = [] →
    ∃ t, exec (.checkpointDrainDone p) s = .next t ∧ OnlyPlain p s t ∧ t.plains[p].cap.draining = none ∧
      t.plains[p].basin.data = (rawWrite (slotBase s.plains[p].basin d.slot) (ckptBytes d.header s.plains[p].tiles) s.plains[p].basin).data ∧
      (d.spoiled = false → s.plains[p].cap.dir.length < max 1 s.plains[p].cap.keep.toNat →
        t.plains[p].cap.dir = ins s.plains[p].cap.dir d.slot { gen := d.gen, start := d.start, epoch := d.epoch }) ∧
      (d.spoiled = true → s.plains[p].cap.dir.length ≤ max 1 s.plains[p].cap.keep.toNat → t.plains[p].cap.dir = s.plains[p].cap.dir) ∧
      t.plains[p] = { s.plains[p] with basin := t.plains[p].basin, cap := t.plains[p].cap,
                                       bus := { s.plains[p].bus with last := t.plains[p].bus.last } })

/-- MM_REQUEST_TAKE and MM_REQUEST_COMPLETE: a request leaves q0, then its effect and response follow (spec/02_four_state_values.md (R44), spec/04_tile_operations.md (R86; R87), spec/06_decoupling_queues.md (R114; R120)). -/
def Obligations.MemoryRequestIsTakenAndServed : Prop :=
  (∀ (p : Fin 8) (k : Fin 64) (s : State) (r : MmReq) (rest : List MmReq), s.plains[p].tiles[k].q0 = r :: rest →
    (q0Pops s.plains[p].run.phase s.plains[p].tiles[k] = false ∨ (r.write = false ∧ s.plains[p].tiles[k].credits = 0) →
      exec (.mmRequestTake p k) s = .next s) ∧
    (q0Pops s.plains[p].run.phase s.plains[p].tiles[k] = true → (r.write = true ∨ 0 < s.plains[p].tiles[k].credits) →
      exec (.mmRequestTake p k) s = .next (modPlain s p fun P =>
        modTile { P with basin := { P.basin with recv := P.basin.recv ++ [(k, r)] } } k fun T =>
          admitHeld { T with q0 := rest, credits := if r.write then T.credits else T.credits - 1 }))) ∧
  (∀ (p : Fin 8) (k : Fin 64) (s : State) (x : Option Word) (rest : List (Option Word)), s.plains[p].tiles[k].served = x :: rest →
    exec (.mmRequestComplete p k) s = .next (modPlain s p fun P => modTile P k fun T => { T with served := rest, q1 := T.q1 ++ x.toList })) ∧
  (∀ (p : Fin 8) (k : Fin 64) (s : State) (r : MmReq) (rest : List (Fin 64 × MmReq)),
    s.plains[p].tiles[k].served = [] → s.plains[p].basin.recv = (k, r) :: rest →
    (∀ why, mmElement s.plains[p].basin r = .inl why →
      exec (.mmRequestComplete p k) s = .next (modPlain s p fun P =>
        modTile { P with basin := { P.basin with recv := rest } } k fun T =>
          { T with opstat := setBit T.opstat why true, q1 := if r.write then T.q1 else T.q1 ++ [laneX] })) ∧
    (∀ e i, mmElement s.plains[p].basin r = .inr (e, i) → r.write = false →
      let n := if rgnTwoState e then 2 else 4
      ueWords s.plains[p].basin (rgnBase e + n * i) n = [] →
      ∃ t, exec (.mmRequestComplete p k) s = .next t ∧ OnlyPlain p s t ∧ t.plains[p].basin.recv = rest ∧
        t.plains[p].tiles[k] = { s.plains[p].tiles[k] with q1 := s.plains[p].tiles[k].q1 ++
          [if rgnTwoState e then mk (leNat (basinBytes s.plains[p].basin (rgnBase e + n * i) n)) else w32 (leNat (basinBytes s.plains[p].basin (rgnBase e + n * i) n))] } ∧
        (∀ j : Fin 64, j ≠ k → t.plains[p].tiles[j] = s.plains[p].tiles[j]) ∧
        t.plains[p].basin.data = s.plains[p].basin.data ∧ t.plains[p].basin.tags = s.plains[p].basin.tags))

/-- The controller's requests take effect in the order of receipt, across tiles (spec/02_four_state_values.md (R44), spec/07_basin_memory.md (R138; R147)). -/
def Obligations.RequestsTakeEffectInOrderOfReceipt : Prop :=
  (∀ (p : Fin 8) (j k : Fin 64) (s : State) (q r : MmReq) (rest : List (Fin 64 × MmReq)), j ≠ k →
    s.plains[p].tiles[k].served = [] → s.plains[p].basin.recv = (j, q) :: (k, r) :: rest →
    let drop (n : Nat) (u : State) : State := modPlain u p fun P => { P with basin := { P.basin with recv := ((j, q) :: (k, r) :: rest).drop n } }
    exec (.mmRequestComplete p k) s =
      .next (modPlain (mmServe (drop 2 (mmServe (drop 1 s) p j q)) p k r) p fun P => modTile P k deliverResponse)) ∧
  (∀ (p : Fin 8) (k : Fin 64) (s : State), s.plains[p].tiles[k].served = [] → (∀ x ∈ s.plains[p].basin.recv, x.1 ≠ k) →
    exec (.mmRequestComplete p k) s = .next s)

/-- A memory-model write stores exactly its bytes: every other Basin byte reads as before (spec/02_four_state_values.md (R43; R44), spec/04_tile_operations.md (R86), spec/07_basin_memory.md (R133; R134; R144)). -/
def Obligations.BasinWriteStoresItsBytesOnly : Prop :=
  ∀ (p : Fin 8) (k : Fin 64) (s : State) (r : MmReq) (rest : List (Fin 64 × MmReq)) (e : BitVec 128) (i : Nat),
    s.plains[p].tiles[k].served = [] → s.plains[p].basin.recv = (k, r) :: rest → r.write = true → mmElement s.plains[p].basin r = .inr (e, i) →
    Memory.wf Config.basinFree s.plains[p].basin.data = true → Sparse.wf (fun _ => false) s.plains[p].basin.tags = true →
    s.plains[p].basin.ue = [] →
    let bs := if rgnTwoState e then leBytes 2 (val r.data 16) else leBytes 4 r.data.toNat
    let off := rgnBase e + bs.length * i
    let jbase := look 0 s.plains[p].basin.areaBase 2 * 4096
    ∃ t, exec (.mmRequestComplete p k) s = .next t ∧ OnlyPlain p s t ∧
      t.plains[p].basin.recv = rest ∧ basinBytes t.plains[p].basin off bs.length = bs ∧
      (∀ a, (a < off ∨ off + bs.length ≤ a) → (a < jbase ∨ jbase + 64 * jrnlUnits s.plains[p].basin ≤ a) →
        basinByte t.plains[p].basin a = basinByte s.plains[p].basin a) ∧
      (∀ j : Fin 64, t.plains[p].tiles[j].q0 = s.plains[p].tiles[j].q0 ∧ t.plains[p].tiles[j].q1 = s.plains[p].tiles[j].q1)

/-- PATROL_SCRUB, BASIN_TEMP_SAMPLE, BASIN_CTL CLR and BASIN_RSV writes do what the Basin rules say (spec/07_basin_memory.md (R140; R141; R142; R146; R148), spec/17_power_timing_health.md (R352)). -/
def Obligations.BasinCareCommands : Prop :=
  ∀ (p : Fin 8) (s : State),
    (∀ w, storedAt s.plains[p].basin (8 * w) = true → s.plains[p].basin.scrubEn = true →
      (look false s.plains[p].basin.ue w = false → look false s.plains[p].basin.ce w = true →
        exec (.patrolScrub p w) s = .next (modPlain s p fun P => { P with basin := { P.basin with
          ceCnt := satInc P.basin.ceCnt, stat := setBit P.basin.stat 1 true, ce := put false P.basin.ce w false } })) ∧
      (look false s.plains[p].basin.ue w = true →
        (s.plains[p].health.winOpen = true → s.plains[p].health.code ≠ 0x0A) →
        ∃ t, exec (.patrolScrub p w) s = .next t ∧ OthersKept p s t ∧ t.plains[p].basin.ueCnt = satInc s.plains[p].basin.ueCnt ∧
          t.plains[p].basin.data = s.plains[p].basin.data)) ∧
    (∀ w, storedAt s.plains[p].basin (8 * w) = false ∨ s.plains[p].basin.scrubEn = false → exec (.patrolScrub p w) s = .next s) ∧
    (s.plains[p].run.mode ≠ .valley →
      (∀ temp : Byte, ∃ t, exec (.basinTempSample p temp) s = .next t ∧ OthersKept p s t ∧
        t.plains[p].basin = { s.plains[p].basin with temp := temp, refresh := if 85 < temp.toNat then 1 else 0,
                                                     stat := if 105 < temp.toNat then setBit s.plains[p].basin.stat 5 true else s.plains[p].basin.stat } ∧
        t.plains[p] = { s.plains[p] with basin := t.plains[p].basin, health := t.plains[p].health, mgr := t.plains[p].mgr }) ∧
      (∀ v : Word, exec (.basinCtlClr p v) s = .next (modPlain s p fun P => { P with basin := { P.basin with scrubEn := v.getLsbD 0, ceCnt := 0, ueCnt := 0 } })) ∧
      (∀ (k : Fin 5) (v : Word),
        exec (.basinRsvWrite p k v) s =
          if k.val < 4 ∧ s.plains[p].run.mode ≠ .load then .next s
          else if rsvSum s.plains[p].basin - look 0 s.plains[p].basin.rsv k.val + (v.extractLsb' 0 10).toNat ≤ 960 then
            .next (modPlain s p fun P => { P with basin := { P.basin with rsv := put 0 P.basin.rsv k.val (v.extractLsb' 0 10).toNat } })
          else .next (modPlain s p fun P => { P with basin := { P.basin with stat := setBit P.basin.stat 4 true } })))

/-- PASS_TX_TAKE and FRAME_SEND: words leave q6 by credit, frames leave in the order of R159 and fill the lanes' codewords (spec/08_pass_links.md (R149; R150; R153; R156; R157; R159; R164; R165; R175)). It rests on the model's choices of log entries 23, 24 and 51. -/
def Obligations.PassWordsAreTakenAndSent : Prop :=
  ∀ (p l : Fin 8) (s : State),
    let L := s.plains[p].links[l]
    (∀ k x, waitingPx s.plains[p] l = some (k, x) →
      exec (.passTxTake p l) s =
        if discards L x.chan then
          .next (modPlain s p fun P => modLink (modTile P k fun T => admitHeld { T with q6 := T.q6.tail }) l fun L =>
            { L with txDisc := satInc L.txDisc, flags := setBit L.flags 4 true })
        else if L.dueClosing.isSome ∨ look 0 L.cred x.chan.val = 0 then .next s
        else .next (modPlain s p fun P => modLink (modTile P k fun T => admitHeld { T with q6 := T.q6.tail }) l fun L =>
            { L with cred := put 0 L.cred x.chan.val (look 0 L.cred x.chan.val - 1), txWords := L.txWords ++ [(x.chan, x.data)] })) ∧
    (linkSending L.state = true → s.plains[p].run.after = none →
      ∃ t, exec (.frameSend p l) s = .next t ∧ OnlyPlain p s t ∧ (∀ m : Fin 8, m ≠ l → t.plains[p].links[m] = s.plains[p].links[m]) ∧
        let M := t.plains[p].links[l]
        let sends (f : Frame) : Prop :=
          M.wire = L.wire ++ [{ f with seq := L.txNext }] ∧ M.txNext = L.txNext + 1 ∧
          M.replay.map (·.frame) = L.replay.map (·.frame) ++ [{ f with seq := L.txNext }] ∧
          (L.width ≠ 0 → L.stream.length + 32 < 124 * L.width → M.stream = L.stream ++ frameBytes { f with seq := L.txNext } ∧ M.codewords = L.codewords) ∧
          (L.stream.length < 124 * L.width → 124 * L.width ≤ L.stream.length + 32 →
            let S := L.stream ++ frameBytes { f with seq := L.txNext }
            M.stream = S.drop (124 * L.width) ∧
            M.codewords = (List.range L.width).map fun i => codeword (laneStream L.width i (S.take (124 * L.width))) (linkControl L))
        t.plains[p] = { s.plains[p] with links := t.plains[p].links, mgr := t.plains[p].mgr, sync := t.plains[p].sync } ∧
        t.plains[p].sync = { s.plains[p].sync with gateNs := t.plains[p].sync.gateNs } ∧
        M.nakDue = false ∧ M.ctlOut = linkControl L ∧
        (∀ f, nextReplay L = some f → M.wire = L.wire ++ [f] ∧ M.replay = L.replay ∧ M.txNext = L.txNext ∧ t.plains[p].mgr = s.plains[p].mgr) ∧
        (nextReplay L = none → 256 ≤ L.replay.length → L.state = .active →
          M = { L with nakDue := false, ctlOut := linkControl L, replayFrom := none, stream := M.stream, codewords := M.codewords } ∧ t.plains[p].mgr = s.plains[p].mgr) ∧
        (nextReplay L = none → L.replay.length < 256 →
          (∀ f rest, L.dueCycle = f :: rest → sends f ∧ M.dueCycle = rest ∧ M.state = L.state ∧ t.plains[p].mgr = s.plains[p].mgr) ∧
          (∀ reason reply, L.dueCycle = [] → L.txWords = [] → L.dueClosing = some (reason, reply) →
            sends (mkFrame 6 2 (b2n reply) (leBytes 6 (nextCycle s.plains[p]) ++ [reason.setWidth 8])) ∧
            M.state = .drain ∧ M.closeSent = some s.timeNs ∧ M.dueClosing = none ∧
            (L.state = .active → L.en = true → t.plains[p].mgr = (event s.plains[p] 0x0022 l.val L.closeReason.toNat).mgr)) ∧
          (L.dueCycle = [] → (L.dueClosing = none ∨ L.txWords ≠ []) → M.state = L.state ∨ L.state = .drain) ∧
          (L.dueCycle = [] → (L.dueClosing = none ∨ L.txWords ≠ []) →
            (L.dueReturn ≠ [] → sends (entryFrame 7 0 ((L.dueReturn.take 12).map BitVec.toNat)) ∧ M.dueReturn = L.dueReturn.drop 12) ∧
            (L.dueReturn = [] → L.dueInit ≠ [] → sends (entryFrame 3 1 ((L.dueInit.take 12).map creditEntry)) ∧ M.dueInit = L.dueInit.drop 12) ∧
            (L.dueReturn = [] → L.dueInit = [] → L.dueCredit = true → L.owed ≠ [] →
              sends (entryFrame 3 0 ((owedEntries L).map creditEntry)) ∧ M.owed = (owedEntries L).foldl (fun m x => put 0 m x.1 (look 0 m x.1 - x.2)) L.owed) ∧
            (L.dueReturn = [] → L.dueInit = [] → (L.dueCredit = false ∨ L.owed = []) → L.txWords ≠ [] → dataClosed s.plains[p] l L = true →
              sends (dataFrame (leadWords L.txWords)) ∧ M.txWords = L.txWords.drop (leadWords L.txWords).length)))) ∧
    (L.state = .retrain → exec (.frameSend p l) s = .next s) ∧
    (L.state = .train → L.dueOpen = [] → s.plains[p].run.after = none →
      exec (.frameSend p l) s = .next (modPlain s p fun P => modLink P l fun L =>
        { L with wire := L.wire ++ [{ typ := 8, len := 6, payload := Config.trainPattern L.wire.length }] }))

/-- Sequenced frames: outside ACTIVE and DRAIN dropped, duplicates discarded, a gap makes NAK due once, a spoilt one not received (spec/01_plains_and_the_module.md (R15; R16), spec/08_pass_links.md (R149; R150; R155; R156; R429)). It rests on the model's choices of log entries 51 and 52. -/
def Obligations.SequencedFramesAreTakenInOrder : Prop :=
  ∀ (p l : Fin 8) (f : Frame) (s : State),
    (arrived s p l f = none →
      exec (.dataFrameRx p l f) s = .next s ∧ exec (.cycleFrameRx p l f) s = .next s ∧ exec (.creditFrameRx p l f) s = .next s ∧
      exec (.closingFrameRx p l f) s = .next s ∧ exec (.returnFrameRx p l f) s = .next s ∧ exec (.reservedFrameRx p l f) s = .next s) ∧
    (∀ v, arrived s p l f = some v → lanesUp v.plains[p].links[l].state = true → nextSpoilt v.plains[p].links[l] = true →
      let lost : State := modPlain v p fun P => modLink P l fun L => { passFrame L with crcCnt := satInc L.crcCnt }
      (goodFrame f 1 = true → exec (.dataFrameRx p l f) s = .next lost) ∧ (goodFrame f 2 = true → exec (.cycleFrameRx p l f) s = .next lost) ∧
      (goodFrame f 3 = true → exec (.creditFrameRx p l f) s = .next lost) ∧ (goodFrame f 4 = true → exec (.openFrameRx p l f) s = .next lost) ∧
      (goodFrame f 5 = true → exec (.refuseFrameRx p l f) s = .next lost) ∧ (goodFrame f 6 = true → exec (.closingFrameRx p l f) s = .next lost) ∧
      (goodFrame f 7 = true → exec (.returnFrameRx p l f) s = .next lost) ∧ (goodFrame f 8 = true → exec (.trainFrameRx p l f) s = .next lost) ∧
      (malformed f = true → exec (.reservedFrameRx p l f) s = .next lost)) ∧
    (∀ v, arrived s p l f = some v → (lanesUp v.plains[p].links[l].state = false ∨ nextSpoilt v.plains[p].links[l] = false) →
      let u := modPlain v p fun P => modLink P l countArrival
      let L := u.plains[p].links[l]
      let dropped : State :=
        if linkSending L.state = false then modPlain u p fun P => modLink P l fun L => { L with lastRx := u.timeNs, drop := satInc L.drop }
        else if seqBefore f.seq L.rxNext = true ∨ L.nakSent = true then modPlain u p fun P => modLink P l fun L => { L with lastRx := u.timeNs }
        else modPlain u p fun P => modLink P l fun L => { L with lastRx := u.timeNs, nakDue := true, nakSent := true }
      ((linkSending L.state = false ∨ f.seq ≠ L.rxNext) →
        (goodFrame f 1 = true → exec (.dataFrameRx p l f) s = .next dropped) ∧
        (goodFrame f 2 = true → exec (.cycleFrameRx p l f) s = .next dropped) ∧
        (goodFrame f 3 = true → exec (.creditFrameRx p l f) s = .next (linksClosed dropped p)) ∧
        (goodFrame f 6 = true → exec (.closingFrameRx p l f) s = .next (linksClosed dropped p)) ∧
        (goodFrame f 7 = true → exec (.returnFrameRx p l f) s = .next (linksClosed dropped p)) ∧
        (malformed f = true → f.typ ≠ 4 → f.typ ≠ 5 → f.typ ≠ 8 → exec (.reservedFrameRx p l f) s = .next dropped)) ∧
      (linkSending L.state = true → f.seq = L.rxNext → malformed f = true → f.typ ≠ 4 → f.typ ≠ 5 → f.typ ≠ 8 →
        exec (.reservedFrameRx p l f) s = .next (modPlain u p fun P => modLink P l fun L =>
          { L with lastRx := u.timeNs, rxNext := L.rxNext + 1, nakSent := false, flags := setBit L.flags 6 true })) ∧
      (malformed f = true → (f.typ = 4 ∨ f.typ = 5 ∨ f.typ = 8) →
        exec (.reservedFrameRx p l f) s = .next (modPlain u p fun P => modLink P l fun L => { L with lastRx := u.timeNs, drop := satInc L.drop }))) ∧
    (shortPeer p l = none → exec (.frameCheckFail p l) s = .next (modPlain s p fun P => modLink P l fun L => { countArrival L with crcCnt := satInc L.crcCnt })) ∧
    (∀ q m, shortPeer p l = some (q, m) →
      exec (.frameCheckFail p l) s = .next (modPlain (modPlain s p fun P => modLink P l fun L => { countArrival L with crcCnt := satInc L.crcCnt }) q fun P =>
        modLink P m fun L => { L with wire := L.wire.tail }))

/-- A DATA, CYCLE, CREDIT, CLOSING or RETURN frame in sequence is accepted and has its effect (spec/01_plains_and_the_module.md (R15), spec/08_pass_links.md (R156; R163; R164; R166; R170; R175; R179)). It rests on the model's choices of log entries 23 and 52. -/
def Obligations.AcceptedFramesTakeEffect : Prop :=
  ∀ (p l : Fin 8) (f : Frame) (s v : State), arrived s p l f = some v → nextSpoilt v.plains[p].links[l] = false →
    let u := modPlain v p fun P => modLink P l countArrival
    let L := u.plains[p].links[l]
    L.state = .active → f.seq = L.rxNext → u.plains[p].run.after = none →
    (goodFrame f 1 = true →
      exec (.dataFrameRx p l f) s = .next (modPlain u p fun P => modLink P l fun L =>
        let M := { L with lastRx := u.timeNs, rxNext := L.rxNext + 1, nakSent := false }
        let ret : List (BitVec 16) := L.dueReturn ++ [returnEntry f.seq 0]
        if chanErr L f then (if L.returnsMade then { M with flags := setBit L.flags 5 true, dueReturn := ret }
          else { M with flags := setBit L.flags 5 true, discarded := L.discarded ++ [f.seq] })
        else if L.returnsMade then { M with dueReturn := ret }
        else { M with inbuf := L.inbuf ++ (List.range f.len.toNat).map fun i =>
                { chan := f.chan.toNat, data := payWord f i, seq := f.seq, len := f.len.toNat, old := false } })) ∧
    (goodFrame f 2 = true →
      ∃ t, exec (.cycleFrameRx p l f) s = .next t ∧ OnlyPlain p u t ∧
        t.plains[p].links[l].rxNext = L.rxNext + 1 ∧ t.plains[p].links[l].peerCyc = BitVec.ofNat 48 (cycNumber f) ∧
        t.plains[p].links[l].peerEpoch = cycEpoch f ∧ t.plains[p].links[l].peerTag = cycTag f ∧
        (∀ m : Fin 8, m ≠ l → t.plains[p].links[m] = { u.plains[p].links[m] with dueCycle := t.plains[p].links[m].dueCycle }) ∧
        t.plains[p] = { u.plains[p] with links := t.plains[p].links, sync := t.plains[p].sync, run := t.plains[p].run } ∧
        (L.foreign = true → t.plains[p].sync = u.plains[p].sync ∧ t.plains[p].run = u.plains[p].run ∧
          t.plains[p].links[l] = { L with lastRx := u.timeNs, rxNext := L.rxNext + 1, nakSent := false, peerCyc := t.plains[p].links[l].peerCyc,
                                          peerEpoch := t.plains[p].links[l].peerEpoch, peerTag := t.plains[p].links[l].peerTag, peerFlags := t.plains[p].links[l].peerFlags })) ∧
    (goodFrame f 3 = true →
      ∃ t, exec (.creditFrameRx p l f) s = .next t ∧ OnlyPlain p u t ∧ t.plains[p] = { u.plains[p] with links := t.plains[p].links } ∧
        t.plains[p].links[l].rxNext = L.rxNext + 1 ∧ t.plains[p].links[l].state = .active ∧
        (∀ n, look 0 t.plains[p].links[l].cred n = look 0 L.cred n + (((creditEntries f).filter fun x => x.1 == n).map (·.2)).sum) ∧
        (∀ m : Fin 8, m ≠ l → t.plains[p].links[m] = u.plains[p].links[m])) ∧
    (goodFrame f 6 = true → L.dueClosing = none →
      exec (.closingFrameRx p l f) s = .next (modPlain u p fun P => modLink P l fun L =>
        { L with lastRx := u.timeNs, rxNext := L.rxNext + 1, nakSent := false, closeTaken := true, closeBoth := L.closeMine && !f.flags.getLsbD 0,
                 dueClosing := some (BitVec.ofNat 3 (payField f 6 1), true), closeReason := BitVec.ofNat 3 (payField f 6 1),
                 closePeer := true, closeMine := false, returnsMade := false })) ∧
    (goodFrame f 7 = true →
      ∃ t, exec (.returnFrameRx p l f) s = .next t ∧ OnlyPlain p u t ∧ t.plains[p] = { u.plains[p] with links := t.plains[p].links } ∧
        t.plains[p].links[l].rxNext = L.rxNext + 1 ∧
        (returnEntries f ≠ [] → t.plains[p].links[l].flags = setBit L.flags 7 true) ∧
        (∀ h e, h ∈ L.replay → (returnEntries f).find? (fun e => e.1 = h.frame.seq) = some e →
          ({ h with mark := .returned e.2, unconf := 0 } : HeldFrame) ∈ t.plains[p].links[l].replay) ∧
        (∀ m : Fin 8, m ≠ l → t.plains[p].links[m] = u.plains[p].links[m]))

/-- A link opens: EN, OPEN, training, OPEN frames both ways; a failing OPEN is refused with its reason (spec/01_plains_and_the_module.md (R23), spec/08_pass_links.md (R164; R167; R168; R169; R176; R177; R179)). It rests on the model's choices of log entries 24, 52 and 55. -/
def Obligations.LinksOpenByTrainingAndOpen : Prop :=
  ∀ (p l : Fin 8) (s : State),
    let L := s.plains[p].links[l]
    (∀ v : Word, exec (.linkCtlEn p l v) s =
      if s.plains[p].run.mode ≠ .load then .next s
      else .next (modPlain s p fun P => modLink P l fun L =>
        if v.getLsbD 0 = true ∧ L.state = .off ∧ farEnabled s.fuses.plainsEn p l = true then
          { L with en := true, foreign := v.getLsbD 1, state := .train, working := lanesOf l, attempts := 0, lastRx := s.timeNs }
        else { L with en := v.getLsbD 0, foreign := v.getLsbD 1 })) ∧
    (L.state = .closed → (L.replay.all fun h => decide (h.mark = .held)) = true → farEnabled s.fuses.plainsEn p l = true → keptClosed s.plains[p] L = false →
      exec (.linkCtlOpen p l) s = .next (modPlain s p fun P => modLink P l fun L =>
        { L with state := .train, thenReplay := false, working := lanesOf l, attempts := 0, replay := [], lastRx := s.timeNs })) ∧
    (keptClosed s.plains[p] L = true → exec (.linkCtlOpen p l) s = .next s) ∧
    (∀ w, L.state = .train → 0 < w → w ≤ lanesOf l →
      exec (.linkTrained p l w) s = .next (modPlain s p fun P => modLink P l fun L =>
        { L with state := .openWait, width := w, working := w, openIn := false, openOut := false, openAt := none, ueLog := [],
                 stream := [], codewords := [], rxBytes := 0, rxWords := [], badWords := [] })) ∧
    (L.state = .openWait → s.plains[p].run.admitted = true → (s.plains[p].run.mode = .hold ∨ modeStepping s.plains[p].run.mode = true) → L.dueOpen = [] →
      openDue s.timeNs L = true →
      exec (.openResend p l) s = .next (modPlain s p fun P => modLink P l fun L => { L with dueOpen := [openFrame P L] })) ∧
    (∀ f v, arrived s p l f = some v → (lanesUp v.plains[p].links[l].state = false ∨ nextSpoilt v.plains[p].links[l] = false) →
      let u := modPlain v p fun P => modLink P l countArrival
      let M := u.plains[p].links[l]
      (goodFrame f 4 = true → M.state = .openWait → u.plains[p].run.mode ≠ .load → u.plains[p].run.mode ≠ .valley → farEnabled u.fuses.plainsEn p l = true →
        ∃ t, exec (.openFrameRx p l f) s = .next t ∧ OnlyPlain p u t ∧ t.plains[p] = { u.plains[p] with links := t.plains[p].links } ∧
          (∀ m : Fin 8, m ≠ l → t.plains[p].links[m] = u.plains[p].links[m]) ∧
          (u.plains[p].run.admitted = false → t.plains[p].links[l] = refuse 5 { M with lastRx := u.timeNs }) ∧
          (u.plains[p].run.admitted = true → openReason u.plains[p] M f ≠ 0 →
            t.plains[p].links[l] = { refuse (openReason u.plains[p] M f) { M with lastRx := u.timeNs } with openIn := false }) ∧
          (u.plains[p].run.admitted = true → openReason u.plains[p] M f = 0 →
            if M.openOut then
              t.plains[p].links[l].state = .active ∧ t.plains[p].links[l].txNext = 0 ∧ t.plains[p].links[l].rxNext = 0 ∧ t.plains[p].links[l].txAck = 4095 ∧
              t.plains[p].links[l].dueInit = initialGrants M ∧ t.plains[p].links[l].dueCycle = [repeatFrame u.plains[p]] ∧ t.plains[p].links[l].cred = []
            else t.plains[p].links[l] = { M with lastRx := u.timeNs, openIn := true })) ∧
      (goodFrame f 5 = true → M.state ≠ .off → M.state ≠ .closed → (M.thenReplay = false ∨ u.plains[p].cap.rplActive = false) →
        exec (.refuseFrameRx p l f) s = .next (modPlain u p fun P => modLink P l fun L =>
          { L with lastRx := u.timeNs, refused := satInc L.refused, refuse := BitVec.ofNat 3 (payField f 0 1), openOut := false })) ∧
      (goodFrame f 5 = true → M.state = .closed →
        exec (.refuseFrameRx p l f) s = .next (modPlain u p fun P => modLink P l fun L => { L with lastRx := u.timeNs, drop := satInc L.drop })) ∧
      (goodFrame f 8 = true → exec (.trainFrameRx p l f) s = .next (modPlain u p fun P => modLink P l fun L => { L with lastRx := u.timeNs })))

/-- A link closes by its sequence; after 100 us without an end it closes with reason TIMEOUT (spec/08_pass_links.md (R175; R176; R179)). It rests on the model's choices of log entries 23 and 24. -/
def Obligations.LinksCloseInOrder : Prop :=
  ∀ (p l : Fin 8) (s : State), s.plains[p].run.after = none →
    let L := s.plains[p].links[l]
    (L.state = .active → L.dueClosing = none →
      exec (.linkCtlClose p l) s = .next (modPlain s p fun P => modLink P l fun L =>
        { L with dueClosing := some (4, false), closeMine := true, closeReason := 4, closePeer := false, closeTaken := false, closeBoth := false,
                 returnsMade := false, thenOff := false })) ∧
    (L.state = .train ∨ L.state = .openWait →
      ∃ t, exec (.linkCtlClose p l) s = .next t ∧ OnlyPlain p s t ∧ t.plains[p].links[l].closeReason = 4 ∧
        t.plains[p].links[l].state = (if L.thenReplay && released L then .openWait else .closed) ∧
        (∀ m : Fin 8, m ≠ l → t.plains[p].links[m] = s.plains[p].links[m])) ∧
    (L.state = .off ∨ L.state = .drain ∨ L.state = .closed → exec (.linkCtlClose p l) s = .next s) ∧
    exec (.linkCtlRetRel p l) s = .next (modPlain s p fun P => modLink P l fun L =>
      { L with replay := L.replay.filter fun h => decide (h.mark = .held)
               state := if L.state = .closed ∧ L.thenReplay then .openWait else L.state }) ∧
    (∀ c, L.state = .drain → L.closeSent = some c → c + 10000 ≤ s.timeNs → L.closeMine = true → L.returnsMade = false → L.closeTaken = false →
      exec (.closeDeliveryEnd p l) s = .next (modPlain s p fun P => modLink P l fun L =>
        { L with returnsMade := true, dueReturn := L.dueReturn ++ returnsDue L, discarded := [], inbuf := L.inbuf.filter (·.old) }) ∧
      (∀ x ∈ undelivered L.inbuf, returnEntry x.1 x.2 ∈ returnsDue L) ∧ (∀ q ∈ L.discarded, returnEntry q 0 ∈ returnsDue L)) ∧
    (∀ c, L.state = .drain → L.closeSent = some c → c + 10000 ≤ s.timeNs → L.closeMine = true → L.returnsMade = false → L.closeTaken = true →
      ∃ t, exec (.closeDeliveryEnd p l) s = .next t ∧ OnlyPlain p s t ∧ (∀ m : Fin 8, m ≠ l → t.plains[p].links[m] = s.plains[p].links[m]) ∧
        t.plains[p].links[l].returnsMade = true ∧ t.plains[p].links[l].discarded = [] ∧ t.plains[p].links[l].inbuf = L.inbuf.filter (·.old) ∧
        (if unacked L = [] ∧ L.dueReturn ++ returnsDue L = [] ∧ L.dueClosing = none ∧ ackSent L = true ∧
            (L.closeBoth = false ∨ (L.replay.all fun h => decide (h.mark ≠ .held)) = true) then
          t.plains[p].links[l].state = (if L.thenReplay && !L.thenOff && released L then .openWait else .closed) ∧
          t.plains[p].links[l].replay = L.replay.filter fun h => decide (h.mark ≠ .held)
         else t.plains[p].links[l] = { L with returnsMade := true, dueReturn := L.dueReturn ++ returnsDue L, discarded := [], inbuf := L.inbuf.filter (·.old) })) ∧
    (∀ c, L.state = .drain ∨ L.state = .retrain → L.closeSent = some c → c + 100000 ≤ s.timeNs → L.thenOff = false → L.thenReplay = false →
      ∃ t, exec (.closeTimeout p l) s = .next t ∧ OnlyPlain p s t ∧ t.plains[p] = { s.plains[p] with links := t.plains[p].links } ∧
        t.plains[p].links[l].state = .closed ∧ t.plains[p].links[l].closeReason = 6 ∧ t.plains[p].links[l].inbuf = L.inbuf ∧
        (∀ h, h ∈ L.replay → h.acked = false → h.mark = .held → ({ h with mark := .unconfirmed } : HeldFrame) ∈ t.plains[p].links[l].replay) ∧
        (∀ m : Fin 8, m ≠ l → t.plains[p].links[m] = s.plains[p].links[m]))

/-- ACK frees frames, NAK and the replay timeout resend, a lost lane retrains, a dead link goes down (spec/08_pass_links.md (R149; R150; R156; R157; R160; R161; R162; R164; R165)). It rests on the model's choices of log entries 51 and 55. -/
def Obligations.LinksAcknowledgeAndReplay : Prop :=
  ∀ (p l : Fin 8) (s : State), s.plains[p].run.after = none →
    let L := s.plains[p].links[l]
    (∀ a code lane bad, L.state = .active → lane < L.width → bad ≤ 1 → code ≠ 1 → controlArrives s p l a code = true →
      0 < (a - L.txAck).toNat → (a - L.txAck).toNat ≤ (L.txNext - 1 - L.txAck).toNat →
      ∃ t, exec (.ackRx p l { ack := a, lane := lane, bad := bad, code := code }) s = .next t ∧ OnlyPlain p s t ∧ t.plains[p] = { s.plains[p] with links := t.plains[p].links } ∧
        t.plains[p].links[l].txAck = a ∧ t.plains[p].links[l].state = .active ∧ t.plains[p].links[l].fecCe = satAdd L.fecCe bad ∧
        (∀ h ∈ t.plains[p].links[l].replay, h.acked = true ∨ seqBefore a h.frame.seq = true) ∧
        (∀ m : Fin 8, m ≠ l → t.plains[p].links[m] = s.plains[p].links[m])) ∧
    (∀ a lane bad, L.state = .active → lane < L.width → bad ≤ 1 → controlArrives s p l a 1 = true →
      exec (.nakRx p l { ack := a, lane := lane, bad := bad }) s = .next (modPlain s p fun P => modLink P l fun L =>
        startReplay (applyAck { countCodeword lane false L with fecCe := satAdd L.fecCe bad } s.timeNs a))) ∧
    (∀ a code lane bad, lanesUp L.state = true → lane < L.width → 2 ≤ bad → laneWorn lane (logUe s.timeNs lane L) = false →
      exec (.ackRx p l { ack := a, lane := lane, bad := bad, code := code }) s = .next (modPlain s p fun P => modLink P l fun L => logUe s.timeNs lane (countCodeword lane true L)) ∧
      exec (.nakRx p l { ack := a, lane := lane, bad := bad }) s = .next (modPlain s p fun P => modLink P l fun L => logUe s.timeNs lane (countCodeword lane true L)) ∧
      (logUe s.timeNs lane L).fecUe = satInc L.fecUe) ∧
    (linkSending L.state = true → unacked L ≠ [] → L.replayFrom = none → L.ackAt + 1000 ≤ s.timeNs →
      exec (.replayTimeout p l) s = .next (modPlain s p fun P => modLink P l fun L =>
        { L with ackAt := s.timeNs, replayFrom := some (L.txAck + 1), replayCnt := satInc L.replayCnt, recoverTo := some (L.txNext - 1), recovered := true })) ∧
    (∀ c, L.owedAt = some c → c + 50 ≤ s.timeNs →
      exec (.creditReturnTimeout p l) s = .next (modPlain s p fun P => modLink P l fun L => { L with dueCredit := true })) ∧
    (let down (w : Nat) (again : Bool) : Link :=
        { L with state := .retrain, retrainCnt := satInc L.retrainCnt, attempts := 0, working := w, replayFrom := none, retrainAt := s.timeNs,
                 retest := again, recovered := true, ueLog := [] }
      let left (t : State) (M : Link) : Prop :=
        OnlyPlain p s t ∧ t.plains[p].links[l] = M ∧ (∀ m : Fin 8, m ≠ l → t.plains[p].links[m] = s.plains[p].links[m]) ∧
        t.plains[p].mgr = (if L.state = .active ∧ L.en = true then (event s.plains[p] 0x0022 l.val L.closeReason.toNat).mgr else s.plains[p].mgr) ∧
        t.plains[p].sync = { s.plains[p].sync with gateNs := t.plains[p].sync.gateNs } ∧
        t.plains[p] = { s.plains[p] with links := t.plains[p].links, mgr := t.plains[p].mgr, sync := t.plains[p].sync }
      (∀ w, linkSending L.state = true → w ≠ 0 → w < L.width → ∃ t, exec (.laneFail p l w) s = .next t ∧ left t (down w false)) ∧
      (s.plains[p].run.mode = .hold → L.state = .active → ∃ t, exec (.linkCtlRetrain p l) s = .next t ∧ left t (down (lanesOf l) true))) ∧
    (∀ n, let w := if L.retest then min n L.working else L.working
      L.state = .retrain → w ≠ 0 → s.timeNs ≤ L.retrainAt + retrainLimit l → L.closePend = none → L.closeSent = none →
      ∃ t, exec (.retrainDone p { link := l, width := n }) s = .next t ∧ OnlyPlain p s t ∧ t.plains[p].links[l].state = .active ∧ t.plains[p].links[l].width = w ∧
        (unacked L ≠ [] → t.plains[p].links[l].replayFrom = some (L.txAck + 1)) ∧
        (w < lanesOf l → t.plains[p].links[l].flags = setBit L.flags 3 true ∧ t.plains[p].mgr = (event s.plains[p] 0x0021 l.val w).mgr) ∧
        t.plains[p] = { s.plains[p] with links := t.plains[p].links, mgr := t.plains[p].mgr }) ∧
    (∀ n, L.state = .retrain → min n L.working ≠ 0 → (n < L.working ∨ L.retrainAt + retrainLimit l < s.timeNs) → L.attempts + 1 < 3 →
      exec (.retrainAttemptFail p l n) s = .next (modPlain s p fun P => modLink P l fun L =>
        { L with attempts := L.attempts + 1, working := min n L.working, retrainAt := s.timeNs })) ∧
    (∀ n, L.state = .retrain → (n < L.working ∨ L.retrainAt + retrainLimit l < s.timeNs) → (min n L.working = 0 ∨ 3 ≤ L.attempts + 1) →
      s.plains[p].health.winOpen = false → s.plains[p].run.modePend ≠ some .valley → L.thenOff = false →
      ∃ t, exec (.retrainAttemptFail p l n) s = .next t ∧ OthersKept p s t ∧ t.plains[p].links[l].state = .closed ∧ t.plains[p].links[l].closeReason = 5 ∧
        t.plains[p].health.winOpen = true ∧ t.plains[p].health.code = 5 ∧ t.plains[p].tiles = s.plains[p].tiles)

/-- HELD_REPEAT repeats the last CYCLE frame with HELD in a hold; SYNC_LOST reports a silent link and holds a Plain that waits for it (spec/08_pass_links.md (R169; R172; R179)). It rests on the model's choices of log entries 23. -/
def Obligations.SilentLinkAndHeldRepeat : Prop :=
  ∀ (p : Fin 8) (s : State),
    (s.plains[p].run.mode = .hold → s.plains[p].run.admitted = true → s.plains[p].sync.heldAt + 10000 ≤ s.timeNs →
      exec (.heldRepeat p) s = .next (modPlain s p fun P => { P with
        links := vall P.links fun _ L => if L.state = .active then { L with dueCycle := L.dueCycle ++ [repeatFrame s.plains[p]] } else L
        sync := { P.sync with heldAt := s.timeNs } }) ∧
      (∀ f, s.plains[p].sync.lastCycle = some f → repeatFrame s.plains[p] = { f with flags := f.flags ||| 66 })) ∧
    (∀ l : Fin 8, s.plains[p].links[l].state = .active → s.plains[p].sync.tmo ≠ 0 →
      s.plains[p].links[l].lastRx + s.plains[p].sync.tmo.toNat * 1000 ≤ s.timeNs → s.plains[p].run.modePend ≠ some .valley →
      ∃ t, exec (.syncLost p l) s = .next t ∧ OnlyPlain p s t ∧ t.plains[p].sync.stat = setBit s.plains[p].sync.stat 2 true ∧
        t.plains[p].links[l] = { s.plains[p].links[l] with lastRx := s.timeNs, flags := setBit s.plains[p].links[l].flags 2 true } ∧
        (∀ m : Fin 8, m ≠ l → t.plains[p].links[m] = s.plains[p].links[m]) ∧
        t.plains[p].mgr = (event s.plains[p] 0x0023 l.val 0).mgr ∧ t.plains[p].tiles = s.plains[p].tiles ∧ t.plains[p].basin = s.plains[p].basin ∧
        (if s.plains[p].run.phase = .row9 ∧ gateOk s.plains[p] = false then
          t.plains[p].run.mode = .hold ∧ t.plains[p].run.phase = .stopped ∧ t.plains[p].run.cycle = s.plains[p].run.cycle ∧
          t.plains[p].sync.gateNs = w32 (min (s.timeNs - s.plains[p].run.row9At) (2 ^ 32 - 1))
         else t.plains[p] = { s.plains[p] with links := t.plains[p].links, mgr := t.plains[p].mgr,
                                               sync := { s.plains[p].sync with stat := t.plains[p].sync.stat } }))

/-- PASS_RX_PUSH moves a buffered word into its destination queue, owes its credit, logs a foreign word (spec/06_decoupling_queues.md (R121), spec/08_pass_links.md (R163; R164; R166), spec/09_capture_and_replay.md (R186)). It rests on the model's choices of log entries 23 and 45. -/
def Obligations.ReceivedWordEntersItsQueue : Prop :=
  ∀ (p l : Fin 8) (c : Fin 64) (s : State) (w : InWord), nextIn s.plains[p].links[l] c = some w →
    let L := s.plains[p].links[l]
    let d := chanDest L w.chan
    if 8 ≤ inDepth s.plains[p].tiles[d.1] d.2 ∨ (L.foreign = true ∧ inputRoom s.plains[p] 8 = false) ∨ farSideRuns s.plains[p] L = false then exec (.passRxPush p l c) s = .next s
    else ∃ t, exec (.passRxPush p l c) s = .next t ∧ OnlyPlain p s t ∧
      t.plains[p].tiles[d.1] = pushIn s.plains[p].tiles[d.1] d.2 w.data ∧
      inDepth t.plains[p].tiles[d.1] d.2 = inDepth s.plains[p].tiles[d.1] d.2 + 1 ∧
      (∀ k : Fin 64, k ≠ d.1 → t.plains[p].tiles[k] = s.plains[p].tiles[k]) ∧
      t.plains[p].links[l].inbuf = removeFirst w.chan L.inbuf ∧
      (w.old = false → t.plains[p].links[l].owed = put 0 L.owed w.chan (look 0 L.owed w.chan + 1)) ∧
      (w.old = true → t.plains[p].links[l].owed = L.owed) ∧
      (∀ m : Fin 8, m ≠ l → t.plains[p].links[m] = s.plains[p].links[m]) ∧
      (L.foreign = false → t.plains[p].cap = s.plains[p].cap) ∧
      t.plains[p] = { s.plains[p] with tiles := t.plains[p].tiles, links := t.plains[p].links, cap := t.plains[p].cap }

/-- JOB LOAD verifies and enters LOAD or refuses; LOAD_COMMIT installs the image or reports its failure (spec/07_basin_memory.md (R140; R147), spec/08_pass_links.md (R163), spec/10_images_and_certificates.md (R200; R202; R203; R204; R206; R208; R218), spec/13_host_interface.md (R269; R270), spec/15_bus_matrix_and_scratchpad.md (R329)). It rests on the model's choices of log entries 25, 28 and 36. -/
def Obligations.LoadVerifiesThenCommits : Prop :=
  ∀ (p : Fin 8) (s : State),
    (∀ (seq : Word) (addr len : DWord) (vplain : BitVec 16) (bind : DWord), startedNow s.plains[p] 0 seq 1 [(16, 8, addr.toNat), (24, 8, len.toNat), (32, 2, vplain.toNat), (40, 8, bind.toNat)] = true →
      (seq ∈ s.plains[p].hiu.rings[(0 : Fin 4)].abortSeen →
        exec (.jobLoad p seq addr len vplain bind) s = .next (modPlain s p fun P => outcome P 0 seq 0x11 0)) ∧
      (seq ∉ s.plains[p].hiu.rings[(0 : Fin 4)].abortSeen →
        (s.plains[p].run.mode ≠ .hold ∨ s.plains[p].run.after ≠ none ∨ (s.fuses.lc ≠ 2 ∧ s.fuses.lc ≠ 3) →
          exec (.jobLoad p seq addr len vplain bind) s =
            .next (modPlain s p fun P => outcome { P with ldr := { P.ldr with code := 0xC, detail := 0xFFFF } } 0 seq 0x0C 0xFFFF)) ∧
        (s.plains[p].run.mode = .hold → s.plains[p].run.after = none → (s.fuses.lc = 2 ∨ s.fuses.lc = 3) →
          ∃ t, exec (.jobLoad p seq addr len vplain bind) s = .next t ∧
            match verifyImage s p addr.toNat len.toNat vplain.toNat bind with
            | (u, found) => if u.plains[p].run.mode ≠ .hold ∨ u.plains[p].run.after ≠ none then t = u else match found with
            | .inr (code, detail) =>
              t = modPlain u p fun P => outcome { P with ldr := { P.ldr with code := BitVec.ofNat 4 code, detail := BitVec.ofNat 16 detail } } 0 seq code detail
            | .inl (man, rv) =>
              OnlyPlain p u t ∧ t.plains[p].run.mode = .load ∧ t.plains[p].run.admitted = false ∧ t.plains[p].ldr.pwrRsv = rv ∧
              t.plains[p].ldr.load = some { seq := seq, man := man, addr := addr, len := len, vplain := vplain.toNat, bind := bind } ∧ t.plains[p].ldr.phase = 2 ∧ t.plains[p].hiu.job = some (seq, .load) ∧ t.plains[p].cap.dir = [] ∧
              t.plains[p].ldr.switch = none ∧ t.plains[p].tiles = u.plains[p].tiles))) ∧
    (∀ J : LoadJob, s.plains[p].ldr.load = some J → s.plains[p].run.mode = .load → s.plains[p].links.toList.any closingLink = false →
      ∃ t, exec (.loadCommit p) s = .next t ∧
        match readParts p J.addr.toNat J.vplain J.man [1, 2, 3, 4, 5, 6] (settle s p) with
        | (u, found) => if u.plains[p].run.mode ≠ .load ∨ u.plains[p].run.after ≠ none then t = u else match found with
        | .inr (c, i) =>
          OnlyPlain p u t ∧ t.plains[p].run.mode = .hold ∧ t.plains[p].run.admitted = false ∧ t.plains[p].ldr.code = (if c = 4 then 4 else 0xD) ∧
          t.plains[p].ldr.detail = BitVec.ofNat 16 i ∧ t.plains[p].ldr.pwrRsv = 0x30 ∧ (∀ l : Fin 8, t.plains[p].links[l].state = .off)
        | .inl pts =>
          OnlyPlain p u t ∧ t.plains[p].run.mode = .hold ∧ t.plains[p].run.admitted = true ∧ t.plains[p].run.cycle = 0 ∧
          t.plains[p].ldr.len = descLen (pts.getD 0 []) ∧ t.plains[p].ldr.phase = 0 ∧ t.plains[p].ldr.code = 0 ∧
          (∀ k : Fin 64, t.plains[p].tiles[k] = loadTile (descLen (pts.getD 0 [])) (pts.getD 1 []) (pts.getD 2 []) k u.plains[p].tiles[k]) ∧
          (∀ (k : Fin 64) a, a < 256 → look laneX t.plains[p].tiles[k].nf a = w32 (num (pts.getD 2 []) (132096 * k.val + 4 * a) 4)) ∧
          t.plains[p].run.colDirty = false ∧ t.plains[p].health.incomplete = false ∧ t.plains[p].basin.recv = [] ∧
          (∀ i, i < 256 → look 0 t.plains[p].basin.rgn i = BitVec.ofNat 128 (num (pts.getD 3 []) (16 * i) 16)) ∧
          (∀ a, a < 5 → look 0 t.plains[p].basin.areaBase a = num (pts.getD 0 []) (16 + 8 * a) 4 % 2 ^ 23 ∧
            look 0 t.plains[p].basin.areaSize a = num (pts.getD 0 []) (20 + 8 * a) 4 % 2 ^ 23) ∧
          (Sparse.wf (fun _ => 0) u.plains[p].basin.rsv = true →
            num (pts.getD 0 []) 8 2 + num (pts.getD 0 []) 10 2 + num (pts.getD 0 []) 12 2 + num (pts.getD 0 []) 14 2 + look 0 u.plains[p].basin.rsv 4 ≤ 960 →
            ∀ k, k < 4 → look 0 t.plains[p].basin.rsv k = num (pts.getD 0 []) (8 + 2 * k) 2) ∧
          (∀ (j : Nat) (l : Fin 8), j < 8 → vlinkUsed (pts.getD 0 []) j = true → bound J.bind j = some l.val →
            (∀ i, i < j → ¬(vlinkUsed (pts.getD 0 []) i = true ∧ bound J.bind i = some l.val)) →
            t.plains[p].links[l].state = .train ∧ t.plains[p].links[l].en = true ∧ t.plains[p].links[l].foreign = (vlink (pts.getD 0 []) j).getLsbD 2 ∧
            ∀ n, n < 64 → look 0 t.plains[p].links[l].chan n = w32 (num (pts.getD 4 []) (256 * j + 4 * n) 4)) ∧
          (∀ l : Fin 8, (∀ j, j < 8 → ¬(vlinkUsed (pts.getD 0 []) j = true ∧ bound J.bind j = some l.val)) →
            t.plains[p].links[l].state = .off ∧ t.plains[p].links[l].en = false) ∧
          t.plains[p].sync.cur.epoch = w32 (num (pts.getD 5 []) 0 4) ∧ t.plains[p].sync.cur.first = 0 ∧
          t.plains[p].sync.cur.tag = (Config.sha384 (leBytes 48 (Config.sha384 (sub J.man 0 (64 + 128 * num J.man 8 4))).toNat ++
            leBytes 48 (Config.sha384 (pts.getD 5 [])).toNat)).extractLsb' 0 64) ∧
    (∀ (addr len v : Nat) (bind : DWord) (u : State) (man : List Byte) (rv : Nat), verifyImage s p addr len v bind = (u, .inl (man, rv)) →
      num man 0 4 = 0x4D495856 ∧ num man 4 2 = 1 ∧ num man 8 4 = 6 * num man 6 2 ∧ 64 + 128 * num man 8 4 + 96 ≤ len ∧ v < num man 6 2 ∧
      (∃ key, Config.ecdsaVerify key (Config.sha384 (sub man 0 (64 + 128 * num man 8 4))) (sub man (64 + 128 * num man 8 4) 96) = true) ∧
      ∃ d sched region cfg : List Byte,
        (∀ kp ∈ [(1, d), (2, sched), (4, region), (6, cfg)],
          leBytes 48 (Config.sha384 kp.2).toNat = sub (partEntry man (partIndex man v kp.1)) 64 48) ∧
        1 ≤ num d 0 2 ∧ num d 0 2 ≤ 8192 ∧ sched.length = 32768 * num d 0 2 ∧ num cfg 0 4 = num man 16 4 ∧ rv = envelopeOf d sched ∧
        (∀ i k, i < 64 → k < num d 0 2 → swCend (imageStep sched (num d 0 2) i k) = decide (k + 1 = num d 0 2)) ∧
        (∀ j, j < 8 → vlinkUsed d j = true → ∃ l, bound bind j = some l ∧ ∀ i, i < j → vlinkUsed d i = true → bound bind i ≠ some l) ∧
        (∀ i, i < 256 → rgnValid (imageRegion region i) = true →
          fld (imageRegion region i) 32 23 ≠ 0 ∧ fld (imageRegion region i) 0 23 + fld (imageRegion region i) 32 23 ≤ 0x600000))

/-- EPOCH_SWITCH makes a checked record pending or refuses it; PACE_CTL writes obey the grade's bound (spec/10_images_and_certificates.md (R212; R214; R215; R216; R218)). It rests on the model's choices of log entries 26. -/
def Obligations.EpochSwitchAndPaceWrites : Prop :=
  ∀ (p : Fin 8) (s : State),
    (∀ (seq : Word) (target : BitVec 48) (addr : DWord) (len : Word),
      startedNow s.plains[p] 3 seq 1 [(16, 6, target.toNat), (24, 8, addr.toNat), (32, 4, len.toNat)] = true → (modeStepping s.plains[p].run.mode = true ∨ s.plains[p].run.mode = .hold) →
      s.plains[p].run.admitted = true → s.plains[p].ldr.load = none → s.plains[p].ldr.switch = none →
      let u := (ldRead s p addr.toNat len.toNat).1
      let r := (ldRead s p addr.toNat len.toNat).2
      let code := recordCode u.fuses.tstepPs u.plains[p] r
      let stays : Prop := (modeStepping u.plains[p].run.mode = true ∨ u.plains[p].run.mode = .hold) ∧ u.plains[p].run.admitted = true ∧ u.plains[p].run.after = s.plains[p].run.after
      let ended (code : Nat) (ref : BitVec 4) : State := modPlain u p fun P => outcome { P with ldr := { P.ldr with lastRef := ref } } 3 seq code 0
      (¬ stays → exec (.epochSwitch p seq target addr len) s = .next u) ∧
      (stays → code = 1 → exec (.epochSwitch p seq target addr len) s = .next (ended 1 1)) ∧
      (stays → code ≠ 1 → w32 (num r 0 4) ≠ u.plains[p].sync.cur.epoch + 1 → exec (.epochSwitch p seq target addr len) s = .next (ended 0xE 0xE)) ∧
      (stays → code ≠ 1 → w32 (num r 0 4) = u.plains[p].sync.cur.epoch + 1 →
        (code ≠ 0 → exec (.epochSwitch p seq target addr len) s = .next (ended code (BitVec.ofNat 4 code))) ∧
        (code = 0 → target.toNat ≤ u.plains[p].run.cycle →
          exec (.epochSwitch p seq target addr len) s = .next (modPlain u p fun P => outcome { P with sync := { P.sync with stat := setBit P.sync.stat 4 true } } 3 seq 0x14 0)) ∧
        (code = 0 → u.plains[p].run.cycle < target.toNat →
          (freeBank u.plains[p] = none → exec (.epochSwitch p seq target addr len) s = .next (ended 0xF 0xF)) ∧
          (∀ bank, freeBank u.plains[p] = some bank →
            (∀ k : Fin 64, bankCount (mergedBank u.plains[p].tiles[k] u.plains[p].ldr.curBank bank k.val (patchesOf r)) bank ≤ 64) →
            ∃ t w, exec (.epochSwitch p seq target addr len) s = .next t ∧ OnlyPlain p u t ∧ t.plains[p].ldr.switch = some w ∧ w.seq = seq ∧
              w.target = target.toNat ∧ w.epoch = u.plains[p].sync.cur.epoch + 1 ∧ w.record = r ∧ w.bank = bank ∧
              t.plains[p].sync.pend = some { epoch := w.epoch, tag := w.tag, first := target.toNat } ∧
              t.plains[p].sync.cur = u.plains[p].sync.cur ∧ t.plains[p].ldr.curBank = u.plains[p].ldr.curBank ∧ t.plains[p].hiu = u.plains[p].hiu ∧
              (∀ k : Fin 64, t.plains[p].tiles[k] = { u.plains[p].tiles[k] with overlay := mergedBank u.plains[p].tiles[k] u.plains[p].ldr.curBank bank k.val (patchesOf r) }))))) ∧
    (∀ v : Word,
      (s.plains[p].run.mode = .load ∨ s.plains[p].run.mode = .hold →
        (v.extractLsb' 16 16).toNat < s.fuses.tstepPs →
          exec (.paceCtlWrite p v) s = .next (modPlain s p fun P => { P with ldr := { P.ldr with paceRefused := true } })) ∧
      (s.plains[p].run.mode = .load ∨ s.plains[p].run.mode = .hold → s.fuses.tstepPs ≤ (v.extractLsb' 16 16).toNat →
        ∃ t, exec (.paceCtlWrite p v) s = .next t ∧ OnlyPlain p s t ∧ t.plains[p].ldr.paceEn = v.getLsbD 0 ∧ t.plains[p].ldr.stepPs = (v.extractLsb' 16 16).toNat ∧
          t.plains[p].ldr.paceRefused = (s.plains[p].ldr.paceRefused && !v.getLsbD 1) ∧
          (s.plains[p].run.admitted = true → t.plains[p].ldr.period = periodOf (v.extractLsb' 16 16).toNat s.plains[p].ldr.len s.plains[p].ldr.waitNs) ∧
          t.plains[p] = { s.plains[p] with ldr := t.plains[p].ldr }) ∧
      (s.plains[p].run.mode ≠ .load → s.plains[p].run.mode ≠ .hold → exec (.paceCtlWrite p v) s = .next s))

/-- JOB MODE, HOLD, STEP, CHECKPOINT, REPLAY and RESET act on a Plain that may take them (spec/01_plains_and_the_module.md (R21), spec/09_capture_and_replay.md (R191; R192; R194), spec/13_host_interface.md (R269; R270), spec/17_power_timing_health.md (R356), spec/18_modes_resets_startup.md (R368; R372; R378)). It rests on the model's choices of log entries 28, 36, 46 and 22. -/
def Obligations.JobOperationsAct : Prop :=
  ∀ (p : Fin 8) (seq : Word) (s : State), s.plains[p].run.after = none → seq ∉ s.plains[p].hiu.rings[(0 : Fin 4)].abortSeen →
    (∀ code : Byte, startedNow s.plains[p] 0 seq 2 [(16, 1, code.toNat)] = true → modeOfCode code.toNat = none →
      exec (.jobMode p seq code) s = .next (modPlain s p fun P =>
        outcome P 0 seq (if s.plains[p].run.mode = .hold ∨ modeStepping s.plains[p].run.mode = true then 0x13 else 0x0C) 0)) ∧
    (∀ (code : Byte) (m : Mode), startedNow s.plains[p] 0 seq 2 [(16, 1, code.toNat)] = true → modeOfCode code.toNat = some m → modeTarget m = true → m ≠ .valley → s.plains[p].run.mode = .hold → mayStep s.plains[p] = true →
      ∃ t, exec (.jobMode p seq code) s = .next t ∧ OnlyPlain p s t ∧ t.plains[p].run.mode = m ∧ t.plains[p].run.phase = .row9 ∧
        t.plains[p].run.cycle = s.plains[p].run.cycle ∧ t.plains[p].tiles = s.plains[p].tiles ∧
        t.plains[p].hiu = { s.plains[p].hiu with done := s.plains[p].hiu.done ++ [{ ring := 0, seq := seq, status := 0, result := 0 }] }) ∧
    (∀ (code : Byte) (m : Mode), startedNow s.plains[p] 0 seq 2 [(16, 1, code.toNat)] = true → modeOfCode code.toNat = some m → modeTarget m = true → m ≠ .valley →
      modeTarget s.plains[p].run.mode = true → s.plains[p].run.mode ≠ m → s.plains[p].run.mode ≠ .valley →
      exec (.jobMode p seq code) s = .next (modPlain s p fun P => { P with hiu := { P.hiu with job := some (seq, .mode) }, run := { P.run with modePend := some m } })) ∧
    (startedNow s.plains[p] 0 seq 2 [(16, 1, 0)] = true → s.plains[p].run.mode = .hold ∨ s.plains[p].run.mode = .quarantine →
      ∃ t, exec (.jobMode p seq 0) s = .next t ∧ OthersKept p s t ∧
        if (closeLinks s.plains[p] 1 true).links.toList.any closingLink = true then
          t = modPlain s p fun P => { P with links := (closeLinks P 1 true).links, hiu := { P.hiu with job := some (seq, .mode) }, run := { P.run with after := some .valley } }
        else
          t.plains[p].run.mode = .valley ∧ t.plains[p].run.prev = s.plains[p].run.mode ∧ (∀ k : Fin 64, t.plains[p].tiles[k] = {}) ∧ (∀ l : Fin 8, t.plains[p].links[l].state = .off) ∧
          t.power.switchOff = s.power.switchOff.filter (fun x => decide (x.1 ≠ p)) ++
            ((List.finRange 9).reverse.filter fun c => bit (look 0 s.power.colOn p.val) c.val).map (fun c => (p, c.castSucc)) ++ (if bit s.power.coreOn p.val then [(p, 9)] else []) ∧
          look 0 t.power.grant p.val = 0 ∧ t.power.colOn = s.power.colOn ∧ t.power.coreOn = s.power.coreOn ∧
          ((t.power.switchOff.any fun x => decide (x.1 = p)) = true → ∃ c, t.plains[p].hiu.valleyDone = some c ∧ c.ring = 0 ∧ c.status = 0 ∧ c.seq = s.plains[p].hiu.rings[(0 : Fin 4)].cmp + 1)) ∧
    (startedNow s.plains[p] 0 seq 3 [] = true → s.plains[p].run.mode = .hold → s.plains[p].run.modePend ≠ some .valley →
      exec (.jobHold p seq) s = .next (modPlain s p fun P => { P with hiu := { P.hiu with
        job := none, done := P.hiu.done ++ [{ ring := 0, seq := seq, status := 0, result := BitVec.ofNat 64 P.run.cycle }] } })) ∧
    (startedNow s.plains[p] 0 seq 3 [] = true → modeStepping s.plains[p].run.mode = true → s.plains[p].run.phase ≠ .row9 →
      exec (.jobHold p seq) s = .next (modPlain s p fun P => { P with hiu := { P.hiu with job := some (seq, .hold) }, run := { P.run with holdCmd := true } })) ∧
    (∀ n : Word, startedNow s.plains[p] 0 seq 4 [(16, 4, n.toNat)] = true → n ≠ 0 → s.plains[p].run.mode = .hold → mayStep s.plains[p] = true →
      ∃ t, exec (.jobStep p seq n) s = .next t ∧ OnlyPlain p s t ∧ t.plains[p].run.mode = .step ∧ t.plains[p].run.phase = .row9 ∧
        t.plains[p].run.stepsLeft = some n.toNat ∧ t.plains[p].run.cycle = s.plains[p].run.cycle ∧ t.plains[p].hiu = { s.plains[p].hiu with job := some (seq, .step) }) ∧
    (startedNow s.plains[p] 0 seq 5 [] = true → s.plains[p].run.mode = .hold ∨ modeStepping s.plains[p].run.mode = true →
      exec (.jobCheckpoint p seq) s = .next (modPlain s p fun P => { P with hiu := { P.hiu with job := some (seq, .checkpoint) }, cap := { P.cap with dueJob := true } })) ∧
    (∀ (slot : BitVec 4) (stop : BitVec 48), startedNow s.plains[p] 0 seq 6 [(16, 1, slot.toNat), (17, 1, 0), (24, 6, stop.toNat)] = true →
      s.plains[p].run.mode = .hold → mayStep s.plains[p] = true →
      ∃ t, exec (.jobReplay p seq slot false stop) s = .next t ∧ OnlyPlain p s t ∧ t.plains[p].cap.rplStop = stop ∧
        t.plains[p].cap.rplErr = BitVec.ofNat 3 (replayError s.plains[p] slot.toNat false stop.toNat) ∧
        if replayError s.plains[p] slot.toNat false stop.toNat = 0 then
          t.plains[p].cap.rplActive = true ∧ t.plains[p].hiu.job = some (seq, .replay) ∧
          if (s.plains[p].links.map (replayLink false)).toList.any closingLink = true then
            t.plains[p].run.mode = .hold ∧ t.plains[p].run.after = some (.replay slot.toNat false)
          else t.plains[p].run.mode = .replay ∧ t.plains[p].run.phase = .row9 ∧ t.plains[p].run.after = none
        else
          t.plains[p].run = s.plains[p].run ∧
          t.plains[p].hiu.done = s.plains[p].hiu.done ++ [{ ring := 0, seq := seq, status := 0x17, result := BitVec.ofNat 64 (replayError s.plains[p] slot.toNat false stop.toNat) }]) ∧
    (∀ (slot : BitVec 4) (stop : BitVec 48) (e : CkptEntry), startedNow s.plains[p] 0 seq 6 [(16, 1, slot.toNat), (17, 1, 1), (24, 6, stop.toNat)] = true →
      s.plains[p].run.mode = .hold → find s.plains[p].cap.dir slot.toNat = some e →
      s.plains[p].basin.ce = [] → s.plains[p].basin.ue = [] → s.plains[p].basin.recv = [] →
      ∃ t, exec (.jobReplay p seq slot true stop) s = .next t ∧ OnlyPlain p s t ∧ t.plains[p].cap.rplStop = stop ∧
        t.plains[p].cap.rplErr = BitVec.ofNat 3 (replayError s.plains[p] slot.toNat true stop.toNat) ∧
        if replayError s.plains[p] slot.toNat true stop.toNat = 0 then
          if (s.plains[p].links.map (replayLink true)).toList.any closingLink = true then
            t.plains[p].run.mode = .hold ∧ t.plains[p].run.after = some (.replay slot.toNat true)
          else
            let B := rewind e.gen.toNat s.plains[p].basin
            t.plains[p].run.mode = .replay ∧ t.plains[p].run.phase = .row9 ∧ t.plains[p].run.cycle = e.start ∧ t.plains[p].run.colDirty = false ∧
            t.plains[p].health.incomplete = false ∧ t.plains[p].hiu.job = some (seq, .replay) ∧
            t.plains[p].sync.cur = { epoch := w32 (num (slotBytesAt B slot.toNat 0 37) 8 4), tag := BitVec.ofNat 64 (num (slotBytesAt B slot.toNat 0 37) 12 8), first := e.start } ∧
            ∀ k : Fin 64, t.plains[p].tiles[k] = restoreTile B slot.toNat k s.plains[p].tiles[k]
        else
          t.plains[p].run = s.plains[p].run ∧
          t.plains[p].hiu.done = s.plains[p].hiu.done ++ [{ ring := 0, seq := seq, status := 0x17, result := BitVec.ofNat 64 (replayError s.plains[p] slot.toNat true stop.toNat) }]) ∧
    (startedNow s.plains[p] 0 seq 7 [] = true → s.fuses.lc ≠ 5 →
      ∃ t, exec (.jobReset p seq) s = .next t ∧ OthersKept p s t ∧ t.plains[p].run.phase = .stopped ∧
        t.plains[p].run.rstCause = 1 ∧ t.plains[p].run.rstCount = (if s.plains[p].run.rstCount = 0xFFFF then 0xFFFF else s.plains[p].run.rstCount + 1) ∧
        if (closeLinks s.plains[p] 3 true).links.toList.any closingLink = true then t.plains[p].run.after = some (.reset 1)
        else t.plains[p].run.mode = .boot ∧ t.plains[p].run.bootPend = true ∧ t.plains[p].run.bootCnt = satInc s.plains[p].run.bootCnt)

/-- JOB LINK OPEN, CLOSE, RETRAIN and RET_REL do what LINK_CTL does, and complete with success (spec/08_pass_links.md (R162; R167; R175; R176), spec/13_host_interface.md (R269)). It rests on the model's choices of log entries 28. -/
def Obligations.JobLinkOperationsActAsLinkCtl : Prop :=
  ∀ (p : Fin 8) (seq : Word) (link : Byte) (s : State), s.plains[p].run.after = none →
    let l : Fin 8 := Fin.ofNat 8 link.toNat
    let ends (t : State) (status : Nat) : State := modPlain t p fun P => outcome P 0 seq status 0
    let started (code : Nat) : Prop := startedNow s.plains[p] 0 seq 8 [(16, 1, link.toNat), (17, 1, code)] = true
    let may : Prop := s.plains[p].run.mode = .hold ∨ modeStepping s.plains[p].run.mode = true
    (may → 7 < link.toNat →
      (started 0 → exec (.jobLinkOpen p seq link) s = .next (ends s 0x13)) ∧ (started 1 → exec (.jobLinkClose p seq link) s = .next (ends s 0x13)) ∧
      (started 2 → s.plains[p].run.mode = .hold → exec (.jobLinkRetrain p seq link) s = .next (ends s 0x13)) ∧
      (started 3 → exec (.jobLinkRetRel p seq link) s = .next (ends s 0x13))) ∧
    (may → link.toNat ≤ 7 →
      (started 0 → ∃ t, exec (.linkCtlOpen p l) s = .next t ∧ exec (.jobLinkOpen p seq link) s = .next (ends t 0)) ∧
      (started 1 → ∃ t, exec (.linkCtlClose p l) s = .next t ∧ exec (.jobLinkClose p seq link) s = .next (ends t 0)) ∧
      (started 3 → ∃ t, exec (.linkCtlRetRel p l) s = .next t ∧ exec (.jobLinkRetRel p seq link) s = .next (ends t 0)) ∧
      (started 2 → s.plains[p].run.mode = .hold → ∃ t, exec (.linkCtlRetrain p l) s = .next t ∧ exec (.jobLinkRetrain p seq link) s = .next (ends t 0))) ∧
    (started 2 → s.plains[p].run.mode ≠ .hold → exec (.jobLinkRetrain p seq link) s = .next (ends s 0x0C)) ∧
    (¬may →
      (started 0 → exec (.jobLinkOpen p seq link) s = .next (ends s 0x0C)) ∧ (started 1 → exec (.jobLinkClose p seq link) s = .next (ends s 0x0C)) ∧
      (started 3 → exec (.jobLinkRetRel p seq link) s = .next (ends s 0x0C)))

/-- XACT ADVANCE completes, WRITE and READ wait for their cycle or come late, a due transfer moves its pieces (spec/13_host_interface.md (R273; R274; R275)). It rests on the model's choices of log entries 32. -/
def Obligations.XactOperationsKeepTheirCycles : Prop :=
  ∀ (p : Fin 8) (s : State),
    (∀ (seq : Word) (cycle : BitVec 48), s.plains[p].run.after = none → (s.plains[p].run.mode = .hold ∨ modeStepping s.plains[p].run.mode = true) →
      let fieldsOk (woff len : Nat) : Prop :=
        woff % 64 = 0 ∧ len % 64 = 0 ∧ len ≤ 0x100000 ∧ woff + len ≤ look 0 s.plains[p].basin.areaSize 3 * 4096 ∧ s.plains[p].hiu.xactPrev ≤ cycle.toNat
      let ended (status : Nat) : State := modPlain s p fun P => outcome { P with hiu := { P.hiu with xactPrev := cycle.toNat } } 1 seq status 0
      let d := descOf s.plains[p].hiu.rings[(1 : Fin 4)] seq
      (startedNow s.plains[p] 1 seq 0 [(16, 6, cycle.toNat)] = true →
        (fieldsOk (descField d 32 4) (descField d 36 4) → exec (.xactAdvance p seq cycle) s = .next (ended 0)) ∧
        (¬ fieldsOk (descField d 32 4) (descField d 36 4) → exec (.xactAdvance p seq cycle) s = .next (ended 0x13))) ∧
      (∀ (haddr : DWord) (woff len : Word),
        let ops : List (Nat × Nat × Nat) := [(16, 6, cycle.toNat), (24, 8, haddr.toNat), (32, 4, woff.toNat), (36, 4, len.toNat)]
        let ok : Prop := fieldsOk woff.toNat len.toNat ∧ 0x8000000000 ≤ haddr.toNat ∧ haddr.toNat + len.toNat ≤ 0x10000000000
        let joins (write : Bool) : State := modPlain s p fun P => { P with hiu := { P.hiu with xactPrev := cycle.toNat, xacts := P.hiu.xacts ++
          [{ seq := seq, write := write, cycle := cycle.toNat, haddr := haddr, woff := woff.toNat, len := len.toNat, active := false }] } }
        (¬ ok →
          (startedNow s.plains[p] 1 seq 1 ops = true → exec (.xactWrite p seq cycle haddr woff len) s = .next (ended 0x13)) ∧
          (startedNow s.plains[p] 1 seq 2 ops = true → exec (.xactRead p seq cycle haddr woff len) s = .next (ended 0x13))) ∧
        (ok →
          (startedNow s.plains[p] 1 seq 1 ops = true → exec (.xactWrite p seq cycle haddr woff len) s =
            .next (if cycleBegun s.plains[p] cycle.toNat then ended 0x16 else joins true)) ∧
          (startedNow s.plains[p] 1 seq 2 ops = true → exec (.xactRead p seq cycle haddr woff len) s =
            .next (if cycleBegun s.plains[p] (cycle.toNat + 1) then ended 0x16 else joins false))))) ∧
    (∀ x rest, takeXact (xactActive s.plains[p]) s.plains[p].hiu.xacts = some (x, rest) → x.len = 0 →
      exec (.xactTransferDone p) s = .next (modPlain s p fun P => outcome { P with hiu := { P.hiu with xacts := rest } } 1 x.seq 0 0)) ∧
    (∀ x rest, takeXact (xactActive s.plains[p]) s.plains[p].hiu.xacts = some (x, rest) → x.len ≠ 0 →
      let win := 0x1000000000 + look 0 s.plains[p].basin.areaBase 3 * 4096 + x.woff
      let T : Transfer := { op := .copy, src := if x.write then x.haddr.toNat else win, dst := if x.write then win else x.haddr.toNat, len := x.len }
      let r := runPieces { chan := 15, late := none, origin := 0, live := fun P => decide (x ∈ P.hiu.xacts) } p T (pieceCount T) x.done s
      ∃ t, exec (.xactTransferDone p) s = .next t ∧ OthersKept p s t ∧
        if x ∉ r.1.plains[p].hiu.xacts then t = r.1 else match r.2.2 with
        | none => t.plains[p].hiu.done = r.1.plains[p].hiu.done ∧
            t.plains[p].hiu.xacts = s.plains[p].hiu.xacts.map fun y => if y = x then { x with done := r.2.1 } else y
        | some (status, _) => t.plains[p].hiu.xacts = rest ∧
            ∃ o, t.plains[p].hiu.done.getLast? = some o ∧ o.ring = 1 ∧ o.seq = x.seq ∧ (o.status = 0 ↔ status = 0))

/-- BULK COPY, FILL and COMPARE on host memory move, fill and compare exactly the bytes named, on channel 15 (spec/13_host_interface.md (R259; R276), spec/14_dma_engine.md (R290; R292; R295; R303)). -/
def Obligations.BulkTransfersMoveHostData : Prop :=
  ∀ (p : Fin 8) (seq : Word) (src dst : DWord) (len : Word) (s : State),
    s.plains[p].run.after = none → (s.plains[p].run.mode = .hold ∨ modeStepping s.plains[p].run.mode = true) → s.plains[p].hiu.fn.bme = true →
    (∀ c : Fin 16, s.plains[p].dma.ch[c].cur = none) → s.plains[p].dma.late = [] → s.plains[p].bus.queue = [] → look 0 s.power.grant p.val ≠ 0 → Memory.wf Config.hostFree s.hostMem = true →
    src.toNat % 64 = 0 → dst.toNat % 64 = 0 → len.toNat % 64 = 0 →
    0x8000000000 ≤ src.toNat → src.toNat < 0x10000000000 → src.toNat + len.toNat ≤ 0x10000000000 →
    0x8000000000 ≤ dst.toNat → dst.toNat < 0x10000000000 → dst.toNat + len.toNat ≤ 0x10000000000 →
    s.plains[p].hiu.hwin.toNat + 0x8000000000 ≤ 2 ^ 64 →
    let a := s.plains[p].hiu.hwin.toNat + (src.toNat - 0x8000000000)
    let b := s.plains[p].hiu.hwin.toNat + (dst.toNat - 0x8000000000)
    let ops : List (Nat × Nat × Nat) := [(16, 8, src.toNat), (24, 8, dst.toNat), (32, 4, len.toNat)]
    let ends (t : State) (status last result : Nat) : Prop :=
      t = { modPlain s p (fun P => { P with dma := t.plains[p].dma, hiu := (outcome P 2 seq status result).hiu,
                                            bus := { P.bus with last := t.plains[p].bus.last } }) with hostMem := t.hostMem } ∧
      t.plains[p].dma.ch[(15 : Fin 16)].done = satInc s.plains[p].dma.ch[(15 : Fin 16)].done ∧
      t.plains[p].dma.ch[(15 : Fin 16)].last = BitVec.ofNat 8 last ∧ t.plains[p].dma.ch[(15 : Fin 16)].running = false ∧
      t.plains[p].dma.events.map (·.code) = s.plains[p].dma.events.map (·.code) ++ [0x1F] ∧
      (∀ c : Fin 16, c ≠ 15 → t.plains[p].dma.ch[c] = s.plains[p].dma.ch[c])
    (∀ pattern : DWord, startedNow s.plains[p] 2 seq 2 [(24, 8, dst.toNat), (32, 4, len.toNat), (40, 8, pattern.toNat)] = true →
      ∃ t, exec (.bulkFill p seq dst len pattern) s = .next t ∧ ends t 0 0 0 ∧ Memory.wf Config.hostFree t.hostMem = true ∧
        (∀ i, i < len.toNat → sget Config.hostFree t.hostMem (b + i) = pattern.extractLsb' (8 * (i % 8)) 8) ∧
        (∀ x, x < b ∨ b + len.toNat ≤ x → sget Config.hostFree t.hostMem x = sget Config.hostFree s.hostMem x)) ∧
    (startedNow s.plains[p] 2 seq 1 ops = true → a + len.toNat ≤ b ∨ b + len.toNat ≤ a →
      ∃ t, exec (.bulkCopy p seq src dst len) s = .next t ∧ ends t 0 0 0 ∧ Memory.wf Config.hostFree t.hostMem = true ∧
        (∀ i, i < len.toNat → sget Config.hostFree t.hostMem (b + i) = sget Config.hostFree s.hostMem (a + i)) ∧
        (∀ x, x < b ∨ b + len.toNat ≤ x → sget Config.hostFree t.hostMem x = sget Config.hostFree s.hostMem x)) ∧
    (startedNow s.plains[p] 2 seq 3 ops = true →
      ((∀ i, i < len.toNat → sget Config.hostFree s.hostMem (a + i) = sget Config.hostFree s.hostMem (b + i)) →
        ∃ t, exec (.bulkCompare p seq src dst len) s = .next t ∧ ends t 0 0 0 ∧ t.hostMem = s.hostMem) ∧
      (∀ k, k < len.toNat → (∀ i, i < k → sget Config.hostFree s.hostMem (a + i) = sget Config.hostFree s.hostMem (b + i)) →
        sget Config.hostFree s.hostMem (a + k) ≠ sget Config.hostFree s.hostMem (b + k) →
        ∃ t, exec (.bulkCompare p seq src dst len) s = .next t ∧ ends t 0x1A 6 k ∧ t.hostMem = s.hostMem))

/-- A LUT result is exact-X or pessimistic, position by position (spec/02_four_state_values.md (R33), spec/02_four_state_values.md (R34)). -/
def Obligations.LutOutputsFollowExactXAndPessimisticRules : Prop :=
  ∀ (tbl : Nat → Nat) (i0 i1 i2 d : Word) (k : Nat), k < 16 →
    let a : Nat → Pos := fun j => match j with
      | 0 => pos i0 k
      | 1 => pos i1 k
      | 2 => pos i2 k
      | _ => pos d k
    let inS : Nat → Prop := fun n => n < 16 ∧ ∀ j, j < 4 → unk (a j) = false → n.testBit j = (a j).getLsbD 0
    (∀ b : Bool, (∀ n, inS n → (tbl k).testBit n = b) → pos (lutEval .exactX tbl i0 i1 i2 d) k = if b then 1 else 0) ∧
    (∀ n m, inS n → inS m → (tbl k).testBit n = true → (tbl k).testBit m = false → pos (lutEval .exactX tbl i0 i1 i2 d) k = 2) ∧
    ((∃ j, j < 4 ∧ unk (a j) = true) → pos (lutEval .pessimistic tbl i0 i1 i2 d) k = 2) ∧
    ((∀ j, j < 4 → unk (a j) = false) →
      pos (lutEval .pessimistic tbl i0 i1 i2 d) k =
        if (tbl k).testBit (b2n ((a 0).getLsbD 0) + 2 * b2n ((a 1).getLsbD 0) + 4 * b2n ((a 2).getLsbD 0) + 8 * b2n ((a 3).getLsbD 0)) then 1 else 0)

/-- Resolve combines two drivers by the table, in any order; the pull variants replace what stays Z (spec/02_four_state_values.md (R37)). -/
def Obligations.ResolveCombinesDriversInAnyOrder : Prop :=
  ∀ (o d e : Word),
    (∀ k, k < 16 →
      (pos o k = 3 → pos (bwEval 0x179 o d) k = pos d k) ∧ (pos d k = 3 → pos (bwEval 0x179 o d) k = pos o k) ∧
      (pos o k ≠ 3 → pos d k ≠ 3 → pos (bwEval 0x179 o d) k = if pos o k = pos d k ∧ pos o k ≠ 2 then pos o k else 2) ∧
      pos (bwEval 0x17A o d) k = (if pos (bwEval 0x179 o d) k = 3 then 0 else pos (bwEval 0x179 o d) k) ∧
      pos (bwEval 0x17B o d) k = (if pos (bwEval 0x179 o d) k = 3 then 1 else pos (bwEval 0x179 o d) k) ∧
      pos (bwEval 0x17C o d) k = (if pos (bwEval 0x179 o d) k = 3 then 2 else pos (bwEval 0x179 o d) k)) ∧
    bwEval 0x179 o d = bwEval 0x179 d o ∧
    bwEval 0x179 (bwEval 0x179 o d) e = bwEval 0x179 o (bwEval 0x179 d e)

/-- A timer fires every PERIOD ns from its write; a period of 0 stops it (spec/14_dma_engine.md (R302)). -/
def Obligations.TimersFireEveryPeriod : Prop :=
  ∀ (p n : Fin 8) (s : State),
    let T := s.plains[p].dma.timers[n]
    (s.plains[p].run.mode ≠ .valley → ∀ v : Word,
      exec (.timerPeriodWrite p n v) s = .next (modPlain s p fun P => { P with dma := { P.dma with
        timers := P.dma.timers.set n { T with period := v, due := s.timeNs + v.toNat } } })) ∧
    (T.period ≠ 0 → T.due ≤ s.timeNs →
      exec (.timerFire p n) s = .next (modPlain s p fun P => { P with dma := { P.dma with
        timers := P.dma.timers.set n { T with count := satInc T.count, due := T.due + T.period.toNat }
        events := P.dma.events ++ [{ code := 1 + n.val }] } })) ∧
    (T.period = 0 ∨ s.timeNs < T.due → exec (.timerFire p n) s = .next s)

/-- RING_DB, DESCRIPTOR_ACCEPT and DESCRIPTOR_REREAD take descriptors in sequence (spec/13_host_interface.md (R262; R263; R264; R278; R282)). -/
def Obligations.RingsTakeDescriptorsInSequence : Prop :=
  ∀ (p : Fin 8) (r : Fin 4) (s : State),
    let P := s.plains[p]
    let R := P.hiu.rings[r]
    let seen : State := { s with tap := { s.tap with obsDoorbell := some s.timeNs } }
    (∀ v : Word,
      (ringAccepts P.run.mode r = false →
        exec (.ringDb p r v) s = .next (modPlain seen p fun P => modRing P r fun R => { R with dbLast := v, dbDrop := satInc R.dbDrop })) ∧
      (ringAccepts P.run.mode r = true → 2 ^ R.log2 < (v - R.cmp).toNat →
        ∃ t, exec (.ringDb p r v) s = .next t ∧ OthersKept p s t ∧
          t.plains[p].hiu.rings[r] = { R with dbLast := v, seqStop := false, stat := setBit R.stat 0 true }) ∧
      (ringAccepts P.run.mode r = true → (v - R.cmp).toNat ≤ 2 ^ R.log2 →
        exec (.ringDb p r v) s = .next (modPlain seen p fun P => modRing P r fun R =>
          { R with dbLast := v, seqStop := false, avail := if v = R.acc ∨ seqPrecedes v R.acc = true then R.avail else v }))) ∧
    (canAccept P r = false → exec (.descriptorAccept p r) s = .next s) ∧
    (canAccept P r = true →
      ∃ t, exec (.descriptorAccept p r) s = .next t ∧ OthersKept p s t ∧
        if num (ringSlot s R (R.acc + 1)) 0 4 = (R.acc + 1).toNat then
          OnlyPlain p s t ∧ t.plains[p].hiu.rings[r] = bufPut { R with acc := R.acc + 1 } (R.acc + 1) (ringSlot s R (R.acc + 1)) ∧
          t.plains[p].hiu.xactLimit = (if r = 1 then some (num (ringSlot s R (R.acc + 1)) 16 6) else P.hiu.xactLimit) ∧
          t.plains[p].mgr = (event P 0x0100 r.val (R.acc + 1).toNat).mgr ∧
          t.plains[p] = { P with hiu := t.plains[p].hiu, mgr := t.plains[p].mgr }
        else t.plains[p].hiu.rings[r] = { R with seqStop := true, stat := setBit R.stat 1 true }) ∧
    (∀ q, R.reread = some q → R.en = true → ringAccepts P.run.mode r = true → P.hiu.fn.bme = true →
      ∃ t, exec (.descriptorReread p r) s = .next t ∧ OnlyPlain p s t ∧ t.plains[p].hiu.rings[r].acc = R.acc ∧
        t.plains[p].hiu.rings[r].buf = (bufPut R q (ringSlot s R q)).buf ∧
        t.plains[p].hiu.rings[r].reread = (if q = R.acc then none else some (q + 1)) ∧
        (q = R.acc → t.plains[p].hiu.rings[r].start = t.plains[p].hiu.rings[r].cmp) ∧
        (num (ringSlot s R q) 0 4 = q.toNat → (q = R.start ∨ seqPrecedes q R.start = true) → ¬(r = 0 ∧ num (ringSlot s R q) 4 1 = 7) →
          t.plains[p].hiu.rings[r].cmp = R.cmp + 1 ∧
          ∃ c, t.plains[p].hiu.cqWait = P.hiu.cqWait ++ [c] ∧ c.seq = R.cmp + 1 ∧ c.ring = r ∧ c.status = 0x12))

/-- RING_INIT, RING_CFG, RING_ABORT and CQ_CSEQ writes act as the ring rules say (spec/13_host_interface.md (R267; R270; R282)). It rests on the model's choices of log entries 28 and 29. -/
def Obligations.RingRegistersTakeTheirWrites : Prop :=
  ∀ (p : Fin 8) (s : State), s.plains[p].run.mode ≠ .valley →
    (∀ (r : Fin 4) (v : Word),
      let R := s.plains[p].hiu.rings[r]
      (R.en = true → exec (.ringInit p r v) s = .next s) ∧
      (R.en = false → exec (.ringInit p r v) s = .next (modPlain s p fun P => modRing P r fun R =>
        { R with acc := v, start := v, cmp := v, avail := v, seqStop := false, reread := none, cancelled := [], abortSeen := [] })) ∧
      (∃ t, exec (.ringCfgWrite p r v) s = .next t ∧ OthersKept p s t ∧
        (∀ i : Fin 4, i ≠ r → t.plains[p].hiu.rings[i] = s.plains[p].hiu.rings[i]) ∧
        t.plains[p].hiu.rings[r] =
          if R.en = true ∧ v.getLsbD 8 = false ∧ R.acc ≠ R.cmp then { R with stat := setBit R.stat 4 true }
          else if (v.extractLsb' 0 5).toNat < 6 ∨ 16 < (v.extractLsb' 0 5).toNat then
            if R.en = true ∧ v.getLsbD 8 = true then { R with stat := setBit R.stat 5 true }
            else { R with stat := setBit R.stat 5 true, log2 := (v.extractLsb' 0 5).toNat, en := false }
          else { R with log2 := (v.extractLsb' 0 5).toNat, en := v.getLsbD 8 })) ∧
    (∀ q : Word,
      let R := s.plains[p].hiu.rings[(0 : Fin 4)]
      (seqPrecedes R.start q = true → (q = R.acc ∨ seqPrecedes q R.acc = true) →
        ∃ t, exec (.ringAbort p q) s = .next t ∧ OnlyPlain p s t ∧ q ∈ t.plains[p].hiu.rings[(0 : Fin 4)].cancelled ∧
          q ∈ t.plains[p].hiu.rings[(0 : Fin 4)].abortSeen ∧ t.plains[p].run = s.plains[p].run ∧ t.plains[p].hiu.done = s.plains[p].hiu.done) ∧
      (¬(seqPrecedes R.start q = true ∧ (q = R.acc ∨ seqPrecedes q R.acc = true)) → seqPrecedes R.cmp q = true → (q = R.start ∨ seqPrecedes q R.start = true) →
        ∃ t, exec (.ringAbort p q) s = .next t ∧ OnlyPlain p s t ∧ q ∈ t.plains[p].hiu.rings[(0 : Fin 4)].abortSeen ∧
          t.plains[p].hiu.rings[(0 : Fin 4)].cancelled = R.cancelled ∧ t.plains[p].mgr = (event s.plains[p] 0x0101 0 q.toNat).mgr ∧
          ∀ k : JobKind, s.plains[p].hiu.job = some (q, k) →
            let P := s.plains[p]
            let T := t.plains[p]
            let aborted : Prop := T.hiu.job = none ∧ T.hiu.done.getLast? = some { ring := 0, seq := q, status := 0x11, result := 0 }
            let goesOn : Prop := T.hiu.job = P.hiu.job ∧ T.hiu.done = P.hiu.done ∧ T.run.mode = P.run.mode ∧ T.run.phase = P.run.phase
            (k = .step ∨ k = .replay →
              (P.run.mode = .hold → aborted ∧ T.run = P.run) ∧
              (P.run.mode ≠ .hold → P.run.phase = .row9 → aborted ∧ T.run.mode = .hold ∧ T.run.phase = .stopped) ∧
              (P.run.mode ≠ .hold → P.run.phase ≠ .row9 → goesOn ∧ T.run.holdCmd = true)) ∧
            (k = .checkpoint → P.cap.dueJob = true → T.cap.dueJob = false ∧ T.cap.due = P.cap.due ∧ (P.run.mode = .hold → aborted) ∧ (P.run.mode ≠ .hold → goesOn)) ∧
            (k = .checkpoint → P.cap.dueJob = false → goesOn ∧ T.run = P.run ∧ T.cap = P.cap) ∧
            (k ≠ .step → k ≠ .replay → k ≠ .checkpoint → goesOn ∧ T.run = P.run ∧ T.cap = P.cap)) ∧
      (¬(seqPrecedes R.start q = true ∧ (q = R.acc ∨ seqPrecedes q R.acc = true)) → ¬(seqPrecedes R.cmp q = true ∧ (q = R.start ∨ seqPrecedes q R.start = true)) →
        ∃ t, exec (.ringAbort p q) s = .next t ∧ OthersKept p s t ∧ t.plains[p].hiu.rings[(0 : Fin 4)] = { R with stat := setBit R.stat 3 true })) ∧
    (∀ v : Word, ∃ t, exec (.cqCseqWrite p v) s = .next t ∧ OthersKept p s t ∧
      (if seqPrecedes s.plains[p].hiu.pseq v = true then t.plains[p].hiu.cqBad = true ∧ t.plains[p].hiu.cseq = s.plains[p].hiu.cseq
       else t = modPlain s p fun P => { P with hiu := { P.hiu with cseq := v, cqFull := P.hiu.cqFull && !cqRoom { P.hiu with cseq := v } } }))

/-- FW_START starts only START + 1, FW_POST completes only CMP + 1 (spec/13_host_interface.md (R266; R267; R270; R278)). It rests on the model's choices of log entries 28 and 29. -/
def Obligations.FirmwareStartsAndPostsInOrder : Prop :=
  ∀ (p : Fin 8) (v : Word) (s : State), s.plains[p].run.mode ≠ .valley →
    (let r : Fin 4 := Fin.ofNat 4 (v.extractLsb' 30 2).toNat
     let R := s.plains[p].hiu.rings[r]
     let q := R.start + 1
     let inOrder : Prop := R.start ≠ R.acc ∧ (v.extractLsb' 0 30).toNat = q.toNat % 2 ^ 30 ∧ R.reread = none ∧ (r = 0 → R.start = R.cmp)
     (inOrder → q ∉ R.cancelled →
       exec (.fwStart p v) s = .next (modPlain s p fun P =>
         let P := modRing P r fun R => { R with start := R.start + 1 }
         let P := { P with hiu := { P.hiu with fwRefused := false } }
         if badForm r (descOf R q) = true then outcome (notePrev r (descOf R q) P) r q (badStatus s.plains[p] r (descOf R q)) 0 else P)) ∧
     (inOrder → q ∈ R.cancelled →
       ∃ t c more, exec (.fwStart p v) s = .next t ∧ OnlyPlain p s t ∧ t.plains[p].hiu.fwRefused = true ∧
         t.plains[p].hiu.cqWait = s.plains[p].hiu.cqWait ++ c :: more ∧ c.seq = R.cmp + 1 ∧ c.ring = r ∧ c.status = 0x10) ∧
     (¬ inOrder → ∃ t, exec (.fwStart p v) s = .next t ∧ OthersKept p s t ∧ t.plains[p].hiu.rings[r] = { R with stat := setBit R.stat 2 true } ∧
       t.plains[p].hiu.cqWait = s.plains[p].hiu.cqWait)) ∧
    (let r : Fin 4 := Fin.ofNat 4 (v.extractLsb' 8 2).toNat
     let R := s.plains[p].hiu.rings[r]
     (R.cmp = R.start → ∃ t, exec (.fwPost p v) s = .next t ∧ OthersKept p s t ∧ t.plains[p].hiu.rings[r] = { R with stat := setBit R.stat 2 true } ∧
       t.plains[p].hiu.cqWait = s.plains[p].hiu.cqWait) ∧
     (R.cmp ≠ R.start →
       ∃ t c more, exec (.fwPost p v) s = .next t ∧ OnlyPlain p s t ∧ t.plains[p].hiu.cqWait = s.plains[p].hiu.cqWait ++ c :: more ∧
         c.seq = R.cmp + 1 ∧ c.ring = r ∧ c.status = (if 0x1A < (v.extractLsb' 0 8).toNat then 0 else v.setWidth 8) ∧ c.result = s.plains[p].hiu.fwRes ∧ c.cycle = BitVec.ofNat 48 s.plains[p].run.cycle ∧ c.abortSeen = decide (R.cmp + 1 ∈ R.abortSeen) ∧
         (find R.gone ((R.cmp + 1).toNat % 32) = none → c.irq = (descOf R (R.cmp + 1)).testBit 40 ∧ c.tag = BitVec.ofNat 64 (descField (descOf R (R.cmp + 1)) 8 8)) ∧
         (∀ e ∈ more, e.status = 0x19 ∧ e.ring = r) ∧
         ((s.plains[p].hiu.done.all fun j => decide (j.status ≠ 0x19)) = true → more = [] ∧ t.plains[p].hiu.rings[r].cmp = R.cmp + 1)))

/-- COMPLETION_RECORD_WRITE and STATUS_BLOCK_WRITE write exactly their record and block to host memory (spec/13_host_interface.md (R256; R257; R267; R277)). It rests on the model's choices of log entries 30. -/
def Obligations.RecordsAndStatusBlockReachTheHost : Prop :=
  ∀ (p : Fin 8) (s : State), Memory.wf Config.hostFree s.hostMem = true → s.plains[p].hiu.fn.bme = true →
    let H := s.plains[p].hiu
    (∀ c rest, H.cqWait = c :: rest →
      (cqRoom H = false → exec (.completionRecordWrite p) s = .next (if H.cqFull then s else vector (modPlain s p fun P => { P with hiu := { P.hiu with cqFull := true } }) p 3)) ∧
      (cqRoom H = true →
        let a := (H.cqBase.toNat + 32 * (H.pseq.toNat % cqSize H)) % 2 ^ 64
        ∃ t, exec (.completionRecordWrite p) s = .next t ∧ OthersKept p s t ∧ Memory.wf Config.hostFree t.hostMem = true ∧
          readBytes Config.hostFree t.hostMem a 32 = recordBytes c (1 - H.pseq.toNat / cqSize H % 2) ∧
          (∀ x, x < a ∨ a + 32 ≤ x → sget Config.hostFree t.hostMem x = sget Config.hostFree s.hostMem x) ∧
          t.plains[p] = { s.plains[p] with hiu := { H with cqWait := rest, pseq := H.pseq + 1, cqFull := false, vec0 := H.vec0 || (c.irq && H.sbEn), fn := t.plains[p].hiu.fn } } ∧
          (c.irq = true → H.sbEn = false → t.msix = s.msix ++ (if (fnSignal H.fn 0).2 = true then [(p.val + 1, 0)] else [])) ∧
          (c.irq = false ∨ H.sbEn = true → t.msix = s.msix ∧ t.plains[p].hiu.fn = H.fn))) ∧
    (H.sbEn = true → (∀ t0, H.sbAt = some t0 → t0 + 1000 ≤ s.timeNs) → (statusBytes s.plains[p] ≠ H.sbLast ∨ H.vec0 = true) →
      let g := leBytes 4 (H.sbGen + 1).toNat
      ∃ t, exec (.statusBlockWrite p) s = .next t ∧ OthersKept p s t ∧ Memory.wf Config.hostFree t.hostMem = true ∧
        readBytes Config.hostFree t.hostMem H.sbAddr.toNat 256 = g ++ statusBytes s.plains[p] ++ g ++ [0, 0, 0, 0] ∧
        (∀ x, x < H.sbAddr.toNat ∨ H.sbAddr.toNat + 256 ≤ x → sget Config.hostFree t.hostMem x = sget Config.hostFree s.hostMem x) ∧
        t.plains[p] = { s.plains[p] with hiu := { H with sbGen := H.sbGen + 1, sbLast := statusBytes s.plains[p], sbAt := some s.timeNs, vec0 := false, fn := t.plains[p].hiu.fn } }) ∧
    (s.plains[p].run.mode ≠ .valley → ∀ v : Word,
      let u := modPlain s p fun P => { P with hiu := { P.hiu with sbEn := v.getLsbD 0, vec0 := P.hiu.vec0 && v.getLsbD 0 } }
      exec (.registerWrite p.castSucc .mgrMachine 0x200208 v) s = .next (if H.vec0 = true ∧ v.getLsbD 0 = false then vector u p 0 else u))

/-- PIO DRV, XFER, LDSH, STSH and CTR act on the engine as Table "PIO instructions" says (spec/16_pio_engines.md (R333; R334)). It rests on the model's choices of log entries 34. -/
def Obligations.PioInstructionsMoveData : Prop :=
  ∀ (p : Fin 8) (e : Fin 4) (s : State),
    let E := s.plains[p].pio.eng[e]
    let w := pioWord E
    let becomes : PioEngine → State := fun F => modPlain s p fun P => modEng P e fun _ => F
    let B := tickBegin s.timeNs E
    let n : PioEngine := { B with pc := E.pc + 1, blocked := false, tick := !E.tick }
    let wait : PioEngine := { B with blocked := true, tick := !E.tick }
    let drives : PioEngine → State := fun F => becomes (noteShown s.timeNs B F)
    let runs : Prop := E.running = true ∧ clearing s.plains[p] = false
    (¬ runs → exec (.pioDrv p e) s = .next s ∧ exec (.pioLdsh p e) s = .next s ∧ exec (.pioStsh p e) s = .next s ∧ exec (.pioCtr p e) s = .next s ∧
      ∀ pads : BitVec 48, exec (.pioXfer p e pads) s = .next (modPlain s p fun P => { P with pio := { P.pio with pads := pads } })) ∧
    (B.levels = E.levels ∧ B.oen = E.oen ∧ B.running = E.running ∧ pioWord B = w ∧ B.tx = E.tx ∧ B.rx = E.rx ∧ B.sh = E.sh) ∧
    (runs → fld w 0 4 = 2 → fld w 6 2 < 2 →
      let data : Byte := w.extractLsb' 8 8
      let f : Byte → Byte := fun v => match fld w 4 2 with
        | 0 => data
        | 1 => v ||| data
        | 2 => v &&& ~~~data
        | _ => v ^^^ data
      exec (.pioDrv p e) s = .next (drives (if fld w 6 2 = 0 then { n with levels := f E.levels } else { n with oen := f E.oen }))) ∧
    (runs → fld w 0 4 = 3 → fld w 4 4 = 0 → ∀ pads : BitVec 48,
      let sample := (sampledPads s.timeNs e s.plains[p] pads).getLsbD (E.base + fld w 10 3)
      exec (.pioXfer p e pads) s = .next (notePads (drives { n with
        levels := if w.getLsbD 9 then setBit E.levels (fld w 13 3) (E.sh.getLsbD 0) else E.levels
        ocnt := if w.getLsbD 9 then E.ocnt - 1 else E.ocnt
        sh := if w.getLsbD 8 then setBit (E.sh >>> 1) 31 sample else E.sh >>> 1
        icnt := if w.getLsbD 8 then min (E.icnt + 1) 32 else E.icnt }) p pads)) ∧
    (runs → fld w 0 4 = 4 → fld w 4 6 = 0 →
      (∀ x rest, E.tx = x :: rest → exec (.pioLdsh p e) s = .next (becomes { n with tx := rest, sh := x, ocnt := fld w 11 5 + 1, icnt := 0 })) ∧
      (E.tx = [] → exec (.pioLdsh p e) s = .next (becomes (if w.getLsbD 10 then wait else n)))) ∧
    (runs → fld w 0 4 = 5 → fld w 14 2 < 3 → fld w 4 9 = 0 →
      let x : Word := if fld w 14 2 = 0 then (if E.icnt = 0 then 0 else E.sh >>> (32 - E.icnt)) else if fld w 14 2 = 1 then E.ca.setWidth 32 else E.cb.setWidth 32
      let left := if fld w 14 2 = 0 then 0 else E.icnt
      (E.rx.length < 4 → exec (.pioStsh p e) s = .next (becomes { n with rx := E.rx ++ [x], icnt := left })) ∧
      (4 ≤ E.rx.length → exec (.pioStsh p e) s = .next (becomes (if w.getLsbD 13 then wait else { n with icnt := left, flags := setBit E.flags 2 true })))) ∧
    (runs → fld w 0 4 = 6 → w.getLsbD 4 = false → (fld w 13 2 ≠ 0 → fld w 5 8 = 0) →
      let c := if w.getLsbD 15 then E.cb else E.ca
      let set : BitVec 16 → PioEngine := fun v => if w.getLsbD 15 then { n with cb := v } else { n with ca := v }
      (fld w 13 2 = 0 → exec (.pioCtr p e) s = .next (becomes (set (BitVec.ofNat 16 (fld w 5 8))))) ∧
      (fld w 13 2 = 1 → ∀ x rest, E.tx = x :: rest → exec (.pioCtr p e) s = .next (becomes { set (x.setWidth 16) with tx := rest })) ∧
      (fld w 13 2 = 1 → E.tx = [] → exec (.pioCtr p e) s = .next (becomes wait)) ∧
      (fld w 13 2 = 2 → exec (.pioCtr p e) s = .next (becomes (set (BitVec.ofNat 16 (c.toNat - 1))))) ∧
      (fld w 13 2 = 3 → exec (.pioCtr p e) s = .next (becomes (set (BitVec.ofNat 16 (min (c.toNat + 1) 0xFFFF))))))

/-- PIO BR, AWAIT and SIG branch, wait and signal; a reserved word halts the engine with BAD_INSTR (spec/16_pio_engines.md (R333; R334; R339; R343)). It rests on the model's choices of log entries 34. -/
def Obligations.PioInstructionsBranchWaitAndSignal : Prop :=
  ∀ (p : Fin 8) (e : Fin 4) (s : State),
    let E := s.plains[p].pio.eng[e]
    let w := pioWord E
    let becomes : PioEngine → State := fun F => modPlain s p fun P => modEng P e fun _ => F
    let B := tickBegin s.timeNs E
    let n : PioEngine := { B with pc := E.pc + 1, blocked := false, tick := !E.tick }
    E.running = true → clearing s.plains[p] = false →
    (∀ pads : BitVec 48, let pin := fun i => (sampledPads s.timeNs e s.plains[p] pads).getLsbD (E.base + i)
      (fld w 0 4 = 1 → (fld w 8 3 ≠ 3 → fld w 4 4 = 0) →
        let go : PioEngine → PioEngine := fun F => { F with pc := w.extractLsb' 11 5, blocked := false, tick := !E.tick }
        let a := BitVec.ofNat 16 (E.ca.toNat - 1)
        let b := BitVec.ofNat 16 (E.cb.toNat - 1)
        exec (.pioBr p e pads) s = .next (notePads (becomes (match fld w 8 3 with
          | 0 => go B
          | 1 => if E.ca = 0 then go B else n
          | 2 => if E.cb = 0 then go B else n
          | 3 => if pin (fld w 5 3) = w.getLsbD 4 then go B else n
          | 4 => if E.ocnt = 0 then go B else n
          | 5 => if E.icnt = 32 then go B else n
          | 6 => if a = 0 then { n with ca := a } else go { B with ca := a }
          | _ => if b = 0 then { n with cb := b } else go { B with cb := b })) p pads)) ∧
      (fld w 0 4 = 7 → fld w 4 8 = 0 →
        exec (.pioAwait p e pads) s = .next (notePads (becomes (if pin (fld w 13 3) = w.getLsbD 12 then n else { B with blocked := true, tick := !E.tick })) p pads))) ∧
    (fld w 0 4 = 8 → w.getLsbD 4 = false →
      (fld w 5 3 = 0 → exec (.pioSigEvt p e) s = .next (modPlain (becomes n) p fun P => event P 0x0150 e.val (fld w 8 8))) ∧
      (fld w 5 3 = 1 → fld w 8 8 = 0 → exec (.pioSigPace p e) s = .next (modPlain (becomes n) p fun P =>
        let limit := if P.pio.limit = 0 then 1 else P.pio.limit.toNat
        let full := limit ≤ P.pio.credit + if P.pio.decAt = some (s.timeNs * 2 / 5) then 1 else 0
        if P.pio.src.getLsbD e.val = false ∨ P.run.mode = .replay then P
        else { P with pio := { P.pio with
          credit := if full then P.pio.credit else P.pio.credit + 1
          drop := if full then satInc P.pio.drop else P.pio.drop } })) ∧
      (fld w 5 3 = 2 → fld w 8 8 = 0 → exec (.pioSigDma p e) s = .next (modPlain (becomes n) p fun P =>
        { P with dma := { P.dma with events := P.dma.events ++ [{ code := 0x20 + e.val }] } })) ∧
      (fld w 5 3 = 3 → fld w 8 8 = 0 → exec (.pioSigHalt p e) s = .next (becomes { n with running := false })) ∧
      (fld w 5 3 = 4 → E.delay = none → exec (.pioSigDelay p e) s =
        .next (becomes (if fld w 8 8 = 0 then n else { B with delay := some (fld w 8 8 - 1), blocked := false, tick := !E.tick }))) ∧
      (fld w 5 3 = 4 → ∀ k, E.delay = some k → exec (.pioSigDelay p e) s =
        .next (becomes (if k = 0 then { n with delay := none } else { B with delay := some (k - 1), blocked := false, tick := !E.tick })))) ∧
    (fld w 0 4 = 0 ∨ 9 ≤ fld w 0 4 ∨ (fld w 0 4 = 1 ∧ fld w 8 3 ≠ 3 ∧ fld w 4 4 ≠ 0) ∨ (fld w 0 4 = 2 ∧ 1 < fld w 6 2) ∨
      (fld w 0 4 = 3 ∧ fld w 4 4 ≠ 0) ∨ (fld w 0 4 = 4 ∧ fld w 4 6 ≠ 0) ∨ (fld w 0 4 = 5 ∧ (fld w 14 2 = 3 ∨ fld w 4 9 ≠ 0)) ∨
      (fld w 0 4 = 6 ∧ (w.getLsbD 4 = true ∨ (fld w 13 2 ≠ 0 ∧ fld w 5 8 ≠ 0))) ∨ (fld w 0 4 = 7 ∧ fld w 4 8 ≠ 0) ∨
      (fld w 0 4 = 8 ∧ (w.getLsbD 4 = true ∨ 4 < fld w 5 3 ∨ (fld w 5 3 ≠ 0 ∧ fld w 5 3 ≠ 4 ∧ fld w 8 8 ≠ 0))) →
      exec (.pioReservedInstr p e) s = .next (modPlain (becomes { B with running := false, blocked := false, tick := !E.tick, flags := setBit E.flags 3 true }) p fun P =>
        event P 0x0151 e.val E.pc.toNat))

/-- PIO_TX_WRITE, PIO_RX_READ, starts, stops, bank and configuration writes act by R331, R335, R337 and R338 (spec/16_pio_engines.md (R331; R335; R337; R338)). It rests on the model's choices of log entries 34 and 45. -/
def Obligations.PioRegistersTakeTheirAccesses : Prop :=
  ∀ (p : Fin 8) (s : State), s.plains[p].run.mode ≠ .valley →
    let Q := s.plains[p].pio
    let period := s.timeNs * 2 / 5
    let setEng : Fin 4 → PioEngine → State := fun e F => modPlain s p fun P => modEng P e fun _ => F
    (∀ (e : Fin 4) (who : Agent) (v : Word), let E := Q.eng[e]
      (isM1 who = false → exec (.pioTxWrite p e who v) s = .next s ∧ exec (.pioRxRead p e who) s = .next s) ∧
      (isM1 who = true →
        exec (.pioTxWrite p e who v) s = .next (setEng e (if E.tx.length < 4 then { E with tx := E.tx ++ [v] } else { E with flags := setBit E.flags 0 true })) ∧
        (E.rx = [] → exec (.pioRxRead p e who) s = .next (setEng e { E with flags := setBit E.flags 1 true, lastRx := 0 })) ∧
        (pioRxWaits e who s.plains[p] = true → exec (.pioRxRead p e who) s = .next s) ∧
        (∀ x rest, E.rx = x :: rest → pioRxWaits e who s.plains[p] = false → exec (.pioRxRead p e who) s =
          .next (modPlain (setEng e { E with rx := rest, lastRx := x }) p fun P => logInput P (recPio e x))))) ∧
    (∀ v : Word,
      (s.plains[p].run.mode = .test ∨ clearing s.plains[p] = true → exec (.pioStart p v) s = .next s) ∧
      (s.plains[p].run.mode ≠ .test → clearing s.plains[p] = false → ∃ t, exec (.pioStart p v) s = .next t ∧ OnlyPlain p s t ∧
        t.plains[p] = { s.plains[p] with pio := { Q with eng := t.plains[p].pio.eng, startLost := t.plains[p].pio.startLost } } ∧
        (∀ e : Fin 4, t.plains[p].pio.eng[e] =
          if v.getLsbD e.val = true ∧ Q.eng[e].stoppedAt ≠ some period then
            { Q.eng[e] with running := true, pc := Q.eng[e].entry, blocked := false, changed := false, delay := none, startedAt := some period }
          else Q.eng[e]) ∧
        (t.plains[p].pio.startLost = true ↔ Q.startLost = true ∨ ∃ e : Fin 4, v.getLsbD e.val = true ∧ Q.eng[e].stoppedAt = some period)) ∧
      (∃ t, exec (.pioStop p v) s = .next t ∧ OnlyPlain p s t ∧
        t.plains[p] = { s.plains[p] with pio := { Q with eng := t.plains[p].pio.eng, startLost := t.plains[p].pio.startLost } } ∧
        (∀ e : Fin 4, t.plains[p].pio.eng[e] =
          if v.getLsbD e.val = true then
            { Q.eng[e] with running := false, blocked := false, changed := false, delay := none, stoppedAt := some period, startedAt := none }
          else Q.eng[e]) ∧
        (t.plains[p].pio.startLost = true ↔ Q.startLost = true ∨ ∃ e : Fin 4, v.getLsbD e.val = true ∧ Q.eng[e].startedAt = some period)) ∧
      ((∃ e : Fin 4, Q.eng[e].running = true) →
        exec (.pioBankWrite p v) s = .next (modPlain s p fun P => { P with pio := { P.pio with bankBusy := true } })) ∧
      ((∀ e : Fin 4, Q.eng[e].running = false) →
        exec (.pioBankWrite p v) s = .next (modPlain s p fun P => { P with pio := { P.pio with bank := v.setWidth 12 } }))) ∧
    (∀ (e : Fin 4) (v : Word), let E := Q.eng[e]
      (∀ k : Fin 33, E.running = true → exec (.pioCfgWrite p e k v) s = .next (setEng e { E with flags := setBit E.flags 4 true })) ∧
      (∀ k : Fin 33, E.running = false → k.val < 32 → exec (.pioCfgWrite p e k v) s = .next (setEng e { E with imem := put 0 E.imem k.val (v.setWidth 16) })) ∧
      (E.running = false → exec (.pioCfgWrite p e 32 v) s = .next (setEng e (
        if 40 < (v.extractLsb' 0 6).toNat then { E with flags := setBit E.flags 5 true }
        else { E with base := (v.extractLsb' 0 6).toNat, entry := v.extractLsb' 8 5, div := v.extractLsb' 16 16 }))))

/-- MB_GO, MB_ACK and the mailbox lock act by R283 to R285 (spec/13_host_interface.md (R257; R283; R284; R285; R287)). It rests on the model's choices of log entries 31. -/
def Obligations.MailboxesPassMessages : Prop :=
  ∀ (p : Fin 8) (m : Fin 4) (s : State), s.plains[p].run.mode ≠ .valley →
    let B := s.plains[p].hiu.mb[m]
    let setMb : Mailbox → State := fun F => modPlain s p fun P => modMb P m fun _ => F
    let wrongSide : Agent → Prop := fun who => (m = 0 ∧ isHost who = false) ∨ (m = 1 ∧ isManager who = false)
    (∀ who : Agent, ownerOf who = 0 → ∀ v : Word, exec (.mbGo p m who v) s = .next s ∧ exec (.mbLockRead p m who) s = .next s ∧ exec (.mbLockRelease p m who) s = .next s) ∧
    (∀ (who : Agent) (v : Word), ownerOf who ≠ 0 → let L : BitVec 5 := v.setWidth 5
      let other : Prop := B.holder ≠ 0 ∧ B.holder ≠ ownerOf who
      (¬ other → ¬ wrongSide who → B.go = false → 8 ≤ L.toNat → L.toNat ≤ 16 →
        let t := setMb { B with len := L, go := true, done := false, fromHost := isHost who }
        exec (.mbGo p m who v) s = .next (if isHost who then modPlain t p fun P => event P 0x0110 m.val L.toNat else vector t p 2)) ∧
      ((other ∨ wrongSide who ∨ B.go = true ∨ L.toNat < 8 ∨ 16 < L.toNat) →
        ∃ F, exec (.mbGo p m who v) s = .next (setMb F) ∧ F.go = B.go ∧ F.msg = B.msg ∧ F.holder = B.holder ∧ F.code = B.code ∧
          (other → F.stat.getLsbD 3 = true) ∧ (¬ other → wrongSide who → F.stat.getLsbD 2 = true) ∧
          (B.go = true → F.len = B.len ∧ F.stat.getLsbD 0 = true) ∧
          (¬ other → ¬ wrongSide who → B.go = false → F.stat.getLsbD 1 = true))) ∧
    (∀ v : Word,
      ((v.getLsbD 31 = false ∨ B.go = false) → exec (.mbAck p m v) s = .next s) ∧
      (v.getLsbD 31 = true → B.go = true →
        let t := setMb { B with go := false, done := true, code := v.setWidth 16 }
        exec (.mbAck p m v) s = .next (if B.fromHost then vector t p 2 else modPlain t p fun P => event P 0x0111 m.val (v.extractLsb' 0 16).toNat))) ∧
    (∀ who : Agent, ownerOf who ≠ 0 →
      (B.holder = 0 →
        let t := setMb { B with holder := ownerOf who, lockLost := false, lostByMgr := false, lastRead := if B.lockLost then 0x100 else 0 }
        exec (.mbLockRead p m who) s = .next (if B.lockLost = true ∧ B.lostByMgr = true then modPlain t p fun P => event P 0x0112 m.val (ownerOf who).toNat else t) ∧
        exec (.mbLockRelease p m who) s = .next (setMb { B with stat := setBit B.stat 3 true })) ∧
      (B.holder = ownerOf who →
        exec (.mbLockRead p m who) s = .next (setMb { B with lastRead := 0 }) ∧ exec (.mbLockRelease p m who) s = .next (setMb { B with holder := 0 })) ∧
      (B.holder ≠ 0 → B.holder ≠ ownerOf who →
        exec (.mbLockRead p m who) s = .next (setMb { B with lastRead := B.holder.setWidth 32 }) ∧
        exec (.mbLockRelease p m who) s = .next (setMb { B with stat := setBit B.stat 3 true })))

/-- DB_SET, DB_STAT and the masks deliver exactly the doorbell bits that become set and enabled (spec/13_host_interface.md (R256; R257; R286; R287)). It rests on the model's choices of log entries 30 and 57. -/
def Obligations.DoorbellBitsAreDeliveredOnce : Prop :=
  ∀ (p : Fin 8) (s : State), s.plains[p].run.mode ≠ .valley →
    let H := s.plains[p].hiu
    let newly : Word → Word → List Nat := fun old new => (List.range 32).filter fun b => new.getLsbD b && !old.getLsbD b
    let delivers : Word → Word → Word → State → Prop := fun stat mgr host t =>
      let toMgr := newly (H.dbStat &&& H.dbMgr) (stat &&& mgr)
      let toHost := newly (H.dbStat &&& H.dbHost) (stat &&& host)
      OthersKept p s t ∧
      t.plains[p] = { s.plains[p] with
        mgr := (toMgr.foldl (fun P b => event P 0x0120 b 0) s.plains[p]).mgr
        hiu := { H with dbStat := stat, dbMgr := mgr, dbHost := host, fn := toHost.foldl (fun F b => (fnSignal F (32 + b)).1) H.fn } } ∧
      t = { s with plains := t.plains, tap := t.tap, msix := s.msix ++ (toHost.filter fun b => (fnSignal H.fn (32 + b)).2).map fun b => (p.val + 1, 32 + b) }
    ∀ v : Word,
      (∃ t, exec (.dbSet p v) s = .next t ∧ delivers (H.dbStat ||| v) H.dbMgr H.dbHost t ∧ t.tap = { s.tap with obsDoorbell := some s.timeNs }) ∧
      (∃ t, exec (.dbStatClear p v) s = .next t ∧ delivers (H.dbStat &&& ~~~v) H.dbMgr H.dbHost t ∧ t.tap = s.tap) ∧
      (∃ t, exec (.dbMaskWrite p false v) s = .next t ∧ delivers H.dbStat v H.dbHost t ∧ t.tap = s.tap) ∧
      (∃ t, exec (.dbMaskWrite p true v) s = .next t ∧ delivers H.dbStat H.dbMgr v t ∧ t.tap = s.tap)

/-- CH_CTL, CH_CFG and start events start, latch, cancel and configure DMA channels (spec/14_dma_engine.md (R298; R299; R301; R303; R305; R306)). It rests on the model's choices of log entries 33. -/
def Obligations.DmaChannelsStartAndStop : Prop :=
  ∀ (p : Fin 8) (s : State), s.plains[p].run.mode ≠ .valley → clearing s.plains[p] = false →
    let D := s.plains[p].dma
    let dropsStart : Channel → Prop := fun C => C.en = false ∨ (C.running = true ∧ C.latch = true)
    let started : Channel → Channel := fun C =>
      if C.en = false ∨ (C.running = true ∧ C.latch = true) then C else if C.running then { C with latch := true } else { C with running := true, act := C.cfg }
    let cancelled : Channel → Channel := fun C => if C.running = true ∧ C.cur.isSome = true then { C with cancel := true } else { C with running := false, latch := false, cancel := false }
    let selects : Fin 16 → StartEvent → Bool := fun c e =>
      let cfg := if D.ch[c].running then D.ch[c].act else D.ch[c].cfg
      !e.skip.getLsbD c.val && (if e.code < 0x100 then (cfg.extractLsb' 0 6).toNat == e.code
        else (cfg.extractLsb' 0 6).toNat == 0x30 && (cfg.extractLsb' 6 5).toNat == e.code - 0x100)
    (∀ (c : Fin 16) (v : Word), c ≠ 15 →
      let C := { D.ch[c] with en := v.getLsbD 0 }
      let cancels : Nat → State → Prop := fun n t => OnlyPlain p s t ∧
        t.plains[p] = { s.plains[p] with dma := { D with ch := t.plains[p].dma.ch, dropped := t.plains[p].dma.dropped, events := t.plains[p].dma.events } } ∧
        (∀ i : Fin 16, t.plains[p].dma.ch[i] = if i = c then cancelled C else D.ch[i]) ∧
        t.plains[p].dma.dropped = satAdd D.dropped ((D.events.filter (selects c)).length + n) ∧
        t.plains[p].dma.events = D.events.map fun e => if selects c e then { e with skip := setBit e.skip c.val true } else e
      (v.getLsbD 2 = false → ∃ t, exec (.chCtlGo p c v) s = .next t ∧ OnlyPlain p s t ∧
        t.plains[p] = { s.plains[p] with dma := { D with ch := t.plains[p].dma.ch, dropped := t.plains[p].dma.dropped } } ∧
        (∀ i : Fin 16, t.plains[p].dma.ch[i] = if i = c then started C else D.ch[i]) ∧
        (dropsStart C → t.plains[p].dma.dropped = satAdd D.dropped 1) ∧ (¬ dropsStart C → t.plains[p].dma.dropped = D.dropped)) ∧
      (v.getLsbD 2 = true → ∃ t, exec (.chCtlGo p c v) s = .next t ∧ cancels 1 t) ∧
      (∃ t, exec (.chCtlCancel p c v) s = .next t ∧ cancels (if v.getLsbD 1 then 1 else 0) t)) ∧
    (∀ v : Word, exec (.chCtlGo p 15 v) s = .next (modPlain s p fun P => modCh P 15 fun C => { C with en := v.getLsbD 0 }) ∧
      exec (.chCtlCancel p 15 v) s = .next (modPlain s p fun P => modCh P 15 fun C => { C with en := v.getLsbD 0 })) ∧
    (D.events = [] → exec (.dmaStartEvent p) s = .next s) ∧
    (∀ (c : Fin 16) (v : Word), let reg : Nat → BitVec 28 := fun o => BitVec.ofNat 28 (0x401000 + 0x40 * c.val + o)
      exec (.registerWrite p.castSucc .mgrMachine (reg 0x14) v) s = .next (modPlain s p fun P => modCh P c fun C =>
        { C with empty := C.empty && !v.getLsbD 2, err := C.err && !v.getLsbD 3, fetchErr := C.fetchErr && !v.getLsbD 4 }) ∧
      exec (.registerWrite p.castSucc .mgrMachine (reg 0xC) v) s =
        .next (if D.ch[c].running then s else modPlain s p fun P => modCh P c fun C => { C with head := v.setWidth 16 }) ∧
      (D.ch[c].running = true → exec (.registerWrite p.castSucc .mgrMachine (reg 4) v) s = .next s ∧ exec (.registerWrite p.castSucc .mgrMachine (reg 8) v) s = .next s)) ∧
    (∀ e rest, D.events = e :: rest →
      ∃ t, exec (.dmaStartEvent p) s = .next t ∧ OnlyPlain p s t ∧
        t.plains[p] = { s.plains[p] with dma := { D with ch := t.plains[p].dma.ch, dropped := t.plains[p].dma.dropped, events := rest } } ∧
        (∀ i : Fin 16, t.plains[p].dma.ch[i] = if i ≠ 15 ∧ selects i e = true then started D.ch[i] else D.ch[i]) ∧
        t.plains[p].dma.dropped = satAdd D.dropped ((List.finRange 16).filter fun c =>
          c ≠ 15 && selects c e && (!D.ch[c].en || (D.ch[c].running && D.ch[c].latch))).length) ∧
    (∀ (c : Fin 16) (v : Word),
      let total := ((List.finRange 16).map fun i => if i = c then (v.extractLsb' 16 7).toNat else (D.ch[i].cfg.extractLsb' 16 7).toNat).sum
      ((v.extractLsb' 16 7 = 0 ∨ 64 < total) → exec (.chCfgWrite p c v) s = .next (modPlain s p fun P => { P with dma := { P.dma with cfgErr := true } })) ∧
      (v.extractLsb' 16 7 ≠ 0 → total ≤ 64 → exec (.chCfgWrite p c v) s = .next (modPlain s p fun P => modCh P c fun C =>
        { C with cfg := (v &&& 0x007FF7FF#32) ||| ((if C.running then C.cfg else v) &&& 0x1F000000#32) })))

/-- A DMA descriptor is fetched when it is valid, moved by pieces, and written back with its status when it completes (spec/14_dma_engine.md (R291; R292; R293; R295; R297; R298; R299; R300; R301; R304; R306), spec/15_bus_matrix_and_scratchpad.md (R312)). It rests on the model's choices of log entries 33, 35 and 58. -/
def Obligations.DmaDescriptorsAreFetchedAndCompleted : Prop :=
  ∀ (p : Fin 8) (c : Fin 16) (s : State), c ≠ 15 →
    let C := s.plains[p].dma.ch[c]
    let a := C.dbase.toNat + 32 * C.head.toNat
    let stopped : Channel → Channel := fun C =>
      if C.latch then { C with latch := false, cancel := false, running := true, cur := none } else { C with running := false, cancel := false, cur := none }
    let fetched : State → State := fun u => modPlain u p fun P => modCh P c fun C => { C with act := C.cfg }
    let failed : State → State := fun u => modPlain (fetched u) p fun P => event (modCh P c fun C => stopped { C with fetchErr := true }) 0x0142 c.val C.head.toNat
    let quiet : Prop := clearing s.plains[p] = true ∨ look 0 s.power.grant p.val = 0
    (C.running = false ∨ quiet → exec (.dmaDescriptorFetch p c) s = .next s) ∧
    (C.running = true → C.cur = none → ¬ quiet →
      ((inDmaRow true (a, 32) = false ∨ inDmaRow true (C.dbase.toNat, 32) = false) → exec (.dmaDescriptorFetch p c) s = .next (failed s)) ∧
      (inDmaRow true (a, 32) = true → inDmaRow true (C.dbase.toNat, 32) = true → ∀ u r, memRead s p 2 a 32 = (u, r) →
        exec (.dmaDescriptorFetch p c) s = .next (if u.plains[p].dma.ch[c].running = false then u else match r with
          | none => modPlain (fetched u) p fun P => event (modCh P c fun C => stopped { C with fetchErr := true }) 0x0142 c.val C.head.toNat
          | some bs => modPlain (fetched u) p fun P => modCh P c fun C =>
              if (BitVec.ofNat 256 (leNat bs)).getLsbD 255 = false then stopped { C with empty := true } else { C with cur := some { desc := BitVec.ofNat 256 (leNat bs) } }))) ∧
    (C.cur = none → exec (.dmaDescriptorComplete p c) s = .next s) ∧
    (∀ j, C.cur = some j →
      let T := transferOf j.desc
      let V : Mover := { chan := c.val, late := lateness s.plains[p] c j.desc, origin := 1, live := fun P => (P.dma.ch[c].cur.map (·.desc)) == some j.desc }
      let may : Prop := ¬ quiet ∧ backRoom s.plains[p] c = true ∧ (jobStatus s.plains[p] j ≠ 0 ∨ engineServes s.plains[p] c = true)
      (¬ may → exec (.dmaDescriptorFetch p c) s = .next s ∧ exec (.dmaDescriptorComplete p c) s = .next s) ∧
      (may → ∀ (i : Instr) (n : Nat), (i = .dmaDescriptorFetch p c ∧ n = 1 ∧ C.running = true) ∨ (i = .dmaDescriptorComplete p c ∧ n = pieceCount T) →
        match (if jobStatus s.plains[p] j ≠ 0 then (s, j.done, some (jobStatus s.plains[p] j, 0)) else
            runPieces V p T n j.done (modPlain s p fun P => { P with dma := { P.dma with last := c } })) with
        | (u, X, r) => if u.plains[p].dma.ch[c].cur ≠ some j then exec i s = .next u else match r with
        | none => exec i s = .next (modPlain u p fun P => modCh P c fun C => { C with cur := some { j with done := X } })
        | some (status, result) =>
          let K := u.plains[p].dma.ch[c]
          let x := K.dbase.toNat + 32 * K.head.toNat
          let v := arriveAt (modPlain u p fun P => { P with dma := { P.dma with loose := if j.desc.getLsbD 162 then P.dma.loose else P.dma.loose + 1 } }) p x
          let U := v.plains[p]
          let w := windowAddr U (x - 0x8000000000)
          let err : Prop := status ≠ 0 ∧ status ≠ 6
          (U.dma.ch[c].cur = none → exec i s = .next (memWrite v p 3 0 1 (x + 24) (leBytes 4 result ++ [BitVec.ofNat 8 status, 0, 0])).1) ∧
          (U.dma.ch[c].cur ≠ none → Memory.wf Config.hostFree v.hostMem = true → U.hiu.fn.bme = true → 0x8000000000 ≤ x → x + 32 ≤ 0x10000000000 → w + 32 ≤ 2 ^ 64 →
          ∃ t, exec i s = .next t ∧ OthersKept p v t ∧
            let K' := t.plains[p].dma.ch[c]
            readBytes Config.hostFree t.hostMem (w + 24) 8 = leBytes 4 result ++ [BitVec.ofNat 8 status, 0, 0, 0] ∧
            (∀ b, b < w + 24 ∨ w + 32 ≤ b → sget Config.hostFree t.hostMem b = sget Config.hostFree v.hostMem b) ∧
            t.plains[p] = { U with dma := t.plains[p].dma, mgr := t.plains[p].mgr } ∧
            t.plains[p].mgr = (if status ≠ 0 ∧ status ≠ 6 then event U 0x0141 c.val status else if j.desc.getLsbD 163 then event U 0x0140 c.val K.head.toNat else U).mgr ∧
            (∀ d : Fin 16, d ≠ c → t.plains[p].dma.ch[d] = U.dma.ch[d]) ∧ t.plains[p].dma.late = U.dma.late ∧
            t.plains[p].dma.events.map (·.code) = U.dma.events.map (·.code) ++ [0x10 + c.val] ∧
            K'.head.toNat = (U.dma.ch[c].head.toNat + 1) % 2 ^ min 16 (U.dma.ch[c].cfg.extractLsb' 24 5).toNat ∧ K'.done = satInc U.dma.ch[c].done ∧
            K'.last = BitVec.ofNat 8 status ∧ (K'.err = true ↔ U.dma.ch[c].err = true ∨ err) ∧
            ((err ∨ U.dma.ch[c].cancel = true) → K'.running = false ∧ K'.latch = false) ∧
            (¬ err → U.dma.ch[c].cancel = false → K'.running = if j.desc.getLsbD 164 then U.dma.ch[c].latch else U.dma.ch[c].running))))

/-- GRANT_INTERVAL divides the headroom among the requests: never more than asked, never more than there is (spec/17_power_timing_health.md (R350)). It rests on the model's choices of log entries 35. -/
def Obligations.GrantsDivideTheHeadroom : Prop :=
  ∀ s : State, ∃ t, exec .grantInterval s = .next t ∧
    let h := if 85500 ≤ s.power.iinMax then 0 else arbBudget s - arbRsv s
    let want : Fin 8 → Nat := fun q => look 0 t.power.req q.val
    let got : Fin 8 → Nat := fun q => look 0 t.power.grant q.val
    (∀ q : Fin 8, want q =
      (if clearing s.plains[q] = false ∧ ((∃ c : Fin 16, s.plains[q].dma.ch[c].running = true) ∨
          ((s.plains[q].run.mode = .hold ∨ modeStepping s.plains[q].run.mode = true) ∧ s.plains[q].run.after = none ∧
            s.plains[q].hiu.rings[(2 : Fin 4)].reread = none ∧ let R := s.plains[q].hiu.rings[(2 : Fin 4)]
            ∃ i, i < 32 ∧ i < (R.acc - R.cmp).toNat ∧ R.cmp + 1 + BitVec.ofNat 32 i ∉ R.cancelled ∧ begun s.plains[q] 2 (R.cmp + 1 + BitVec.ofNat 32 i) = false)) then 0x28 else 0) +
      (if s.plains[q].cap.staging ≠ [] ∧ capSize s.plains[q] ≠ 0 then 0x10 else 0)) ∧
    (∀ q, got q ≤ want q) ∧ ((List.finRange 8).map got).sum ≤ h ∧
    (((List.finRange 8).map want).sum ≤ h → ∀ q, got q = want q) ∧
    (t.power.curZero = true ↔ 85500 ≤ s.power.iinMax) ∧ t.power.iinMax = 0 ∧ t.tap.obsGrant = some s.timeNs

/-- POWER_MEASURE, THROTTLE_END and VIN_SAMPLE record the readings and raise exactly their warnings (spec/17_power_timing_health.md (R349; R351; R352; R353; R354; R355; R363)). It rests on the model's choices of log entries 35, 38 and 52. -/
def Obligations.MeasurementsRaiseTheirWarnings : Prop :=
  ∀ s : State,
    let told : Nat → State → Prop := fun v t => t.msix = s.msix ++ (if (fnSignal s.pf0 v).2 = true then [(0, v)] else []) ∧ t.pf0 = (fnSignal s.pf0 v).1
    (∀ (p : Fin 8) (qw : Word),
      let P := s.plains[p]
      (P.run.mode = .valley → exec (.powerMeasure p qw) s = .next s) ∧
      (P.run.mode ≠ .valley →
        ∃ t, exec (.powerMeasure p qw) s = .next t ∧ OthersKept p s t ∧ t.plains[p].health.pwrNow = qw ∧ t.plains[p].health.segs = [] ∧
          t.plains[p] = { P with health := t.plains[p].health, mgr := t.plains[p].mgr } ∧
          let exceeds : Prop := P.health.segs ≠ [] ∧ ∀ g ∈ P.health.segs, look 0 P.ldr.env g + look 0 s.power.grant p.val < qw.toNat
          (exceeds → t.plains[p].health.envOver = true ∧ t.plains[p].health.envOverCnt = satInc P.health.envOverCnt ∧ told 5 t) ∧
          (¬ exceeds → t.plains[p].health.envOver = P.health.envOver ∧ t.plains[p].health.envOverCnt = P.health.envOverCnt ∧ t.msix = s.msix))) ∧
    (∀ (p : Fin 8) (k : Fin 4),
      let h := s.plains[p].health
      let ends : Prop := h.throttle.getLsbD k.val = true ∧ h.cause.getLsbD k.val = false ∧ look 0 h.absent k.val + 10000 ≤ s.timeNs
      (¬ ends → exec (.throttleEnd p k) s = .next s) ∧
      (ends → ∃ t, exec (.throttleEnd p k) s = .next t ∧ OthersKept p s t ∧ told 2 t ∧
        t.plains[p] = { s.plains[p] with health := { h with throttle := setBit h.throttle k.val false }, mgr := t.plains[p].mgr })) ∧
    (∀ mv iin : Nat,
      let hist := (mv :: s.power.vinHist).take 10000
      let warnAt := 4000 + 10 * min 45 (max 20 s.power.vinWarn.toNat)
      ∃ t, exec (.vinSample mv iin) s = .next t ∧
        t.power.vinHist = hist ∧ t.power.vinMv = hist.sum / hist.length ∧ t.power.iinMa = iin ∧ t.power.pinQw = mv * iin / 250000 ∧
        (inReset s = false ∨ 3200 ≤ mv → t.power.iinMax = max s.power.iinMax iin ∧ t.power.rstCause = s.power.rstCause) ∧
        t.power.lowSince = (if mv < 4000 then some (s.power.lowSince.getD s.timeNs) else none) ∧
        t.power.goodSince = (if 4500 ≤ mv then some (s.power.goodSince.getD s.timeNs) else none) ∧
        (inReset s = true → t.plains = s.plains ∧ t.msix = s.msix ∧ t.power.started = (decide (3200 ≤ mv) && s.power.started) ∧
          (3200 ≤ mv → t.power.pwrWarn = s.power.pwrWarn ∧ t.power.under = s.power.under ∧ t.power.held = s.power.held ∧ t.power.hotHeld = s.power.hotHeld) ∧
          (mv < 3200 → t.power.rstCause = 0 ∧ t.power.held = false ∧ t.power.hotHeld = false)) ∧
        pwrWarnN t = (decide (mv < 3200) || inReset t || !t.power.pwrWarn) ∧
        (inReset s = false → t.power.pwrWarn = (if mv < warnAt then true else if warnAt + 100 < mv then false else s.power.pwrWarn) ∧
        (t.power.under = true ↔ arbBudget t < arbRsv t) ∧
        ∀ q : Fin 8, t.plains[q] = { s.plains[q] with health := t.plains[q].health, mgr := t.plains[q].mgr } ∧
          (enabled s q = true → s.plains[q].run.mode ≠ .valley →
            t.plains[q].health.cause.getLsbD 0 = decide (90000 ≤ iin) ∧
            t.plains[q].health.throttle.getLsbD 0 = (decide (90000 ≤ iin) || s.plains[q].health.throttle.getLsbD 0))))

/-- Supply, thermal, device rail and RST_N resets leave only NVS, and the device starts again when VIN and RST_N permit (spec/17_power_timing_health.md (R354; R356; R361), spec/18_modes_resets_startup.md (R370; R371; R375), spec/21_pins_package_electrical.md (R409; R412; R420)). It rests on the model's choices of log entries 35 and 38. -/
def Obligations.ResetsOfTheDeviceKeepOnlyNvs : Prop :=
  ∀ s : State,
    let leaves : Bool → BitVec 3 → State → Prop := fun records cause t =>
      (∀ q : Fin 8, let M := (if records = true ∧ inReset s = false ∧ enabled s q = true then writeFaultRecord s q 4 else s).plains[q].mem
        t.plains[q] = { mem := { nvs := M.nvs, nvsUe := M.nvsUe, nvsCe := M.nvsCe }, run := { resetAt := s.timeNs } }) ∧
      t.power.rstCause = cause ∧ t.pf0 = {} ∧ t.power.started = false ∧ t.tap.sessOpen = false ∧ t.tap.scope = 0 ∧
      t.power.switching = [] ∧ t.power.colOn = s.power.colOn ∧ t.power.coreOn = s.power.coreOn ∧
      t.power.switchOff = (List.finRange 8).flatMap (colsOn s.power) ++ (List.finRange 8).flatMap (coreIsOn s.power) ∧
      t.fuses = s.fuses ∧ t.hostMem = s.hostMem ∧ t.pending = s.pending ∧ t.msix = s.msix ∧ t.timeNs = s.timeNs
    let good : Prop := ∃ t0, s.power.goodSince = some t0 ∧ t0 + 1000000 ≤ s.timeNs
    let starts : State → Prop := fun t => t.power.started = true ∧ t.power.held = false ∧ t.power.hotHeld = false ∧ t.fuses.lc = s.fuses.lcPend
    let resting : State → Prop := fun t => t.power.started = s.power.started ∧ t.plains = s.plains
    ((∀ t0, s.power.lowSince = some t0 → t0 + 200 ≤ s.timeNs → inReset s = false →
        ∃ t, exec .supplyReset s = .next t ∧ leaves true 2 t ∧ t.power.held = true) ∧
      ((∀ t0, s.power.lowSince = some t0 → s.timeNs < t0 + 200 ∨ inReset s = true) → exec .supplyReset s = .next s)) ∧
    ((inReset s = true → exec .rstNAssert s = .next { s with power := { s.power with rstLow := true } } ∧ exec (.railFault 8) s = .next s) ∧
      (inReset s = false → (∃ t, exec .rstNAssert s = .next t ∧ leaves false 1 t ∧ t.power.rstLow = true) ∧ ∃ t, exec (.railFault 8) s = .next t ∧ leaves false 5 t)) ∧
    (good → s.power.held = true →
      (s.power.hotHeld = true → exec .supplyResetRelease s = .next { s with power := { s.power with held := false } }) ∧
      (s.power.hotHeld = false → s.power.rstLow = true → exec .supplyResetRelease s = .next { s with power := { s.power with held := false, hotHeld := false } }) ∧
      (s.power.hotHeld = false → s.power.rstLow = false → ∃ t, exec .supplyResetRelease s = .next t ∧ starts t)) ∧
    (¬ good ∨ s.power.held = false → exec .supplyResetRelease s = .next s) ∧
    (∀ temps : List Nat,
      let now : Nat → Nat := fun n => min 255 (temps.getD n (look 0 s.power.temp n))
      let again : Prop := ∃ n, n < 100 ∧ n ∈ s.power.hot ∧ 115 ≤ now n
      let cool : Prop := ∀ n, n < 100 → now n < 95
      ∃ t, exec (.thermalSample temps) s = .next t ∧
        (s.power.hotHeld = false → again → leaves true 3 t ∧ t.power.hotHeld = true ∧ t.power.held = s.power.held) ∧
        (s.power.hotHeld = true ∨ ¬ again → ∀ n, n < 100 → look 0 t.power.temp n = now n) ∧
        (s.power.hotHeld = false → ¬ again → t.power.started = s.power.started ∧ (inReset s = true → resting t) ∧
          ∀ q : Fin 8, t.plains[q] = { s.plains[q] with health := t.plains[q].health, mgr := t.plains[q].mgr } ∧
            (inReset s = false → enabled s q = true → s.plains[q].run.mode ≠ .valley → (∃ i, i < 12 ∧ 105 ≤ now (12 * q.val + i)) → t.plains[q].health.throttle.getLsbD 1 = true)) ∧
        (s.power.hotHeld = true → cool → t.power.hotHeld = false ∧
          (s.power.held = false → good → s.power.rstLow = false → starts t) ∧
          (s.power.held = true ∨ ¬ good ∨ s.power.rstLow = true → resting t)) ∧
        (s.power.hotHeld = true → ¬ cool → t.power.hotHeld = true ∧ resting t))

/-- ARB_HOST, base reservations, domain switching and the cold start act by R347, R348, R356 and R375 (spec/17_power_timing_health.md (R347; R348; R356), spec/18_modes_resets_startup.md (R368; R375), spec/21_pins_package_electrical.md (R409; R420)). It rests on the model's choices of log entries 38. -/
def Obligations.TheArbiterSwitchesPlainsOn : Prop :=
  ∀ s : State,
    (∀ v : Word,
      let limit := (v.extractLsb' 0 12).toNat
      (min limit 3800 < arbRsv s → exec (.arbHostWrite v) s = .next (pf0Vector { s with power := { s.power with hostRefused := true } } 3)) ∧
      (arbRsv s ≤ min limit 3800 → ∃ t, exec (.arbHostWrite v) s = .next t ∧ t.power.host = limit ∧ (t.power.under = true ↔ arbBudget t < arbRsv t) ∧
        ∀ q : Fin 8, t.plains[q] = { s.plains[q] with mgr := t.plains[q].mgr })) ∧
    (∀ p : Fin 8,
      let mine : Prop := s.power.baseWait.getLsbD p.val = true ∧ s.power.under = false ∧ arbRsv s + 0x30 ≤ arbBudget s ∧
        ∀ q : Fin 8, q < p → s.power.baseWait.getLsbD q.val = false
      (¬ mine → exec (.baseReservationGrant p) s = .next s) ∧
      (mine → exec (.baseReservationGrant p) s = .next { modPlain s p (fun P => { P with ldr := { P.ldr with pwrRsv := 0x30 } }) with
        power := { s.power with
          baseWait := setBit s.power.baseWait p.val false
          switching := s.power.switching ++ (p, 9) :: ((List.finRange 9).filter fun c => decide (c.val ≠ skipCol s.fuses p)).map fun c => (p, c.castSucc) } })) ∧
    (∀ (p : Fin 8) (d : Fin 10),
      let offNext : Prop := (s.power.switchOff.find? fun x => decide (x.1 = p)) = some (p, d) ∧ (d = 9 → inReset s = true → ∀ x ∈ s.power.switchOff, x.2 = 9)
      let offIdle : Prop := ∀ d', (p, d') ∉ s.power.switchOff
      (¬ offNext → (s.power.switching.head? ≠ some (p, d) ∨ ¬ offIdle) → exec (.domainSwitchDone p d) s = .next s) ∧
      (offNext → ∃ t, exec (.domainSwitchDone p d) s = .next t ∧ OthersKept p s t ∧ t.power.switching = s.power.switching ∧
        t.power.switchOff = s.power.switchOff.filter (· ≠ (p, d)) ∧
        (d = 9 → t.power.coreOn = setBit s.power.coreOn p.val false ∧ t.power.colOn = s.power.colOn) ∧
        (d ≠ 9 → t.power.coreOn = s.power.coreOn ∧ (Inv s → look 0 t.power.colOn p.val = setBit (look 0 s.power.colOn p.val) d.val false)) ∧
        ((∃ d', (p, d') ∈ t.power.switchOff) ∨ s.plains[p].hiu.valleyDone = none → t.plains = s.plains) ∧
        (∀ c, (∀ d', (p, d') ∉ t.power.switchOff) → s.plains[p].hiu.valleyDone = some c →
          t.plains[p].hiu.cqWait = s.plains[p].hiu.cqWait ++ [c] ∧ t.plains[p].hiu.rings[c.ring].cmp = c.seq ∧ t.plains[p].hiu.valleyDone = none)) ∧
      (offIdle → ∀ rest, s.power.switching = (p, d) :: rest →
        ∃ t, exec (.domainSwitchDone p d) s = .next t ∧ (s.power.testStart = 0 → OthersKept p s t) ∧ t.power.switching = rest ∧
          (d = 9 → t.power.coreOn = setBit s.power.coreOn p.val true ∧ t.power.colOn = s.power.colOn) ∧
          (d ≠ 9 → t.power.coreOn = s.power.coreOn ∧ look 0 t.power.colOn p.val = setBit (look 0 s.power.colOn p.val) d.val true) ∧
          ((∃ d', (p, d') ∈ rest) → t.plains = s.plains) ∧
          ((∀ d', (p, d') ∉ rest) → s.power.testStart.getLsbD p.val = true →
            let allOn : Prop := ∀ q : Fin 8, s.power.testStart.getLsbD q.val = true → t.power.coreOn.getLsbD q.val = true ∧ ∀ d', (q, d') ∉ rest ∧ (q, d') ∉ s.power.switchOff
            (allOn → t.power.testStart = 0 ∧ ∀ q : Fin 8, s.power.testStart.getLsbD q.val = true → t.plains[q].run.mode = .test) ∧
            (¬ allOn → t.power.testStart = s.power.testStart ∧ t.plains[p].run.mode = .valley ∧ OthersKept p s t)) ∧
          ((∀ d', (p, d') ∉ rest) → s.power.testStart.getLsbD p.val = false → s.fuses.lc ≠ 5 →
            t.plains[p].run.mode = .boot ∨ t.plains[p].run.mode = .quarantine))) ∧
    ((s.power.started = true ∨ s.power.held = true ∨ s.power.hotHeld = true ∨ ∀ t0, s.power.goodSince = some t0 → s.timeNs < t0 + 1000000) →
      exec .coldStart s = .next { s with power := { s.power with rstLow := false } }) ∧
    (∀ t0, s.power.goodSince = some t0 → t0 + 1000000 ≤ s.timeNs → s.power.started = false → s.power.held = false → s.power.hotHeld = false →
      ∃ t, exec .coldStart s = .next t ∧ t.power.started = true ∧ t.power.rstLow = false ∧ t.fuses = { s.fuses with lc := s.fuses.lcPend } ∧ t.hlink.up = true ∧
        (s.fuses.lcPend = 5 → t.plains = s.plains) ∧
        ∀ q : Fin 8, (enabled s q = false → t.plains[q] = s.plains[q]) ∧
          (enabled s q = true → s.fuses.lcPend ≠ 5 → t.plains[q].ldr.pwrRsv = 0x30 ∨ t.power.baseWait.getLsbD q.val = true))

/-- Warm resets, a Plain's rail fault and a tamper detection act by R362, R371, R386 and R388 (spec/13_host_interface.md (R258), spec/17_power_timing_health.md (R344; R362), spec/18_modes_resets_startup.md (R370; R371; R381), spec/19_faults_and_guarantees.md (R386; R388)). It rests on the model's choices of log entries 22, 37 and 38. -/
def Obligations.WarmResetsRailFaultsAndTampering : Prop :=
  ∀ s : State,
    let told : Nat → State → Prop := fun v t => t.msix = s.msix ++ (if (fnSignal s.pf0 v).2 = true then [(0, v)] else []) ∧ t.pf0 = (fnSignal s.pf0 v).1
    (s.power.started = false → exec .devRstWarm s = .next s ∧ exec .pcieHotReset s = .next s) ∧
    (s.power.started = true →
      let warm : BitVec 3 → State → Prop := fun cause t =>
        t.power.rstCause = cause ∧ t.power.started = true ∧ t.tap.sessOpen = false ∧ t.tap.scope = 0 ∧ t.fuses = s.fuses ∧ t.hostMem = s.hostMem ∧
        ∀ q : Fin 8,
          (enabled s q = false → t.plains[q].mem = { nvs := s.plains[q].mem.nvs, nvsUe := s.plains[q].mem.nvsUe, nvsCe := s.plains[q].mem.nvsCe } ∧
            (∀ k : Fin 64, let T := s.plains[q].tiles[k]
              t.plains[q].tiles[k] = { store := T.store, storeUe := T.storeUe, storeCe := T.storeCe, snapNf := T.snapNf, snapFs := T.snapFs }) ∧ t.plains[q].run.mode = s.plains[q].run.mode) ∧
          (enabled s q = true → domainsOn s q = true → s.fuses.lc ≠ 5 →
            (s.tap.devTest = false → t.plains[q].run.mode = .boot ∨ t.plains[q].run.mode = .quarantine) ∧
            (s.tap.devTest = true → (∀ r : Fin 8, enabled s r = true → domainsOn s r = true) → t.plains[q].run.mode = .test))
      (∃ t, exec .devRstWarm s = .next t ∧ warm 4 t) ∧ ∃ t, exec .pcieHotReset s = .next t ∧ warm 6 t) ∧
    (∀ (p : Fin 9) (q : Fin 8), p.val = q.val →
      let P := s.plains[q]
      let off : Prop := inReset s = true ∨ (look 0 s.power.colOn q.val = 0 ∧ s.power.coreOn.getLsbD q.val = false)
      (off → exec (.railFault p) s = .next s) ∧
      (¬ off → ∃ t, exec (.railFault p) s = .next t ∧ OthersKept q s t ∧ told 7 t ∧ t.power.railFault = true ∧
        t.plains[q].run.mode = .valley ∧ t.power.switchOff = (s.power.switchOff.filter fun x => decide (x.1 ≠ q)) ++ colsOn s.power q ++ coreIsOn s.power q ∧
        t.power.switching = s.power.switching.filter (fun x => decide (x.1 ≠ q)) ∧
        t.plains[q].health.fltCount = satInc P.health.fltCount ∧
        (P.health.winOpen = false → t.plains[q].health.code = 0x0A ∧ t.plains[q].health.winOpen = false ∧ t.plains[q].run.wakeLock = P.run.wakeLock) ∧
        (P.health.winOpen = true → t.plains[q].health.code = 0x0C ∧ t.plains[q].run.wakeLock = true ∧
          (t.plains[q].health.first, t.plains[q].health.second) =
            if P.health.openedAt = s.timeNs ∧ 0x0A < P.health.code.toNat ∧ P.health.code ≠ 0x0C then (0x0A, P.health.code) else (P.health.code, 0x0A)))) ∧
    (∀ k : Fin 5, ∃ t, exec (.tamperDetect k) s = .next t ∧ t.power.tamper = setBit s.power.tamper k.val true ∧ told 4 t ∧
      ∀ q : Fin 8,
        (s.plains[q].run.mode = .valley →
          t.plains[q] = if enabled s q = true ∧ s.fuses.lc = 3 then { s.plains[q] with run := { s.plains[q].run with tamperPend := true } } else s.plains[q]) ∧
        (s.plains[q].run.mode ≠ .valley → t.plains[q].mem.stat.getLsbD 3 = true ∧ t.plains[q].mem.nvs = s.plains[q].mem.nvs ∧
          (∀ x, secureBase ≤ x → sget zeroByte t.plains[q].mem.spad x = 0) ∧
          (s.fuses.lc = 3 → s.plains[q].run.mode ≠ .test →
            if (closeLinks s.plains[q] 2 false).links.toList.any closingLink = true then t.plains[q].run.after = some (.quarantine true)
            else t.plains[q].run.mode = .quarantine) ∧
          (s.fuses.lc ≠ 3 ∨ s.plains[q].run.mode = .test → t.plains[q].run = s.plains[q].run)))

/-- PLAIN_CTL commands and a function-level reset act in their modes and are refused in the others (spec/13_host_interface.md (R258; R284; R285), spec/18_modes_resets_startup.md (R368; R370; R372; R373; R374; R378), spec/19_faults_and_guarantees.md (R388)). It rests on the model's choices of log entries 19, 21 and 36. -/
def Obligations.PlainControlCommandsAct : Prop :=
  ∀ (p : Fin 8) (s : State),
    let P := s.plains[p]
    let told : Nat → State → Prop := fun v t => t.msix = s.msix ++ (if (fnSignal s.pf0 v).2 = true then [(0, v)] else []) ∧ t.pf0 = (fnSignal s.pf0 v).1
    let refused : State := modPlain s p fun P => { P with run := { P.run with refused := true } }
    let resets : BitVec 4 → State → Prop := fun cause t =>
      OthersKept p s t ∧
      (∀ c, P.run.after = some (.reset c) → t.plains[p].run.rstCause = c ∧ t.plains[p].run.rstCount = P.run.rstCount) ∧
      ((∀ c, P.run.after ≠ some (.reset c)) →
        t.plains[p].run.rstCause = (if (P.run.after = some (.quarantine true) ∨ P.run.after = some (.quarantine false)) ∧ P.health.winOpen = true ∧
          (P.health.code = 6 ∨ P.health.code = 7) then 6 else cause) ∧
        (P.run.rstCount ≠ 0xFFFF#16 → t.plains[p].run.rstCount = P.run.rstCount + 1)) ∧
      (∀ c : Fin 16, t.plains[p].dma.ch[c].running = false) ∧ (∀ e : Fin 4, t.plains[p].pio.eng[e].running = false) ∧
      (s.fuses.lc ≠ 5 → t.plains[p].run.after = some (.reset t.plains[p].run.rstCause) ∨ t.plains[p].run.mode = .boot ∨ t.plains[p].run.mode = .quarantine)
    let canReset : Prop := P.run.mode ≠ .valley ∧ P.run.mode ≠ .test
    (canReset → ∃ t, exec (.functionLevelReset p) s = .next t ∧ resets 3 t ∧ t.plains[p].hiu.fn = { wait := P.hiu.fn.wait } ∧
      ∀ m : Fin 4, P.hiu.mb[m].holder = 1 → t.plains[p].hiu.mb[m].holder = 0 ∧ t.plains[p].hiu.mb[m].lockLost = true) ∧
    (¬ canReset → ∃ t, exec (.functionLevelReset p) s = .next t ∧ OnlyPlain p s t ∧
      t.plains[p] = { P with hiu := { P.hiu with fn := { wait := P.hiu.fn.wait }, mb := t.plains[p].hiu.mb }, mgr := t.plains[p].mgr } ∧
      ∀ m : Fin 4, t.plains[p].hiu.mb[m] = if P.hiu.mb[m].holder = 1 then { P.hiu.mb[m] with holder := 0, lockLost := true, lostByMgr := false } else P.hiu.mb[m]) ∧
    (∀ who : Agent, who ≠ .hostFn → who ≠ .mgrMachine → ∀ col, exec (.plainCtlWake p who) s = .next s ∧ exec (.plainCtlReset p who) s = .next s ∧
      exec (.plainCtlMgrReset p who) s = .next s ∧ exec (.plainCtlColReset p who col) s = .next s ∧ exec (.plainCtlReady p who) s = .next s ∧
      exec (.plainCtlFaultAck p who) s = .next s) ∧
    (∀ who : Agent, who = .hostFn ∨ who = .mgrMachine →
      (canReset → (∃ t, exec (.plainCtlReset p who) s = .next t ∧ resets 2 t) ∧
        ∃ t, exec (.plainCtlMgrReset p who) s = .next t ∧ OthersKept p s t ∧
          (∀ m : Fin 4, t.plains[p].hiu.mb[m].holder = if P.hiu.mb[m].holder = 3 ∨ P.hiu.mb[m].holder = 4 ∨ P.hiu.mb[m].holder = 5 then 0 else P.hiu.mb[m].holder) ∧
          (P.mem.stat.getLsbD 3 = true → t.plains[p].run.bootPend = true ∧ t.plains[p].mgr.running = false ∧ t.plains[p].tiles = P.tiles ∧ t.plains[p].links = P.links) ∧
          (P.mem.stat.getLsbD 3 = false → s.fuses.lc ≠ 0 → P.run.after = none → P.run.bootPend = false →
            (t.plains[p].mgr.running = true ∧ t.plains[p].mgr.lvl = 2 ∧ t.plains[p].tiles = P.tiles ∧ t.plains[p].links = P.links ∧ t.plains[p].run.mode = P.run.mode) ∨
            t.plains[p].run.mode = .quarantine ∨ ∃ b, t.plains[p].run.after = some (.quarantine b))) ∧
      (¬ canReset → exec (.plainCtlReset p who) s = .next refused ∧ exec (.plainCtlMgrReset p who) s = .next refused) ∧
      (∀ col : Nat, let pc := if col % 16 ≤ 8 then col % 16 else 0
        let k := skipCol s.fuses p
        ((pc = k ∨ (P.run.mode ≠ .hold ∧ P.run.mode ≠ .quarantine)) → exec (.plainCtlColReset p who col) s = .next refused) ∧
        (pc ≠ k → (P.run.mode = .hold ∨ P.run.mode = .quarantine) →
          ∃ t, exec (.plainCtlColReset p who col) s = .next t ∧ OnlyPlain p s t ∧
            t.plains[p] = { P with tiles := t.plains[p].tiles, run := { P.run with colDirty := true }, col := { P.col with dropSum := t.plains[p].col.dropSum }
                                   basin := { P.basin with recv := P.basin.recv.filter fun x => x.1.val % 8 != if pc < k then pc else pc - 1 } } ∧
            (∀ n : Fin 64, t.plains[p].col.dropSum.getLsbD n.val = if n.val % 8 = (if pc < k then pc else pc - 1) then false else P.col.dropSum.getLsbD n.val) ∧
            ∀ n : Fin 64, let T := t.plains[p].tiles[n]
              if n.val % 8 = (if pc < k then pc else pc - 1) then
                T.store = P.tiles[n].store ∧ T.overlay = P.tiles[n].overlay ∧ T.q0 = [] ∧ T.q1 = [] ∧ T.q2 = [] ∧ T.q3 = [] ∧ T.q4 = [] ∧ T.q5 = [] ∧ T.q6 = [] ∧ T.q7 = []
              else T = P.tiles[n])) ∧
      ((who = .hostFn ∨ P.run.mode ≠ .boot) → exec (.plainCtlReady p who) s = .next refused) ∧
      (who = .mgrMachine → P.run.mode = .boot → ∃ t, exec (.plainCtlReady p who) s = .next t ∧ OnlyPlain p s t ∧
        t.plains[p] = { P with run := { P.run with mode := .hold, prev := .boot }, health := t.plains[p].health, mgr := t.plains[p].mgr }) ∧
      exec (.plainCtlFaultAck p who) s = .next (modPlain s p fun P => { P with run := { P.run with wakeLock := false } }) ∧
      (wakeTaken s p = false → exec (.plainCtlWake p who) s = .next refused) ∧
      (wakeTaken s p = true → ∃ t, exec (.plainCtlWake p who) s = .next t ∧ OthersKept p s t ∧
        if s.power.under = false ∧ arbRsv s + 0x30 ≤ arbBudget s ∧ (∀ q : Fin 8, q < p → s.power.baseWait.getLsbD q.val = false) then
          t.plains[p].ldr.pwrRsv = 0x30 ∧ (p, 9) ∈ t.power.switching ∧ t.msix = s.msix
        else t.plains[p] = P ∧ t.power.baseWait = setBit s.power.baseWait p.val true ∧ told 3 t))

/-- FLT_CTL, the end of a wipe and the progress monitor act by R317, R325, R385 and R393 (spec/15_bus_matrix_and_scratchpad.md (R317; R325), spec/19_faults_and_guarantees.md (R384; R385; R386; R393)). It rests on the model's choices of log entries 37 and 47. -/
def Obligations.FaultWindowsWipesAndProgress : Prop :=
  ∀ (p : Fin 8) (s : State),
    let P := s.plains[p]
    let h := P.health
    let closable : Agent → Prop := fun who => who = .mgrMachine ∧ h.winOpen = true ∧ h.code.toNat ∉ [6, 7, 8, 9, 10, 12, 13, 14]
    (∀ who, (closable who → exec (.fltCtlClose p who) s = .next (modPlain s p fun P =>
        event { P with health := { P.health with winOpen := false } } 0x0221 0 (min ((s.timeNs - h.openedAt) / 1000) (2 ^ 32 - 1)))) ∧
      (¬ closable who → exec (.fltCtlClose p who) s = .next s)) ∧
    (h.winOpen = true → exec (.fltCtlClr p) s = .next s) ∧
    (h.winOpen = false → exec (.fltCtlClr p) s = .next (modPlain s p fun P => { P with health := { P.health with code := 0, first := 0, second := 0 } })) ∧
    (P.mem.stat.getLsbD 3 = false → exec (.secureWipeDone p) s = .next s) ∧
    (P.mem.stat.getLsbD 3 = true →
      (P.run.bootPend = false → exec (.secureWipeDone p) s = .next (modPlain s p fun P => { P with mem := { P.mem with stat := setBit (setBit P.mem.stat 3 false) 4 true } })) ∧
      (P.run.bootPend = true → P.run.mode ≠ .valley → P.run.mode ≠ .test → ∃ t, exec (.secureWipeDone p) s = .next t ∧ OthersKept p s t ∧
        (t.plains[p].mgr.running = true ∨ t.plains[p].run.mode = .quarantine ∨ t.plains[p].run.after ≠ none ∨ s.fuses.lc = 0))) ∧
    (let runs : Prop := P.bus.pmCtl.getLsbD 31 = true ∧ P.run.mode ≠ .valley ∧ P.run.mode ≠ .test
     let idle : Prop := P.mgr.waiting = true ∨ (P.run.mode = .quarantine ∧ P.mgr.running = false ∧ P.run.bootPend = false)
     let elapsed := if idle then 0 else s.timeNs - P.mgr.retiredAt
     let limit := (P.bus.pmCtl.extractLsb' 0 16).toNat * 1000
     let warns : Prop := runs ∧ P.bus.pmStage = 0 ∧ limit ≤ elapsed
     let ends : Prop := runs ∧ P.bus.pmStage = 1 ∧ 2 * limit ≤ elapsed
     (¬ warns → exec (.progressWarn p) s = .next s) ∧
     (warns → h.winOpen = false → ∃ t, exec (.progressWarn p) s = .next t ∧ OnlyPlain p s t ∧ t.plains[p].bus.pmStage = 1 ∧
        t.plains[p].bus.stat.getLsbD 3 = true ∧ t.plains[p].health.winOpen = true ∧ t.plains[p].health.code = 0x09 ∧
        t.plains[p].run.mode = P.run.mode ∧ t.plains[p].tiles = P.tiles) ∧
     (warns → h.winOpen = true → ∃ t, exec (.progressWarn p) s = .next t ∧ OnlyPlain p s t) ∧
     (¬ ends → exec (.progressTimeout p) s = .next s) ∧
     (ends → ∃ t, exec (.progressTimeout p) s = .next t ∧ OthersKept p s t ∧
        ((∀ c, P.run.after ≠ some (.reset c)) → (∀ b, P.run.after ≠ some (.quarantine b)) → t.plains[p].run.rstCause = 5) ∧
        (s.fuses.lc ≠ 5 → t.plains[p].run.after = some (.reset t.plains[p].run.rstCause) ∨ t.plains[p].run.mode = .boot ∨ t.plains[p].run.mode = .quarantine)))

/-- REJOIN_GO restores the slot of its record or names its refusal; BOOT_ROM_INSTALL installs exactly a candidate (spec/18_modes_resets_startup.md (R376; R377; R379; R382)). It rests on the model's choices of log entries 39. -/
def Obligations.RejoinAndRecoveryInstall : Prop :=
  ∀ (p : Fin 8) (s : State),
    (∀ v : Word,
      let off := (v.extractLsb' 0 24).toNat
      let s0 := modPlain s p fun P => { P with run := { P.run with rejoinOff := v.setWidth 24 } }
      let fails : State → Nat → Nat → State := fun u err code => modPlain u p fun P =>
        { P with run := { P.run with rejoinStat := w32 (P.run.rejoinStat.toNat % 2 + err * 2 + code * 16) } }
      let P := s.plains[p]
      let holds : State → Prop := fun u => u.plains[p].run.mode = .hold ∧ u.plains[p].run.after = none
      ((P.run.mode ≠ .hold ∨ P.run.admitted = false ∨ P.ldr.switch.isSome = true ∨ P.run.after.isSome = true) → exec (.rejoinGo p v) s = .next (fails s0 1 0)) ∧
      (P.run.mode = .hold → P.run.admitted = true → P.ldr.switch = none → P.run.after = none →
        (match rejoinRecord s0 p off with
        | (u, none) => exec (.rejoinGo p v) s = .next (fails u 2 1)
        | (u, some (h, cfg)) =>
          let c := rejoinCode s.fuses.tstepPs u.plains[p] h cfg
          if c.1 ≠ 0 then exec (.rejoinGo p v) s = .next (fails u 2 c.1)
          else if nSlot u.plains[p].basin ≤ num h 52 1 % 16 then exec (.rejoinGo p v) s = .next (fails u 3 0)
          else match rejoinSlotRead p h 0 64 u with
          | (u1, ok1) =>
            (¬ holds u1 → exec (.rejoinGo p v) s = .next u1) ∧
            (holds u1 → (ok1 = false ∨ slotMatches u1.plains[p] h = false) → exec (.rejoinGo p v) s = .next (fails u1 3 0)) ∧
            (holds u1 → ok1 = true → slotMatches u1.plains[p] h = true →
              match rejoinSlotRead p h 64 (slotBytes - 64) u1 with
              | (u2, ok2) => (¬ holds u2 → exec (.rejoinGo p v) s = .next u2) ∧ (holds u2 → ok2 = false → exec (.rejoinGo p v) s = .next (fails u2 3 0)))) ∧
        (let n := 668 + 520 * leNat (readBytes zeroByte P.mem.spad (off + 64 + 664) 4)
         let h := readBytes zeroByte P.mem.spad off 64
         let cfg := readBytes zeroByte P.mem.spad (off + 64) n
         let k := num h 52 1 % 16
         off % 8 = 0 → off + 64 + n ≤ secureBase → P.mem.spadUe = [] → P.basin.ue = [] → P.basin.recv = [] →
         (rejoinCode s.fuses.tstepPs P h cfg).1 = 0 → k < nSlot P.basin → slotMatches P h = true →
         ∃ t, exec (.rejoinGo p v) s = .next t ∧ OthersKept p s t ∧ t.plains[p].run.mode = .hold ∧ t.plains[p].run.step = 0 ∧
           t.plains[p].run.cycle = num (slotBytesAt P.basin k 0 8) 0 6 ∧
           t.plains[p].sync.cur = { epoch := w32 (num h 48 4), tag := tagOf P.ldr.digest (BitVec.ofNat 384 (num h 0 48)), first := t.plains[p].run.cycle } ∧
           (∀ (j : Fin 64) a,
             (a < 256 → look laneX t.plains[p].tiles[j].nf a = w32 (num (slotBytesAt P.basin k (4096 + 132096 * j.val) 1024) (4 * a) 4)) ∧
             (a < 32768 → look laneX t.plains[p].tiles[j].fs a = w32 (num (slotBytesAt P.basin k (5120 + 132096 * j.val) 131072) (4 * a) 4)) ∧
             t.plains[p].tiles[j].q0 = [] ∧ t.plains[p].tiles[j].q7 = []) ∧
           t.plains[p].stall.bound = w32 (num cfg 20 4) ∧ t.plains[p].run.colDirty = false ∧ t.plains[p].health.incomplete = false ∧
           t.plains[p].run.rejoinStat = 1))) ∧
    (installRequest s.plains[p] = none → exec (.bootRomInstall p) s = .next s) ∧
    (∀ off slot, installRequest s.plains[p] = some (off, slot) → s.plains[p].mem.spadUe = [] → s.plains[p].mem.nvsUe = [] →
      let M := s.plains[p].mem
      let len := leNat (readBytes zeroByte M.spad (off + 12) 4)
      let img := readBytes zeroByte M.spad off (4096 + len)
      let rec0 := readBytes zeroByte M.nvs 0x1000000 1376
      let candidate : Prop := num img 0 4 = 0x4D574658 ∧ len ≤ 0x7FF000 ∧
        (s.fuses.lc = 1 ∨ (Config.sha384 (sub rec0 0 96) = s.fuses.fwKeyHash ∧
          Config.ecdsaVerify (sub rec0 0 96) (Config.sha384 (sub rec0 0 1280)) (sub rec0 1280 96) = true ∧ s.fuses.fwMinVer.toNat ≤ num img 4 4 ∧
          Config.ecdsaVerify (sub rec0 0 96) (Config.sha384 (sub img 0 64 ++ sub img 4096 len)) (sub img 64 96) = true))
      let installs : Prop := slot ≤ 1 ∧ off + 4096 + len ≤ secureBase ∧ candidate
      ∃ t, exec (.bootRomInstall p) s = .next t ∧ OthersKept p s t ∧ t.plains[p].hiu.mb[(0 : Fin 4)].go = false ∧
        t.plains[p].hiu.mb[(0 : Fin 4)].done = true ∧ t.plains[p].run.mode = s.plains[p].run.mode ∧
        (installs → t.plains[p].hiu.mb[(0 : Fin 4)].code = 0 ∧
          (MemInv s → ∀ i, i < 4096 + len → sget zeroByte t.plains[p].mem.nvs (0x800000 * slot + i) = sget zeroByte M.spad (off + i))) ∧
        (¬ installs → t.plains[p].hiu.mb[(0 : Fin 4)].code = 1 ∧ t.plains[p].mem.nvs = M.nvs))

/-- The bus matrix serves at each port the access of the highest rank, and an access has the effect of its target (spec/15_bus_matrix_and_scratchpad.md (R308; R309; R310; R312; R313; R314; R315; R316; R319; R320; R321; R326)). It rests on the model's choices of log entries 50. -/
def Obligations.BusAccessesAreServedByRank : Prop :=
  ∀ (p : Fin 8) (s : State),
    let P := s.plains[p]
    (∀ now k e, winnerOf P now k (atPort P k) = some e → e ∈ atPort P k ∧ ∀ d ∈ atPort P k,
      (reservedAt P k d = true → reservedAt P k e = true) ∧ (reservedAt P k d = reservedAt P k e → rankOf P now d ≤ rankOf P now e)) ∧
    (∀ e ∈ P.bus.queue, e.loose = false → atTarget P e = true → (P.bus.queue.filter fun d => decide (d.req.master = e.req.master)).head? = some e) ∧
    (P.run.mode = .valley → ∀ waiting, exec (.busAccessServed p waiting) s = .next s) ∧
    (∀ (a b : BusReq) (oa ob : Nat),
      let rank : BusReq → Nat := fun r => rankOf P s.timeNs { req := r, id := 0, loose := outOfOrder P, since := s.timeNs, tile := P.mem.tcaSel }
      let last := look 0 P.bus.last (2 * (oa / 2 ^ 21))
      let reads : BusReq → Nat → Prop := fun r o => r.write = false ∧ r.master.val ∉ P.bus.hung ∧ r.addr.toNat = 0x10000000 + o ∧
        (r.size = 1 ∨ r.size = 2 ∨ r.size = 4 ∨ r.size = 8) ∧ o % r.size = 0 ∧ o + r.size ≤ secureBase ∧ hasPath r.master.val false (.spad o) = true
      P.run.mode ≠ .valley → P.bus.queue = [] → P.mem.spadUe = [] → reads a oa → reads b ob → oa / 2 ^ 21 = ob / 2 ^ 21 → a.master ≠ b.master →
      (rank b < rank a ∨ (rank b = rank a ∧ turn last a.master < turn last b.master)) → ∀ l : List BusReq, l = [a, b] ∨ l = [b, a] →
      ∃ t, exec (.busAccessServed p l) s = .next t ∧ OnlyPlain p s t ∧
        t.plains[p].bus.served = [{ master := a.master, id := 0, answer := .data (readBytes zeroByte P.mem.spad oa a.size) }] ∧
        t.plains[p].bus.queue.map (·.req) = [b] ∧ t.plains[p].mem.spad = P.mem.spad ∧
        look 0 t.plains[p].mem.conf b.master.val = satInc (look 0 P.mem.conf b.master.val) ∧
        look 0 t.plains[p].mem.conf a.master.val = look 0 P.mem.conf a.master.val) ∧
    (P.run.mode ≠ .valley → P.bus.queue = [] → ∀ r : BusReq, r.master.val ∉ P.bus.hung →
      (decodeAddr r.addr.toNat = .unmapped → ∃ t, exec (.busAccessServed p [r]) s = .next t ∧ OnlyPlain p s t ∧ t.plains[p] = { P with bus := t.plains[p].bus } ∧
        r.master.val ∈ t.plains[p].bus.hung ∧ t.plains[p].bus.stat.getLsbD 0 = true ∧ t.plains[p].bus.answer = .hung ∧ t.plains[p].bus.served = []) ∧
      (decodeAddr r.addr.toNat ≠ .unmapped → hasPath r.master.val r.write (decodeAddr r.addr.toNat) = false →
        ∃ t, exec (.busAccessServed p [r]) s = .next t ∧ OnlyPlain p s t ∧ t.plains[p] = { P with bus := t.plains[p].bus } ∧
          t.plains[p].bus.queue = [] ∧ t.plains[p].bus.served = [{ master := r.master, id := 0, answer := .error }] ∧
          (P.bus.errHi.getLsbD 31 = false → t.plains[p].bus.errHi = w32 (r.addr.toNat / 2 ^ 32 % 256 + r.master.val * 2 ^ 8 + 2 ^ 11 + 2 ^ 31))) ∧
      (∀ off, r.master = 1 → r.lvl = 2 → r.addr.toNat = 0x10000000 + off → (r.size = 1 ∨ r.size = 2 ∨ r.size = 4 ∨ r.size = 8) → off % r.size = 0 →
        off + r.size ≤ secureBase → P.mem.spadUe = [] → Memory.wf zeroByte P.mem.spad = true →
        ∃ t, exec (.busAccessServed p [r]) s = .next t ∧ OnlyPlain p s t ∧ t.plains[p].bus.queue = [] ∧
          (r.write = true → r.data.length = r.size → t.plains[p].bus.served = [{ master := 1, id := 0, answer := .data [] }] ∧
            readBytes zeroByte t.plains[p].mem.spad off r.size = r.data ∧
            (∀ x, x < off ∨ off + r.size ≤ x → sget zeroByte t.plains[p].mem.spad x = sget zeroByte P.mem.spad x)) ∧
          (r.write = false → t.plains[p].bus.served = [{ master := 1, id := 0, answer := .data (readBytes zeroByte P.mem.spad off r.size) }] ∧
            t.plains[p].mem.spad = P.mem.spad))) ∧
    (∀ (off : BitVec 28) (size : Nat) (w : Bool) (data : List Byte), P.run.mode ≠ .valley → off.toNat < 0x4000000 →
      (decodeAddr off.toNat = .unmapped → ∃ t, exec (.hostBar0Access p.castSucc off size w data) s = .next t ∧ OnlyPlain p s t ∧
        t.plains[p].bus.stat.getLsbD 2 = true ∧ t.plains[p].bus.answer = .data (if w then [] else List.replicate size 0xFF)) ∧
      (∀ k, decodeAddr off.toNat = .spad k → (size = 1 ∨ size = 2 ∨ size = 4 ∨ size = 8) → off.toNat % size = 0 → k + size ≤ secureBase →
        P.mem.spadUe = [] → P.bus.queue = [] → ∃ t, exec (.hostBar0Access p.castSucc off size false data) s = .next t ∧ OthersKept p s t ∧
          t.plains[p].bus.answer = .data (readBytes zeroByte P.mem.spad k size) ∧ t.plains[p].mem.spad = P.mem.spad)) ∧
    (∀ who v, exec (.bmCtlRecovery p who v) s = .next
      (if P.run.mode ≠ .valley ∧ reachesPlain who = true then modPlain s p fun P => { P with bus := { P.bus with recovery := v.getLsbD 0 } } else s)) ∧
    (P.mem.writeBack = [] → exec (.spadCeWriteback p) s = .next s) ∧
    (∀ w rest, P.mem.writeBack = w :: rest → exec (.spadCeWriteback p) s = .next (modPlain s p fun P =>
      { P with mem := { P.mem with writeBack := rest, spadCe := put false P.mem.spadCe w false } })) ∧
    exec (.nvsLineWriteDone p) s = .next (modPlain s p fun P => { P with mem := { P.mem with nvsBusy := P.mem.nvsBusy - 1 } })

/-- Register writes reach only the registers of their agent, in order, and test registers need their scope (spec/00_scope.md (R6; R7), spec/13_host_interface.md (R272), spec/20_test_and_observation.md (R397; R400), spec/21_pins_package_electrical.md (R413), spec/22_register_map.md (R421; R422; R424)). It rests on the model's choices of log entries 31 and 44. -/
def Obligations.RegistersTakeWritesOfTheirAgents : Prop :=
  ∀ s : State,
    (∀ (q : Fin 9) (who : Agent) (off : BitVec 28) (v : Word),
      (off.toNat % 4 ≠ 0 → exec (.registerWrite q who off v) s = .next s ∧ exec (.obsWrite q who off v) s = .next s) ∧
      (q = 8 → who ≠ .hostPf0 → exec (.registerWrite q who off v) s = .next s) ∧
      (q ≠ 8 → (who = .hostPf0 ∧ (off.toNat < 0x300000 ∨ 0x300410 ≤ off.toNat)) ∨ who = .i2c → exec (.registerWrite q who off v) s = .next s)) ∧
    (∀ (p : Fin 8) (who : Agent) (off : BitVec 28) (v : Word), (∃ t, exec (.registerWrite p.castSucc who off v) s = .next t ∧ OthersKept p s t) ∧
      (s.plains[p].run.mode ≠ .valley → who = .mgrMachine →
        exec (.registerWrite p.castSucc who 0x500004 v) s = .next (modPlain s p fun P => { P with bus := { P.bus with stat := P.bus.stat &&& ~~~v.setWidth 4 } }) ∧
        exec (.registerWrite p.castSucc who 0x500030 v) s = .next (modPlain s p fun P =>
          let P := { P with bus := { P.bus with pmCtl := v &&& 0x8000FFFF#32 } }
          match P.bus.pmHeld with
          | none => if v.getLsbD 31 then P else { P with bus := { P.bus with pmHeld := some s.timeNs } }
          | some t0 => if v.getLsbD 31 then { P with
              bus := { P.bus with pmHeld := none }
              mgr := { P.mgr with retiredAt := if P.mgr.retiredAt ≤ t0 then P.mgr.retiredAt + (s.timeNs - t0) else s.timeNs } } else P) ∧
        exec (.registerWrite p.castSucc who 0x000008 v) s = .next s)) ∧
    (∀ v : Word,
      exec (.registerWrite 8 .hostPf0 0x20004 v) s = .next { s with power := { s.power with vadm := v.setWidth 16 } } ∧
      exec (.registerWrite 8 .hostPf0 0x30100 v) s = .next { s with power := { s.power with tamper := s.power.tamper &&& ~~~v.setWidth 5 } } ∧
      exec (.devRstTestWrite v) s = .next { s with tap := if scopeGranted s 0 then { s.tap with devTest := v.getLsbD 1 } else { s.tap with denied := true } }) ∧
    (∀ (p : Fin 8) (seq : Word) (pairs : List (Word × Word)),
      let ends : State → Nat → State := fun u status => modPlain u p fun P => outcome P 3 seq status 0
      let good : Prop := 1 ≤ pairs.length ∧ pairs.length ≤ 5 ∧ ∀ x ∈ pairs, x.1.toNat % 4 = 0 ∧ x.1.toNat < 0x1000000
      (startedNow s.plains[p] 3 seq 2 (regWriteFields pairs) = false → exec (.regWrite p seq pairs) s = .next s) ∧
      (startedNow s.plains[p] 3 seq 2 (regWriteFields pairs) = true → ¬ good → exec (.regWrite p seq pairs) s = .next (ends s 0x13)) ∧
      (startedNow s.plains[p] 3 seq 2 (regWriteFields pairs) = true → good →
        exec (.regWrite p seq pairs) s = .next (ends (pairs.foldl (fun u x => hostWrite u p x.1.toNat x.2) s) 0))) ∧
    (∀ v : Word, v.getLsbD 0 = false → exec (.registerWrite 8 .hostPf0 0x10008 v) s = exec (.devRstTestWrite v) s) ∧
    (∀ (off : BitVec 28) (size : Nat) (data : List Byte),
      (size ≠ 4 ∨ off.toNat % 4 ≠ 0 → exec (.hostBar0Access 8 off size true data) s = .next s ∧
        exec (.hostBar0Access 8 off size false data) s = .next { s with readData := 0xFFFFFFFF#32 }) ∧
      (size = 4 → off.toNat % 4 = 0 → off.toNat < 0x4000000 → exec (.hostBar0Access 8 off size false data) s = .next { s with readData := readPf0 s off.toNat })) ∧
    (∀ (p : Fin 8) (who : Agent) (v : Word), let takes : Bool := who == .hostFn || who == .mgrMachine || who == .testPort
      let ok := takes && scopeGranted s 1
      let okDev := (takes || who == .hostPf0) && scopeGranted s 1
      let h := s.plains[p].health
      let h' : Health := if ok then { h with obsEn := v.setWidth 4, obsDenied := h.obsDenied && !v.getLsbD 4 } else { h with obsDenied := true }
      let T : Tap := if okDev then { s.tap with obsEn := v.setWidth 4, obsDenied := s.tap.obsDenied && !v.getLsbD 4 } else { s.tap with obsDenied := true }
      (s.plains[p].run.mode ≠ .valley → exec (.obsWrite p.castSucc who 0xD00000 v) s = .next (modPlain s p fun P => { P with health := h' })) ∧
      exec (.obsWrite 8 who 0x70100 v) s = .next { s with tap := T }) ∧
    (∀ (off : BitVec 24) (v : Word),
      (off.toNat ∉ [0x20000, 0x30000, 0x40000, 0x30200, 0x30004, 0x40004, 0x20014, 0x30100] → exec (.i2cWrite off v) s = .next { s with nak := true }) ∧
      (inReset s = true → exec (.i2cWrite off v) s = .next { s with nak := true } ∧ exec (.i2cRead off) s = .next { s with nak := true }) ∧
      (inReset s = false →
        exec (.i2cWrite 0x30000 v) s = .next { s with nak := false, power := { s.power with vinWarn := v.setWidth 6 } } ∧
        exec (.i2cWrite 0x40000 v) s = .next { s with nak := false, power := { s.power with thermWarn := v.setWidth 8 } }) ∧
      (off.toNat % 4 ≠ 0 → exec (.i2cRead off) s = .next { s with nak := true }) ∧
      (inReset s = false → off.toNat % 4 = 0 → exec (.i2cRead off) s = .next { s with nak := false, readData := readPf0 s off.toNat }))

/-- COL_CTL, QS_CTL and SPAD_CTL clear their counters; COL_HOPS, NVS_WR and RC counter reads act on read (spec/00_scope.md (R6), spec/05_col_network.md (R112), spec/06_decoupling_queues.md (R126), spec/15_bus_matrix_and_scratchpad.md (R330)). -/
def Obligations.CountersAreClearedAndCaptured : Prop :=
  ∀ (p : Fin 8) (s : State),
    (s.plains[p].run.mode = .valley → ∀ v off, exec (.colCtlClr p v) s = .next s ∧ exec (.qsCtlClr p v) s = .next s ∧ exec (.spadCtlClr p) s = .next s ∧
      exec (.colHopsRead p) s = .next s ∧ exec (.nvsWrRead p) s = .next s ∧ exec (.rcCounterRead p off) s = .next s) ∧
    (s.plains[p].run.mode ≠ .valley → ∀ v : Word,
      exec (.colCtlClr p v) s = .next (modPlain s p fun P => { P with col := { P.col with freeze := v.getLsbD 1, hops := 0, hopsHi := 0, dropCnt := 0, lag := [] } }) ∧
      exec (.qsCtlClr p v) s = .next (modPlain s p fun P => { P with stall := { P.stall with
        freeze := v.getLsbD 1, waitSteps := 0, bpSteps := 0, max := 0, overCnt := 0 } }) ∧
      exec (.spadCtlClr p) s = .next (modPlain s p fun P => { P with mem := { P.mem with ceCnt := 0, ueCnt := 0, conf := [], nvsCeCnt := 0, nvsUeCnt := 0 } }) ∧
      exec (.colHopsRead p) s = .next (modPlain s p fun P => { P with col := { P.col with hopsHi := P.col.hops.extractLsb' 32 32 } }) ∧
      exec (.nvsWrRead p) s = .next (modPlain s p fun P => { P with mem := { P.mem with nvsWrHi := P.mem.nvsWr.extractLsb' 32 32 } }) ∧
      exec (.rcCounterRead p 0x400000) s = .next { modPlain s p (fun P => { P with dma := { P.dma with dropped := 0 } }) with readData := s.plains[p].dma.dropped } ∧
      (∀ l : Fin 8, exec (.rcCounterRead p (BitVec.ofNat 28 (0x800018 + 0x10000 * l.val))) s =
        .next { modPlain s p (fun P => modLink P l fun L => { L with crcCnt := 0 }) with readData := s.plains[p].links[l].crcCnt }) ∧
      (∀ off : BitVec 28, off ≠ 0x400000 → ¬(0x800000 ≤ off.toNat ∧ off.toNat < 0x880000 ∧ 0x10 ≤ off.toNat % 0x10000 ∧ off.toNat % 0x10000 ≤ 0x2C) →
        exec (.rcCounterRead p off) s = .next { s with readData := peekReg s.timeNs s.fuses p s.plains[p] off.toNat }))

/-- RPL_CTL.GO starts a replay from HOLD or says why not; the log's words enter their queues before their step (spec/09_capture_and_replay.md (R194; R195; R196)). It rests on the model's choices of log entries 21, 24, 33 and 46. -/
def Obligations.ReplayRunsFromHoldWithItsLog : Prop :=
  ∀ (p : Fin 8) (s : State),
    let P := s.plains[p]
    (∀ v : Word, P.run.mode ≠ .valley →
      let k := (v.extractLsb' 0 4).toNat
      let fromSlot := v.getLsbD 4
      let barred : Prop := P.run.mode ≠ .hold ∨ P.run.after ≠ none ∨ (fromSlot = false ∧ (P.run.colDirty = true ∨ P.health.incomplete = true))
      let err := if capSize P = 0 then 2 else match (if fromSlot then (find P.cap.dir k).map (·.start) else some P.run.cycle) with
        | none => 1
        | some a => if P.cap.rplStop.toNat < a then 3 else if logReaches P a P.cap.rplStop.toNat = false then 2 else 0
      let closing : Prop := (P.links.map (replayLink fromSlot)).toList.any closingLink = true
      (barred → exec (.rplCtlGo p v) s = .next (modPlain s p fun P => { P with cap := { P.cap with rplSlot := BitVec.ofNat 4 k, rplRestore := fromSlot } })) ∧
      (¬ barred → err ≠ 0 → ∃ t, exec (.rplCtlGo p v) s = .next t ∧ OnlyPlain p s t ∧ t.plains[p].run = P.run ∧ t.plains[p].tiles = P.tiles ∧
        t.plains[p].cap = { P.cap with rplSlot := BitVec.ofNat 4 k, rplRestore := fromSlot, rplErr := BitVec.ofNat 3 err, rplActive := false }) ∧
      (¬ barred → err = 0 → closing → exec (.rplCtlGo p v) s = .next (modPlain s p fun P => { P with
        links := P.links.map (replayLink fromSlot), run := { P.run with after := some (.replay k fromSlot) }
        cap := { P.cap with rplSlot := BitVec.ofNat 4 k, rplRestore := fromSlot, rplErr := 0, rplActive := true } })) ∧
      (¬ barred → err = 0 → ¬ closing → fromSlot = false → exec (.rplCtlGo p v) s = .next (modPlain s p fun P =>
        let F := flushParts { P with links := P.links.map (replayLink false), run := { P.run with after := some (.replay k false) }
                                     cap := { P.cap with rplSlot := BitVec.ofNat 4 k, rplRestore := false, rplErr := 0, rplActive := true } }
        { F with
          links := F.links.map (emptyIn false)
          run := { F.run with after := none, mode := .replay, prev := .hold, phase := .row9, row9At := s.timeNs, replayed := true, paceRef := none, late := false }
          cap := { F.cap with rplNext := 0, holdNew := [] } })) ∧
      (¬ barred → err = 0 → ¬ closing → fromSlot = true → ∃ t, exec (.rplCtlGo p v) s = .next t ∧ OthersKept p s t ∧
        ((t.plains[p].run.mode = .replay ∧ t.plains[p].run.phase = .row9 ∧ t.plains[p].cap.rplActive = true) ∨
          t.plains[p].run.mode = .quarantine ∨ t.plains[p].run.after ≠ none))) ∧
    (let due : Option Nat := if P.run.mode = .replay ∧ P.run.phase = .stepping then nextPassIn P else none
     let room : Nat → Prop := fun w =>
       let m := look 0 P.links[Fin.ofNat 8 (fldN w 4 3)].chan (fldN w 7 6)
       fldN w 13 13 ≤ P.run.step ∧ inDepth P.tiles[Fin.ofNat 64 (fld m 0 6)] (fld m 6 2) < 8
     (due = none → exec (.replayLogInject p) s = .next s) ∧
     (∀ w, due = some w → ¬ room w → exec (.replayLogInject p) s = .next s) ∧
     (∀ w, due = some w → room w →
       let m := look 0 P.links[Fin.ofNat 8 (fldN w 4 3)].chan (fldN w 7 6)
       let k : Fin 64 := Fin.ofNat 64 (fld m 0 6)
       ∃ t, exec (.replayLogInject p) s = .next t ∧ OnlyPlain p s t ∧
         t.plains[p] = { P with tiles := P.tiles.set k t.plains[p].tiles[k], cap := { P.cap with rplNext := P.cap.rplNext + 1 } } ∧
         t.plains[p].tiles[k] = { P.tiles[k] with
           q2 := P.tiles[k].q2 ++ if fld m 6 2 = 0 then [w32 (w / 2 ^ 32)] else []
           q3 := P.tiles[k].q3 ++ if fld m 6 2 = 1 then [w32 (w / 2 ^ 32)] else []
           q4 := P.tiles[k].q4 ++ if fld m 6 2 = 2 then [w32 (w / 2 ^ 32)] else []
           q5 := P.tiles[k].q5 ++ if fld m 6 2 = 3 then [w32 (w / 2 ^ 32)] else [] }))

/-- MANAGER_INSTRUCTION: the units, loads, stores, branches, calls and CSR accesses; traps, events and their escalation (spec/11_manager_core.md (R219; R221; R222; R224; R225; R228; R232; R233; R237), spec/12_manager_traps_and_lockstep.md (R241; R244; R245; R246; R247; R248; R251)). It rests on the model's choices of log entries 40, 41 and 42. -/
def Obligations.ManagerIssuesItsInstructions : Prop :=
  ∀ (p : Fin 8) (s : State),
    let P := s.plains[p]
    let M := P.mgr
    let csr : Nat → DWord := look 0 M.csr
    let esc := csr 0x234
    let steady : Prop := P.run.mode ≠ .valley ∧ M.running = true ∧ M.long = [] ∧ M.envCall = none ∧ M.busErr = none ∧ M.fence = false ∧
      M.flush = false ∧ M.waiting = false ∧ M.blk = none ∧ M.fetchReq = none ∧ P.bus.pmStage = 0 ∧ MemInv s ∧
      (M.lsStat.getLsbD 4 = false → (shadowRun P.lock).2 = true)
    let quiet : Prop := steady ∧ M.ret = none
    let run := exec (.managerInstruction p 0) s
    let nextIs : Manager → Prop := fun N => ∃ L, run = .next (modPlain s p fun P => { P with lock := L, mgr := N })
    let clr : Sparse DWord → Sparse DWord := fun C =>
      if (look 0 C 0x234).getLsbD 0 then put 0 C 0x234 (setBit (look 0 C 0x234) 0 false) else C
    let begun : Manager := { M with steps := M.steps + 1, sbStall := false, loose := if M.mem = [] then outOfOrder P else M.loose }
    let base : Manager := { begun with csr := clr M.csr, pc := M.pc + 16, retired := M.retired + 1, retiredAt := s.timeNs }
    let only : State → Prop := fun t => OnlyPlain p s t ∧ t.plains[p] = { P with
      mgr := t.plains[p].mgr, lock := t.plains[p].lock, health := { P.health with obsTrap := some s.timeNs } } ∧
      t.plains[p].mgr.g = M.g ∧ t.plains[p].mgr.ports = M.ports ∧ t.plains[p].mgr.mem = M.mem ∧ t.plains[p].mgr.evq = M.evq ∧
      t.plains[p].mgr.steps = M.steps + 4
    let target : Nat → Fin 3 := fun c => if M.lvl.val < 2 ∧ (csr 0x230).getLsbD c = true then 1 else 2
    let saves : Nat → DWord → DWord → State → Prop := fun c x epc t =>
      let N := t.plains[p].mgr
      let b := 0x200 + 0x10 * (target c).val
      N.lvl = target c ∧ N.pc = csr b ∧ look 0 N.csr (b + 1) = epc &&& 0xFFFFFFFFFF#64 ∧ look 0 N.csr (b + 2) = BitVec.ofNat 64 c ∧
      look 0 N.csr (b + 3) = x ∧ look 0 N.csr (b + 4) = BitVec.ofNat 64 ((if (csr (b + 4)).getLsbD 0 then 2 else 0) + M.lvl.val * 4) ∧
      (look 0 N.csr 0x234).getLsbD 0 = true ∧ N.steps = M.steps + 4
    let escalates : Nat → State → Prop := fun c t =>
      let N := t.plains[p].mgr
      N.lvl = 2 ∧ N.pc = csr 0x231 ∧
      look 0 N.csr 0x232 = BitVec.ofNat 64 ((csr (0x202 + 0x10 * M.entered.val)).toNat % 256 + c * 256) ∧
      look 0 N.csr 0x233 = M.pc &&& 0xFFFFFFFFFF#64 ∧
      look 0 N.csr 0x234 = BitVec.ofNat 64 (2 + min 255 (esc.toNat / 256 % 256 + 1) * 256) ∧
      ∀ n, n < 0x232 ∨ 0x234 < n → look 0 N.csr n = csr n
    let third : State → Prop := fun t => OthersKept p s t ∧ t.plains[p].mgr.running = false ∧
      (P.health.winOpen = false → P.mem.nvsUe = [] → t.plains[p].health.code = 0x08 ∧ (P.run.after = none → t.plains[p].run.rstCause = 4))
    let traps : Nat → DWord → Prop := fun c x => ∃ t, run = .next t ∧
      (esc.getLsbD 1 = true → third t) ∧ (esc.getLsbD 1 = false → only t) ∧
      (esc.getLsbD 1 = false → esc.getLsbD 0 = true → escalates c t) ∧
      (esc.getLsbD 1 = false → esc.getLsbD 0 = false → saves c x M.pc t)
    let check : Nat → DWord → Nat → Nat → Nat := fun slot off len right =>
      let L := csr (0x101 + 0x20 * M.lvl.val + 2 * slot)
      if L.getLsbD 63 = false then 2
      else if L.toNat % 2 ^ 40 < off.toNat ∨ L.toNat % 2 ^ 40 - off.toNat < len - 1 then 3
      else if L.getLsbD right = false then 4 else 0
    let pa : Nat → DWord → Nat := fun slot off => ((csr (0x100 + 0x20 * M.lvl.val + 2 * slot)).toNat % 2 ^ 40 + off.toNat) % 2 ^ 40
    let mv : Nat → Nat → Nat := fun src dst => dst + src * 2 ^ 12
    let im : Nat → Nat → Nat := fun v dst => dst + v * 2 ^ 12 + 2 ^ 24
    let nop := im 0 0
    let word : Nat → Nat → Nat → Nat → Nat → Nat := fun m0 m1 m2 m3 ext => m0 + m1 * 2 ^ 28 + m2 * 2 ^ 56 + m3 * 2 ^ 84 + ext * 2 ^ 112
    let fetches : Nat → Prop := fun w => M.pc.toNat % 16 = 0 ∧ check 0 M.pc 16 62 = 0 ∧
      ∃ bs, find M.fetch (pa 0 M.pc / 64) = some bs ∧ pa 0 M.pc % 64 ≤ 48 ∧ leNat ((bs.drop (pa 0 M.pc % 64)).take 16) = w
    let clear : List Nat → Prop := fun ns => ∀ n ∈ 0 :: ns, n < 64 ∧ look false M.board n = false
    let G : Nat → DWord := fun i => if i = 0 then 0 else look 0 M.g i
    let mark : Sparse Bool → Nat → Sparse Bool := fun b d => if d = 0 then b else put false b d true
    let reg : Nat → DWord := BitVec.ofNat 64
    let port : Sparse DWord → Nat → DWord → Sparse DWord := put 0
    let op : MgrUse → Nat → DWord → Nat → DWord → MgrOp := fun use slot off size v =>
      { use := use, addr := BitVec.ofNat 40 (pa slot off), size := size, data := v, lvl := M.lvl, step := M.steps }
    let alu : Nat → DWord → DWord → DWord := fun k a b =>
      let n := b.toNat % 64
      if k = 1 then a + b else if k = 2 then a - b else if k = 3 then a &&& b else if k = 4 then a ||| b else if k = 5 then a ^^^ b
      else if k = 6 then a &&& ~~~b else if k = 7 then BitVec.ofNat 64 (a.toNat * 2 ^ n) else if k = 8 then BitVec.ofNat 64 (a.toNat / 2 ^ n)
      else if k = 9 then BitVec.ofInt 64 (a.toInt / 2 ^ n) else if k = 10 then (if a = b then 1 else 0)
      else if k = 11 then (if a.toInt < b.toInt then 1 else 0) else if k = 12 then (if a.toNat < b.toNat then 1 else 0)
      else BitVec.ofInt 64 ((a.toNat % 2 ^ (n + 1) : Nat) - (if a.getLsbD n then 2 ^ (n + 1) else 0 : Int))
    let mul : Nat → DWord → DWord → DWord := fun n a b =>
      if n = 0xC2 then BitVec.ofNat 64 (a.toNat * b.toNat) else if n = 0xC3 then BitVec.ofNat 64 (a.toNat * b.toNat / 2 ^ 64)
      else BitVec.ofInt 64 (a.toInt * b.toInt / 2 ^ 64)
    let div : Nat → DWord → DWord → DWord := fun n a b =>
      if b = 0 then (if n ≤ 0xCB then 0xFFFFFFFFFFFFFFFF#64 else a)
      else if n = 0xCA then BitVec.ofNat 64 (a.toNat / b.toNat) else if n = 0xCC then BitVec.ofNat 64 (a.toNat % b.toNat)
      else if n = 0xCB then BitVec.ofInt 64 (a.toInt.tdiv b.toInt) else BitVec.ofInt 64 (a.toInt.tmod b.toInt)
    let size : Nat → Nat := fun n => if n = 0xD3 ∨ n = 0xD7 ∨ n = 0xDA then 1 else if n = 0xD4 ∨ n = 0xD8 ∨ n = 0xDB then 2
      else if n = 0xD5 ∨ n = 0xD9 ∨ n = 0xDC then 4 else 8
    let saved : Nat → List Nat := fun mask => ((List.range 16).filter mask.testBit).flatMap fun k => [4 * k, 4 * k + 1, 4 * k + 2, 4 * k + 3]
    let listed : Nat → Prop := fun n => n = 0 ∨ n = 0x20 ∨ (0x100 ≤ n ∧ n ≤ 0x10F) ∨ (0x120 ≤ n ∧ n ≤ 0x12F) ∨ (0x140 ≤ n ∧ n ≤ 0x14F) ∨
      (0x180 ≤ n ∧ n ≤ 0x184) ∨ (0x210 ≤ n ∧ n ≤ 0x215) ∨ (0x220 ≤ n ∧ n ≤ 0x225) ∨ (0x230 ≤ n ∧ n ≤ 0x234)
    let permitted : Nat → Prop := fun n => if (0x140 ≤ n ∧ n ≤ 0x14F) ∨ 0x220 ≤ n then M.lvl = 2 else M.lvl ≠ 0
    let keeps : Nat → DWord → DWord := fun n x =>
      if n ≤ 0x14F then x &&& (if n % 2 = 0 then 0xFFFFFFFFFF#64 else 0xF00000FFFFFFFFFF#64)
      else if n = 0x180 then x &&& 0x800000000000FFFF#64
      else if n = 0x210 ∨ n = 0x220 ∨ n = 0x211 ∨ n = 0x221 ∨ n = 0x231 ∨ n = 0x233 then x &&& 0xFFFFFFFFFF#64
      else if n = 0x212 ∨ n = 0x222 then x &&& 0x80000000000000FF#64 else if n = 0x214 ∨ n = 0x224 then x &&& 0xF#64
      else if n = 0x230 then x &&& 0x2FE#64 else if n = 0x232 then x &&& 0xFFFF#64
      else if n = 0x234 then (x &&& 0xFF00#64) ||| (esc &&& 3#64) else x
    let stack : Nat := if M.callMode then 2 else 3
    let sp : DWord := look 0 (if M.callMode then M.ssp else M.tsp) M.lvl.val
    let setSp : DWord → Manager → Manager := fun v N =>
      if M.callMode then { N with ssp := put 0 M.ssp M.lvl.val v } else { N with tsp := put 0 M.tsp M.lvl.val v }
    -- accesses of 8 bytes each to the call stack at `a`, `a + 8`, ...: the first trap, or what happens
    let stacked : DWord → Nat → Nat → Prop → Prop := fun a k right goes =>
      let first : Nat → Option DWord := fun c =>
        ((List.range k).map fun n => a + BitVec.ofNat 64 (8 * n)).find? fun x => check stack x 8 right == c
      if a.toNat % 8 ≠ 0 then traps 5 a
      else match first 2, first 3, first 4 with
        | some _, _, _ => traps 2 (reg stack)
        | none, some x, _ => traps 3 x
        | none, none, some x => traps 4 x
        | none, none, none => goes
    ((P.run.mode = .valley ∨ M.running = false) → ∀ d, exec (.managerInstruction p d) s = .next s) ∧
    (quiet → eventTaken M = true → traps 9 (reg ((M.evq.headD 0).extractLsb' 0 16).toNat)) ∧
    (quiet → eventTaken M = false → M.pc.toNat % 16 ≠ 0 → traps 5 M.pc) ∧
    (quiet → eventTaken M = false → M.pc.toNat % 16 = 0 → check 0 M.pc 16 62 ≠ 0 → traps (check 0 M.pc 16 62) M.pc) ∧
    (quiet → eventTaken M = false → ∀ ext, ext < 2 ^ 16 →
      (∀ u k i j d v, u < 2 → 1 ≤ k → k ≤ 13 → v < 2 ^ 12 → clear [i, j, d] →
        fetches (word (mv i (0x80 + 0x20 * u)) (mv j (0x80 + 0x20 * u + k)) (im v d) nop ext) →
        nextIs { base with
          g := if d = 0 then M.g else put 0 M.g d ((BitVec.ofNat 12 v).signExtend 64)
          ports := port (port M.ports (0x80 + 0x20 * u) (G i)) (0x8F + 0x20 * u) (alu k (G i) (G j)) }) ∧
      (∀ n i j d, 0xC2 ≤ n → n ≤ 0xC4 → clear [i, j, d] → fetches (word (mv i 0xC0) (im d 0xC1) (mv j n) nop ext) →
        nextIs { base with
          ports := port (port M.ports 0xC0 (G i)) 0xC1 (reg d), board := mark M.board d
          long := [{ unit := 0, reg := d, value := mul n (G i) (G j), due := M.steps + 4 }] }) ∧
      (∀ n i j d, 0xCA ≤ n → n ≤ 0xCD → clear [i, j, d] → fetches (word (mv i 0xC8) (im d 0xC9) (mv j n) nop ext) →
        nextIs { base with
          ports := port (port M.ports 0xC8 (G i)) 0xC9 (reg d), board := mark M.board d
          long := [{ unit := 1, reg := d, value := div n (G i) (G j), due := M.steps + 20 }] }) ∧
      (∀ n i q d, 0xD3 ≤ n → n ≤ 0xD9 → q < 8 → clear [i, d] → fetches (word (mv i 0xD0) (im q 0xD1) (im d 0xD2) (im 0 n) ext) →
        let c := if (G i).toNat % size n ≠ 0 then 5 else check q (G i) (size n) 60
        (c ≠ 0 → traps c (if c = 2 then reg q else G i)) ∧
        (c = 0 → nextIs { base with
          ports := port (port (port M.ports 0xD0 (G i)) 0xD1 (reg q)) 0xD2 (reg d), board := mark M.board d
          mem := M.mem ++ [op (.load d (decide (0xD7 ≤ n))) q (G i) (size n) 0] })) ∧
      (∀ n i q j, 0xDA ≤ n → n ≤ 0xDD → q < 8 → clear [i, j] → fetches (word (mv i 0xD0) (im q 0xD1) (mv j n) nop ext) →
        let c := if (G i).toNat % size n ≠ 0 then 5 else check q (G i) (size n) 61
        (c ≠ 0 → traps c (if c = 2 then reg q else G i)) ∧
        (c = 0 → nextIs { base with
          ports := port (port M.ports 0xD0 (G i)) 0xD1 (reg q), mem := M.mem ++ [op .store q (G i) (size n) (G j)] })) ∧
      (∀ i, clear [i] → fetches (word (mv i 0xF0) nop nop nop ext) →
        ((G i).toNat % 16 ≠ 0 → traps 5 (G i)) ∧ ((G i).toNat % 16 = 0 → nextIs { base with pc := G i, steps := M.steps + 2 })) ∧
      (∀ i, (let regs := if M.callMode then saved ext else []
        let low := sp - BitVec.ofNat 64 (if M.callMode then 16 + 8 * regs.length else 8)
        let data := (if M.callMode then [reg ext, M.pc + 16] else [M.pc + 16]) ++ regs.map G
        clear (i :: regs) → fetches (word (mv i 0xF1) nop nop nop ext) →
        ((G i).toNat % 16 ≠ 0 → traps 5 (G i)) ∧
        ((G i).toNat % 16 = 0 → stacked low data.length 61 (nextIs (setSp low { base with
          pc := G i, steps := M.steps + 2
          mem := M.mem ++ data.zipIdx.map fun (x : DWord × Nat) => op .store stack (low + BitVec.ofNat 64 (8 * x.2)) 8 x.1 }))))) ∧
      (clear [] → fetches (word (im 0 0xF2) nop nop nop ext) →
        stacked sp (if M.callMode then 2 else 1) 60 (nextIs { begun with
          mem := M.mem ++ (if M.callMode then [op .ret1 stack sp 8 0, op .ret0 stack (sp + 8) 8 0] else [op .ret0 stack sp 8 0])
          ret := some { word := BitVec.ofNat 128 (word (im 0 0xF2) nop nop nop ext), data := [0, 0, 0, 0], step := M.steps } })) ∧
      (∀ n d, n < 0x800 → clear [d] → fetches (word (im n 0x118) (im d 0x119) (im 0 0x11A) nop ext) →
        (¬ listed n → traps 1 2) ∧
        (listed n → ¬ (n = 0 ∨ (n ≠ 0x20 ∧ permitted n)) → traps 6 (reg n)) ∧
        (listed n → (n = 0 ∨ (n ≠ 0x20 ∧ permitted n)) → nextIs { base with
          ports := port (port M.ports 0x118 (reg n)) 0x119 (reg d), board := mark M.board d
          long := [{ unit := 2, reg := d, value := if n = 0 then (if M.callMode then 1 else 0) else csr n, due := M.steps + 2 }] })) ∧
      (∀ n i, n < 0x800 → clear [i] → fetches (word (im n 0x118) (mv i 0x11B) nop nop ext) →
        (¬ listed n → traps 1 1) ∧
        (listed n → ¬ (n = 0x20 ∨ (n ≠ 0 ∧ permitted n)) → traps 6 (reg n)) ∧
        (n ≠ 0x20 → listed n → n ≠ 0 → permitted n → nextIs { base with
          ports := port M.ports 0x118 (reg n), csr := clr (put 0 M.csr n (keeps n (G i))) }) ∧
        (n = 0x20 → esc.getLsbD 0 = false → esc.getLsbD 1 = false → ∃ t, run = .next t ∧ OnlyPlain p s t ∧ saves 7 (G i) (M.pc + 16) t)) ∧
      (clear [] → fetches (word (im 0 0xF4) nop nop nop ext) →
        let b := 0x200 + 0x10 * M.lvl.val
        let st := csr (b + 4)
        let C := put 0 M.csr (b + 4) (setBit st 0 (st.getLsbD 1))
        (M.lvl = 0 → traps 6 0x0F4) ∧
        (M.lvl ≠ 0 → (csr 0x180).getLsbD 63 = false → nextIs { base with
          csr := clr (if M.lvl = 2 then put 0 C 0x234 (setBit (look 0 C 0x234) 1 false) else C)
          lvl := if st.toNat / 4 % 4 < M.lvl.val then Fin.ofNat 3 (st.toNat / 4 % 4) else M.lvl
          pc := csr (b + 1), steps := M.steps + 2 })) ∧
      (∀ d v w, d ≠ 0 → v < 2 ^ 12 → w < 2 ^ 12 → clear [d] → fetches (word (im v d) (im w d) nop nop ext) → traps 1 0)) ∧
    (steady → ∀ r e off, M.ret = some r → r.off = some off → r.word = BitVec.ofNat 128 (word (im 0 0xF2) nop nop nop e) → e < 2 ^ 16 →
      r.data = [0, 0, 0, 0] → (M.callMode = true → r.mask ≠ none) →
      let regs := if M.callMode then saved ((r.mask.getD 0).toNat % 2 ^ 16) else []
      let at16 : Nat → DWord := fun n => sp + 16 + BitVec.ofNat 64 (8 * n)
      (off.toNat % 16 ≠ 0 → traps 5 off) ∧
      (off.toNat % 16 = 0 → (∀ n, n < regs.length → check 2 (at16 n) 8 60 = 0) →
        nextIs (setSp (sp + BitVec.ofNat 64 (if M.callMode then 16 + 8 * regs.length else 8)) { base with
          pc := off, steps := M.steps + 2, ret := none, board := regs.foldl mark M.board
          mem := M.mem ++ regs.zipIdx.map fun (x : Nat × Nat) => op (.load x.1 false) 2 (at16 x.2) 8 0 }))) ∧
    (P.run.mode ≠ .valley → M.running = true → M.lsStat.getLsbD 4 = false →
      ∃ t, exec (.managerInstruction p 1) s = .next t ∧ OthersKept p s t ∧ t.plains[p].mgr.running = false ∧
        (P.health.winOpen = false → P.mem.nvsUe = [] → t.plains[p].health.code = 0x06)) ∧
    (P.run.mode ≠ .valley → M.running = true → M.lsStat.getLsbD 4 = false → M.lsCtl.extractLsb' 2 2 = 0 → P.health.winOpen = false →
      P.mem.nvsUe = [] → ∀ k : BitVec 2, 2 ≤ k →
      ∃ t, exec (.managerInstruction p k) s = .next t ∧ OthersKept p s t ∧ t.plains[p].mgr.running = false ∧ t.plains[p].health.code = 0x07)

/-- Long results, loads, stores, block operations and the self-test complete with the effects of R226 to R234 and R252 (spec/11_manager_core.md (R226; R227; R229; R230; R234), spec/12_manager_traps_and_lockstep.md (R251; R252), spec/15_bus_matrix_and_scratchpad.md (R318)). It rests on the model's choices of log entries 41 and 42. -/
def Obligations.ManagerResultsReachTheirRegisters : Prop :=
  ∀ (p : Fin 8) (s : State),
    let P := s.plains[p]
    let M := P.mgr
    let upd : (Manager → Manager) → State := fun f => modPlain s p fun P => { P with mgr := f P.mgr }
    let checked : Bool := !M.lsStat.getLsbD 4
    let result : Nat → DWord → Manager → Manager := fun r v M =>
      { M with g := if r = 0 then M.g else put 0 M.g r v, board := put false M.board r false }
    let runs : Prop := P.run.mode ≠ .valley ∧ M.running = true
    let loads := (mgrFronts P).find? fun o => decide (o.use ≠ .store)
    let stores := (mgrFronts P).find? fun o => decide (o.use = .store)
    let out := M.mem.filter fun o => o.got.isNone
    let oldest := M.mem.find? fun o => match o.use with
      | .load _ _ => true
      | _ => false
    let arrives : MgrOp → DWord → State → State := fun o v t => modPlain t p fun P => { P with
      lock := if checked then { P.lock with loads := P.lock.loads ++ [({ o with got := some v }, v)] } else P.lock }
    let clean : Prop := P.mem.spadUe = [] ∧ P.mem.spadCe = [] ∧ P.mem.writeBack = [] ∧ Memory.wf zeroByte P.mem.spad = true ∧ P.bus.queue = []
    let ordinary : Nat → Nat → Nat → Prop := fun a off n => a = 0x10000000 + off ∧ off + n ≤ secureBase ∧ off % n = 0 ∧ (n = 1 ∨ n = 2 ∨ n = 4 ∨ n = 8)
    -- M1 was served last at the read or write port of the SPAD bank of `off`
    let served : Nat → Nat → State → State := fun off w t => modPlain t p fun P => { P with
      bus := { P.bus with last := put 0 P.bus.last (2 * (off / 2 ^ 21) + w) 1 } }
    (M.long.find? (fun o => decide (o.due ≤ M.steps)) = none → exec (.longResult p) s = .next s) ∧
    (∀ o, M.long.find? (fun o => decide (o.due ≤ M.steps)) = some o →
      exec (.longResult p) s = .next (upd fun M => { result o.reg o.value M with long := M.long.erase o })) ∧
    (∀ o, o ∈ mgrFronts P → o ∈ M.mem ∧ o.got = none ∧ o.hung = false ∧ (∀ e, e ∈ P.lock.delay → o.step < e.step) ∧
      (M.loose = false → out.head? = some o ∧ 1 ∉ P.bus.hung) ∧
      (M.loose = true → (out.take 8).find? (fun d => targetNo d.addr.toNat == targetNo o.addr.toNat) = some o)) ∧
    (loads = none ∨ ¬ runs → exec (.loadDataReturn p) s = .next s) ∧
    (stores = none ∨ ¬ runs → exec (.managerStoreAccept p) s = .next s) ∧
    (∀ o r signed, loads = some o → o.use = .load r signed → runs → out = M.mem →
      (∀ off, clean → ordinary o.addr.toNat off o.size →
        let x := leNat (readBytes zeroByte P.mem.spad off o.size)
        let v : DWord := if signed then (BitVec.ofNat (8 * o.size) x).signExtend 64 else BitVec.ofNat 64 x
        (oldest = some o → exec (.loadDataReturn p) s =
          .next (arrives o v (served off 0 (upd fun M => { result r v M with mem := M.mem.erase o })))) ∧
        (oldest ≠ some o → exec (.loadDataReturn p) s =
          .next (served off 0 (upd fun M => { M with mem := M.mem.replace o { o with got := some v } })))) ∧
      (∀ u, busAccess s p 1 o.lvl.val false o.addr.toNat o.size (leBytes o.size o.data.toNat) = (u, .error) → oldest = some o →
        mgrRuns u.plains[p] = true → u.plains[p].mgr.mem = M.mem → lockstepChecked u.plains[p].mgr = checked →
        exec (.loadDataReturn p) s = .next (arrives o 0xFFFFFFFFFFFFFFFF#64 (modPlain u p fun P => { P with mgr :=
          { result r 0xFFFFFFFFFFFFFFFF#64 P.mgr with mem := P.mgr.mem.erase o, busErr := some (P.mgr.busErr.getD o.addr) } })))) ∧
    (∀ o off, stores = some o → runs → clean → ordinary o.addr.toNat off o.size →
      ∃ t, exec (.managerStoreAccept p) s = .next t ∧ OnlyPlain p s t ∧
        t.plains[p] = { (served off 1 s).plains[p] with mgr := { M with mem := M.mem.erase o }, mem := { P.mem with spad := t.plains[p].mem.spad } } ∧
        readBytes zeroByte t.plains[p].mem.spad off o.size = leBytes o.size o.data.toNat ∧
        ∀ x, x < off ∨ off + o.size ≤ x → sget zeroByte t.plains[p].mem.spad x = sget zeroByte P.mem.spad x) ∧
    ((¬ runs ∨ ∀ b, M.blk = some b → b.hung = true ∨ (b.done < b.len ∧ ((∃ e, e ∈ P.lock.delay ∧ e.step ≤ b.step) ∨
        (M.loose = false ∧ (M.mem ≠ [] ∨ 1 ∈ P.bus.hung))))) → exec (.blockOpDone p) s = .next s) ∧
    (∀ b src dst, M.blk = some b → M.mem = [] → runs → clean → b.hung = false → b.len % 8 = 0 → b.done % 8 = 0 → b.kind ≤ 2 →
      (checked = true → ∃ d, P.lock.shadow.blk = some d ∧ { d with done := b.done } = b) →
      (∀ e, e ∈ P.lock.delay → b.step < e.step) → (M.loose = false → 1 ∉ P.bus.hung) →
      (b.kind ≠ 1 → b.srcAt.toNat = 0x10000000 + src ∧ src % 8 = 0 ∧ src + b.len ≤ secureBase) →
      b.dstAt.toNat = 0x10000000 + dst → dst % 8 = 0 → dst + b.len ≤ secureBase →
      let old : Nat → Byte := sget zeroByte P.mem.spad
      let v : DWord := if b.kind ≠ 2 then 0 else
        match (List.range (b.len / 8)).find? fun k => decide (b.done ≤ 8 * k) && (List.range 8).any fun i => old (src + 8 * k + i) != old (dst + 8 * k + i) with
        | some k => BitVec.ofNat 64 (8 * k)
        | none => 0xFFFFFFFFFFFFFFFF#64
      ∃ t, exec (.blockOpDone p) s = .next t ∧ OnlyPlain p s t ∧
        t.plains[p] = { P with mgr := { result b.reg v M with blk := none }, mem := { P.mem with spad := t.plains[p].mem.spad }
                               bus := { P.bus with last := t.plains[p].bus.last }
                               lock := if checked then { P.lock with results := P.lock.results ++ [(b.reg, v)] } else P.lock } ∧
        (b.kind = 2 → t.plains[p].mem.spad = P.mem.spad) ∧
        (b.kind = 1 → ∀ x, sget zeroByte t.plains[p].mem.spad x =
          if dst + b.done ≤ x ∧ x < dst + b.len then b.pat.extractLsb' (8 * ((x - dst) % 8)) 8 else old x) ∧
        (b.kind = 0 → ∀ x, sget zeroByte t.plains[p].mem.spad x =
          (List.range ((b.len - b.done + 63) / 64)).foldl (fun f k x =>
            if dst + b.done + 64 * k ≤ x ∧ x < dst + min (b.done + 64 * (k + 1)) b.len then f (x - dst + src) else f x) old x)) ∧
    (let due : Prop := P.run.mode ≠ .valley ∧ M.running = true ∧ M.lsStat.getLsbD 4 = false ∧ M.testedAt + 2 ^ 20 ≤ M.steps
     (¬ due → ∀ found real, exec (.lockstepSelfTest p found real) s = .next s) ∧
     (due → exec (.lockstepSelfTest p true false) s = .next (modPlain s p fun P => { P with lock := { P.lock with group := P.lock.group + 1 }, mgr := { M with
        testedAt := M.testedAt + 2 ^ 20, lsStat := w32 (M.lsStat.toNat % 256 + min (2 ^ 24 - 1) ((M.lsStat.extractLsb' 8 24).toNat + 1) * 256) } })) ∧
     (due → P.health.winOpen = false → P.mem.nvsUe = [] →
        (∀ found, ∃ t, exec (.lockstepSelfTest p found true) s = .next t ∧ OthersKept p s t ∧ t.plains[p].health.code = 0x06) ∧
        ∃ t, exec (.lockstepSelfTest p false false) s = .next t ∧ OthersKept p s t ∧ t.plains[p].health.code = 0x07))

/-- TAP instructions select and load their registers; a token opens a session or burns a life-cycle fuse only when it verifies (spec/18_modes_resets_startup.md (R380), spec/20_test_and_observation.md (R394; R395; R398), spec/21_pins_package_electrical.md (R412)). It rests on the model's choices of log entries 31, 38, 43 and 49. -/
def Obligations.TapInstructionsAndAuthorisation : Prop :=
  ∀ s : State,
    let scan : (Tap → Tap) → State := fun f => { s with tap := f { s.tap with irCaptured := 0x01 } }
    let tap : (Tap → Tap) → State := fun f => { s with tap := f s.tap }
    let outside := Config.scanOutside s.tap.scans
    let level := Config.scanLevel s.tap.scans
    let drive := Config.scanDrive s.tap.scans
    (∃ t, exec .tapReset s = .next t ∧ t.tap.ir = 0x01 ∧ t.tap.pins = .normal ∧ t.tap.sessOpen = false ∧ t.tap.scope = 0 ∧
      t.tap.tcStatus = 0 ∧ t.tap.trstLow = Config.trstHeld s.tap.scans ∧ t.fuses = s.fuses ∧
      ∀ (q : Fin 8) (m : Fin 4), t.plains[q].hiu.mb[m].holder = if s.plains[q].hiu.mb[m].holder = 6 then 0 else s.plains[q].hiu.mb[m].holder) ∧
    (s.tap.trstLow = true → (∀ c ∈ [Instr.tapIdcode, .tapBypass, .tapSamplePreload, .tapExtest, .tapClamp, .tapHighz, .testctlPoll], exec c s = .next s) ∧
      (∀ token, exec (.tapAuth token) s = .next s) ∧
      ∀ p a z d, exec (.testctlRead p a z) s = .next s ∧ exec (.testctlWrite p a z d) s = .next s) ∧
    (s.tap.trstLow = false →
      exec .tapIdcode s = .next (scan fun T => { T with ir := 0x01, pins := .normal, captured := 0x1880056F }) ∧
      exec .tapBypass s = .next (scan fun T => { T with ir := 0xFF, pins := .normal, captured := 0 }) ∧
      (∃ v : BitVec 465, (∀ i, i < 465 → v.getLsbD i = (pinFunction s i).getD (outside.getLsbD i)) ∧
        exec .tapSamplePreload s = .next (scan fun T => { T with
          ir := 0x02, pins := .normal, scans := T.scans + 1, boundary := { sampled := v, level := level, drive := drive } })) ∧
      let allowed := scopeGranted s 2 && s.plains.toList.any fun P => decide (P.run.mode = .test)
      let denied : State := scan fun T => { T with ir := 0xFF, pins := .normal, captured := 0, denied := true }
      (allowed = false → exec .tapClamp s = .next denied ∧ exec .tapHighz s = .next denied ∧ exec .tapExtest s = .next denied) ∧
      (allowed = true →
        exec .tapExtest s = .next (scan fun T => { T with
          ir := 0x03, pins := .extest, scans := T.scans + 1, boundary :=
            { sampled := (T.boundary.level &&& T.boundary.drive) ||| (outside &&& ~~~T.boundary.drive), level := level, drive := drive } }) ∧
        exec .tapClamp s = .next (scan fun T => { T with ir := 0x04, pins := .clamp, captured := 0 }) ∧
        exec .tapHighz s = .next (scan fun T => { T with ir := 0x05, pins := .highz, captured := 0 })) ∧
      ∀ token : BitVec 1664,
        (s.fuses.lc = 5 → exec (.tapAuth token) s = .next denied) ∧
        (s.fuses.lc ≠ 5 → exec (.tapAuth token) s = .next (scan fun T => { T with
          ir := 0x10, pins := .normal, token := if T.lockedAt.isSome || T.token.isSome then T.token else some token }))) ∧
    (s.tap.token = none → exec .authVerifyDone s = .next s) ∧
    (∀ token, s.tap.token = some token →
      let b := leBytes 208 token.toNat
      let valid : Prop := num b 0 4 = s.tap.chal.toNat ∧ num b 8 8 = s.fuses.serial.toNat ∧ Config.sha384 ((b.drop 16).take 96) = s.fuses.testKeyHash ∧
        Config.ecdsaVerify ((b.drop 16).take 96) (Config.sha384 (b.take 112)) ((b.drop 112).take 96) = true
      let scope := num b 4 4
      let T1 : Tap := { s.tap with chal := Config.freshChallenge (s.tap.chals + 1), chals := s.tap.chals + 1, token := none }
      let opened : Tap := { T1 with scope := BitVec.ofNat 4 scope, sessOpen := true, tcStatus := if T1.tcStatus = 3 then 3 else 0 }
      let failed : Tap := { T1 with fail := true, fails := if T1.fails = 0xFFFF#16 then T1.fails else T1.fails + 1, lockedAt := some s.timeNs }
      let now := s.fuses.lcPend.toNat
      let goal := scope / 256 % 8
      let forward : Prop := (goal = now + 1 ∧ goal ≤ 5) ∨ (now = 2 ∧ goal = 4) ∨ (goal = 5 ∧ now < 5)
      let taken : Prop := forward ∧ (valid ∨ (now = 0 ∧ goal = 1))
      (scope.testBit 3 = false → (valid → exec .authVerifyDone s = .next { s with tap := opened }) ∧
        (¬ valid → exec .authVerifyDone s = .next { s with tap := failed })) ∧
      (scope.testBit 3 = true → ¬ taken →
        (valid → exec .authVerifyDone s = .next { s with tap := { opened with lcRefused := true } }) ∧
        (¬ valid → exec .authVerifyDone s = .next { s with tap := { failed with lcRefused := true } })) ∧
      (scope.testBit 3 = true → taken → ∃ t, exec .authVerifyDone s = .next t ∧
        t.fuses = { s.fuses with lcPend := BitVec.ofNat 3 goal } ∧ t.tap.chal = T1.chal ∧ t.tap.token = none ∧ t.tap.sessOpen = false ∧ t.tap.scope = 0 ∧
        (¬ valid → t.tap.fail = true ∧ t.tap.lockedAt = some s.timeNs) ∧
        ∀ q : Fin 8, t.plains[q].run = s.plains[q].run ∧ (s.plains[q].run.mode = .valley → t.plains[q].mem = s.plains[q].mem) ∧
          (s.plains[q].run.mode ≠ .valley → t.plains[q].mem.stat.getLsbD 3 = true ∧ t.plains[q].mem.nvs = s.plains[q].mem.nvs ∧
            t.plains[q].mem.spad = s.plains[q].mem.spad.filter fun c => decide (c.1 < secureBase)))) ∧
    (∀ t0, s.tap.lockedAt = some t0 → t0 + 100000000 ≤ s.timeNs → exec .authLockoutEnd s = .next (tap fun T => { T with lockedAt := none })) ∧
    ((∀ t0, s.tap.lockedAt = some t0 → s.timeNs < t0 + 100000000) → exec .authLockoutEnd s = .next s)

/-- TESTCTL accesses need scope 0 and answer what M7 gets; BIST runs only in TEST and reports its results (spec/20_test_and_observation.md (R394; R396; R401), spec/15_bus_matrix_and_scratchpad.md (R316)). It rests on the model's choices of log entries 43. -/
def Obligations.TestAccessesAndBistNeedTheirScope : Prop :=
  ∀ s : State,
    let denied : State := { s with tap := { s.tap with irCaptured := 0x01, ir := 0xFF, pins := .normal, captured := 0, denied := true } }
    let scanned : Tap := { s.tap with
      irCaptured := 0x01, ir := 0x11, pins := .normal
      captured := BitVec.ofNat 112 (s.tap.tcAddr.toNat + s.tap.tcData.toNat * 2 ^ 40 + s.tap.tcStatus.toNat * 2 ^ 104 +
        s.tap.tcSize.toNat * 2 ^ 106 + s.tap.tcPlain.toNat * 2 ^ 108) }
    (s.tap.trstLow = false → scopeGranted s 0 = false → exec .testctlPoll s = .next denied ∧ ∀ p a z d, exec (.testctlRead p a z) s = .next denied ∧ exec (.testctlWrite p a z d) s = .next denied) ∧
    (s.tap.trstLow = false → scopeGranted s 0 = true → exec .testctlPoll s = .next { s with tap := scanned } ∧
      ∀ (p : Fin 8) (a : BitVec 40) (z : BitVec 2) (d : DWord),
        (s.tap.tcStatus = 3 → exec (.testctlRead p a z) s = .next { s with tap := { scanned with denied := true } } ∧
          exec (.testctlWrite p a z d) s = .next { s with tap := { scanned with denied := true } }) ∧
        (s.tap.tcStatus ≠ 3 →
          let n := 2 ^ z.toNat
          let u : State := { s with tap := scanned }
          let after : State → BitVec 2 → DWord → State := fun v st x => { v with tap := { v.tap with
            tcAddr := a, tcSize := z, tcPlain := BitVec.ofNat 3 p.val, tcStatus := st, tcData := x } }
          (enabled s p = false ∨ s.plains[p].run.mode = .valley →
            exec (.testctlRead p a z) s = .next (after u 2 (BitVec.ofNat 64 (2 ^ (8 * n) - 1))) ∧ exec (.testctlWrite p a z d) s = .next (after u 2 0)) ∧
          (enabled s p = true → s.plains[p].run.mode ≠ .valley →
            (∀ v bs, busAccess u p 7 0 false a.toNat n (leBytes n 0) = (v, .data bs) → exec (.testctlRead p a z) s = .next (after v 1 (BitVec.ofNat 64 (leNat bs)))) ∧
            (∀ v, busAccess u p 7 0 false a.toNat n (leBytes n 0) = (v, .error) → exec (.testctlRead p a z) s = .next (after v 2 (BitVec.ofNat 64 (2 ^ (8 * n) - 1)))) ∧
            (∀ v bs, busAccess u p 7 0 true a.toNat n (leBytes n d.toNat) = (v, .data bs) → exec (.testctlWrite p a z d) s = .next (after v 1 (BitVec.ofNat 64 (leNat bs)))) ∧
            (∀ v, busAccess u p 7 0 true a.toNat n (leBytes n d.toNat) = (v, .error) → exec (.testctlWrite p a z d) s = .next (after v 2 0)) ∧
            (decodeAddr a.toNat = .unmapped → s.plains[p].bus.queue = [] → ∃ t, exec (.testctlRead p a z) s = .next t ∧ t.tap.tcStatus = 3 ∧ 7 ∈ t.plains[p].bus.hung ∧ OthersKept p s t)))) ∧
    (∀ v : Word,
      let T : Tap := { s.tap with bistPlains := v.setWidth 8, bistSel := v.extractLsb' 8 3 }
      let starts : Prop := s.tap.bistBusy = false ∧ ∃ q : Fin 8, s.plains[q].run.mode = .test
      (¬ starts → exec (.bistGo v) s = .next { s with tap := { T with bistRefused := true } }) ∧
      (starts → ∃ t, exec (.bistGo v) s = .next t ∧ t.tap = { T with bistBusy := true, failPl := 0, bistRun := T.bistPlains, bistTests := T.bistSel } ∧
        ∀ q : Fin 8, t.plains[q] = { s.plains[q] with health := { s.plains[q].health with bistRes := 0xF0 } })) ∧
    (∀ results : List Word,
      (s.tap.bistBusy = false → exec (.bistDone results) s = .next s) ∧
      (s.tap.bistBusy = true → ∃ t, exec (.bistDone results) s = .next t ∧
        t.tap = { s.tap with bistBusy := false, bistDone := true, failPl := t.tap.failPl } ∧
        ∀ q : Fin 8, let tested := s.tap.bistRun.getLsbD q.val && decide (s.plains[q].run.mode = .test)
          (tested = false → t.plains[q] = s.plains[q] ∧ t.tap.failPl.getLsbD q.val = false) ∧
          (tested = true → let r := results.getD q.val 0xF0
            let w := t.plains[q].health.bistRes
            let lines := if s.tap.bistTests.getLsbD 2 then s.plains[q].mem.nvsUe.length else 0
            w.extractLsb' 0 2 = r.extractLsb' 0 2 &&& s.tap.bistTests.extractLsb' 0 2 ∧ (w.getLsbD 2 = true ↔ lines ≠ 0) ∧
            w.extractLsb' 4 4 = (if s.tap.bistTests.getLsbD 0 then r.extractLsb' 4 4 else 0xF) ∧
            (w.extractLsb' 16 16).toNat = min 0xFFFF ((if s.tap.bistTests.extractLsb' 0 2 = 0 then 0 else (r.extractLsb' 16 16).toNat) + lines) ∧
            (t.tap.failPl.getLsbD q.val = true ↔ w.extractLsb' 0 3 ≠ 0) ∧
            t.plains[q].run = s.plains[q].run ∧ t.plains[q].basin = s.plains[q].basin ∧
            (s.tap.bistTests.getLsbD 1 = true → t.plains[q].mem.spad = []))))

/-- Each observation tree drives its two pins with its signal pair, and 0 while it is off, settles or selects no signal; the TAP may drive the pins (spec/20_test_and_observation.md (R399; R400), spec/21_pins_package_electrical.md (R414)). It rests on the model's choices of log entries 49 and 59. -/
def Obligations.ObservationPinsShowTheirPair : Prop :=
  ∀ (s : State) (p k : Fin 8),
    let P := s.plains[p]
    let t := k.val / 2
    (inReset s = true ∨ P.run.mode = .valley ∨ P.run.mode = .quarantine ∨ clearing P = true ∨ P.health.obsEn.getLsbD t = false ∨ s.timeNs < look 0 P.health.obsAt t →
      obsPlain s p k = false) ∧
    (inReset s = false → P.run.mode ≠ .valley → P.run.mode ≠ .quarantine → clearing P = false → P.health.obsEn.getLsbD t = true → look 0 P.health.obsAt t ≤ s.timeNs →
      obsPlain s p k = plainSignal s p (2 * (look 0 P.health.obsSel t).toNat + k.val % 2)) ∧
    (∀ pc, pc < 9 → (look 0 s.power.colOn p.val).getLsbD pc = true → plainSignal s p (2 * pc) =
      (if P.run.phase = .backPressure then P.run.stepCount - 1 else P.run.stepCount).testBit 8) ∧
    (∀ pc, pc < 9 → (look 0 s.power.colOn p.val).getLsbD pc = true → plainSignal s p (2 * pc + 1) = P.col.lastJoin.getLsbD pc) ∧
    (∀ at0, P.health.obsRow1 = some at0 → plainSignal s p 0x30 = decide (s.timeNs < at0 + 5)) ∧
    (plainSignal s p 0x32 = true ↔ P.run.mode = .hold) ∧ plainSignal s p 0x33 = P.health.winOpen ∧
    (∀ l : Fin 8, plainSignal s p (0x40 + 2 * l.val) = true ↔ P.links[l].state = .active) ∧
    plainSignal s p 0x60 = P.mgr.retired.testBit 8 ∧
    (∀ i, (0x12 ≤ i ∧ i < 0x20) ∨ (0x29 ≤ i ∧ i < 0x30) ∨ (0x34 ≤ i ∧ i < 0x40) ∨ (0x50 ≤ i ∧ i < 0x60) ∨ (0x63 ≤ i ∧ i < 0x80) ∨ 0x88 ≤ i →
      plainSignal s p i = false) ∧
    (inReset s = true ∨ s.tap.obsEn.getLsbD t = false ∨ s.timeNs < look 0 s.tap.obsAt t → obsDev s k = false) ∧
    (inReset s = false → s.tap.obsEn.getLsbD t = true → look 0 s.tap.obsAt t ≤ s.timeNs → obsDev s k = deviceSignal s (2 * (look 0 s.tap.obsSel t).toNat + k.val % 2)) ∧
    deviceSignal s 0 = s.hlink.up ∧ deviceSignal s 2 = s.power.pwrWarn ∧ (∀ i, 6 ≤ i → deviceSignal s i = false) ∧
    (∀ i, (s.tap.pins = .extest ∨ s.tap.pins = .clamp → pinOut s i =
        if s.tap.boundary.drive.getLsbD i then some (s.tap.boundary.level.getLsbD i) else none) ∧
      (s.tap.pins = .highz → pinOut s i = none) ∧
      (s.tap.pins = .normal → (s.power.vinHist.head?.any (3200 ≤ ·)) = false → pinOut s i = none)) ∧
    (s.tap.pins = .normal → s.power.vinHist.head?.any (3200 ≤ ·) = true → pinOut s (393 + 8 * p.val + k.val) = some (obsPlain s p k) ∧
      pinOut s (457 + k.val) = some (obsDev s k))

/-- A step takes the command at the front of the queue and runs it with the queue's rest (spec/95_what_each_step_holds.md). -/
def Obligations.StepRunsTheFrontCommand : Prop :=
  (∀ (c : Instr) (rest : List Instr) (s : State), step { s with pending := c :: rest } = exec c { s with pending := rest }) ∧
  (∀ s : State, s.pending = [] → (∀ q : Fin 8, s.plains[q].dma.late = []) → step s = .next { s with timeNs := s.timeNs + 1 }) ∧
  (∀ s : State, s.pending = [] → ∃ t, step s = .next t ∧ t.timeNs = s.timeNs + 1 ∧ t.pending = [])

/-- The state after reset meets the invariants, with every Plain in VALLEY and no command waiting (spec/18_modes_resets_startup.md (R371; R380)). -/
def Obligations.ResetMeetsTheInvariants : Prop :=
  Inv State.reset ∧ MemInv State.reset ∧ (∀ q : Fin 8, State.reset.plains[q].run.mode = .valley) ∧ State.reset.power.started = false ∧ State.reset.pending = []

/-- Every step answers a next state and keeps the device invariant: the life cycle only runs forwards (spec/13_host_interface.md (R256), spec/18_modes_resets_startup.md (R371; R380)). -/
def Obligations.EveryStepKeepsTheDeviceInvariant : Prop :=
  ∀ s : State, Inv s → ∃ t, step s = .next t ∧ Inv t ∧ s.fuses.lcPend.toNat ≤ t.fuses.lcPend.toNat

/-- Every step keeps every Plain's memories and Manager register files in canonical form (spec/07_basin_memory.md (R133; R144), spec/11_manager_core.md (R223; R237), spec/15_bus_matrix_and_scratchpad.md (R318; R326)). -/
def Obligations.EveryStepKeepsTheMemoryInvariant : Prop :=
  ∀ s t : State, MemInv s → step s = .next t → MemInv t

/-- A command of one Plain changes no other Plain, but for the wire of the short link that joins them and the common TEST entry (spec/01_plains_and_the_module.md (R13; R15; R23)). -/
def Obligations.CommandsOfOnePlainLeaveTheOthers : Prop :=
  ∀ (c : Instr) (s t : State), exec c s = .next t →
    (∀ p q, c.plain = some p → q ≠ p →
      t.plains[q] = s.plains[q] ∨
      (∃ l m, c.frameLink = some l ∧ shortPeer p l = some (q, m) ∧
        t.plains[q] = modLink s.plains[q] m fun L => { L with wire := L.wire.tail }) ∨
      (∃ d, c = .domainSwitchDone p d ∧ s.power.testStart.getLsbD q.val = true ∧ t.plains[q] = setMode s.plains[q] .test)) ∧
    t.pending = s.pending ∧ t.timeNs = s.timeNs
end

