-- ==== Sys2Proof/Laws/Memory.lean ====
section
/-! SUPPORT. Laws of the sparse stores and byte memories: a read after a write, and the canonical form, which every
memory operation keeps. -/

namespace Sys2Proof.Machine

variable {α : Type} [DecidableEq α]

/-- A write is read back. -/
@[simp] theorem sget_sset_same (d : Nat → α) (m : Sparse α) (i : Nat) (v : α) (h : Sparse.wf d m = true) :
    sget d (sset d m i v) i = v := by
  induction m with
  | nil => unfold sset; split <;> simp_all [sget]
  | cons e r ih =>
    obtain ⟨k, w⟩ := e
    have hr : Sparse.wf d r = true := by
      cases r with
      | nil => rfl
      | cons e' r' => obtain ⟨k', w'⟩ := e'; simp [Sparse.wf] at h; exact h.2
    have above : ∀ x ∈ r, k < x.1 := by
      clear ih hr
      induction r generalizing k w with
      | nil => simp
      | cons e' r' ih' =>
        obtain ⟨k', w'⟩ := e'
        simp only [Sparse.wf, Bool.and_eq_true, decide_eq_true_eq] at h
        intro x hx
        rcases List.mem_cons.1 hx with rfl | hx
        · exact h.1.1
        · exact Nat.lt_trans h.1.1 (ih' k' w' h.2 x hx)
    have absent : ∀ j, j ≤ k → sget d r j = d j := by
      intro j hj
      clear ih hr h
      induction r with
      | nil => rfl
      | cons e' r' ih' =>
        have hk := above e' (by simp)
        have : e'.1 ≠ j := by omega
        simp [sget, this]
        exact ih' fun x hx => above x (by simp [hx])
    unfold sset
    split
    · split
      · rename_i hik hv
        have : k ≠ i := by omega
        simp [sget, this, absent i (by omega), hv]
      · simp [sget]
    · split
      · rename_i hik
        subst hik
        split
        · rename_i hv; simp [absent i (by omega), hv]
        · simp [sget]
      · rename_i h1 h2
        have : k ≠ i := fun e => h2 e.symm
        simp [sget, this, ih hr]

/-- A write leaves every other index alone. -/
@[simp] theorem sget_sset_other (d : Nat → α) (m : Sparse α) (i j : Nat) (v : α) (h : j ≠ i) :
    sget d (sset d m i v) j = sget d m j := by
  induction m with
  | nil => unfold sset; split <;> simp [sget, Ne.symm h]
  | cons e r ih =>
    obtain ⟨k, w⟩ := e
    unfold sset
    split
    · split <;> simp [sget, Ne.symm h]
    · split
      · rename_i hik
        subst hik
        split <;> simp [sget, Ne.symm h]
      · simp [sget, ih]

/-- Every index of a store is above the bound. -/
def aboveAll (b : Nat) (m : Sparse α) : Prop := ∀ x ∈ m, b < x.1

theorem wf_cons (d : Nat → α) (k : Nat) (w : α) (r : Sparse α) :
    Sparse.wf d ((k, w) :: r) = true ↔ w ≠ d k ∧ aboveAll k r ∧ Sparse.wf d r = true := by
  induction r generalizing k w with
  | nil => simp [Sparse.wf, aboveAll]
  | cons e r ih =>
    obtain ⟨k', w'⟩ := e
    rw [Sparse.wf]
    simp only [Bool.and_eq_true, decide_eq_true_eq]
    constructor
    · rintro ⟨⟨h1, h2⟩, h3⟩
      refine ⟨h2, ?_, h3⟩
      have := ((ih k' w').1 h3).2.1
      intro x hx
      rcases List.mem_cons.1 hx with rfl | hx
      · exact h1
      · exact Nat.lt_trans h1 (this x hx)
    · rintro ⟨h1, h2, h3⟩
      exact ⟨⟨h2 (k', w') (by simp), h1⟩, h3⟩

theorem aboveAll_sset (d : Nat → α) (b : Nat) (m : Sparse α) (i : Nat) (v : α) (hb : b < i) (h : aboveAll b m) :
    aboveAll b (sset d m i v) := by
  induction m with
  | nil => unfold sset; split <;> simp [aboveAll, hb]
  | cons e r ih =>
    obtain ⟨k, w⟩ := e
    have hr : aboveAll b r := fun x hx => h x (by simp [hx])
    have hk : b < k := h (k, w) (by simp)
    unfold sset
    intro x hx
    split at hx
    · split at hx
      · exact h x hx
      · rcases List.mem_cons.1 hx with rfl | hx
        · exact hb
        · exact h x hx
    · split at hx
      · split at hx
        · exact hr x hx
        · rcases List.mem_cons.1 hx with rfl | hx
          · exact hb
          · exact hr x hx
      · rcases List.mem_cons.1 hx with rfl | hx
        · exact hk
        · exact ih hr x hx

/-- A write keeps the canonical form. -/
theorem sset_wf (d : Nat → α) (m : Sparse α) (i : Nat) (v : α) (h : Sparse.wf d m = true) : Sparse.wf d (sset d m i v) = true := by
  induction m with
  | nil => unfold sset; split <;> simp_all [Sparse.wf]
  | cons e r ih =>
    obtain ⟨k, w⟩ := e
    obtain ⟨h1, h2, h3⟩ := (wf_cons d k w r).1 h
    unfold sset
    split
    · rename_i hik
      split
      · exact h
      · rename_i hv
        refine (wf_cons d i v _).2 ⟨hv, ?_, h⟩
        intro x hx
        rcases List.mem_cons.1 hx with rfl | hx
        · exact hik
        · exact Nat.lt_trans hik (h2 x hx)
    · split
      · rename_i hik
        subst hik
        split
        · exact h3
        · rename_i hv; exact (wf_cons d _ v r).2 ⟨hv, h2, h3⟩
      · exact (wf_cons d k w _).2 ⟨h1, aboveAll_sset d k r i v (by omega) h2, ih h3⟩

/-- A write of a store with one default keeps the canonical form. -/
theorem put_wf (d : α) (m : Sparse α) (i : Nat) (v : α) (h : Sparse.wf (fun _ => d) m = true) :
    Sparse.wf (fun _ => d) (put d m i v) = true := sset_wf _ m i v h

@[simp] theorem look_put_same (d : α) (m : Sparse α) (i : Nat) (v : α) (h : Sparse.wf (fun _ => d) m = true) :
    look d (put d m i v) i = v := sget_sset_same _ m i v h

@[simp] theorem look_put_other (d : α) (m : Sparse α) (i j : Nat) (v : α) (h : j ≠ i) :
    look d (put d m i v) j = look d m j := sget_sset_other _ m i j v h

/-- Filtering keeps the canonical form. -/
theorem filter_wf (d : Nat → α) (m : Sparse α) (f : Nat × α → Bool) (h : Sparse.wf d m = true) : Sparse.wf d (m.filter f) = true := by
  induction m with
  | nil => rfl
  | cons e r ih =>
    obtain ⟨k, w⟩ := e
    obtain ⟨h1, h2, h3⟩ := (wf_cons d k w r).1 h
    by_cases hf : f (k, w) = true
    · rw [List.filter_cons_of_pos hf]
      exact (wf_cons d k w _).2 ⟨h1, fun x hx => h2 x (List.mem_filter.1 hx).1, ih h3⟩
    · rw [List.filter_cons_of_neg hf]
      exact ih h3

/-! ## Byte memories -/

/-- Writing bytes keeps the canonical form. -/
theorem writeBytes_wf (d : Nat → Byte) (m : List Host.Cell) (a : Nat) (bs : List Byte) (h : Memory.wf d m = true) :
    Memory.wf d (writeBytes d m a bs) = true := by
  induction bs generalizing m a with
  | nil => exact h
  | cons b bs ih => exact ih _ _ (sset_wf d m a b h)

/-- A byte outside the written range reads as before. -/
theorem writeBytes_other (d : Nat → Byte) (m : List Host.Cell) (a x : Nat) (bs : List Byte) (h : x < a ∨ a + bs.length ≤ x) :
    sget d (writeBytes d m a bs) x = sget d m x := by
  induction bs generalizing m a with
  | nil => rfl
  | cons b bs ih =>
    simp only [List.length_cons] at h
    rw [writeBytes, ih _ _ (by omega)]
    exact sget_sset_other d m a x b (by omega)

/-- A byte inside the written range reads what was written. -/
theorem writeBytes_at (d : Nat → Byte) (m : List Host.Cell) (a k : Nat) (bs : List Byte) (hm : Memory.wf d m = true) (h : k < bs.length) :
    sget d (writeBytes d m a bs) (a + k) = bs[k] := by
  induction bs generalizing m a k with
  | nil => simp at h
  | cons b bs ih =>
    rw [writeBytes]
    cases k with
    | zero => rw [Nat.add_zero, writeBytes_other _ _ _ _ _ (by omega)]; exact sget_sset_same d m a b hm
    | succ k =>
      have := ih (sset d m a b) (a + 1) k (sset_wf d m a b hm) (by simpa using h)
      rw [show a + (k + 1) = a + 1 + k by omega]
      simpa using this

@[simp] theorem readBytes_length (d : Nat → Byte) (m : List Host.Cell) (a n : Nat) : (readBytes d m a n).length = n := by
  induction n generalizing a with
  | zero => rfl
  | succ n ih => simp [readBytes, ih]

/-- Reading back what was written. -/
theorem readBytes_writeBytes (d : Nat → Byte) (m : List Host.Cell) (a : Nat) (bs : List Byte) (h : Memory.wf d m = true) :
    readBytes d (writeBytes d m a bs) a bs.length = bs := by
  induction bs generalizing m a with
  | nil => rfl
  | cons b bs ih =>
    simp only [List.length_cons, readBytes, writeBytes]
    rw [ih _ _ (sset_wf d m a b h), writeBytes_other _ _ _ _ _ (by omega), sget_sset_same d m a b h]

end Sys2Proof.Machine
end

