-- ==== Sys2Proof/Laws/State.lean ====
section
/-! SUPPORT. One lemma per field and per update of one part of the state, so that no proof unfolds a record update. -/

namespace Sys2Proof.Machine

/-! ## Vectors -/

theorem vmod_same {α : Type} {n : Nat} (v : Vector α n) (i : Fin n) (f : α → α) : (vmod v i f)[i] = f v[i] := by
  simp [vmod]

theorem vmod_other {α : Type} {n : Nat} (v : Vector α n) (i j : Fin n) (f : α → α) (h : j ≠ i) : (vmod v i f)[j] = v[j] := by
  simp only [vmod, Fin.getElem_fin]
  exact Vector.getElem_set_ne _ _ (fun e => h (Fin.ext e.symm))

theorem vall_at {α β : Type} {n : Nat} (v : Vector α n) (f : Fin n → α → β) (i : Fin n) : (vall v f)[i] = f i v[i] := by
  simp [vall]

/-! ## Plain `p` of the module -/

@[simp] theorem modPlain_fuses (s : State) (p : Fin 8) (f : Plain → Plain) : (modPlain s p f).fuses = s.fuses := rfl
@[simp] theorem modPlain_power (s : State) (p : Fin 8) (f : Plain → Plain) : (modPlain s p f).power = s.power := rfl
@[simp] theorem modPlain_tap (s : State) (p : Fin 8) (f : Plain → Plain) : (modPlain s p f).tap = s.tap := rfl
@[simp] theorem modPlain_hlink (s : State) (p : Fin 8) (f : Plain → Plain) : (modPlain s p f).hlink = s.hlink := rfl
@[simp] theorem modPlain_hostMem (s : State) (p : Fin 8) (f : Plain → Plain) : (modPlain s p f).hostMem = s.hostMem := rfl
@[simp] theorem modPlain_pf0 (s : State) (p : Fin 8) (f : Plain → Plain) : (modPlain s p f).pf0 = s.pf0 := rfl
@[simp] theorem modPlain_msix (s : State) (p : Fin 8) (f : Plain → Plain) : (modPlain s p f).msix = s.msix := rfl
@[simp] theorem modPlain_readData (s : State) (p : Fin 8) (f : Plain → Plain) : (modPlain s p f).readData = s.readData := rfl
@[simp] theorem modPlain_nak (s : State) (p : Fin 8) (f : Plain → Plain) : (modPlain s p f).nak = s.nak := rfl
@[simp] theorem modPlain_i2cAdr (s : State) (p : Fin 8) (f : Plain → Plain) : (modPlain s p f).i2cAdr = s.i2cAdr := rfl
@[simp] theorem modPlain_timeNs (s : State) (p : Fin 8) (f : Plain → Plain) : (modPlain s p f).timeNs = s.timeNs := rfl
@[simp] theorem modPlain_pending (s : State) (p : Fin 8) (f : Plain → Plain) : (modPlain s p f).pending = s.pending := rfl
theorem modPlain_same (s : State) (p : Fin 8) (f : Plain → Plain) : (modPlain s p f).plains[p] = f s.plains[p] := vmod_same _ _ _
theorem modPlain_other (s : State) (p q : Fin 8) (f : Plain → Plain) (h : q ≠ p) : (modPlain s p f).plains[q] = s.plains[q] :=
  vmod_other _ _ _ _ h
@[simp] theorem modPlain_modPlain (s : State) (p : Fin 8) (f g : Plain → Plain) : modPlain (modPlain s p f) p g = modPlain s p fun P => g (f P) := by
  simp [modPlain, vmod]

/-! ## Parts of a Plain -/

@[simp] theorem modTile_col (P : Plain) (t : Fin 64) (f : Tile → Tile) : (modTile P t f).col = P.col := rfl
@[simp] theorem modTile_stall (P : Plain) (t : Fin 64) (f : Tile → Tile) : (modTile P t f).stall = P.stall := rfl
@[simp] theorem modTile_run (P : Plain) (t : Fin 64) (f : Tile → Tile) : (modTile P t f).run = P.run := rfl
@[simp] theorem modTile_basin (P : Plain) (t : Fin 64) (f : Tile → Tile) : (modTile P t f).basin = P.basin := rfl
@[simp] theorem modTile_links (P : Plain) (t : Fin 64) (f : Tile → Tile) : (modTile P t f).links = P.links := rfl
@[simp] theorem modTile_sync (P : Plain) (t : Fin 64) (f : Tile → Tile) : (modTile P t f).sync = P.sync := rfl
@[simp] theorem modTile_cap (P : Plain) (t : Fin 64) (f : Tile → Tile) : (modTile P t f).cap = P.cap := rfl
@[simp] theorem modTile_ldr (P : Plain) (t : Fin 64) (f : Tile → Tile) : (modTile P t f).ldr = P.ldr := rfl
@[simp] theorem modTile_mgr (P : Plain) (t : Fin 64) (f : Tile → Tile) : (modTile P t f).mgr = P.mgr := rfl
@[simp] theorem modTile_lock (P : Plain) (t : Fin 64) (f : Tile → Tile) : (modTile P t f).lock = P.lock := rfl
@[simp] theorem modTile_hiu (P : Plain) (t : Fin 64) (f : Tile → Tile) : (modTile P t f).hiu = P.hiu := rfl
@[simp] theorem modTile_dma (P : Plain) (t : Fin 64) (f : Tile → Tile) : (modTile P t f).dma = P.dma := rfl
@[simp] theorem modTile_bus (P : Plain) (t : Fin 64) (f : Tile → Tile) : (modTile P t f).bus = P.bus := rfl
@[simp] theorem modTile_mem (P : Plain) (t : Fin 64) (f : Tile → Tile) : (modTile P t f).mem = P.mem := rfl
@[simp] theorem modTile_pio (P : Plain) (t : Fin 64) (f : Tile → Tile) : (modTile P t f).pio = P.pio := rfl
@[simp] theorem modTile_health (P : Plain) (t : Fin 64) (f : Tile → Tile) : (modTile P t f).health = P.health := rfl

@[simp] theorem allTiles_col (P : Plain) (f : Fin 64 → Tile → Tile) : (allTiles P f).col = P.col := by simp only [allTiles]
@[simp] theorem allTiles_stall (P : Plain) (f : Fin 64 → Tile → Tile) : (allTiles P f).stall = P.stall := by simp only [allTiles]
@[simp] theorem allTiles_run (P : Plain) (f : Fin 64 → Tile → Tile) : (allTiles P f).run = P.run := by simp only [allTiles]
@[simp] theorem allTiles_basin (P : Plain) (f : Fin 64 → Tile → Tile) : (allTiles P f).basin = P.basin := by simp only [allTiles]
@[simp] theorem allTiles_links (P : Plain) (f : Fin 64 → Tile → Tile) : (allTiles P f).links = P.links := by simp only [allTiles]
@[simp] theorem allTiles_sync (P : Plain) (f : Fin 64 → Tile → Tile) : (allTiles P f).sync = P.sync := by simp only [allTiles]
@[simp] theorem allTiles_cap (P : Plain) (f : Fin 64 → Tile → Tile) : (allTiles P f).cap = P.cap := by simp only [allTiles]
@[simp] theorem allTiles_ldr (P : Plain) (f : Fin 64 → Tile → Tile) : (allTiles P f).ldr = P.ldr := by simp only [allTiles]
@[simp] theorem allTiles_mgr (P : Plain) (f : Fin 64 → Tile → Tile) : (allTiles P f).mgr = P.mgr := by simp only [allTiles]
@[simp] theorem allTiles_lock (P : Plain) (f : Fin 64 → Tile → Tile) : (allTiles P f).lock = P.lock := by simp only [allTiles]
@[simp] theorem allTiles_hiu (P : Plain) (f : Fin 64 → Tile → Tile) : (allTiles P f).hiu = P.hiu := by simp only [allTiles]
@[simp] theorem allTiles_dma (P : Plain) (f : Fin 64 → Tile → Tile) : (allTiles P f).dma = P.dma := by simp only [allTiles]
@[simp] theorem allTiles_bus (P : Plain) (f : Fin 64 → Tile → Tile) : (allTiles P f).bus = P.bus := by simp only [allTiles]
@[simp] theorem allTiles_mem (P : Plain) (f : Fin 64 → Tile → Tile) : (allTiles P f).mem = P.mem := by simp only [allTiles]
@[simp] theorem allTiles_pio (P : Plain) (f : Fin 64 → Tile → Tile) : (allTiles P f).pio = P.pio := by simp only [allTiles]
@[simp] theorem allTiles_health (P : Plain) (f : Fin 64 → Tile → Tile) : (allTiles P f).health = P.health := by simp only [allTiles]

@[simp] theorem modLink_tiles (P : Plain) (l : Fin 8) (f : Link → Link) : (modLink P l f).tiles = P.tiles := rfl
@[simp] theorem modLink_col (P : Plain) (l : Fin 8) (f : Link → Link) : (modLink P l f).col = P.col := rfl
@[simp] theorem modLink_stall (P : Plain) (l : Fin 8) (f : Link → Link) : (modLink P l f).stall = P.stall := rfl
@[simp] theorem modLink_run (P : Plain) (l : Fin 8) (f : Link → Link) : (modLink P l f).run = P.run := rfl
@[simp] theorem modLink_basin (P : Plain) (l : Fin 8) (f : Link → Link) : (modLink P l f).basin = P.basin := rfl
@[simp] theorem modLink_sync (P : Plain) (l : Fin 8) (f : Link → Link) : (modLink P l f).sync = P.sync := rfl
@[simp] theorem modLink_cap (P : Plain) (l : Fin 8) (f : Link → Link) : (modLink P l f).cap = P.cap := rfl
@[simp] theorem modLink_ldr (P : Plain) (l : Fin 8) (f : Link → Link) : (modLink P l f).ldr = P.ldr := rfl
@[simp] theorem modLink_mgr (P : Plain) (l : Fin 8) (f : Link → Link) : (modLink P l f).mgr = P.mgr := rfl
@[simp] theorem modLink_lock (P : Plain) (l : Fin 8) (f : Link → Link) : (modLink P l f).lock = P.lock := rfl
@[simp] theorem modLink_hiu (P : Plain) (l : Fin 8) (f : Link → Link) : (modLink P l f).hiu = P.hiu := rfl
@[simp] theorem modLink_dma (P : Plain) (l : Fin 8) (f : Link → Link) : (modLink P l f).dma = P.dma := rfl
@[simp] theorem modLink_bus (P : Plain) (l : Fin 8) (f : Link → Link) : (modLink P l f).bus = P.bus := rfl
@[simp] theorem modLink_mem (P : Plain) (l : Fin 8) (f : Link → Link) : (modLink P l f).mem = P.mem := rfl
@[simp] theorem modLink_pio (P : Plain) (l : Fin 8) (f : Link → Link) : (modLink P l f).pio = P.pio := rfl
@[simp] theorem modLink_health (P : Plain) (l : Fin 8) (f : Link → Link) : (modLink P l f).health = P.health := rfl

@[simp] theorem allLinks_tiles (P : Plain) (f : Fin 8 → Link → Link) : (allLinks P f).tiles = P.tiles := by simp only [allLinks]
@[simp] theorem allLinks_col (P : Plain) (f : Fin 8 → Link → Link) : (allLinks P f).col = P.col := by simp only [allLinks]
@[simp] theorem allLinks_stall (P : Plain) (f : Fin 8 → Link → Link) : (allLinks P f).stall = P.stall := by simp only [allLinks]
@[simp] theorem allLinks_run (P : Plain) (f : Fin 8 → Link → Link) : (allLinks P f).run = P.run := by simp only [allLinks]
@[simp] theorem allLinks_basin (P : Plain) (f : Fin 8 → Link → Link) : (allLinks P f).basin = P.basin := by simp only [allLinks]
@[simp] theorem allLinks_sync (P : Plain) (f : Fin 8 → Link → Link) : (allLinks P f).sync = P.sync := by simp only [allLinks]
@[simp] theorem allLinks_cap (P : Plain) (f : Fin 8 → Link → Link) : (allLinks P f).cap = P.cap := by simp only [allLinks]
@[simp] theorem allLinks_ldr (P : Plain) (f : Fin 8 → Link → Link) : (allLinks P f).ldr = P.ldr := by simp only [allLinks]
@[simp] theorem allLinks_mgr (P : Plain) (f : Fin 8 → Link → Link) : (allLinks P f).mgr = P.mgr := by simp only [allLinks]
@[simp] theorem allLinks_lock (P : Plain) (f : Fin 8 → Link → Link) : (allLinks P f).lock = P.lock := by simp only [allLinks]
@[simp] theorem allLinks_hiu (P : Plain) (f : Fin 8 → Link → Link) : (allLinks P f).hiu = P.hiu := by simp only [allLinks]
@[simp] theorem allLinks_dma (P : Plain) (f : Fin 8 → Link → Link) : (allLinks P f).dma = P.dma := by simp only [allLinks]
@[simp] theorem allLinks_bus (P : Plain) (f : Fin 8 → Link → Link) : (allLinks P f).bus = P.bus := by simp only [allLinks]
@[simp] theorem allLinks_mem (P : Plain) (f : Fin 8 → Link → Link) : (allLinks P f).mem = P.mem := by simp only [allLinks]
@[simp] theorem allLinks_pio (P : Plain) (f : Fin 8 → Link → Link) : (allLinks P f).pio = P.pio := by simp only [allLinks]
@[simp] theorem allLinks_health (P : Plain) (f : Fin 8 → Link → Link) : (allLinks P f).health = P.health := by simp only [allLinks]

@[simp] theorem modRing_tiles (P : Plain) (r : Fin 4) (f : Ring → Ring) : (modRing P r f).tiles = P.tiles := rfl
@[simp] theorem modRing_col (P : Plain) (r : Fin 4) (f : Ring → Ring) : (modRing P r f).col = P.col := rfl
@[simp] theorem modRing_stall (P : Plain) (r : Fin 4) (f : Ring → Ring) : (modRing P r f).stall = P.stall := rfl
@[simp] theorem modRing_run (P : Plain) (r : Fin 4) (f : Ring → Ring) : (modRing P r f).run = P.run := rfl
@[simp] theorem modRing_basin (P : Plain) (r : Fin 4) (f : Ring → Ring) : (modRing P r f).basin = P.basin := rfl
@[simp] theorem modRing_links (P : Plain) (r : Fin 4) (f : Ring → Ring) : (modRing P r f).links = P.links := rfl
@[simp] theorem modRing_sync (P : Plain) (r : Fin 4) (f : Ring → Ring) : (modRing P r f).sync = P.sync := rfl
@[simp] theorem modRing_cap (P : Plain) (r : Fin 4) (f : Ring → Ring) : (modRing P r f).cap = P.cap := rfl
@[simp] theorem modRing_ldr (P : Plain) (r : Fin 4) (f : Ring → Ring) : (modRing P r f).ldr = P.ldr := rfl
@[simp] theorem modRing_mgr (P : Plain) (r : Fin 4) (f : Ring → Ring) : (modRing P r f).mgr = P.mgr := rfl
@[simp] theorem modRing_lock (P : Plain) (r : Fin 4) (f : Ring → Ring) : (modRing P r f).lock = P.lock := rfl
@[simp] theorem modRing_dma (P : Plain) (r : Fin 4) (f : Ring → Ring) : (modRing P r f).dma = P.dma := rfl
@[simp] theorem modRing_bus (P : Plain) (r : Fin 4) (f : Ring → Ring) : (modRing P r f).bus = P.bus := rfl
@[simp] theorem modRing_mem (P : Plain) (r : Fin 4) (f : Ring → Ring) : (modRing P r f).mem = P.mem := rfl
@[simp] theorem modRing_pio (P : Plain) (r : Fin 4) (f : Ring → Ring) : (modRing P r f).pio = P.pio := rfl
@[simp] theorem modRing_health (P : Plain) (r : Fin 4) (f : Ring → Ring) : (modRing P r f).health = P.health := rfl

@[simp] theorem modMb_tiles (P : Plain) (m : Fin 4) (f : Mailbox → Mailbox) : (modMb P m f).tiles = P.tiles := rfl
@[simp] theorem modMb_col (P : Plain) (m : Fin 4) (f : Mailbox → Mailbox) : (modMb P m f).col = P.col := rfl
@[simp] theorem modMb_stall (P : Plain) (m : Fin 4) (f : Mailbox → Mailbox) : (modMb P m f).stall = P.stall := rfl
@[simp] theorem modMb_run (P : Plain) (m : Fin 4) (f : Mailbox → Mailbox) : (modMb P m f).run = P.run := rfl
@[simp] theorem modMb_basin (P : Plain) (m : Fin 4) (f : Mailbox → Mailbox) : (modMb P m f).basin = P.basin := rfl
@[simp] theorem modMb_links (P : Plain) (m : Fin 4) (f : Mailbox → Mailbox) : (modMb P m f).links = P.links := rfl
@[simp] theorem modMb_sync (P : Plain) (m : Fin 4) (f : Mailbox → Mailbox) : (modMb P m f).sync = P.sync := rfl
@[simp] theorem modMb_cap (P : Plain) (m : Fin 4) (f : Mailbox → Mailbox) : (modMb P m f).cap = P.cap := rfl
@[simp] theorem modMb_ldr (P : Plain) (m : Fin 4) (f : Mailbox → Mailbox) : (modMb P m f).ldr = P.ldr := rfl
@[simp] theorem modMb_mgr (P : Plain) (m : Fin 4) (f : Mailbox → Mailbox) : (modMb P m f).mgr = P.mgr := rfl
@[simp] theorem modMb_lock (P : Plain) (m : Fin 4) (f : Mailbox → Mailbox) : (modMb P m f).lock = P.lock := rfl
@[simp] theorem modMb_dma (P : Plain) (m : Fin 4) (f : Mailbox → Mailbox) : (modMb P m f).dma = P.dma := rfl
@[simp] theorem modMb_bus (P : Plain) (m : Fin 4) (f : Mailbox → Mailbox) : (modMb P m f).bus = P.bus := rfl
@[simp] theorem modMb_mem (P : Plain) (m : Fin 4) (f : Mailbox → Mailbox) : (modMb P m f).mem = P.mem := rfl
@[simp] theorem modMb_pio (P : Plain) (m : Fin 4) (f : Mailbox → Mailbox) : (modMb P m f).pio = P.pio := rfl
@[simp] theorem modMb_health (P : Plain) (m : Fin 4) (f : Mailbox → Mailbox) : (modMb P m f).health = P.health := rfl

@[simp] theorem modCh_tiles (P : Plain) (c : Fin 16) (f : Channel → Channel) : (modCh P c f).tiles = P.tiles := rfl
@[simp] theorem modCh_col (P : Plain) (c : Fin 16) (f : Channel → Channel) : (modCh P c f).col = P.col := rfl
@[simp] theorem modCh_stall (P : Plain) (c : Fin 16) (f : Channel → Channel) : (modCh P c f).stall = P.stall := rfl
@[simp] theorem modCh_run (P : Plain) (c : Fin 16) (f : Channel → Channel) : (modCh P c f).run = P.run := rfl
@[simp] theorem modCh_basin (P : Plain) (c : Fin 16) (f : Channel → Channel) : (modCh P c f).basin = P.basin := rfl
@[simp] theorem modCh_links (P : Plain) (c : Fin 16) (f : Channel → Channel) : (modCh P c f).links = P.links := rfl
@[simp] theorem modCh_sync (P : Plain) (c : Fin 16) (f : Channel → Channel) : (modCh P c f).sync = P.sync := rfl
@[simp] theorem modCh_cap (P : Plain) (c : Fin 16) (f : Channel → Channel) : (modCh P c f).cap = P.cap := rfl
@[simp] theorem modCh_ldr (P : Plain) (c : Fin 16) (f : Channel → Channel) : (modCh P c f).ldr = P.ldr := rfl
@[simp] theorem modCh_mgr (P : Plain) (c : Fin 16) (f : Channel → Channel) : (modCh P c f).mgr = P.mgr := rfl
@[simp] theorem modCh_lock (P : Plain) (c : Fin 16) (f : Channel → Channel) : (modCh P c f).lock = P.lock := rfl
@[simp] theorem modCh_hiu (P : Plain) (c : Fin 16) (f : Channel → Channel) : (modCh P c f).hiu = P.hiu := rfl
@[simp] theorem modCh_bus (P : Plain) (c : Fin 16) (f : Channel → Channel) : (modCh P c f).bus = P.bus := rfl
@[simp] theorem modCh_mem (P : Plain) (c : Fin 16) (f : Channel → Channel) : (modCh P c f).mem = P.mem := rfl
@[simp] theorem modCh_pio (P : Plain) (c : Fin 16) (f : Channel → Channel) : (modCh P c f).pio = P.pio := rfl
@[simp] theorem modCh_health (P : Plain) (c : Fin 16) (f : Channel → Channel) : (modCh P c f).health = P.health := rfl

@[simp] theorem modEng_tiles (P : Plain) (e : Fin 4) (f : PioEngine → PioEngine) : (modEng P e f).tiles = P.tiles := rfl
@[simp] theorem modEng_col (P : Plain) (e : Fin 4) (f : PioEngine → PioEngine) : (modEng P e f).col = P.col := rfl
@[simp] theorem modEng_stall (P : Plain) (e : Fin 4) (f : PioEngine → PioEngine) : (modEng P e f).stall = P.stall := rfl
@[simp] theorem modEng_run (P : Plain) (e : Fin 4) (f : PioEngine → PioEngine) : (modEng P e f).run = P.run := rfl
@[simp] theorem modEng_basin (P : Plain) (e : Fin 4) (f : PioEngine → PioEngine) : (modEng P e f).basin = P.basin := rfl
@[simp] theorem modEng_links (P : Plain) (e : Fin 4) (f : PioEngine → PioEngine) : (modEng P e f).links = P.links := rfl
@[simp] theorem modEng_sync (P : Plain) (e : Fin 4) (f : PioEngine → PioEngine) : (modEng P e f).sync = P.sync := rfl
@[simp] theorem modEng_cap (P : Plain) (e : Fin 4) (f : PioEngine → PioEngine) : (modEng P e f).cap = P.cap := rfl
@[simp] theorem modEng_ldr (P : Plain) (e : Fin 4) (f : PioEngine → PioEngine) : (modEng P e f).ldr = P.ldr := rfl
@[simp] theorem modEng_mgr (P : Plain) (e : Fin 4) (f : PioEngine → PioEngine) : (modEng P e f).mgr = P.mgr := rfl
@[simp] theorem modEng_lock (P : Plain) (e : Fin 4) (f : PioEngine → PioEngine) : (modEng P e f).lock = P.lock := rfl
@[simp] theorem modEng_hiu (P : Plain) (e : Fin 4) (f : PioEngine → PioEngine) : (modEng P e f).hiu = P.hiu := rfl
@[simp] theorem modEng_dma (P : Plain) (e : Fin 4) (f : PioEngine → PioEngine) : (modEng P e f).dma = P.dma := rfl
@[simp] theorem modEng_bus (P : Plain) (e : Fin 4) (f : PioEngine → PioEngine) : (modEng P e f).bus = P.bus := rfl
@[simp] theorem modEng_mem (P : Plain) (e : Fin 4) (f : PioEngine → PioEngine) : (modEng P e f).mem = P.mem := rfl
@[simp] theorem modEng_health (P : Plain) (e : Fin 4) (f : PioEngine → PioEngine) : (modEng P e f).health = P.health := rfl

theorem modTile_same (P : Plain) (t : Fin 64) (f : Tile → Tile) : (modTile P t f).tiles[t] = f P.tiles[t] := vmod_same _ _ _
theorem modTile_other (P : Plain) (t u : Fin 64) (f : Tile → Tile) (h : u ≠ t) : (modTile P t f).tiles[u] = P.tiles[u] := vmod_other _ _ _ _ h
theorem allTiles_at (P : Plain) (f : Fin 64 → Tile → Tile) (t : Fin 64) : (allTiles P f).tiles[t] = f t P.tiles[t] := vall_at _ _ _
theorem modLink_same (P : Plain) (l : Fin 8) (f : Link → Link) : (modLink P l f).links[l] = f P.links[l] := vmod_same _ _ _
theorem modLink_other (P : Plain) (l k : Fin 8) (f : Link → Link) (h : k ≠ l) : (modLink P l f).links[k] = P.links[k] := vmod_other _ _ _ _ h
theorem allLinks_at (P : Plain) (f : Fin 8 → Link → Link) (l : Fin 8) : (allLinks P f).links[l] = f l P.links[l] := vall_at _ _ _
theorem modRing_same (P : Plain) (r : Fin 4) (f : Ring → Ring) : (modRing P r f).hiu.rings[r] = f P.hiu.rings[r] := vmod_same _ _ _
theorem modRing_other (P : Plain) (r k : Fin 4) (f : Ring → Ring) (h : k ≠ r) : (modRing P r f).hiu.rings[k] = P.hiu.rings[k] :=
  vmod_other _ _ _ _ h
theorem modMb_same (P : Plain) (m : Fin 4) (f : Mailbox → Mailbox) : (modMb P m f).hiu.mb[m] = f P.hiu.mb[m] := vmod_same _ _ _
theorem modMb_other (P : Plain) (m k : Fin 4) (f : Mailbox → Mailbox) (h : k ≠ m) : (modMb P m f).hiu.mb[k] = P.hiu.mb[k] :=
  vmod_other _ _ _ _ h
theorem modCh_same (P : Plain) (c : Fin 16) (f : Channel → Channel) : (modCh P c f).dma.ch[c] = f P.dma.ch[c] := vmod_same _ _ _
theorem modCh_other (P : Plain) (c k : Fin 16) (f : Channel → Channel) (h : k ≠ c) : (modCh P c f).dma.ch[k] = P.dma.ch[k] := vmod_other _ _ _ _ h
theorem modEng_same (P : Plain) (e : Fin 4) (f : PioEngine → PioEngine) : (modEng P e f).pio.eng[e] = f P.pio.eng[e] := vmod_same _ _ _
theorem modEng_other (P : Plain) (e k : Fin 4) (f : PioEngine → PioEngine) (h : k ≠ e) : (modEng P e f).pio.eng[k] = P.pio.eng[k] :=
  vmod_other _ _ _ _ h

@[simp] theorem modRing_hiu_cqLog2 (P : Plain) (r : Fin 4) (f : Ring → Ring) : (modRing P r f).hiu.cqLog2 = P.hiu.cqLog2 := rfl
@[simp] theorem modRing_hiu_cqBase (P : Plain) (r : Fin 4) (f : Ring → Ring) : (modRing P r f).hiu.cqBase = P.hiu.cqBase := rfl
@[simp] theorem modRing_hiu_cseq (P : Plain) (r : Fin 4) (f : Ring → Ring) : (modRing P r f).hiu.cseq = P.hiu.cseq := rfl
@[simp] theorem modRing_hiu_pseq (P : Plain) (r : Fin 4) (f : Ring → Ring) : (modRing P r f).hiu.pseq = P.hiu.pseq := rfl
@[simp] theorem modRing_hiu_cqBad (P : Plain) (r : Fin 4) (f : Ring → Ring) : (modRing P r f).hiu.cqBad = P.hiu.cqBad := rfl
@[simp] theorem modRing_hiu_cqFull (P : Plain) (r : Fin 4) (f : Ring → Ring) : (modRing P r f).hiu.cqFull = P.hiu.cqFull := rfl
@[simp] theorem modRing_hiu_cqWait (P : Plain) (r : Fin 4) (f : Ring → Ring) : (modRing P r f).hiu.cqWait = P.hiu.cqWait := rfl
@[simp] theorem modRing_hiu_sbAddr (P : Plain) (r : Fin 4) (f : Ring → Ring) : (modRing P r f).hiu.sbAddr = P.hiu.sbAddr := rfl
@[simp] theorem modRing_hiu_sbEn (P : Plain) (r : Fin 4) (f : Ring → Ring) : (modRing P r f).hiu.sbEn = P.hiu.sbEn := rfl
@[simp] theorem modRing_hiu_sbGen (P : Plain) (r : Fin 4) (f : Ring → Ring) : (modRing P r f).hiu.sbGen = P.hiu.sbGen := rfl
@[simp] theorem modRing_hiu_sbLast (P : Plain) (r : Fin 4) (f : Ring → Ring) : (modRing P r f).hiu.sbLast = P.hiu.sbLast := rfl
@[simp] theorem modRing_hiu_sbAt (P : Plain) (r : Fin 4) (f : Ring → Ring) : (modRing P r f).hiu.sbAt = P.hiu.sbAt := rfl
@[simp] theorem modRing_hiu_vec0 (P : Plain) (r : Fin 4) (f : Ring → Ring) : (modRing P r f).hiu.vec0 = P.hiu.vec0 := rfl
@[simp] theorem modRing_hiu_hwin (P : Plain) (r : Fin 4) (f : Ring → Ring) : (modRing P r f).hiu.hwin = P.hiu.hwin := rfl
@[simp] theorem modRing_hiu_fwRes (P : Plain) (r : Fin 4) (f : Ring → Ring) : (modRing P r f).hiu.fwRes = P.hiu.fwRes := rfl
@[simp] theorem modRing_hiu_fwRefused (P : Plain) (r : Fin 4) (f : Ring → Ring) : (modRing P r f).hiu.fwRefused = P.hiu.fwRefused := rfl
@[simp] theorem modRing_hiu_fn (P : Plain) (r : Fin 4) (f : Ring → Ring) : (modRing P r f).hiu.fn = P.hiu.fn := rfl
@[simp] theorem modRing_hiu_mb (P : Plain) (r : Fin 4) (f : Ring → Ring) : (modRing P r f).hiu.mb = P.hiu.mb := rfl
@[simp] theorem modRing_hiu_dbStat (P : Plain) (r : Fin 4) (f : Ring → Ring) : (modRing P r f).hiu.dbStat = P.hiu.dbStat := rfl
@[simp] theorem modRing_hiu_dbMgr (P : Plain) (r : Fin 4) (f : Ring → Ring) : (modRing P r f).hiu.dbMgr = P.hiu.dbMgr := rfl
@[simp] theorem modRing_hiu_dbHost (P : Plain) (r : Fin 4) (f : Ring → Ring) : (modRing P r f).hiu.dbHost = P.hiu.dbHost := rfl
@[simp] theorem modRing_hiu_job (P : Plain) (r : Fin 4) (f : Ring → Ring) : (modRing P r f).hiu.job = P.hiu.job := rfl
@[simp] theorem modRing_hiu_done (P : Plain) (r : Fin 4) (f : Ring → Ring) : (modRing P r f).hiu.done = P.hiu.done := rfl
@[simp] theorem modRing_hiu_valleyDone (P : Plain) (r : Fin 4) (f : Ring → Ring) : (modRing P r f).hiu.valleyDone = P.hiu.valleyDone := rfl
@[simp] theorem modRing_hiu_xacts (P : Plain) (r : Fin 4) (f : Ring → Ring) : (modRing P r f).hiu.xacts = P.hiu.xacts := rfl
@[simp] theorem modRing_hiu_xactPrev (P : Plain) (r : Fin 4) (f : Ring → Ring) : (modRing P r f).hiu.xactPrev = P.hiu.xactPrev := rfl
@[simp] theorem modRing_hiu_xactLimit (P : Plain) (r : Fin 4) (f : Ring → Ring) : (modRing P r f).hiu.xactLimit = P.hiu.xactLimit := rfl
@[simp] theorem modMb_hiu_rings (P : Plain) (m : Fin 4) (f : Mailbox → Mailbox) : (modMb P m f).hiu.rings = P.hiu.rings := rfl
@[simp] theorem modMb_hiu_cqLog2 (P : Plain) (m : Fin 4) (f : Mailbox → Mailbox) : (modMb P m f).hiu.cqLog2 = P.hiu.cqLog2 := rfl
@[simp] theorem modMb_hiu_cqBase (P : Plain) (m : Fin 4) (f : Mailbox → Mailbox) : (modMb P m f).hiu.cqBase = P.hiu.cqBase := rfl
@[simp] theorem modMb_hiu_cseq (P : Plain) (m : Fin 4) (f : Mailbox → Mailbox) : (modMb P m f).hiu.cseq = P.hiu.cseq := rfl
@[simp] theorem modMb_hiu_pseq (P : Plain) (m : Fin 4) (f : Mailbox → Mailbox) : (modMb P m f).hiu.pseq = P.hiu.pseq := rfl
@[simp] theorem modMb_hiu_cqBad (P : Plain) (m : Fin 4) (f : Mailbox → Mailbox) : (modMb P m f).hiu.cqBad = P.hiu.cqBad := rfl
@[simp] theorem modMb_hiu_cqFull (P : Plain) (m : Fin 4) (f : Mailbox → Mailbox) : (modMb P m f).hiu.cqFull = P.hiu.cqFull := rfl
@[simp] theorem modMb_hiu_cqWait (P : Plain) (m : Fin 4) (f : Mailbox → Mailbox) : (modMb P m f).hiu.cqWait = P.hiu.cqWait := rfl
@[simp] theorem modMb_hiu_sbAddr (P : Plain) (m : Fin 4) (f : Mailbox → Mailbox) : (modMb P m f).hiu.sbAddr = P.hiu.sbAddr := rfl
@[simp] theorem modMb_hiu_sbEn (P : Plain) (m : Fin 4) (f : Mailbox → Mailbox) : (modMb P m f).hiu.sbEn = P.hiu.sbEn := rfl
@[simp] theorem modMb_hiu_sbGen (P : Plain) (m : Fin 4) (f : Mailbox → Mailbox) : (modMb P m f).hiu.sbGen = P.hiu.sbGen := rfl
@[simp] theorem modMb_hiu_sbLast (P : Plain) (m : Fin 4) (f : Mailbox → Mailbox) : (modMb P m f).hiu.sbLast = P.hiu.sbLast := rfl
@[simp] theorem modMb_hiu_sbAt (P : Plain) (m : Fin 4) (f : Mailbox → Mailbox) : (modMb P m f).hiu.sbAt = P.hiu.sbAt := rfl
@[simp] theorem modMb_hiu_vec0 (P : Plain) (m : Fin 4) (f : Mailbox → Mailbox) : (modMb P m f).hiu.vec0 = P.hiu.vec0 := rfl
@[simp] theorem modMb_hiu_hwin (P : Plain) (m : Fin 4) (f : Mailbox → Mailbox) : (modMb P m f).hiu.hwin = P.hiu.hwin := rfl
@[simp] theorem modMb_hiu_fwRes (P : Plain) (m : Fin 4) (f : Mailbox → Mailbox) : (modMb P m f).hiu.fwRes = P.hiu.fwRes := rfl
@[simp] theorem modMb_hiu_fwRefused (P : Plain) (m : Fin 4) (f : Mailbox → Mailbox) : (modMb P m f).hiu.fwRefused = P.hiu.fwRefused := rfl
@[simp] theorem modMb_hiu_fn (P : Plain) (m : Fin 4) (f : Mailbox → Mailbox) : (modMb P m f).hiu.fn = P.hiu.fn := rfl
@[simp] theorem modMb_hiu_dbStat (P : Plain) (m : Fin 4) (f : Mailbox → Mailbox) : (modMb P m f).hiu.dbStat = P.hiu.dbStat := rfl
@[simp] theorem modMb_hiu_dbMgr (P : Plain) (m : Fin 4) (f : Mailbox → Mailbox) : (modMb P m f).hiu.dbMgr = P.hiu.dbMgr := rfl
@[simp] theorem modMb_hiu_dbHost (P : Plain) (m : Fin 4) (f : Mailbox → Mailbox) : (modMb P m f).hiu.dbHost = P.hiu.dbHost := rfl
@[simp] theorem modMb_hiu_job (P : Plain) (m : Fin 4) (f : Mailbox → Mailbox) : (modMb P m f).hiu.job = P.hiu.job := rfl
@[simp] theorem modMb_hiu_done (P : Plain) (m : Fin 4) (f : Mailbox → Mailbox) : (modMb P m f).hiu.done = P.hiu.done := rfl
@[simp] theorem modMb_hiu_valleyDone (P : Plain) (m : Fin 4) (f : Mailbox → Mailbox) : (modMb P m f).hiu.valleyDone = P.hiu.valleyDone := rfl
@[simp] theorem modMb_hiu_xacts (P : Plain) (m : Fin 4) (f : Mailbox → Mailbox) : (modMb P m f).hiu.xacts = P.hiu.xacts := rfl
@[simp] theorem modMb_hiu_xactPrev (P : Plain) (m : Fin 4) (f : Mailbox → Mailbox) : (modMb P m f).hiu.xactPrev = P.hiu.xactPrev := rfl
@[simp] theorem modMb_hiu_xactLimit (P : Plain) (m : Fin 4) (f : Mailbox → Mailbox) : (modMb P m f).hiu.xactLimit = P.hiu.xactLimit := rfl

/-! ## Modes and reports -/

@[simp] theorem setMode_tiles (P : Plain) (m : Mode) : (setMode P m).tiles = P.tiles := by unfold setMode; split <;> rfl
@[simp] theorem setMode_col (P : Plain) (m : Mode) : (setMode P m).col = P.col := by unfold setMode; split <;> rfl
@[simp] theorem setMode_stall (P : Plain) (m : Mode) : (setMode P m).stall = P.stall := by unfold setMode; split <;> rfl
@[simp] theorem setMode_basin (P : Plain) (m : Mode) : (setMode P m).basin = P.basin := by unfold setMode; split <;> rfl
@[simp] theorem setMode_links (P : Plain) (m : Mode) : (setMode P m).links = P.links := by unfold setMode; split <;> rfl
@[simp] theorem setMode_sync (P : Plain) (m : Mode) : (setMode P m).sync = P.sync := by unfold setMode; split <;> rfl
@[simp] theorem setMode_cap (P : Plain) (m : Mode) : (setMode P m).cap = P.cap := by unfold setMode; split <;> rfl
@[simp] theorem setMode_ldr (P : Plain) (m : Mode) : (setMode P m).ldr = P.ldr := by unfold setMode; split <;> rfl
@[simp] theorem setMode_mgr (P : Plain) (m : Mode) : (setMode P m).mgr = P.mgr := by unfold setMode; split <;> rfl
@[simp] theorem setMode_lock (P : Plain) (m : Mode) : (setMode P m).lock = P.lock := by unfold setMode; split <;> rfl
@[simp] theorem setMode_hiu (P : Plain) (m : Mode) : (setMode P m).hiu = P.hiu := by unfold setMode; split <;> rfl
@[simp] theorem setMode_dma (P : Plain) (m : Mode) : (setMode P m).dma = P.dma := by unfold setMode; split <;> rfl
@[simp] theorem setMode_bus (P : Plain) (m : Mode) : (setMode P m).bus = P.bus := by unfold setMode; split <;> rfl
@[simp] theorem setMode_mem (P : Plain) (m : Mode) : (setMode P m).mem = P.mem := by unfold setMode; split <;> rfl
@[simp] theorem setMode_pio (P : Plain) (m : Mode) : (setMode P m).pio = P.pio := by unfold setMode; split <;> rfl
@[simp] theorem setMode_health (P : Plain) (m : Mode) : (setMode P m).health = P.health := by unfold setMode; split <;> rfl
@[simp] theorem setMode_mode (P : Plain) (m : Mode) : (setMode P m).run.mode = m := by unfold setMode; split <;> simp_all

@[simp] theorem event_tiles (P : Plain) (code unit detail : Nat) : (event P code unit detail).tiles = P.tiles := by unfold event; split <;> rfl
@[simp] theorem event_col (P : Plain) (code unit detail : Nat) : (event P code unit detail).col = P.col := by unfold event; split <;> rfl
@[simp] theorem event_stall (P : Plain) (code unit detail : Nat) : (event P code unit detail).stall = P.stall := by unfold event; split <;> rfl
@[simp] theorem event_run (P : Plain) (code unit detail : Nat) : (event P code unit detail).run = P.run := by unfold event; split <;> rfl
@[simp] theorem event_basin (P : Plain) (code unit detail : Nat) : (event P code unit detail).basin = P.basin := by unfold event; split <;> rfl
@[simp] theorem event_links (P : Plain) (code unit detail : Nat) : (event P code unit detail).links = P.links := by unfold event; split <;> rfl
@[simp] theorem event_sync (P : Plain) (code unit detail : Nat) : (event P code unit detail).sync = P.sync := by unfold event; split <;> rfl
@[simp] theorem event_cap (P : Plain) (code unit detail : Nat) : (event P code unit detail).cap = P.cap := by unfold event; split <;> rfl
@[simp] theorem event_ldr (P : Plain) (code unit detail : Nat) : (event P code unit detail).ldr = P.ldr := by unfold event; split <;> rfl
@[simp] theorem event_lock (P : Plain) (code unit detail : Nat) : (event P code unit detail).lock = P.lock := by unfold event; split <;> rfl
@[simp] theorem event_hiu (P : Plain) (code unit detail : Nat) : (event P code unit detail).hiu = P.hiu := by unfold event; split <;> rfl
@[simp] theorem event_dma (P : Plain) (code unit detail : Nat) : (event P code unit detail).dma = P.dma := by unfold event; split <;> rfl
@[simp] theorem event_bus (P : Plain) (code unit detail : Nat) : (event P code unit detail).bus = P.bus := by unfold event; split <;> rfl
@[simp] theorem event_mem (P : Plain) (code unit detail : Nat) : (event P code unit detail).mem = P.mem := by unfold event; split <;> rfl
@[simp] theorem event_pio (P : Plain) (code unit detail : Nat) : (event P code unit detail).pio = P.pio := by unfold event; split <;> rfl
@[simp] theorem event_health (P : Plain) (code unit detail : Nat) : (event P code unit detail).health = P.health := by unfold event; split <;> rfl
@[simp] theorem event_mgr_g (P : Plain) (code unit detail : Nat) : (event P code unit detail).mgr.g = P.mgr.g := by unfold event; split <;> rfl
@[simp] theorem event_mgr_pr (P : Plain) (code unit detail : Nat) : (event P code unit detail).mgr.pr = P.mgr.pr := by unfold event; split <;> rfl
@[simp] theorem event_mgr_ports (P : Plain) (code unit detail : Nat) : (event P code unit detail).mgr.ports = P.mgr.ports := by unfold event; split <;> rfl
@[simp] theorem event_mgr_board (P : Plain) (code unit detail : Nat) : (event P code unit detail).mgr.board = P.mgr.board := by unfold event; split <;> rfl
@[simp] theorem event_mgr_long (P : Plain) (code unit detail : Nat) : (event P code unit detail).mgr.long = P.mgr.long := by unfold event; split <;> rfl
@[simp] theorem event_mgr_pc (P : Plain) (code unit detail : Nat) : (event P code unit detail).mgr.pc = P.mgr.pc := by unfold event; split <;> rfl
@[simp] theorem event_mgr_lvl (P : Plain) (code unit detail : Nat) : (event P code unit detail).mgr.lvl = P.mgr.lvl := by unfold event; split <;> rfl
@[simp] theorem event_mgr_tsp (P : Plain) (code unit detail : Nat) : (event P code unit detail).mgr.tsp = P.mgr.tsp := by unfold event; split <;> rfl
@[simp] theorem event_mgr_ssp (P : Plain) (code unit detail : Nat) : (event P code unit detail).mgr.ssp = P.mgr.ssp := by unfold event; split <;> rfl
@[simp] theorem event_mgr_csr (P : Plain) (code unit detail : Nat) : (event P code unit detail).mgr.csr = P.mgr.csr := by unfold event; split <;> rfl
@[simp] theorem event_mgr_callMode (P : Plain) (code unit detail : Nat) : (event P code unit detail).mgr.callMode = P.mgr.callMode := by unfold event; split <;> rfl
@[simp] theorem event_mgr_callLock (P : Plain) (code unit detail : Nat) : (event P code unit detail).mgr.callLock = P.mgr.callLock := by unfold event; split <;> rfl
@[simp] theorem event_mgr_fetch (P : Plain) (code unit detail : Nat) : (event P code unit detail).mgr.fetch = P.mgr.fetch := by unfold event; split <;> rfl
@[simp] theorem event_mgr_fetches (P : Plain) (code unit detail : Nat) : (event P code unit detail).mgr.fetches = P.mgr.fetches := by unfold event; split <;> rfl
@[simp] theorem event_mgr_fetchReq (P : Plain) (code unit detail : Nat) : (event P code unit detail).mgr.fetchReq = P.mgr.fetchReq := by unfold event; split <;> rfl
@[simp] theorem event_mgr_mem (P : Plain) (code unit detail : Nat) : (event P code unit detail).mgr.mem = P.mgr.mem := by unfold event; split <;> rfl
@[simp] theorem event_mgr_envCall (P : Plain) (code unit detail : Nat) : (event P code unit detail).mgr.envCall = P.mgr.envCall := by unfold event; split <;> rfl
@[simp] theorem event_mgr_busErr (P : Plain) (code unit detail : Nat) : (event P code unit detail).mgr.busErr = P.mgr.busErr := by unfold event; split <;> rfl
@[simp] theorem event_mgr_fence (P : Plain) (code unit detail : Nat) : (event P code unit detail).mgr.fence = P.mgr.fence := by unfold event; split <;> rfl
@[simp] theorem event_mgr_flush (P : Plain) (code unit detail : Nat) : (event P code unit detail).mgr.flush = P.mgr.flush := by unfold event; split <;> rfl
@[simp] theorem event_mgr_ret (P : Plain) (code unit detail : Nat) : (event P code unit detail).mgr.ret = P.mgr.ret := by unfold event; split <;> rfl
@[simp] theorem event_mgr_entered (P : Plain) (code unit detail : Nat) : (event P code unit detail).mgr.entered = P.mgr.entered := by unfold event; split <;> rfl
@[simp] theorem event_mgr_loose (P : Plain) (code unit detail : Nat) : (event P code unit detail).mgr.loose = P.mgr.loose := by unfold event; split <;> rfl
@[simp] theorem event_mgr_waiting (P : Plain) (code unit detail : Nat) : (event P code unit detail).mgr.waiting = P.mgr.waiting := by unfold event; split <;> rfl
@[simp] theorem event_mgr_sbStall (P : Plain) (code unit detail : Nat) : (event P code unit detail).mgr.sbStall = P.mgr.sbStall := by unfold event; split <;> rfl
@[simp] theorem event_mgr_blk (P : Plain) (code unit detail : Nat) : (event P code unit detail).mgr.blk = P.mgr.blk := by unfold event; split <;> rfl
@[simp] theorem event_mgr_steps (P : Plain) (code unit detail : Nat) : (event P code unit detail).mgr.steps = P.mgr.steps := by unfold event; split <;> rfl
@[simp] theorem event_mgr_retired (P : Plain) (code unit detail : Nat) : (event P code unit detail).mgr.retired = P.mgr.retired := by unfold event; split <;> rfl
@[simp] theorem event_mgr_running (P : Plain) (code unit detail : Nat) : (event P code unit detail).mgr.running = P.mgr.running := by unfold event; split <;> rfl
@[simp] theorem event_mgr_lsCtl (P : Plain) (code unit detail : Nat) : (event P code unit detail).mgr.lsCtl = P.mgr.lsCtl := by unfold event; split <;> rfl
@[simp] theorem event_mgr_lsStat (P : Plain) (code unit detail : Nat) : (event P code unit detail).mgr.lsStat = P.mgr.lsStat := by unfold event; split <;> rfl
@[simp] theorem event_mgr_lsDiag (P : Plain) (code unit detail : Nat) : (event P code unit detail).mgr.lsDiag = P.mgr.lsDiag := by unfold event; split <;> rfl
@[simp] theorem event_mgr_testedAt (P : Plain) (code unit detail : Nat) : (event P code unit detail).mgr.testedAt = P.mgr.testedAt := by unfold event; split <;> rfl
@[simp] theorem event_mgr_retiredAt (P : Plain) (code unit detail : Nat) : (event P code unit detail).mgr.retiredAt = P.mgr.retiredAt := by unfold event; split <;> rfl

/-- An event is queued, or counted as lost when 64 records wait (11 R236). -/
theorem event_queued (P : Plain) (code unit detail : Nat) (h : P.mgr.evq.length < 64) :
    (event P code unit detail).mgr.evq = P.mgr.evq ++ [evRecord code unit detail] ∧ (event P code unit detail).mgr.lost = P.mgr.lost := by
  simp [event, h]

theorem event_lost (P : Plain) (code unit detail : Nat) (h : 64 ≤ P.mgr.evq.length) :
    (event P code unit detail).mgr.evq = P.mgr.evq := by
  simp [event, Nat.not_lt.2 h]

@[simp] theorem vector_fuses (s : State) (p : Fin 8) (vec : Nat) : (vector s p vec).fuses = s.fuses := by unfold vector; dsimp only; split <;> rfl
@[simp] theorem vector_power (s : State) (p : Fin 8) (vec : Nat) : (vector s p vec).power = s.power := by unfold vector; dsimp only; split <;> rfl
@[simp] theorem vector_tap (s : State) (p : Fin 8) (vec : Nat) : (vector s p vec).tap = s.tap := by unfold vector; dsimp only; split <;> rfl
@[simp] theorem vector_hlink (s : State) (p : Fin 8) (vec : Nat) : (vector s p vec).hlink = s.hlink := by unfold vector; dsimp only; split <;> rfl
@[simp] theorem vector_hostMem (s : State) (p : Fin 8) (vec : Nat) : (vector s p vec).hostMem = s.hostMem := by unfold vector; dsimp only; split <;> rfl
@[simp] theorem vector_pf0 (s : State) (p : Fin 8) (vec : Nat) : (vector s p vec).pf0 = s.pf0 := by unfold vector; dsimp only; split <;> rfl
@[simp] theorem vector_readData (s : State) (p : Fin 8) (vec : Nat) : (vector s p vec).readData = s.readData := by unfold vector; dsimp only; split <;> rfl
@[simp] theorem vector_nak (s : State) (p : Fin 8) (vec : Nat) : (vector s p vec).nak = s.nak := by unfold vector; dsimp only; split <;> rfl
@[simp] theorem vector_i2cAdr (s : State) (p : Fin 8) (vec : Nat) : (vector s p vec).i2cAdr = s.i2cAdr := by unfold vector; dsimp only; split <;> rfl
@[simp] theorem vector_timeNs (s : State) (p : Fin 8) (vec : Nat) : (vector s p vec).timeNs = s.timeNs := by unfold vector; dsimp only; split <;> rfl
@[simp] theorem vector_pending (s : State) (p : Fin 8) (vec : Nat) : (vector s p vec).pending = s.pending := by unfold vector; dsimp only; split <;> rfl
theorem vector_other (s : State) (p q : Fin 8) (vec : Nat) (h : q ≠ p) : (vector s p vec).plains[q] = s.plains[q] := by
  unfold vector; dsimp only; split
  · rfl
  · exact modPlain_other _ _ _ _ h

/-! ## The same at a number: simp writes `v[i]` as `v[i.val]` -/

@[simp] theorem vall_val {α β : Type} {n : Nat} (v : Vector α n) (f : Fin n → α → β) (i : Nat) (h : i < n) :
    (vall v f)[i]'h = f ⟨i, h⟩ v[i] := by simp [vall]
@[simp] theorem vmod_same_val {α : Type} {n : Nat} (v : Vector α n) (i : Fin n) (f : α → α) (h : i.val < n) :
    (vmod v i f)[i.val]'h = f v[i.val] := vmod_same v i f
@[simp] theorem vmod_other_val {α : Type} {n : Nat} (v : Vector α n) (i j : Fin n) (f : α → α) (hj : j.val < n) (h : j ≠ i) :
    (vmod v i f)[j.val]'hj = v[j.val] := vmod_other v i j f h
@[simp] theorem modPlain_same_val (s : State) (p : Fin 8) (f : Plain → Plain) (h : p.val < 8) :
    (modPlain s p f).plains[p.val]'h = f s.plains[p.val] := modPlain_same s p f
@[simp] theorem modPlain_other_val (s : State) (p q : Fin 8) (f : Plain → Plain) (hq : q.val < 8) (h : q ≠ p) :
    (modPlain s p f).plains[q.val]'hq = s.plains[q.val] := modPlain_other s p q f h
@[simp] theorem vector_other_val (s : State) (p q : Fin 8) (vec : Nat) (hq : q.val < 8) (h : q ≠ p) :
    (vector s p vec).plains[q.val]'hq = s.plains[q.val] := vector_other s p q vec h
@[simp] theorem modTile_same_val (P : Plain) (t : Fin 64) (f : Tile → Tile) (h : t.val < 64) :
    (modTile P t f).tiles[t.val]'h = f P.tiles[t.val] := modTile_same P t f
@[simp] theorem allTiles_val (P : Plain) (f : Fin 64 → Tile → Tile) (t : Nat) (h : t < 64) :
    (allTiles P f).tiles[t]'h = f ⟨t, h⟩ P.tiles[t] := allTiles_at P f ⟨t, h⟩
@[simp] theorem modLink_same_val (P : Plain) (l : Fin 8) (f : Link → Link) (h : l.val < 8) :
    (modLink P l f).links[l.val]'h = f P.links[l.val] := modLink_same P l f
@[simp] theorem allLinks_val (P : Plain) (f : Fin 8 → Link → Link) (l : Nat) (h : l < 8) :
    (allLinks P f).links[l]'h = f ⟨l, h⟩ P.links[l] := allLinks_at P f ⟨l, h⟩
@[simp] theorem modRing_same_val (P : Plain) (r : Fin 4) (f : Ring → Ring) (h : r.val < 4) :
    (modRing P r f).hiu.rings[r.val]'h = f P.hiu.rings[r.val] := modRing_same P r f
@[simp] theorem modMb_same_val (P : Plain) (m : Fin 4) (f : Mailbox → Mailbox) (h : m.val < 4) :
    (modMb P m f).hiu.mb[m.val]'h = f P.hiu.mb[m.val] := modMb_same P m f
@[simp] theorem modCh_same_val (P : Plain) (c : Fin 16) (f : Channel → Channel) (h : c.val < 16) :
    (modCh P c f).dma.ch[c.val]'h = f P.dma.ch[c.val] := modCh_same P c f
@[simp] theorem modEng_same_val (P : Plain) (e : Fin 4) (f : PioEngine → PioEngine) (h : e.val < 4) :
    (modEng P e f).pio.eng[e.val]'h = f P.pio.eng[e.val] := modEng_same P e f

end Sys2Proof.Machine
end

