-- ==== Sys2Proof/Laws/Frame.lean ====
section
/-! SUPPORT. Laws of the frame: what stays outside one Plain. -/

namespace Sys2Proof.Machine

theorem OnlyPlain.rfl' (p : Fin 8) (s : State) : OnlyPlain p s s := by
  simp [OnlyPlain]

/-- An update of one Plain changes nothing outside it. -/
theorem onlyPlain_modPlain (s : State) (p : Fin 8) (f : Plain → Plain) : OnlyPlain p s (modPlain s p f) := by
  simp [OnlyPlain, modPlain, vmod]

theorem OnlyPlain.trans {p : Fin 8} {s t u : State} (h : OnlyPlain p s t) (k : OnlyPlain p t u) : OnlyPlain p s u := by
  unfold OnlyPlain at *
  rw [k]
  generalize t.plains[p] = x at h
  subst h
  simp

/-- What stays when only one Plain changes: every other Plain. -/
theorem OnlyPlain.others {p : Fin 8} {s t : State} (h : OnlyPlain p s t) : OthersKept p s t := by
  intro q hq
  have : p.val ≠ q.val := fun e => hq (Fin.ext e.symm)
  unfold OnlyPlain at h
  rw [h]
  simp [Vector.getElem_set_ne _ _ this]

end Sys2Proof.Machine
end

