-- ==== Sys2Proof/Laws/Ops.lean ====
section
/-! SUPPORT. What the shared operations can do, said once each: events, MSI-X vectors, fault windows, late DMA writes, turns at the
bus matrix, the test port, the comparator. -/

namespace Sys2Proof.Machine

/-! ## Events (11 R236) -/

/-- An event is queued at the end of the queue while it has room, else counted, saturating. -/
theorem event_cases (P : Plain) (code unit detail : Nat) :
    (P.mgr.evq.length < 64 ∧ event P code unit detail = { P with mgr := { P.mgr with evq := P.mgr.evq ++ [evRecord code unit detail] } }) ∨
    (64 ≤ P.mgr.evq.length ∧ event P code unit detail =
      { P with mgr := { P.mgr with lost := if P.mgr.lost = 0xFFFF#16 then P.mgr.lost else P.mgr.lost + 1 } }) := by
  by_cases h : P.mgr.evq.length < 64
  · exact .inl ⟨h, if_pos h⟩
  · exact .inr ⟨Nat.le_of_not_lt h, if_neg h⟩

/-- An event changes the Manager's queue and its count of lost events, and nothing else. -/
theorem event_frame (P : Plain) (code unit detail : Nat) :
    event P code unit detail = { P with mgr := { P.mgr with evq := (event P code unit detail).mgr.evq, lost := (event P code unit detail).mgr.lost } } := by
  rcases event_cases P code unit detail with ⟨-, h⟩ | ⟨-, h⟩ <;> simp [h]

/-- The queue never grows beyond 64 records. -/
theorem event_queue_bounded (P : Plain) (code unit detail : Nat) (h : P.mgr.evq.length ≤ 64) :
    (event P code unit detail).mgr.evq.length ≤ 64 := by
  rcases event_cases P code unit detail with ⟨k, e⟩ | ⟨-, e⟩
  · rw [e, List.length_append, List.length_singleton]
    omega
  · rw [e]
    exact h

/-! ## Vectors (13 R256-R258) -/

/-- A function's vector waits for Bus Master Enable, is masked and pending, or is sent. -/
theorem fnSignal_cases (F : PcieFn) (vec : Nat) :
    (F.bme = false ∧ fnSignal F vec = ({ F with wait := F.wait ++ [vec] }, false)) ∨
    (F.bme = true ∧ masked F vec = true ∧ fnSignal F vec = ({ F with pba := setBit F.pba vec true }, false)) ∨
    (F.bme = true ∧ masked F vec = false ∧ fnSignal F vec = (F, true)) := by
  unfold fnSignal
  cases F.bme <;> cases masked F vec <;> simp

/-- Without Bus Master Enable nothing is let out. -/
theorem fnRelease_held (F : PcieFn) (h : F.bme = false) : fnRelease F = (F, []) := by
  simp [fnRelease, h]

/-- A vector of a Plain is sent by its function, or its function keeps it. -/
theorem vector_cases (s : State) (p : Fin 8) (vec : Nat) :
    vector s p vec = sendMsix s (p.val + 1) [vec] ∨
    vector s p vec = modPlain s p fun P => modFn P fun _ => (fnSignal s.plains[p].hiu.fn vec).1 := by
  unfold vector
  cases h : (fnSignal s.plains[p].hiu.fn vec).2
  · exact .inr (if_neg (by rw [h]; exact Bool.false_ne_true))
  · exact .inl (if_pos h)

@[simp] theorem sendMsix_plains (s : State) (f : Nat) (vs : List Nat) : (sendMsix s f vs).plains = s.plains := rfl
@[simp] theorem sendMsix_fuses (s : State) (f : Nat) (vs : List Nat) : (sendMsix s f vs).fuses = s.fuses := rfl
@[simp] theorem sendMsix_power (s : State) (f : Nat) (vs : List Nat) : (sendMsix s f vs).power = s.power := rfl
@[simp] theorem sendMsix_tap (s : State) (f : Nat) (vs : List Nat) : (sendMsix s f vs).tap = s.tap := rfl
@[simp] theorem sendMsix_hostMem (s : State) (f : Nat) (vs : List Nat) : (sendMsix s f vs).hostMem = s.hostMem := rfl
@[simp] theorem sendMsix_pf0 (s : State) (f : Nat) (vs : List Nat) : (sendMsix s f vs).pf0 = s.pf0 := rfl
@[simp] theorem sendMsix_timeNs (s : State) (f : Nat) (vs : List Nat) : (sendMsix s f vs).timeNs = s.timeNs := rfl
@[simp] theorem sendMsix_pending (s : State) (f : Nat) (vs : List Nat) : (sendMsix s f vs).pending = s.pending := rfl

/-- A vector leaves every other Plain, the fuses, host memory, the time and the queue. -/
theorem vector_frame (s : State) (p : Fin 8) (vec : Nat) :
    (∀ q, q ≠ p → (vector s p vec).plains[q] = s.plains[q]) ∧ (vector s p vec).fuses = s.fuses ∧
    (vector s p vec).hostMem = s.hostMem ∧ (vector s p vec).timeNs = s.timeNs ∧ (vector s p vec).pending = s.pending := by
  rcases vector_cases s p vec with h | h <;> rw [h]
  · simp
  · exact ⟨fun q hq => modPlain_other s p q _ hq, rfl, rfl, rfl, rfl⟩

/-! ## Fault windows (19 R384, R385) -/

/-- A window that is open closes with its event; with none open nothing happens. -/
theorem closeWindow_cases (P : Plain) (now : Nat) :
    (P.health.winOpen = false ∧ closeWindow P now = P) ∨
    (P.health.winOpen = true ∧ ∃ us, closeWindow P now = event { P with health := { P.health with winOpen := false } } 0x0221 0 us) := by
  cases h : P.health.winOpen
  · exact .inl ⟨rfl, by simp [closeWindow, h]⟩
  · exact .inr ⟨rfl, _, by simp [closeWindow, h]; rfl⟩

/-- No window is open after a close. -/
theorem closeWindow_closed (P : Plain) (now : Nat) : (closeWindow P now).health.winOpen = false := by
  rcases closeWindow_cases P now with ⟨h, e⟩ | ⟨-, us, e⟩ <;> rw [e]
  · exact h
  · rw [event_frame]

/-! ## Late DMA writes (14 R296) -/

/-- With no write on its way nothing arrives. -/
theorem arriveLate_none (s : State) (p : Fin 8) (h : s.plains[p].dma.late = []) : arriveLate s p = s := by
  simp only [arriveLate, h, if_true]

/-- With no write on its way what M3 issues finds nothing before it. -/
theorem arriveAt_none (s : State) (p : Fin 8) (a : Nat) (h : s.plains[p].dma.late = []) : arriveAt s p a = s := by
  simp only [arriveAt, arriveLate_none s p h, ite_self]

/-! ## Faults found in a memory (19 R384) -/

/-- An access that has met no uncorrectable word raises nothing. -/
theorem raiseUe_none (s : State) (p : Fin 8) (code unit : Nat) (k : State → State) : raiseUe s p code unit [] k = s := if_pos rfl

/-- A window that a fault opens is open, with the fault's code. -/
theorem openWindow_opens (P : Plain) (now code unit : Nat) :
    (openWindow P now code unit).health.winOpen = true ∧ (openWindow P now code unit).health.code = BitVec.ofNat 8 code := by
  unfold openWindow
  rw [event_frame]
  exact ⟨rfl, rfl⟩

/-- A fault opens a window and its recovery follows, or it belongs to the window that is open, or it is that window's second fault. -/
theorem raiseFault_cases (s : State) (p : Fin 8) (code unit : Nat) (k : State → State) :
    (s.plains[p].health.winOpen = false ∧ raiseFault s p code unit k = k (modPlain s p fun P =>
      { openWindow P s.timeNs code unit with run := { (openWindow P s.timeNs code unit).run with recovered := true } })) ∨
    (s.plains[p].health.winOpen = true ∧ belongs s.plains[p] code unit = true ∧ raiseFault s p code unit k = k s) ∨
    (s.plains[p].health.winOpen = true ∧ belongs s.plains[p] code unit = false ∧ raiseFault s p code unit k = doubleFault s p code unit) := by
  by_cases h : s.plains[p].health.winOpen = true
  · by_cases b : belongs s.plains[p] code unit = true
    · exact .inr (.inl ⟨h, b, (if_pos h).trans (if_pos b)⟩)
    · exact .inr (.inr ⟨h, by simpa using b, (if_pos h).trans (if_neg b)⟩)
  · exact .inl ⟨by simpa using h, if_neg h⟩

/-! ## Turns at the bus matrix (15 R312-R314) -/

/-- With no access outstanding the turn of an access comes at once, and only its port's round robin turns. -/
theorem takeTurn_empty (s : State) (p : Fin 8) (tag : Nat) (x : Access) (h : s.plains[p].bus.queue = []) :
    takeTurn s p tag x = (modPlain s p (notePort x), true) := by
  unfold takeTurn
  simp only [h, if_true]

/-- The round robin of a port is all that a served access changes of the Plain by itself. -/
theorem notePort_frame (x : Access) (P : Plain) : notePort x P = { P with bus := { P.bus with last := (notePort x P).bus.last } } := by
  unfold notePort
  split <;> rfl

/-! ## The test port (20 R394, 21 R412) -/

/-- While TRST_N is low an instruction changes nothing. -/
theorem scanned_held (s : State) (f : State → State) (h : s.tap.trstLow = true) : scanned s f = .next s := by
  simp [scanned, h]

/-- With TRST_N high an instruction acts, and the instruction register captures its constant. -/
theorem scanned_free (s : State) (f : State → State) (h : s.tap.trstLow = false) :
    scanned s f = .next (f { s with tap := { s.tap with irCaptured := 0x01 } }) := by
  simp [scanned, h, modTap]

/-! ## The comparator (12 R250) -/

/-- With fewer than two steps in the delay registers the shadow has nothing to execute. -/
theorem shadowRun_early (L : Lockstep) (h : L.delay.length < 2) : shadowRun L = (L, true) := by
  simp [shadowRun, shadowStep, Nat.not_le.mpr h]

/-- A shadow step takes the oldest entry from the delay registers, and changes neither the entries behind it nor what the
units have brought since. -/
theorem shadowRun_frame (L : Lockstep) : (shadowRun L).1 = { L with shadow := (shadowRun L).1.shadow, delay := (shadowRun L).1.delay } ∧
    ((shadowRun L).1.delay = L.delay ∨ (shadowRun L).1.delay = L.delay.drop 1) := by
  unfold shadowRun
  cases shadowStep L <;> simp

end Sys2Proof.Machine
end

