-- ==== Sys2Proof/Laws/PerInstr.lean ====
section
/-! SUPPORT. Statements about every command, one lemma per constructor. -/

namespace Sys2Proof.Laws.Named

open Sys2Proof

/-- A command is well-formed, or a check that it fails has a name. -/
def Statement (i : Sys2Proof.Instr) : Prop := i.wellFormed = true ∨ ∃ p, p ∈ i.problems

/-- A list is empty or has an element. -/
theorem of_problems (i : Sys2Proof.Instr) : Statement i := by
  unfold Statement Sys2Proof.Instr.wellFormed
  cases i.problems with
  | nil => exact .inl rfl
  | cons p r => exact .inr ⟨p, by simp⟩

theorem stepRelease (p : Fin 8) (lastCols : BitVec 9) : Statement (.stepRelease p lastCols) := of_problems _

theorem backPressureStallEnd (p : Fin 8) : Statement (.backPressureStallEnd p) := of_problems _

theorem boundarySequence (p : Fin 8) : Statement (.boundarySequence p) := of_problems _

theorem captureRoomFreed (p : Fin 8) : Statement (.captureRoomFreed p) := of_problems _

theorem cycleRelease (p : Fin 8) : Statement (.cycleRelease p) := of_problems _

theorem stallTimeout (p : Fin 8) : Statement (.stallTimeout p) := of_problems _

theorem captureQ7Pop (p : Fin 8) (t : Fin 64) : Statement (.captureQ7Pop p t) := of_problems _

theorem captureDrain (p : Fin 8) : Statement (.captureDrain p) := of_problems _

theorem checkpointDrainDone (p : Fin 8) : Statement (.checkpointDrainDone p) := of_problems _

theorem mmRequestTake (p : Fin 8) (t : Fin 64) : Statement (.mmRequestTake p t) := of_problems _

theorem mmRequestComplete (p : Fin 8) (t : Fin 64) : Statement (.mmRequestComplete p t) := of_problems _

theorem patrolScrub (p : Fin 8) (word : Nat) : Statement (.patrolScrub p word) := of_problems _

theorem basinTempSample (p : Fin 8) (temp : Byte) : Statement (.basinTempSample p temp) := of_problems _

theorem passTxTake (p : Fin 8) (l : Fin 8) : Statement (.passTxTake p l) := of_problems _

theorem frameSend (p : Fin 8) (l : Fin 8) : Statement (.frameSend p l) := of_problems _

theorem dataFrameRx (p : Fin 8) (l : Fin 8) (f : Frame) : Statement (.dataFrameRx p l f) := of_problems _

theorem cycleFrameRx (p : Fin 8) (l : Fin 8) (f : Frame) : Statement (.cycleFrameRx p l f) := of_problems _

theorem creditFrameRx (p : Fin 8) (l : Fin 8) (f : Frame) : Statement (.creditFrameRx p l f) := of_problems _

theorem openFrameRx (p : Fin 8) (l : Fin 8) (f : Frame) : Statement (.openFrameRx p l f) := of_problems _

theorem refuseFrameRx (p : Fin 8) (l : Fin 8) (f : Frame) : Statement (.refuseFrameRx p l f) := of_problems _

theorem closingFrameRx (p : Fin 8) (l : Fin 8) (f : Frame) : Statement (.closingFrameRx p l f) := of_problems _

theorem returnFrameRx (p : Fin 8) (l : Fin 8) (f : Frame) : Statement (.returnFrameRx p l f) := of_problems _

theorem trainFrameRx (p : Fin 8) (l : Fin 8) (f : Frame) : Statement (.trainFrameRx p l f) := of_problems _

theorem reservedFrameRx (p : Fin 8) (l : Fin 8) (f : Frame) : Statement (.reservedFrameRx p l f) := of_problems _

theorem ackRx (p : Fin 8) (l : Fin 8) (rx : ControlCodeword) : Statement (.ackRx p l rx) := of_problems _

theorem nakRx (p : Fin 8) (l : Fin 8) (rx : LaneCodeword) : Statement (.nakRx p l rx) := of_problems _

theorem replayTimeout (p : Fin 8) (l : Fin 8) : Statement (.replayTimeout p l) := of_problems _

theorem creditReturnTimeout (p : Fin 8) (l : Fin 8) : Statement (.creditReturnTimeout p l) := of_problems _

theorem passRxPush (p : Fin 8) (l : Fin 8) (chan : Fin 64) : Statement (.passRxPush p l chan) := of_problems _

theorem laneFail (p : Fin 8) (l : Fin 8) (working : Nat) : Statement (.laneFail p l working) := of_problems _

theorem retrainDone (p : Fin 8) (l : TrainedLink) : Statement (.retrainDone p l) := of_problems _

theorem retrainAttemptFail (p : Fin 8) (l : Fin 8) (working : Nat) : Statement (.retrainAttemptFail p l working) := of_problems _

theorem linkTrained (p : Fin 8) (l : Fin 8) (width : Nat) : Statement (.linkTrained p l width) := of_problems _

theorem openResend (p : Fin 8) (l : Fin 8) : Statement (.openResend p l) := of_problems _

theorem heldRepeat (p : Fin 8) : Statement (.heldRepeat p) := of_problems _

theorem syncLost (p : Fin 8) (l : Fin 8) : Statement (.syncLost p l) := of_problems _

theorem closeDeliveryEnd (p : Fin 8) (l : Fin 8) : Statement (.closeDeliveryEnd p l) := of_problems _

theorem closeTimeout (p : Fin 8) (l : Fin 8) : Statement (.closeTimeout p l) := of_problems _

theorem linkCtlEn (p : Fin 8) (l : Fin 8) (v : Word) : Statement (.linkCtlEn p l v) := of_problems _

theorem linkCtlRetrain (p : Fin 8) (l : Fin 8) : Statement (.linkCtlRetrain p l) := of_problems _

theorem linkCtlClose (p : Fin 8) (l : Fin 8) : Statement (.linkCtlClose p l) := of_problems _

theorem linkCtlRetRel (p : Fin 8) (l : Fin 8) : Statement (.linkCtlRetRel p l) := of_problems _

theorem linkCtlOpen (p : Fin 8) (l : Fin 8) : Statement (.linkCtlOpen p l) := of_problems _

theorem capCtlStart (p : Fin 8) (v : Word) : Statement (.capCtlStart p v) := of_problems _

theorem capCtlStop (p : Fin 8) (v : Word) : Statement (.capCtlStop p v) := of_problems _

theorem ckptCtlNow (p : Fin 8) (v : Word) : Statement (.ckptCtlNow p v) := of_problems _

theorem rplCtlGo (p : Fin 8) (v : Word) : Statement (.rplCtlGo p v) := of_problems _

theorem replayLogInject (p : Fin 8) : Statement (.replayLogInject p) := of_problems _

theorem colCtlClr (p : Fin 8) (v : Word) : Statement (.colCtlClr p v) := of_problems _

theorem qsCtlClr (p : Fin 8) (v : Word) : Statement (.qsCtlClr p v) := of_problems _

theorem basinCtlClr (p : Fin 8) (v : Word) : Statement (.basinCtlClr p v) := of_problems _

theorem spadCtlClr (p : Fin 8) : Statement (.spadCtlClr p) := of_problems _

theorem colHopsRead (p : Fin 8) : Statement (.colHopsRead p) := of_problems _

theorem nvsWrRead (p : Fin 8) : Statement (.nvsWrRead p) := of_problems _

theorem rcCounterRead (p : Fin 8) (off : BitVec 28) : Statement (.rcCounterRead p off) := of_problems _

theorem basinRsvWrite (p : Fin 8) (k : Fin 5) (v : Word) : Statement (.basinRsvWrite p k v) := of_problems _

theorem paceCtlWrite (p : Fin 8) (v : Word) : Statement (.paceCtlWrite p v) := of_problems _

theorem jobLoad (p : Fin 8) (seq : Word) (addr : DWord) (len : DWord) (vplain : BitVec 16) (bind : DWord) : Statement (.jobLoad p seq addr len vplain bind) := of_problems _

theorem loadCommit (p : Fin 8) : Statement (.loadCommit p) := of_problems _

theorem jobMode (p : Fin 8) (seq : Word) (code : Byte) : Statement (.jobMode p seq code) := of_problems _

theorem jobHold (p : Fin 8) (seq : Word) : Statement (.jobHold p seq) := of_problems _

theorem jobStep (p : Fin 8) (seq : Word) (n : Word) : Statement (.jobStep p seq n) := of_problems _

theorem jobCheckpoint (p : Fin 8) (seq : Word) : Statement (.jobCheckpoint p seq) := of_problems _

theorem jobReplay (p : Fin 8) (seq : Word) (slot : BitVec 4) (restore : Bool) (stop : BitVec 48) : Statement (.jobReplay p seq slot restore stop) := of_problems _

theorem jobReset (p : Fin 8) (seq : Word) : Statement (.jobReset p seq) := of_problems _

theorem jobLinkOpen (p : Fin 8) (seq : Word) (link : Byte) : Statement (.jobLinkOpen p seq link) := of_problems _

theorem jobLinkClose (p : Fin 8) (seq : Word) (link : Byte) : Statement (.jobLinkClose p seq link) := of_problems _

theorem jobLinkRetrain (p : Fin 8) (seq : Word) (link : Byte) : Statement (.jobLinkRetrain p seq link) := of_problems _

theorem jobLinkRetRel (p : Fin 8) (seq : Word) (link : Byte) : Statement (.jobLinkRetRel p seq link) := of_problems _

theorem epochSwitch (p : Fin 8) (seq : Word) (target : BitVec 48) (addr : DWord) (len : Word) : Statement (.epochSwitch p seq target addr len) := of_problems _

theorem regWrite (p : Fin 8) (seq : Word) (pairs : List (Word × Word)) : Statement (.regWrite p seq pairs) := of_problems _

theorem xactAdvance (p : Fin 8) (seq : Word) (cycle : BitVec 48) : Statement (.xactAdvance p seq cycle) := of_problems _

theorem xactWrite (p : Fin 8) (seq : Word) (cycle : BitVec 48) (haddr : DWord) (woff : Word) (len : Word) : Statement (.xactWrite p seq cycle haddr woff len) := of_problems _

theorem xactRead (p : Fin 8) (seq : Word) (cycle : BitVec 48) (haddr : DWord) (woff : Word) (len : Word) : Statement (.xactRead p seq cycle haddr woff len) := of_problems _

theorem xactTransferDone (p : Fin 8) : Statement (.xactTransferDone p) := of_problems _

theorem bulkCopy (p : Fin 8) (seq : Word) (src : DWord) (dst : DWord) (len : Word) : Statement (.bulkCopy p seq src dst len) := of_problems _

theorem bulkFill (p : Fin 8) (seq : Word) (dst : DWord) (len : Word) (pattern : DWord) : Statement (.bulkFill p seq dst len pattern) := of_problems _

theorem bulkCompare (p : Fin 8) (seq : Word) (src : DWord) (dst : DWord) (len : Word) : Statement (.bulkCompare p seq src dst len) := of_problems _

theorem ringDb (p : Fin 8) (r : Fin 4) (v : Word) : Statement (.ringDb p r v) := of_problems _

theorem descriptorAccept (p : Fin 8) (r : Fin 4) : Statement (.descriptorAccept p r) := of_problems _

theorem ringAbort (p : Fin 8) (q : Word) : Statement (.ringAbort p q) := of_problems _

theorem fwStart (p : Fin 8) (v : Word) : Statement (.fwStart p v) := of_problems _

theorem fwPost (p : Fin 8) (v : Word) : Statement (.fwPost p v) := of_problems _

theorem ringInit (p : Fin 8) (r : Fin 4) (v : Word) : Statement (.ringInit p r v) := of_problems _

theorem ringCfgWrite (p : Fin 8) (r : Fin 4) (v : Word) : Statement (.ringCfgWrite p r v) := of_problems _

theorem cqCseqWrite (p : Fin 8) (v : Word) : Statement (.cqCseqWrite p v) := of_problems _

theorem completionRecordWrite (p : Fin 8) : Statement (.completionRecordWrite p) := of_problems _

theorem statusBlockWrite (p : Fin 8) : Statement (.statusBlockWrite p) := of_problems _

theorem descriptorReread (p : Fin 8) (r : Fin 4) : Statement (.descriptorReread p r) := of_problems _

theorem functionLevelReset (p : Fin 8) : Statement (.functionLevelReset p) := of_problems _

theorem mbGo (p : Fin 8) (m : Fin 4) (who : Agent) (v : Word) : Statement (.mbGo p m who v) := of_problems _

theorem mbAck (p : Fin 8) (m : Fin 4) (v : Word) : Statement (.mbAck p m v) := of_problems _

theorem mbLockRead (p : Fin 8) (m : Fin 4) (who : Agent) : Statement (.mbLockRead p m who) := of_problems _

theorem mbLockRelease (p : Fin 8) (m : Fin 4) (who : Agent) : Statement (.mbLockRelease p m who) := of_problems _

theorem dbSet (p : Fin 8) (v : Word) : Statement (.dbSet p v) := of_problems _

theorem dbStatClear (p : Fin 8) (v : Word) : Statement (.dbStatClear p v) := of_problems _

theorem dbMaskWrite (p : Fin 8) (host : Bool) (v : Word) : Statement (.dbMaskWrite p host v) := of_problems _

theorem managerInstruction (p : Fin 8) (lockstep : BitVec 2) : Statement (.managerInstruction p lockstep) := of_problems _

theorem longResult (p : Fin 8) : Statement (.longResult p) := of_problems _

theorem loadDataReturn (p : Fin 8) : Statement (.loadDataReturn p) := of_problems _

theorem managerStoreAccept (p : Fin 8) : Statement (.managerStoreAccept p) := of_problems _

theorem blockOpDone (p : Fin 8) : Statement (.blockOpDone p) := of_problems _

theorem lockstepSelfTest (p : Fin 8) (detected : Bool) (realMismatch : Bool) : Statement (.lockstepSelfTest p detected realMismatch) := of_problems _

theorem progressWarn (p : Fin 8) : Statement (.progressWarn p) := of_problems _

theorem progressTimeout (p : Fin 8) : Statement (.progressTimeout p) := of_problems _

theorem chCtlGo (p : Fin 8) (c : Fin 16) (v : Word) : Statement (.chCtlGo p c v) := of_problems _

theorem chCtlCancel (p : Fin 8) (c : Fin 16) (v : Word) : Statement (.chCtlCancel p c v) := of_problems _

theorem dmaStartEvent (p : Fin 8) : Statement (.dmaStartEvent p) := of_problems _

theorem dmaDescriptorFetch (p : Fin 8) (c : Fin 16) : Statement (.dmaDescriptorFetch p c) := of_problems _

theorem dmaDescriptorComplete (p : Fin 8) (c : Fin 16) : Statement (.dmaDescriptorComplete p c) := of_problems _

theorem timerFire (p : Fin 8) (n : Fin 8) : Statement (.timerFire p n) := of_problems _

theorem timerPeriodWrite (p : Fin 8) (n : Fin 8) (v : Word) : Statement (.timerPeriodWrite p n v) := of_problems _

theorem chCfgWrite (p : Fin 8) (c : Fin 16) (v : Word) : Statement (.chCfgWrite p c v) := of_problems _

theorem busAccessServed (p : Fin 8) (waiting : List BusReq) : Statement (.busAccessServed p waiting) := of_problems _

theorem hostBar0Access (p : Fin 9) (off : BitVec 28) (size : Nat) (write : Bool) (data : List Byte) : Statement (.hostBar0Access p off size write data) := of_problems _

theorem bmCtlRecovery (p : Fin 8) (who : Agent) (v : Word) : Statement (.bmCtlRecovery p who v) := of_problems _

theorem spadCeWriteback (p : Fin 8) : Statement (.spadCeWriteback p) := of_problems _

theorem nvsLineWriteDone (p : Fin 8) : Statement (.nvsLineWriteDone p) := of_problems _

theorem secureWipeDone (p : Fin 8) : Statement (.secureWipeDone p) := of_problems _

theorem pioBr (p : Fin 8) (e : Fin 4) (pads : BitVec 48) : Statement (.pioBr p e pads) := of_problems _

theorem pioDrv (p : Fin 8) (e : Fin 4) : Statement (.pioDrv p e) := of_problems _

theorem pioXfer (p : Fin 8) (e : Fin 4) (pads : BitVec 48) : Statement (.pioXfer p e pads) := of_problems _

theorem pioLdsh (p : Fin 8) (e : Fin 4) : Statement (.pioLdsh p e) := of_problems _

theorem pioStsh (p : Fin 8) (e : Fin 4) : Statement (.pioStsh p e) := of_problems _

theorem pioCtr (p : Fin 8) (e : Fin 4) : Statement (.pioCtr p e) := of_problems _

theorem pioAwait (p : Fin 8) (e : Fin 4) (pads : BitVec 48) : Statement (.pioAwait p e pads) := of_problems _

theorem pioSigEvt (p : Fin 8) (e : Fin 4) : Statement (.pioSigEvt p e) := of_problems _

theorem pioSigPace (p : Fin 8) (e : Fin 4) : Statement (.pioSigPace p e) := of_problems _

theorem pioSigDma (p : Fin 8) (e : Fin 4) : Statement (.pioSigDma p e) := of_problems _

theorem pioSigHalt (p : Fin 8) (e : Fin 4) : Statement (.pioSigHalt p e) := of_problems _

theorem pioSigDelay (p : Fin 8) (e : Fin 4) : Statement (.pioSigDelay p e) := of_problems _

theorem pioReservedInstr (p : Fin 8) (e : Fin 4) : Statement (.pioReservedInstr p e) := of_problems _

theorem pioTxWrite (p : Fin 8) (e : Fin 4) (who : Agent) (v : Word) : Statement (.pioTxWrite p e who v) := of_problems _

theorem pioRxRead (p : Fin 8) (e : Fin 4) (who : Agent) : Statement (.pioRxRead p e who) := of_problems _

theorem pioStart (p : Fin 8) (v : Word) : Statement (.pioStart p v) := of_problems _

theorem pioStop (p : Fin 8) (v : Word) : Statement (.pioStop p v) := of_problems _

theorem pioBankWrite (p : Fin 8) (v : Word) : Statement (.pioBankWrite p v) := of_problems _

theorem pioCfgWrite (p : Fin 8) (e : Fin 4) (k : Fin 33) (v : Word) : Statement (.pioCfgWrite p e k v) := of_problems _

theorem grantInterval : Statement (.grantInterval) := of_problems _

theorem powerMeasure (p : Fin 8) (qw : Word) : Statement (.powerMeasure p qw) := of_problems _

theorem throttleEnd (p : Fin 8) (cause : Fin 4) : Statement (.throttleEnd p cause) := of_problems _

theorem vinSample (mv : Nat) (iinMa : Nat) : Statement (.vinSample mv iinMa) := of_problems _

theorem supplyReset : Statement (.supplyReset) := of_problems _

theorem supplyResetRelease : Statement (.supplyResetRelease) := of_problems _

theorem railFault (p : Fin 9) : Statement (.railFault p) := of_problems _

theorem thermalSample (temps : List Nat) : Statement (.thermalSample temps) := of_problems _

theorem tamperDetect (sensor : Fin 5) : Statement (.tamperDetect sensor) := of_problems _

theorem arbHostWrite (v : Word) : Statement (.arbHostWrite v) := of_problems _

theorem baseReservationGrant (p : Fin 8) : Statement (.baseReservationGrant p) := of_problems _

theorem domainSwitchDone (p : Fin 8) (dom : Fin 10) : Statement (.domainSwitchDone p dom) := of_problems _

theorem coldStart : Statement (.coldStart) := of_problems _

theorem rstNAssert : Statement (.rstNAssert) := of_problems _

theorem devRstWarm : Statement (.devRstWarm) := of_problems _

theorem pcieHotReset : Statement (.pcieHotReset) := of_problems _

theorem plainCtlWake (p : Fin 8) (who : Agent) : Statement (.plainCtlWake p who) := of_problems _

theorem plainCtlReset (p : Fin 8) (who : Agent) : Statement (.plainCtlReset p who) := of_problems _

theorem plainCtlMgrReset (p : Fin 8) (who : Agent) : Statement (.plainCtlMgrReset p who) := of_problems _

theorem plainCtlColReset (p : Fin 8) (who : Agent) (col : Nat) : Statement (.plainCtlColReset p who col) := of_problems _

theorem plainCtlReady (p : Fin 8) (who : Agent) : Statement (.plainCtlReady p who) := of_problems _

theorem plainCtlFaultAck (p : Fin 8) (who : Agent) : Statement (.plainCtlFaultAck p who) := of_problems _

theorem rejoinGo (p : Fin 8) (v : Word) : Statement (.rejoinGo p v) := of_problems _

theorem bootRomInstall (p : Fin 8) : Statement (.bootRomInstall p) := of_problems _

theorem fltCtlClose (p : Fin 8) (who : Agent) : Statement (.fltCtlClose p who) := of_problems _

theorem fltCtlClr (p : Fin 8) : Statement (.fltCtlClr p) := of_problems _

theorem tapReset : Statement .tapReset := of_problems _

theorem tapIdcode : Statement (.tapIdcode) := of_problems _

theorem tapSamplePreload : Statement .tapSamplePreload := of_problems _

theorem tapExtest : Statement .tapExtest := of_problems _

theorem tapClamp : Statement (.tapClamp) := of_problems _

theorem tapHighz : Statement (.tapHighz) := of_problems _

theorem tapBypass : Statement (.tapBypass) := of_problems _

theorem tapAuth (token : BitVec 1664) : Statement (.tapAuth token) := of_problems _

theorem authVerifyDone : Statement (.authVerifyDone) := of_problems _

theorem authLockoutEnd : Statement (.authLockoutEnd) := of_problems _

theorem testctlRead (p : Fin 8) (addr : BitVec 40) (sizeCode : BitVec 2) : Statement (.testctlRead p addr sizeCode) := of_problems _

theorem testctlWrite (p : Fin 8) (addr : BitVec 40) (sizeCode : BitVec 2) (data : DWord) : Statement (.testctlWrite p addr sizeCode data) := of_problems _

theorem testctlPoll : Statement (.testctlPoll) := of_problems _

theorem bistGo (v : Word) : Statement (.bistGo v) := of_problems _

theorem bistDone (results : List Word) : Statement (.bistDone results) := of_problems _

theorem devRstTestWrite (v : Word) : Statement (.devRstTestWrite v) := of_problems _

theorem obsWrite (p : Fin 9) (who : Agent) (off : BitVec 28) (v : Word) : Statement (.obsWrite p who off v) := of_problems _

theorem i2cWrite (off : BitVec 24) (v : Word) : Statement (.i2cWrite off v) := of_problems _

theorem i2cRead (off : BitVec 24) : Statement (.i2cRead off) := of_problems _

theorem registerWrite (p : Fin 9) (who : Agent) (off : BitVec 28) (v : Word) : Statement (.registerWrite p who off v) := of_problems _

theorem frameCheckFail (p : Fin 8) (l : Fin 8) : Statement (.frameCheckFail p l) := of_problems _

end Sys2Proof.Laws.Named
end

