-- ==== Sys2Proof/Tests/Slice0.lean ====
section
/-! SUPPORT. Tests: what the checks of WellFormed refuse; for every statement with hypotheses a state that meets them, clause
by clause, with a field of the result that the spec's rule gives; and worked examples of the spec. Each is one command on a
small state. -/

set_option Elab.async false

namespace Sys2Proof.Tests

open Sys2Proof Sys2Proof.Machine

/-- The state after reset with Plain 0 changed by `f`. -/
def on (f : Plain → Plain) : State := modPlain State.reset 0 f

/-- The state after reset with Plain 0 in mode `m` and changed by `f`. -/
def at0 (m : Mode) (f : Plain → Plain) : State := on fun P => f (setMode P m)

/-- The same state at another time. -/
def atTime (n : Nat) (s : State) : State := { s with timeNs := n }

/-- The state after a command. -/
def after (c : Instr) (s : State) : State :=
  match exec c s with
  | .next t => t
  | _ => s

/-- Plain 0 after a command. -/
def pl (c : Instr) (s : State) : Plain := (after c s).plains[(0 : Fin 8)]

/-- Plain 0 with tile 0 changed. -/
def tile0 (f : Tile → Tile) (P : Plain) : Plain := modTile P 0 f

/-- Plain 0 with link 0 changed. -/
def link0 (f : Link → Link) (P : Plain) : Plain := modLink P 0 f

/-- A step word of slots 0, 1, …, the rest empty (03 R49, R64), with control field `ctl`. -/
def sw (slots : List Nat) (ctl : Nat) : StepWord :=
  BitVec.ofNat 4096 (((List.range 24).map fun i => slots.getD i 0x100000 * 2 ^ (24 * i)).sum + ctl * 2 ^ 3904)

/-! ## Well-formedness and decoding -/

theorem test_wf_registerOffset : (Instr.rcCounterRead 0 2).problems = [.registerOffset] := by decide +kernel
theorem test_wf_accessSize : (Instr.hostBar0Access 0 0 3 false []).problems = [.accessSize] := by decide +kernel
theorem test_wf_dataLength : (Instr.hostBar0Access 0 0 4 true [1]).problems = [.dataLength] := by decide +kernel
theorem test_wf_lanes : (Instr.laneFail 0 0 5).problems = [.lanes] ∧ (Instr.laneFail 0 6 5).problems = [] := by decide +kernel
theorem test_wf_readings : (Instr.thermalSample [20]).problems = [.readings] := by decide +kernel
theorem test_wf_results : (Instr.bistDone []).problems = [.results] := by decide +kernel
theorem test_wf_column : (Instr.plainCtlColReset 0 .hostFn 16).problems = [.column] := by decide +kernel
theorem test_wf_codeword : (Instr.ackRx 0 0 ⟨⟨0, 0, 129⟩, 0⟩).problems = [.codeword] ∧ (Instr.ackRx 0 0 ⟨⟨0, 0, 128⟩, 0⟩).problems = [] := by decide +kernel
theorem test_wf_basinWord : (Instr.patrolScrub 0 0xC0000000).problems = [.basinWord] ∧ (Instr.patrolScrub 0 0xBFFFFFFF).problems = [] := by decide +kernel

/-- No row of the table gives bits, so no word spells a command. -/
theorem test_no_word_spells_a_command : decodeTableWord 32 0 = none := by decide +kernel

/-! ## Design cycles -/

/-- A Plain that steps in `m` through a cycle of two steps, whose tiles hold the step words `w` and an empty last one. -/
def stepping (m : Mode) (w : StepWord) (f : Plain → Plain) : State :=
  let tiles : Vector Tile 64 := Vector.replicate 64 { store := [(0, w), (1, sw [] 0x40800000)] }
  at0 m fun P => f { P with tiles := tiles, run := { P.run with phase := .stepping, admitted := true }, ldr := { P.ldr with len := 2 } }

theorem test_stepRelease_steps : let s := stepping .run (sw [] 0) id
    canStep s.plains[0] = true ∧ replayReady s.plains[0] = true ∧ badTile s.plains[0] = none ∧ allWaitsMet s.plains[0] = true ∧
    (executeTiles (flagCorrections s.plains[0])).toList.any heldPush = false ∧ (pl (.stepRelease 0 0) s).run.step = 1 := by decide +kernel

/-! ## Worked examples of the spec -/

/-- 02, the multiplexer: exact-X, pessimistic and two-state. -/
theorem test_lut_multiplexer :
    lutEval .exactX (fun _ => 0xCACA) 0xD1 0x45 0x1A 0 = 0x89 ∧ lutEval .pessimistic (fun _ => 0xCACA) 0xD1 0x45 0x1A 0 = 0x8A ∧
    lutEval .twoState (fun _ => 0xCACA) 0xD1 0x45 0x1A 0 = 0x41 := by decide +kernel

/-- 04, a bus of three drivers. -/
theorem test_bus_of_three_drivers : bwEval 0x179 0xFC 0x7F = 0x7C ∧ bwEval 0x17B 0x7C 0xDF = 0x54 := by decide +kernel

/-- 02 and 04, sums and differences with X, and a comparison decided above the X. -/
theorem test_arithmetic_with_x : arEval 0x192 0x85 laneX 1 = (0xAAAAAA90, 2) ∧ arEval 0x194 0x840 laneX 5 = (0xAAAAA811, 2) ∧
    arEval 0x197 0x840 laneX 0x4000 = (1, 0) := by decide +kernel

/-- 04, gd3 set and gd5 cleared by K1 = 0x0440_0040 alone. -/
theorem test_guard_write : guardWrite 0x04400040 3 2 = 1 ∧ guardWrite 0x04400040 5 2 = 0 ∧ guardWrite 0x04400040 4 2 = 2 := by decide +kernel

/-- 03, steps 0 and 2 of the fragment on one tile: L0.R becomes 0x9; nf24 and far-store word 0x40 take L1.R = 0x99. -/
theorem test_fragment_of_two_buses :
    look laneX (tileStep 0 0 3 0 false (sw [0x002100, 0x002503] 0 ||| BitVec.ofNat 4096 (0xAA00AA00AA00AA00 * (2 ^ 256 - 1) / (2 ^ 64 - 1) * 2 ^ 576))
      { nf := [(8, 0x25), (9, 0x49)] }).ports 0x106 = 9 ∧
    (let T := tileStep 0 2 3 2 false (sw [0x043818, 0x07E1A0, 0x0439A2] 0x40800000 ||| BitVec.ofNat 4096 (0x1000 * 2 ^ 3776)) { ports := [(0x10E, 0x99)] }
     look laneX T.nf 24 = 0x99 ∧ look laneX T.fs 0x40 = 0x99 ∧ T.stat = 0) := by decide +kernel

/-- 05, the route: T(2, 2) sends the word in IN_W east, and it is latched into IN_W of T(2, 3). -/
theorem test_route_east : (latchTile (Vector.replicate 64 { inW := 0xE4 }) (fun _ => sw [] 0x20) (fun _ => none) 19 {}).inW = 0xE4 := by decide +kernel

/-- 07, regions 4 and 9 of one PRIO: the lower index wins, and BASIN_OVL says so. -/
theorem test_overlapping_regions : let P := pl (.mmRequestComplete 0 0) (at0 .run fun P =>
      { P with basin := { P.basin with recv := [(0, { write := false, rg := 0x41, ah := 1, al := 0x04051011, data := 0 })], rgn := [(4, BitVec.ofNat 128 (0x10048 + 2 ^ 32 + 2 ^ 64 + 2 * 2 ^ 66 + 2 * 2 ^ 68)),
                                               (9, BitVec.ofNat 128 (0x10000 + 0x400 * 2 ^ 32 + 2 ^ 64 + 2 * 2 ^ 68))] } })
    P.tiles[(0 : Fin 64)].q1 = [0x55555555] ∧ P.basin.ovl = 0x80000904 := by decide +kernel

/-- 08, the CYCLE frame on link 2: header and payload bytes. -/
theorem test_cycle_frame :
    let f := { mkFrame 2 6 0xD (cyclePayload 0x186A0 8 0xD0884F9A03C7215E 0x186A5) with seq := 0x7FE }
    frameHeader f = 0x1B9FF802 ∧ payWord f 2 = 0x215E0000 ∧ payWord f 4 = 0x86A5D088 ∧ malformed f = false := by decide +kernel

/-- The check of a frame is CRC-32C: its value for the nine digits is the published check value. -/
theorem test_crc32c : crc32c [0x31, 0x32, 0x33, 0x34, 0x35, 0x36, 0x37, 0x38, 0x39] = 0xE3069283 := by decide +kernel

/-- 13, the record of a descriptor that an abort cancelled. -/
theorem test_cancelled_record : let c : Completion := { seq := 0x103, ring := 0, status := 0x10, abortSeen := true, irq := false, tag := 0, cycle := 0, result := 0 }
    leNat ((recordBytes c 1).take 8) = 0x0003100000000103 := by decide +kernel

/-- 15, the hung load: the access finds no target, and the registers say which. -/
theorem test_hung_load : let P := (busAccess (at0 .hold id) 0 1 2 false 0xE80000 8 []).1.plains[(0 : Fin 8)]
    P.bus.unmapLo = 0x00E80000 ∧ P.bus.unmapHi = 0x80000100 ∧ P.bus.hung = [1] := by decide +kernel

/-- 17, the division of a headroom of 0x40 among requests of 0x38, 0x10 and 0x28. -/
theorem test_grants : divide (fun p => if p = 1 then 0x38 else if p = 4 then 0x10 else 0x28) 9 0x40 [1, 4, 6] [] = [(1, 0x18), (4, 0x10), (6, 0x18)] := by decide +kernel

/-- 17, the input power budget at 10.91 V (the example says 3,613 units, in hexadecimal a number that is not 3,613) and at 10.50 V. -/
theorem test_budget : budgetAt 0xE60 10910 = 3613 ∧ budgetAt 0xE60 10500 = 0xD95 ∧ budgetAt 0xE60 12000 = 0xE60 := by decide +kernel

/-- 22, GRADE of a module whose fuses disable PL3 and PL6. -/
theorem test_grade : readPf0 { State.reset with fuses := { plainsEn := 0xB7 } } 0x4 = 0x01A100B7 := by decide +kernel

/-! ### The Manager -/

/-- Plain 0 in HOLD whose Manager runs at machine level with every segment open and fetches the instruction `w` at offset 0. -/
def mgr0 (w : Nat) (f : Manager → Manager) : State :=
  at0 .hold fun P => { P with mgr := f { P.mgr with
    running := true, csr := [(0x141, 0xF00000FFFFFFFFFF), (0x143, 0xF00000FFFFFFFFFF), (0x145, 0xF00000FFFFFFFFFF)]
    fetch := [(0, leBytes 64 w)] } }

/-- The Manager of Plain 0 after one instruction. -/
def ran (s : State) : Manager := (pl (.managerInstruction 0 0) s).mgr

/-- 11, instruction A of the multiply. -/
theorem test_multiply : let M := ran (mgr0 0x0000000000000050C2100A0C100040C0 fun M => { M with g := [(4, 0x10003), (5, 0x100), (6, 0x25)] })
    M.long = [{ unit := 0, reg := 10, value := 0x01000300, due := 4 }] ∧ M.board = [(10, true)] ∧ M.pc = 16 := by decide +kernel

/-- 11, a CALL in mode 1 with EXT = 5 and SSP = 0x7F00: the first and last of its stores, and SSP. -/
theorem test_call_saves_groups : let M := ran (mgr0 (0x40 * 2 ^ 12 + 0xF1 + 2 ^ 24 - 0x40 * 2 ^ 12 + 5 * 2 ^ 112) fun M => { M with callMode := true, ssp := [(2, 0x7F00)], g := [(11, 7)] })
    M.mem.map (·.addr) = [0x7EB0, 0x7EB8, 0x7EC0, 0x7EC8, 0x7ED0, 0x7ED8, 0x7EE0, 0x7EE8, 0x7EF0, 0x7EF8] ∧
    M.mem.map (·.data) = [5, 16, 0, 0, 0, 0, 0, 0, 0, 7] ∧ M.ssp = [(2, 0x7EB0)] := by decide +kernel

/-- LS.LD64 of the slot 1 offset in g1 into g5. -/
def load64 : Nat := 0x10D0 + (2 ^ 24 + 0x10D1) * 2 ^ 28 + (2 ^ 24 + 0x50D2) * 2 ^ 56 + 0xD6 * 2 ^ 84

/-- 12, the escalation: SEG_LIMIT is taken at level 1. -/
theorem test_seg_limit_delegated : let M := ran (mgr0 load64 fun M => { M with
      lvl := 0, pc := 0x4A30, g := [(1, 0x10000)], fetch := [(0x128, leBytes 48 0 ++ leBytes 16 load64)]
      csr := [(0x101, 0xF00000FFFFFFFFFF), (0x103, 0xF00000000000FFF8), (0x210, 0x1000), (0x230, 8)] })
    M.lvl = 1 ∧ M.pc = 0x1000 ∧ look 0 M.csr 0x211 = 0x4A30 ∧ look 0 M.csr 0x212 = 3 ∧ look 0 M.csr 0x213 = 0x10000 ∧
    look 0 M.csr 0x214 = 0 ∧ look 0 M.csr 0x234 = 1 := by decide +kernel

/-- 12, the escalation: SEG_INVALID in the handler's first instruction is a double fault. -/
theorem test_double_fault : let M := ran (mgr0 load64 fun M => { M with
      lvl := 1, entered := 1, pc := 0x1000, fetch := [(0x40, leBytes 64 load64)]
      csr := [(0x121, 0xF00000FFFFFFFFFF), (0x212, 3), (0x231, 0x200), (0x234, 1)] })
    M.lvl = 2 ∧ M.pc = 0x200 ∧ look 0 M.csr 0x232 = 0x0203 ∧ look 0 M.csr 0x233 = 0x1000 ∧ look 0 M.csr 0x234 = 0x102 ∧
    escWord M = 0x02030102 := by decide +kernel

/-! ### PIO: the JTAG program of 16, one instruction at a time -/

/-- PE0 of Plain 0 running the instruction `w` at PC 0. -/
def pio0 (w : BitVec 16) (f : PioEngine → PioEngine) : State :=
  at0 .run fun P => modEng { P with pio := { P.pio with bank := 2 } } 0 fun E => f { E with running := true, imem := [(0, w)], base := 8 }

/-- PE0 after a command. -/
def eng (c : Instr) (s : State) : PioEngine := (pl c s).pio.eng[(0 : Fin 4)]

theorem test_pio_drv : (eng (.pioDrv 0 0) (pio0 0x0742 id)).oen = 7 ∧ (eng (.pioDrv 0 0) (pio0 0x0112 fun E => { E with levels := 2 })).levels = 3 ∧
    (eng (.pioDrv 0 0) (pio0 0x0122 fun E => { E with levels := 3 })).levels = 2 := by decide +kernel

theorem test_pio_ldsh : let E := eng (.pioLdsh 0 0) (pio0 0xFC04 fun E => { E with tx := [0x12345678] })
    E.sh = 0x12345678 ∧ E.ocnt = 32 ∧ E.icnt = 0 ∧ E.tx = [] ∧ (eng (.pioLdsh 0 0) (pio0 0xFC04 id)).blocked = true := by decide +kernel

theorem test_pio_ctr : (eng (.pioCtr 0 0) (pio0 0x0406 id)).ca = 32 ∧ (eng (.pioCtr 0 0) (pio0 0x2006 fun E => { E with tx := [0x12710] })).ca = 0x2710 ∧
    (eng (.pioCtr 0 0) (pio0 0xE006 fun E => { E with cb := 0xFFFF })).cb = 0xFFFF := by decide +kernel

theorem test_pio_xfer : let E := eng (.pioXfer 0 0 (BitVec.ofNat 48 (2 ^ 11))) (pio0 0x4F03 fun E => { E with sh := 1, ocnt := 1 })
    E.levels = 4 ∧ E.sh = 0x80000000 ∧ E.ocnt = 0 ∧ E.icnt = 1 := by decide +kernel

theorem test_pio_loop : (eng (.pioBr 0 0 0) (pio0 0x1E01 fun E => { E with ca := 2 })).pc = 3 ∧ (eng (.pioBr 0 0 0) (pio0 0x1E01 fun E => { E with ca := 1 })).pc = 1 := by decide +kernel

theorem test_pio_stsh : (eng (.pioStsh 0 0) (pio0 0x2005 fun E => { E with sh := 0x2468ACF0, icnt := 32 })).rx = [0x2468ACF0] ∧
    (eng (.pioStsh 0 0) (pio0 0xA005 fun E => { E with cb := 0x602 })).rx = [0x602] := by decide +kernel

theorem test_pio_signals : (pl (.pioSigEvt 0 0) (pio0 0x0108 id)).mgr.evq = [0x0000000100000150] ∧ (eng (.pioSigHalt 0 0) (pio0 0x0068 id)).running = false ∧
    (eng (.pioReservedInstr 0 0) (pio0 0x000F id)).flags = 8 := by decide +kernel


/-- Slot value of a move, with a guard field. -/
def mv (src dst : Nat) (gsel : Nat := 0) : Nat := gsel * 2 ^ 21 + src * 1024 + dst

/-- Tile 0 after step 0 of 5 with the slots. -/
def stepped (slots : List Nat) (T : Tile) : Tile := tileStep 0 0 5 0 true (sw slots 0) T

theorem test_moves_of_a_step :
    (stepped [mv 8 20] { nf := [(8, 0x25)] }).nf = [(8, 0x25), (20, 0x25)] ∧
    (stepped [mv 8 20 3] { nf := [(8, 0x25)], gd := [(3, 0)] }).nf = [(8, 0x25)] ∧
    (let T := stepped [mv 8 20 3] { nf := [(8, 1), (20, 0)], gd := [(3, 2)] }; bit T.stat 3 = true ∧ look laneX T.nf 20 = merge 0 1) ∧
    (let T := stepped [mv 8 20, mv 9 20] { nf := [(8, 1), (9, 2)] }; look laneX T.nf 20 = laneX ∧ bit T.stat 2 = true ∧ T.fault = 0x80400000) := by decide +kernel

theorem test_pops_of_a_step : popQueue 0x1C5 = some 1 ∧ popQueue 0x1D3 = some 3 ∧
    (let T := stepped [mv 0x1D3 20] { q3 := [7, 8] }; look laneX T.nf 20 = 7 ∧ T.q3 = [8]) ∧
    (let T := stepped [mv 0x1D3 20] {}; look laneX T.nf 20 = laneX ∧ bit T.stat 16 = true ∧ bit T.tqFlags 3 = true) := by decide +kernel

theorem test_units_of_a_step : Sparse.wf (fun _ => laneX) [(0x190, (0x25 : Word))] = true ∧
    ((stepped [mv 8 0x192] { nf := [(8, 1)], ports := [(0x190, 0x44), (0x191, 0)] }).inflight.map fun x => (x.port, x.value, x.due, x.slot)) =
      [(0x199, 0x45, 2, 0), (0x19A, 0, 2, 0)] ∧
    look laneX (stepped [mv 8 0x171] { nf := [(8, 1)], ports := [(0x170, 0x45)] }).ports 0x18F = 1 := by decide +kernel

theorem test_stores_and_operands_of_a_step :
    look laneX (stepped [mv 8 0x1A2] { nf := [(8, 1)], ports := [(0x1A0, 4)] }).fs 2 = 1 ∧
    (let T := stepped [mv 8 0x1A2] { nf := [(8, 1)] }; T.fs = [] ∧ bit T.opstat 0 = true) ∧
    ((stepped [mv 8 0x190, mv 9 0x192] { nf := [(8, 0x44), (9, 1)], ports := [(0x191, 0)] }).inflight.map (·.value)) = [0x45, 0] := by decide +kernel

theorem test_edges_read_unknown : neighbour 0 0 = none ∧ neighbour 0 1 = some 1 ∧ allk 0x45 16 = true ∧ unk (pos laneX 0) = true := by decide +kernel
/-! ## Witnesses: design cycles and capture -/

/-- A memory-model request of element 0 of region 0. -/
def req (write : Bool) : MmReq := { write := write, rg := 0, ah := 0, al := 0, data := 0 }

theorem test_wait_holds_the_step : let s := stepping .run (sw [] 0x10000) id
    canStep s.plains[0] = true ∧ replayReady s.plains[0] = true ∧ badTile s.plains[0] = none ∧ allWaitsMet s.plains[0] = false ∧
    (pl (.stepRelease 0 0) s).stall.since = some 0 := by decide +kernel

theorem test_backPressure_ends : let s := atTime 70 (stepping .run (sw [] 0) fun P => tile0
      (fun T => { T with q0 := List.replicate 15 (req true), held0 := some (req false) })
      { P with run := { P.run with phase := .backPressure }, stall := { P.stall with since := some 30 } })
    s.plains[0].run.phase = .backPressure ∧ s.plains[0].tiles.toList.all heldHasRoom = true ∧
    (let P := pl (.backPressureStallEnd 0) s; P.run.step = 1 ∧ P.tiles[(0 : Fin 64)].q0.length = 16 ∧ P.stall.acc = 40) := by decide +kernel

theorem test_stallTimeout_abandons : let s := atTime 1001 (stepping .run (sw [] 0) fun P =>
      { P with stall := { P.stall with since := some 0 }, health := { P.health with stallUs := 1 } })
    modeStepping s.plains[0].run.mode = true ∧ s.plains[0].run.phase = .stepping ∧ s.plains[0].health.winOpen = false ∧
    s.plains[0].run.modePend ≠ some .valley ∧
    (pl (.stallTimeout 0) s).health.code = 0x0B ∧ (pl (.stallTimeout 0) (atTime 1000 s)).health.code = 0 := by decide +kernel

/-- The Plain at the end of its cycle, in a phase. -/
def atEnd (ph : Phase) (f : Plain → Plain) : State :=
  stepping .run (sw [] 0) fun P => f { P with run := { P.run with step := 2, phase := ph } }

/-- A value share that has no room for one record more (196,608 bytes), one record of it staged. -/
def fullShare (P : Plain) : Plain :=
  { P with tiles := Vector.replicate 64 { capRecs := List.replicate 383 0, q7 := [{ tag := 1, data := 5 }] },
           cap := { P.cap with staging := [{ bytes := List.replicate 512 0, value := true }] }
           basin := { P.basin with areaSize := [(0, 1)] } }

theorem test_boundary_ends_the_cycle : let s := atEnd .stepping id
    canEnd s.plains[0] = true ∧ restWaits (consumeRest (row1 s.timeNs s.plains[0])) = false ∧ boundaryWaits (consumeRest (row1 s.timeNs s.plains[0])) = false ∧ (pl (.boundarySequence 0) s).run.cycle = 1 := by decide +kernel

theorem test_boundary_waits_for_room : let s := atEnd .stepping fullShare
    canEnd s.plains[0] = true ∧ (pl (.boundarySequence 0) s).run.phase = .row2 := by decide +kernel

theorem test_room_frees_the_boundary : let s := atEnd .row2 id
    s.plains[0].run.phase = .row2 ∧ s.plains[0].cap.outq = [] ∧ (pl (.captureRoomFreed 0) s).run.cycle = 1 := by decide +kernel

theorem test_section_waits_for_room : let s := atEnd .row2 fun P => { P with cap := { P.cap with
      staging := List.replicate 16 { bytes := List.replicate 4096 0, value := false }, outq := [{ bytes := [7], value := false }, { bytes := [8], value := true }] } }
    s.plains[0].cap.outq ≠ [] ∧ (fillStaging s.plains[0].cap.outq s.plains[0].cap).outq ≠ [] ∧
    (pl (.captureRoomFreed 0) s).run.phase = .row2 := by decide +kernel

theorem test_cycleRelease : let s := at0 .bridge fun P => { P with run := { P.run with phase := .row9 }, pio := { P.pio with credit := 1 } }
    canRelease s.timeNs s.plains[0] = true ∧ (pl (.cycleRelease 0) s).run.phase = .stepping ∧ (pl (.cycleRelease 0) s).pio.credit = 0 := by decide +kernel

theorem test_cycleRelease_late : let s := atTime 9 (at0 .run fun P => { P with run := { P.run with phase := .row9, paceRef := some 8 } })
    canRelease s.timeNs s.plains[0] = true ∧ (pl (.cycleRelease 0) s).ldr.lateCnt = 1 := by decide +kernel

theorem test_q7_pop_waits : let s := atEnd .stepping fullShare
    popStops s.plains[0] = true ∧ (pl (.captureQ7Pop 0 0) s).cap.stall = true := by decide +kernel

/-- One entry in q7 of tile 0. -/
def oneEntry (f : Capture → Capture) : State :=
  stepping .run (sw [] 0) fun P => tile0 (fun T => { T with q7 := [{ tag := 1, data := 5 }] }) { P with cap := f { P.cap with started := true } }

theorem test_q7_pop_records : let s := oneEntry id
    popStops s.plains[0] = false ∧ logging s.plains[0] = true ∧ selected s.plains[0].cap 0 { tag := 1, data := 5 } = true ∧
    (pl (.captureQ7Pop 0 0) s).cap.records = 1 ∧ (pl (.captureQ7Pop 0 0) s).tiles[(0 : Fin 64)].capRecs = [0x0000000500000402] := by decide +kernel

theorem test_q7_pop_key_cycle : let s := oneEntry fun C => { C with depth := 0 }
    let u := fun (c : Nat) => modPlain s 0 fun P => modTile { P with run := { P.run with cycle := c } } 0 fun T => { T with capRef := [(1, (1, 4))] }
    (pl (.captureQ7Pop 0 0) (u 256)).tiles[(0 : Fin 64)].capRecs = [0x0000000500000402] ∧ (pl (.captureQ7Pop 0 0) (u 255)).tiles[(0 : Fin 64)].capRecs = [0x0000000100000403] := by decide +kernel

theorem test_q7_pop_lossy : (pl (.captureQ7Pop 0 0) (oneEntry fun C => { C with lossy := true, discarded := 1 })).cap.gapCnt = 1 ∧
    (pl (.captureQ7Pop 0 0) (oneEntry fun C => { C with sel := 0 })).cap.records = 0 := by decide +kernel

theorem test_q7_keeps_an_open_step : let s := stepping .run (sw [] 0) fun P => tile0 (fun T => { T with q7 := [{ tag := 1, data := 5 }], fresh7 := true, held0 := some (req true) }) { P with run := { P.run with phase := .backPressure } }
    q7Pops s.plains[0].run.phase s.plains[0].tiles[(0 : Fin 64)] = false ∧ (pl (.captureQ7Pop 0 0) s).tiles[(0 : Fin 64)].q7.length = 1 := by decide +kernel

/-- One record of a byte in staging, and an area of one block of which `n` bytes are written. -/
def oneStaged (n : Nat) : State :=
  { at0 .hold (fun P => { P with cap := { P.cap with staging := [{ bytes := [7], value := false }], drained := n }, basin := { P.basin with areaSize := [(0, 1)] } }) with
    power := { grant := [(0, 0x28)] } }

theorem test_captureDrain : (pl (.captureDrain 0) (oneStaged 0)).cap.head = 1 ∧ (pl (.captureDrain 0) (oneStaged 4095)).cap.head = 0 ∧
    (pl (.captureDrain 0) (oneStaged 4096)).cap.wrapped = true := by decide +kernel

theorem test_capture_controls : let s := at0 .hold id
    (pl (.capCtlStart 0 0x41) s).cap.pendStart = some true ∧ (pl (.capCtlStart 0 0x41) s).cap.depth = 4 ∧ (pl (.capCtlStop 0 6) s).cap.pendStart = some false ∧
    (pl (.ckptCtlNow 0 0x08001000) s).cap.keep = 8 ∧ (pl (.ckptCtlNow 0 0x80000000) State.reset).cap.due = false := by decide +kernel

/-- A checkpoint that drains into slot 1, with KEEP 2 and `n` checkpoints valid. -/
def draining (spoiled : Bool) (n : Nat) : State :=
  at0 .hold fun P => { P with cap := { P.cap with keep := 2, dir := (List.range n).map fun k => (2 + k, { gen := 0, start := k, epoch := 0 })
                                                  draining := some { slot := 1, header := [], gen := 3, start := 9, epoch := 0, spoiled := spoiled } } }

theorem test_checkpoint_becomes_valid : let s := draining false 1
    s.plains[0].cap.dir.length < max 1 s.plains[0].cap.keep.toNat ∧ (pl (.checkpointDrainDone 0) s).cap.dir.map (·.1) = [1, 2] := by decide +kernel

theorem test_spoiled_checkpoint : let s := draining true 2
    s.plains[0].cap.dir.length ≤ max 1 s.plains[0].cap.keep.toNat ∧ (pl (.checkpointDrainDone 0) s).cap.dir.map (·.1) = [2, 3] := by decide +kernel

/-! ## Witnesses: the Basin -/

/-- Plain 0 with a region 0 of one block at offset 0, two-state or four-state, all of it stored, and requests of tile 0 with the
controller. -/
def region (two : Bool) (rs : List MmReq) (f : Tile → Tile) : State :=
  at0 .run fun P => tile0 f { P with basin := { P.basin with
    recv := rs.map fun r => (0, r), rgn := [(0, BitVec.ofNat 128 (2 ^ 32 + 2 ^ 64 + b2n two * 2 ^ 65 + 2 ^ 66))], data := [(0, 0x55), (1, 0x01), (2, 0), (3, 0)], tags := [(0, true)] } }

theorem test_read_request_waits_for_credit : let s := region false [] fun T => { T with q0 := [req false], credits := 0 }
    (pl (.mmRequestTake 0 0) s).tiles[(0 : Fin 64)].q0.length = 1 ∧
    (pl (.mmRequestTake 0 0) (region false [] fun T => { T with q0 := [req false], credits := 1 })).tiles[(0 : Fin 64)].credits = 0 ∧
    (pl (.mmRequestTake 0 0) (region false [] fun T => { T with q0 := [req true], credits := 0 })).basin.recv.length = 1 := by decide +kernel

theorem test_request_out_of_range : let s := region false [{ req false with al := 0x100000 }] id
    mmElement s.plains[0].basin { req false with al := 0x100000 } = .inl 2 ∧
    (mmElement s.plains[0].basin { req false with al := 0x055555 }).isRight = true ∧
    (pl (.mmRequestComplete 0 0) s).tiles[(0 : Fin 64)].q1 = [laneX] := by decide +kernel

theorem test_read_four_state : let s := region false [req false] id
    mmElement s.plains[0].basin (req false) = .inr (look 0 s.plains[0].basin.rgn 0, 0) ∧ ueWords s.plains[0].basin 0 4 = [] ∧
    (pl (.mmRequestComplete 0 0) s).tiles[(0 : Fin 64)].q1 = [0x155] := by decide +kernel

theorem test_read_two_state : (pl (.mmRequestComplete 0 0) (region true [req false] id)).tiles[(0 : Fin 64)].q1 = [0x00011111] := by decide +kernel

/-- The request of tile 1, received first, takes effect before that of tile 0, and stays undelivered. -/
theorem test_order_of_receipt : let s := region false [req false] fun T => T
    let u := modPlain s 0 fun P => { P with basin := { P.basin with recv := (1, req false) :: P.basin.recv } }
    u.plains[0].tiles[(0 : Fin 64)].served = [] ∧ (pl (.mmRequestComplete 0 0) u).tiles[(0 : Fin 64)].q1 = [0x155] ∧
    (pl (.mmRequestComplete 0 0) u).tiles[(1 : Fin 64)].served = [some 0x155] ∧ (pl (.mmRequestComplete 0 0) u).basin.recv = [] := by decide +kernel

theorem test_delivery : (pl (.mmRequestComplete 0 0) (region false [] fun T => { T with served := [some 5] })).tiles[(0 : Fin 64)].q1 = [5] ∧
    (pl (.mmRequestComplete 0 0) (region false [] id)).tiles[(0 : Fin 64)].q1 = [] := by decide +kernel

theorem test_write_premises : let s := at0 .run fun P => { P with basin := { P.basin with recv := [(0, req true)], rgn := [(0, BitVec.ofNat 128 (2 ^ 32 + 2 ^ 64 + 2 ^ 66))], tags := [(0, true)] } }
    (mmElement s.plains[0].basin (req true)).isRight = true ∧ Memory.wf Config.basinFree s.plains[0].basin.data = true ∧
    Sparse.wf (fun _ => false) s.plains[0].basin.tags = true ∧ s.plains[0].basin.ue = [] := by decide +kernel

/-- Plain 0 with the stored word 2 in error. -/
def wordError (ue : Bool) : State :=
  at0 .hold fun P => { P with basin := { P.basin with tags := [(0, true)], rgn := [(0, BitVec.ofNat 128 (2 ^ 32 + 2 ^ 64 + 2 ^ 66))],
                                                      ue := if ue then [(2, true)] else [], ce := [(2, true)] } }

theorem test_patrol_scrub : storedAt (wordError true).plains[0].basin 16 = true ∧ (wordError true).plains[0].basin.scrubEn = true ∧
    (pl (.patrolScrub 0 2) (wordError false)).basin.ceCnt = 1 ∧ (pl (.patrolScrub 0 2) (wordError true)).basin.ueCnt = 1 ∧
    storedAt (wordError true).plains[0].basin 512 = false ∧ (pl (.patrolScrub 0 64) (wordError true)).basin.ueCnt = 0 := by decide +kernel

theorem test_basin_controls : let s := at0 .load id
    (pl (.basinTempSample 0 86) s).basin.refresh = 1 ∧ (pl (.basinTempSample 0 85) s).basin.refresh = 0 ∧
    ((pl (.basinTempSample 0 106) s).basin.stat.getLsbD 5) = true ∧ (pl (.basinCtlClr 0 2) s).basin.scrubEn = false ∧
    (pl (.basinRsvWrite 0 0 960) s).basin.rsv = [(0, 960)] ∧ ((pl (.basinRsvWrite 0 0 961) s).basin.stat.getLsbD 4) = true ∧
    (pl (.basinRsvWrite 0 0 960) (at0 .hold id)).basin.rsv = [] ∧ (pl (.basinRsvWrite 0 4 7) (at0 .hold id)).basin.rsv = [(4, 7)] := by decide +kernel


/-- Rows 3 to 9 with an ACTIVE link: the CYCLE frame of the next cycle, and a hold command. -/
theorem test_boundary_rows : let s := atEnd .stepping (link0 fun L => { L with state := .active })
    let u := modPlain s 0 fun P => { P with run := { P.run with holdCmd := true } }
    capSize s.plains[0] = 0 ∧ (s.plains[0].tiles.toList.all fun T => T.q7.isEmpty && T.q0.isEmpty && T.held0.isNone) = true ∧
    ((pl (.boundarySequence 0) s).links[(0 : Fin 8)].dueCycle.map cycNumber) = [1] ∧ (pl (.boundarySequence 0) s).run.phase = .row9 ∧
    (pl (.boundarySequence 0) u).run.mode = .hold ∧ (pl (.boundarySequence 0) u).run.phase = .stopped := by decide +kernel

/-- A checkpoint that is due is taken into slot 0, or counted as skipped where there is no slot. -/
theorem test_boundary_checkpoint : let s := atEnd .stepping fun P => tile0 (fun T => { T with nf := [(8, 0x25)] }) { P with
      cap := { P.cap with due := true }, basin := { P.basin with areaSize := [(1, 2065)] } }
    ckptOkAll s.plains[0] = true ∧ freeSlot s.plains[0] = some 0 ∧ ((pl (.boundarySequence 0) s).cap.draining.map fun d => (d.slot, d.start)) = some (0, 1) ∧
    look laneX (pl (.boundarySequence 0) s).tiles[(0 : Fin 64)].snapNf 8 = 0x25 ∧
    (pl (.boundarySequence 0) (modPlain s 0 fun P => { P with cap := { P.cap with dir := [(0, { gen := 0, start := 0, epoch := 0 })] } })).cap.skip = 1 ∧
    (pl (.boundarySequence 0) (modPlain s 0 fun P => { P with ldr := { P.ldr with len := 2 }, tiles := Vector.replicate 64 { store := [(0, sw [] 0), (1, sw [] 0x800000)] } })).cap.skip = 1 := by decide +kernel

/-- A record that is not discarded leaves its value in the reference table; without reservation and grant nothing drains. -/
theorem test_reference_table : (pl (.captureQ7Pop 0 0) (oneEntry id)).tiles[(0 : Fin 64)].capRef = [(1, (1, 5))] ∧
    (pl (.captureQ7Pop 0 0) (oneEntry fun C => { C with lossy := true, discarded := 1 })).tiles[(0 : Fin 64)].capRef = [] ∧
    granted { oneStaged 0 with power := {} } 0 = false ∧ (pl (.captureDrain 0) { oneStaged 0 with power := {} }).cap.head = 0 ∧
    (pl (.captureDrain 0) (modPlain { oneStaged 0 with power := {} } 0 fun P => { P with basin := { P.basin with rsv := [(1, 1)] } })).cap.head = 1 := by decide +kernel
/-! ## Witnesses: Pass links -/

/-- Plain 0 in HOLD, admitted, with link 0 in a state. -/
def linked (st : LinkState) (f : Link → Link) : State :=
  at0 .hold fun P => link0 (fun L => f { L with en := true, state := st, width := 4, working := 4 }) { P with run := { P.run with admitted := true } }

/-- Link 0 after a command. -/
def lk (c : Instr) (s : State) : Link := (pl c s).links[(0 : Fin 8)]

/-- An ACTIVE link whose tile 0 has a word for channel 3 in q6. -/
def sending (f : Link → Link) : State :=
  modPlain (linked .active fun L => f { L with granted := [(3, true)] }) 0 fun P =>
    tile0 (fun T => { T with q6 := [{ link := 0, chan := 3, data := 7, stamp := 0 }] }) { P with run := { P.run with stepCount := 1 } }

theorem test_passTxTake : (waitingPx (sending id).plains[0] 0).isSome = true ∧
    discards (sending id).plains[0].links[0] 3 = false ∧ (lk (.passTxTake 0 0) (sending id)).txWords = [] ∧
    (lk (.passTxTake 0 0) (sending fun L => { L with cred := [(3, 1)] })).txWords = [(3, 7)] ∧
    (lk (.passTxTake 0 0) (sending fun L => { L with cred := [(3, 1)] })).cred = [] ∧
    (lk (.passTxTake 0 0) (sending fun L => { L with granted := [] })).txDisc = 1 := by decide +kernel

/-- A frame of a type in the replay buffer. -/
def held (seq : BitVec 12) : HeldFrame := { frame := { typ := 1, seq := seq, len := 1 }, acked := false, unconf := 1, mark := .held }

theorem test_frameSend_replays_first : let s := linked .active fun L => { L with txNext := 1, txAck := 0xFFF, replayFrom := some 0, replay := [held 0], dueCycle := [{ typ := 2, len := 6 }] }
    linkSending s.plains[0].links[0].state = true ∧ nextReplay s.plains[0].links[0] = some (held 0).frame ∧
    (lk (.frameSend 0 0) s).wire = [(held 0).frame] ∧ (lk (.frameSend 0 0) s).dueCycle.length = 1 := by decide +kernel

theorem test_frameSend_waits_with_a_full_buffer : let s := linked .active fun L => { L with replay := List.replicate 256 { held 0 with acked := true }, dueCycle := [{ typ := 2, len := 6 }] }
    nextReplay s.plains[0].links[0] = none ∧ 256 ≤ s.plains[0].links[0].replay.length ∧ (lk (.frameSend 0 0) s).wire = [] := by decide +kernel

theorem test_frameSend_cycle_and_closing : let s := linked .active fun L => { L with txNext := 0x7FE, dueCycle := [{ typ := 2, len := 6 }], dueClosing := some (4, false) }
    nextReplay s.plains[0].links[0] = none ∧ (lk (.frameSend 0 0) s).wire = [{ typ := 2, len := 6, seq := 0x7FE }] ∧ (lk (.frameSend 0 0) s).txNext = 0x7FF ∧
    (let t := linked .active fun L => { L with dueClosing := some (4, false) }
     (lk (.frameSend 0 0) t).state = .drain ∧ ((lk (.frameSend 0 0) t).wire.map (·.typ)) = [6]) := by decide +kernel

theorem test_frameSend_unsequenced : (lk (.frameSend 0 0) (linked .retrain fun L => { L with nakDue := true })).nakDue = true ∧
    (lk (.frameSend 0 0) (linked .active fun L => { L with nakDue := true, rxNext := 7 })).ctlOut = 0x1006 ∧
    ((lk (.frameSend 0 0) (linked .train id)).wire.map (·.typ)) = [8] := by decide +kernel

/-- A DATA frame of one word on channel 3. -/
def data (seq : BitVec 12) : Frame := { typ := 1, chan := 3, seq := seq, len := 1, payload := 9 }

theorem test_sequence : goodFrame (data 0) 1 = true ∧
    (lk (.dataFrameRx 0 0 (data 0)) (linked .closed id)).drop = 1 ∧
    (lk (.dataFrameRx 0 0 (data 0)) (linked .active fun L => { L with rxNext := 1 })).nakDue = false ∧
    (lk (.dataFrameRx 0 0 (data 2)) (linked .active fun L => { L with rxNext := 1 })).nakDue = true ∧
    (lk (.dataFrameRx 0 0 (data 0)) (linked .active fun L => { L with rxNext := 0xFFF })).nakDue = true := by decide +kernel

theorem test_malformed_frames : malformed { typ := 0 } = true ∧ malformed { typ := 4, len := 5 } = true ∧
    (lk (.reservedFrameRx 0 0 { typ := 9 }) (linked .active id)).rxNext = 1 ∧ ((lk (.reservedFrameRx 0 0 { typ := 9 }) (linked .active id)).flags.getLsbD 6) = true ∧
    (lk (.reservedFrameRx 0 0 { typ := 4, len := 5 }) (linked .active id)).drop = 1 ∧ (lk (.frameCheckFail 0 0) (linked .active id)).crcCnt = 1 := by decide +kernel

/-- An ACTIVE link whose channel 3 leads to q3 of tile 5 with one credit granted. -/
def channel (f : Link → Link) : State := linked .active fun L => f { L with chan := [(3, 0x345)] }

theorem test_dataFrame_enters_the_buffer : let s := channel id
    s.plains[0].links[0].state = .active ∧ s.plains[0].run.after = none ∧ chanErr s.plains[0].links[0] (data 0) = false ∧
    ((lk (.dataFrameRx 0 0 (data 0)) s).inbuf.map (·.data)) = [9] ∧
    (lk (.dataFrameRx 0 0 (data 0)) (channel fun L => { L with chan := [] })).flags.getLsbD 5 = true ∧
    (lk (.dataFrameRx 0 0 (data 0)) (channel fun L => { L with returnsMade := true })).dueReturn = [0x8000] := by decide +kernel

theorem test_cycleFrame : let f := mkFrame 2 6 0 (cyclePayload 5 0 0 0)
    goodFrame f 2 = true ∧ (lk (.cycleFrameRx 0 0 f) (linked .active id)).peerCyc = 5 ∧
    (pl (.cycleFrameRx 0 0 f) (linked .active fun L => { L with foreign := true })).sync = {} := by decide +kernel

theorem test_creditFrame : let f := mkFrame 3 1 0 (entryBytes [3 + 2 * 64, 3 + 1 * 64])
    goodFrame f 3 = true ∧ creditEntries f = [(3, 2), (3, 1)] ∧ (lk (.creditFrameRx 0 0 f) (linked .active id)).cred = [(3, 3)] := by decide +kernel

theorem test_closingFrame : let f := mkFrame 6 2 0 (leBytes 6 9 ++ [4])
    goodFrame f 6 = true ∧ (lk (.closingFrameRx 0 0 f) (linked .active id)).dueClosing = some (4, true) := by decide +kernel

theorem test_returnFrame : let f := mkFrame 7 1 0 (entryBytes [0x8000 + 3 * 0x1000])
    goodFrame f 7 = true ∧ returnEntries f = [(0, 3)] ∧
    ((lk (.returnFrameRx 0 0 f) (linked .active fun L => { L with replay := [held 0] })).replay.map (·.mark)) = [.returned 3] := by decide +kernel

theorem test_link_enable : let s := at0 .load id
    farEnabled s.fuses.plainsEn 0 0 = true ∧ (lk (.linkCtlEn 0 0 3) s).state = .train ∧ (lk (.linkCtlEn 0 0 3) s).foreign = true ∧
    (lk (.linkCtlEn 0 0 2) s).state = .off ∧ (lk (.linkCtlEn 0 0 1) (at0 .hold id)).en = false := by decide +kernel

theorem test_link_opens : (lk (.linkCtlOpen 0 0) (linked .closed id)).state = .train ∧ (lk (.linkTrained 0 0 4) (linked .train id)).state = .openWait ∧
    ((lk (.openResend 0 0) (linked .openWait id)).dueOpen.map (·.typ)) = [4] := by decide +kernel

/-- An OPEN frame that agrees with the state after reset. -/
def openF : Frame := mkFrame 4 6 0 (cyclePayload 0 0 0 0)

theorem test_openFrame : let s := linked .openWait fun L => { L with openOut := true }
    goodFrame openF 4 = true ∧ s.plains[0].run.mode ≠ .load ∧ openReason s.plains[0] s.plains[0].links[0] openF = 0 ∧
    (lk (.openFrameRx 0 0 openF) s).state = .active ∧ (lk (.openFrameRx 0 0 openF) (linked .openWait id)).openIn = true ∧
    openReason s.plains[0] s.plains[0].links[0] (mkFrame 4 6 0 (cyclePayload 0 1 0 0)) ≠ 0 ∧
    (lk (.openFrameRx 0 0 (mkFrame 4 6 0 (cyclePayload 0 1 0 0))) s).state = .openWait ∧
    (lk (.openFrameRx 0 0 openF) (modPlain s 0 fun P => { P with run := { P.run with admitted := false } })).refuse = 5 := by decide +kernel

theorem test_refuse_and_train : let f := mkFrame 5 1 0 [3]
    goodFrame f 5 = true ∧ (lk (.refuseFrameRx 0 0 f) (linked .openWait id)).refuse = 3 ∧ goodFrame { typ := 8, len := 6 } 8 = true ∧
    (lk (.trainFrameRx 0 0 { typ := 8, len := 6 }) (atTime 7 (linked .train id))).lastRx = 7 := by decide +kernel

theorem test_close : (lk (.linkCtlClose 0 0) (linked .active id)).dueClosing = some (4, false) ∧ (lk (.linkCtlClose 0 0) (linked .train id)).state = .closed ∧
    (lk (.linkCtlClose 0 0) (linked .openWait fun L => { L with thenReplay := true })).state = .openWait ∧
    (lk (.linkCtlClose 0 0) (linked .closed id)).state = .closed ∧ (lk (.linkCtlRetRel 0 0) (linked .closed fun L => { L with replay := [{ held 0 with mark := .unconfirmed }] })).replay = [] := by decide +kernel

/-- A link in DRAIN since time 0 that started the close. -/
def closing (f : Link → Link) (n : Nat) : State := atTime n (linked .drain fun L => f { L with closeSent := some 0, closeMine := true })

theorem test_close_delivery : (lk (.closeDeliveryEnd 0 0) (closing (fun L => { L with inbuf := [{ chan := 3, data := 9, seq := 1, len := 1, old := false }] }) 10000)).dueReturn = [0x8001] ∧
    (lk (.closeDeliveryEnd 0 0) (closing id 9999)).returnsMade = false := by decide +kernel

theorem test_close_timeout : (lk (.closeTimeout 0 0) (closing (fun L => { L with replay := [held 0] }) 100000)).state = .closed ∧
    ((lk (.closeTimeout 0 0) (closing (fun L => { L with replay := [held 0] }) 100000)).replay.map (·.mark)) = [.unconfirmed] ∧
    (lk (.closeTimeout 0 0) (closing id 99999)).state = .drain := by decide +kernel

/-- An ACTIVE link with frames 0 and 1 sent. -/
def sent2 (f : Link → Link) : State := linked .active fun L => f { L with txNext := 2, txAck := 0xFFF, replay := [held 0, held 1] }

theorem test_ack : (0 - (sent2 id).plains[0].links[0].txAck).toNat = 1 ∧ (lk (.ackRx 0 0 ⟨⟨0, 0, 0⟩, 0⟩) (sent2 id)).txAck = 0 ∧ (lk (.ackRx 0 0 ⟨⟨1, 3, 1⟩, 0⟩) (sent2 id)).txAck = 1 ∧
    ((lk (.ackRx 0 0 ⟨⟨1, 0, 0⟩, 0⟩) (sent2 id)).replay.filter (!·.acked)).length = 0 ∧ (lk (.ackRx 0 0 ⟨⟨2, 0, 0⟩, 0⟩) (sent2 id)).txAck = 0xFFF ∧
    (lk (.ackRx 0 0 ⟨⟨1, 3, 1⟩, 0⟩) (sent2 id)).fecCe = 1 ∧ (lk (.ackRx 0 0 ⟨⟨1, 3, 2⟩, 0⟩) (sent2 id)).fecUe = 1 ∧ (lk (.ackRx 0 0 ⟨⟨1, 3, 2⟩, 0⟩) (sent2 id)).txAck = 0xFFF := by decide +kernel

theorem test_nak_and_replayTimeout : (lk (.nakRx 0 0 ⟨0, 0, 0⟩) (sent2 id)).replayFrom = some 1 ∧ unacked (sent2 id).plains[0].links[0] ≠ [] ∧
    (lk (.replayTimeout 0 0) (atTime 1000 (sent2 id))).replayCnt = 1 ∧ (lk (.replayTimeout 0 0) (atTime 999 (sent2 id))).replayCnt = 0 := by decide +kernel

theorem test_creditReturnTimeout : (lk (.creditReturnTimeout 0 0) (atTime 50 (linked .active fun L => { L with owedAt := some 0 }))).dueCredit = true ∧
    (lk (.creditReturnTimeout 0 0) (atTime 49 (linked .active fun L => { L with owedAt := some 0 }))).dueCredit = false := by decide +kernel

theorem test_retrain : (lk (.laneFail 0 0 3) (linked .active id)).state = .retrain ∧ (lk (.linkCtlRetrain 0 0) (linked .active id)).working = 4 ∧
    (let P := pl (.retrainDone 0 ⟨0, 3⟩) (linked .retrain fun L => { L with working := 3, txNext := 1, txAck := 0xFFF, replay := [held 0] })
     P.links[(0 : Fin 8)].state = .active ∧ P.links[(0 : Fin 8)].replayFrom = some 0 ∧ P.mgr.evq = [0x0000000300000021]) := by decide +kernel

theorem test_retrain_fails : (lk (.retrainAttemptFail 0 0 3) (linked .retrain fun L => { L with attempts := 1 })).attempts = 2 ∧
    (lk (.retrainAttemptFail 0 0 4) (atTime 20001 (linked .retrain fun L => { L with attempts := 2 }))).state = .closed ∧
    (lk (.retrainAttemptFail 0 0 4) (atTime 20000 (linked .retrain id))).attempts = 0 ∧
    (pl (.retrainAttemptFail 0 0 0) (linked .retrain id)).health.code = 5 := by decide +kernel

theorem test_heldRepeat : ((lk (.heldRepeat 0) (atTime 10000 (linked .active id))).dueCycle.map cycHeld) = [true] ∧
    (lk (.heldRepeat 0) (atTime 9999 (linked .active id))).dueCycle = [] := by decide +kernel

theorem test_syncLost : let s := atTime 1000 (modPlain (linked .active id) 0 fun P => { P with run := { P.run with mode := .run, phase := .row9 }, sync := { P.sync with tmo := 1 } })
    gateOk s.plains[0] = false ∧ s.plains[0].sync.tmo ≠ 0 ∧ (pl (.syncLost 0 0) s).run.mode = .hold ∧
    (pl (.syncLost 0 0) (atTime 999 s)).sync.stat = 0 := by decide +kernel

/-- A frame on the wire of link 7 of PL1 arrives at link 6 of PL0, and nothing else does. -/
theorem test_short_link : let f := mkFrame 2 6 0 (cyclePayload 5 0 0 0)
    let s := modPlain (modPlain (at0 .hold id) 0 fun P => modLink P 6 fun L => { L with state := .active, en := true }) 1 fun P => modLink P 7 fun L => { L with wire := [f] }
    shortPeer 0 6 = some (1, 7) ∧ (arrived s 0 6 f).isSome = true ∧ arrived s 0 6 (data 0) = none ∧
    (after (.cycleFrameRx 0 6 f) s).plains[(1 : Fin 8)].links[(7 : Fin 8)].wire = [] ∧
    (after (.cycleFrameRx 0 6 f) s).plains[(0 : Fin 8)].links[(6 : Fin 8)].peerCyc = 5 ∧
    (after (.frameCheckFail 0 6) s).plains[(1 : Fin 8)].links[(7 : Fin 8)].wire = [] := by decide +kernel

/-- Channel 3 with a word in the inbound buffer. -/
def arriving (old : Bool) (f : Plain → Plain) : State :=
  modPlain (channel fun L => { L with inbuf := [{ chan := 3, data := 9, seq := 0, len := 1, old := old }] }) 0 f

theorem test_word_enters_its_queue : (nextIn (arriving false id).plains[0].links[0] 3).isSome = true ∧
    (pl (.passRxPush 0 0 3) (arriving false id)).tiles[(5 : Fin 64)].q3 = [9] ∧ (lk (.passRxPush 0 0 3) (arriving false id)).owed = [(3, 1)] ∧
    (lk (.passRxPush 0 0 3) (arriving true id)).owed = [] ∧
    (lk (.passRxPush 0 0 3) (arriving false fun P => modTile P 5 fun T => { T with q3 := List.replicate 8 0 })).inbuf.length = 1 := by decide +kernel


/-- The order of new frames: RETURN, the initial grants, CREDIT, then DATA. -/
theorem test_frameSend_order : let s := fun f => linked .active fun L => f { L with txWords := [(3, 7)] }
    ((lk (.frameSend 0 0) (s fun L => { L with dueReturn := [1], dueInit := [(3, 2)] })).wire.map (·.typ)) = [7] ∧
    ((lk (.frameSend 0 0) (s fun L => { L with dueInit := [(3, 2)], dueCredit := true, owed := [(4, 1)] })).wire.map fun f => (f.typ, payWord f 0)) = [(3, 0x83)] ∧
    (let L := lk (.frameSend 0 0) (s fun L => { L with dueCredit := true, owed := [(4, 1)] }); (L.wire.map fun f => (f.typ, payWord f 0)) = [(3, 0x44)] ∧ L.owed = []) ∧
    dataClosed (s id).plains[0] 0 (s id).plains[0].links[0] = true ∧
    ((lk (.frameSend 0 0) (s id)).wire.map fun f => (f.typ, f.chan, payWord f 0)) = [(1, 3, 7)] := by decide +kernel

/-- The frame that fills a codeword of every lane sends them: 4 lanes, 496 bytes. -/
theorem test_codewords_go_out : let s := fun n => linked .active fun L => { L with rxNext := 1, stream := List.replicate n 9, dueCycle := [{ typ := 2, len := 6 }] }
    (lk (.frameSend 0 0) (s 463)).codewords = [] ∧ (lk (.frameSend 0 0) (s 464)).stream = [] ∧ ((lk (.frameSend 0 0) (s 464)).codewords.map (·.length)) = [128, 128, 128, 128] := by decide +kernel

/-- Codeword 0 of lane 1 cannot be corrected: the frames with bytes of it are not received. -/
theorem test_spoilt_frame : let s := after (.ackRx 0 0 ⟨⟨0, 1, 2⟩, 0⟩) (linked .active id)
    lanesUp s.plains[0].links[0].state = true ∧ nextSpoilt s.plains[0].links[0] = true ∧ laneWorn 1 (logUe 0 1 s.plains[0].links[0]) = false ∧
    (lk (.cycleFrameRx 0 0 (mkFrame 2 6 0 (cyclePayload 5 0 0 0))) s).rxNext = 0 ∧ (lk (.cycleFrameRx 0 0 (mkFrame 2 6 0 (cyclePayload 5 0 0 0))) s).crcCnt = 1 ∧
    nextSpoilt (modLink s.plains[0] 0 fun L => { L with rxBytes := 496 }).links[0] = false := by decide +kernel

theorem test_close_ends : let f := fun (L : Link) => { L with closeTaken := true, ctlOut := 0xFFF }
    ackSent (closing f 10000).plains[0].links[0] = true ∧ (lk (.closeDeliveryEnd 0 0) (closing f 10000)).state = .closed ∧
    (lk (.closeDeliveryEnd 0 0) (closing (fun L => f { L with rxNext := 1 }) 10000)).state = .drain ∧
    (lk (.linkCtlRetRel 0 0) (linked .closed fun L => { L with thenReplay := true })).state = .openWait := by decide +kernel

theorem test_heldRepeat_is_the_last_frame : let f := { mkFrame 2 6 0 (cyclePayload 5 0 0 0) with seq := 9 }
    let s := atTime 10000 (modPlain (linked .active id) 0 fun P => { P with sync := { P.sync with lastCycle := some f } })
    (lk (.heldRepeat 0) s).dueCycle = [{ f with flags := 66 }] ∧ (pl (.syncLost 0 0) (modPlain s 0 fun P => { P with sync := { P.sync with tmo := 1 } })).mgr.evq = [0x23] := by decide +kernel
/-! ## Witnesses: loads, epochs and jobs -/

/-- A descriptor with sequence number 1, an operation and operands, each by its lowest byte and its value (13 R261). -/
def desc (op : Nat) (fs : List (Nat × Nat)) : BitVec 512 := BitVec.ofNat 512 (1 + op * 2 ^ 32 + (fs.map fun x => x.2 * 2 ^ (8 * x.1)).sum)

/-- Plain 0 in mode `m`, with descriptor 1 of ring `r` started: operation `op` and operands. -/
def started (r : Fin 4) (op : Nat) (fs : List (Nat × Nat)) (m : Mode) (f : Plain → Plain) : State :=
  at0 m fun P => f (modRing { P with run := { P.run with admitted := true } } r fun R =>
    { R with en := true, acc := 1, start := 1, avail := 1, buf := [(1, desc op fs)] })

/-- The statuses of the outcomes that stand in Plain 0 after a command. -/
def outcomes (c : Instr) (s : State) : List Byte := (pl c s).hiu.done.map (·.status)

/-- Descriptor 1 of ring 0 has been aborted. -/
def aborted (P : Plain) : Plain := modRing P 0 fun R => { R with abortSeen := [1] }

/-- JOB LOAD of an image of zeros. -/
def load : Instr := .jobLoad 0 1 0x10000000 64 0 0

theorem test_load_refusals : startedNow (started 0 1 [(16, 0x10000000), (24, 64)] .hold id).plains[0] 0 1 1 [(16, 8, 0x10000000), (24, 8, 64), (32, 2, 0), (40, 8, 0)] = true ∧
    (started 0 1 [(16, 0x10000000), (24, 64)] .hold id).fuses.lc = 2 ∧
    outcomes load (started 0 1 [(16, 0x10000000), (24, 64)] .hold aborted) = [0x11] ∧ outcomes load (started 0 1 [(16, 0x10000000), (24, 64)] .run id) = [0x0C] ∧ outcomes load (started 0 1 [(16, 0x10000000), (24, 64)] .hold id) = [1] := by decide +kernel

theorem test_loadCommit_premises : let s := at0 .load fun P => { P with ldr := { P.ldr with load := some { seq := 1, man := [], addr := 0x10000000, len := 64, vplain := 0, bind := 0 } } }
    s.plains[0].ldr.load.isSome = true ∧ s.plains[0].run.mode = .load ∧ s.plains[0].links.toList.any closingLink = false := by decide +kernel

/-- A record of 668 bytes for epoch 1 at SPAD 0, with a record length and a target. -/
def epoch (len target n : Nat) (f : Plain → Plain) : State × Instr :=
  ({ started 3 1 [(16, target), (24, 0x10000000), (32, len)] .hold (fun P => f { P with run := { P.run with cycle := n }, mem := { P.mem with spad := [(0, 1)] } }) with fuses := { tstepPs := 0 } },
   .epochSwitch 0 1 (BitVec.ofNat 48 target) 0x10000000 (BitVec.ofNat 32 len))

/-- The switch after it. -/
def switched (x : State × Instr) : Option (Nat × Word × Nat) := (pl x.2 x.1).ldr.switch.map fun w => (w.target, w.epoch, w.bank)

theorem test_epochSwitch_pending : let x := epoch 668 5 4 id
    startedNow x.1.plains[0] 3 1 1 [(16, 6, 5), (24, 8, 0x10000000), (32, 4, 668)] = true ∧ recordCode 0 x.1.plains[0] (ldRead x.1 0 0x10000000 668).2 = 0 ∧ freeBank x.1.plains[0] = some 1 ∧
    switched x = some (5, 1, 1) ∧ (pl x.2 x.1).sync.cur.epoch = 0 := by decide +kernel

theorem test_epochSwitch_refused : outcomes (epoch 667 5 4 id).2 (epoch 667 5 4 id).1 = [1] ∧
    (let x := epoch 668 5 4 fun P => { P with sync := { P.sync with cur := { epoch := 7 } } }; outcomes x.2 x.1 = [0x0E]) ∧
    (let x := epoch 668 5 5 id; outcomes x.2 x.1 = [0x14]) ∧
    (let full : Plain → Plain := fun P => { P with ldr := { P.ldr with epochs := (List.range 4).map fun k => (k, { record := [], h := 0, bank := k }) }, cap := { P.cap with dir := (List.range 4).map fun k => (k, { gen := 0, start := 0, epoch := k }) } }
     let x := epoch 668 5 4 full
     freeBank x.1.plains[0] = none ∧ outcomes x.2 x.1 = [0x0F]) := by decide +kernel

theorem test_epochSwitch_bad_pace : let x := epoch 668 5 4 id
    let s := { x.1 with fuses := { tstepPs := 1 } }
    recordCode 1 s.plains[0] (ldRead s 0 0x10000000 668).2 = 9 ∧ outcomes x.2 s = [9] := by decide +kernel

theorem test_paceCtl : let s := at0 .hold id
    (pl (.paceCtlWrite 0 0x01A10001) s).ldr.stepPs = 0x1A1 ∧ (pl (.paceCtlWrite 0 0x01A00001) s).ldr.paceRefused = true ∧
    (pl (.paceCtlWrite 0 0x01A10001) (at0 .run id)).ldr.paceEn = false := by decide +kernel

/-- With `L` steps, PACE_PERIOD is that of an example with 4,096 steps of 500 ps and a wait of 300 ns. -/
theorem test_pacePeriod : (pl (.paceCtlWrite 0 0x01F40001) (at0 .hold fun P => { P with run := { P.run with admitted := true }, ldr := { P.ldr with len := 4096, waitNs := 300 } })).ldr.period = 2360 := by decide +kernel

theorem test_jobMode : outcomes (.jobMode 0 1 12) (started 0 2 [(16, 12)] .hold id) = [0x13] ∧ outcomes (.jobMode 0 1 12) (started 0 2 [(16, 12)] .load id) = [0x0C] ∧
    mayStep (started 0 2 [(16, 4)] .hold id).plains[0] = true ∧
    (pl (.jobMode 0 1 4) (started 0 2 [(16, 4)] .hold id)).run.mode = .run ∧ (pl (.jobMode 0 1 4) (started 0 2 [(16, 4)] .hold id)).run.phase = .row9 := by decide +kernel

theorem test_jobHold : ((pl (.jobHold 0 1) (started 0 3 [] .hold fun P => { P with run := { P.run with cycle := 9 } })).hiu.done.map (·.result)) = [9] ∧
    (let s := started 0 3 [] .run fun P => { P with run := { P.run with phase := .stepping } }; (pl (.jobHold 0 1) s).run.holdCmd = true) := by decide +kernel

theorem test_jobStep_and_checkpoint : (pl (.jobStep 0 1 1000) (started 0 4 [(16, 1000)] .hold id)).run.stepsLeft = some 1000 ∧ outcomes (.jobStep 0 1 0) (started 0 4 [] .hold id) = [0x13] ∧
    (pl (.jobCheckpoint 0 1) (started 0 5 [] .hold id)).cap.dueJob = true := by decide +kernel

theorem test_jobReplay : let s := fun (stop : Nat) => started 0 6 [(24, stop)] .hold fun P => { P with
      run := { P.run with cycle := 9 }, basin := { P.basin with areaSize := [(0, 1)] }, cap := { P.cap with sections := [(9, 0)], holdParts := [(10, 0)] } }
    replayError (s 8).plains[0] 0 false 8 = 3 ∧ outcomes (.jobReplay 0 1 0 false 8) (s 8) = [0x17] ∧ replayError (s 9).plains[0] 0 false 9 = 0 ∧
    (pl (.jobReplay 0 1 0 false 9) (s 9)).run.mode = .replay := by decide +kernel

theorem test_jobReset : (pl (.jobReset 0 1) (started 0 7 [] .hold id)).run.mode = .boot ∧
    (pl (.jobReset 0 1) (started 0 7 [] .hold (link0 fun L => { L with state := .active }))).run.after = some (.reset 1) := by decide +kernel

theorem test_jobLink : outcomes (.jobLinkOpen 0 1 8) (started 0 8 [(16, 8)] .hold id) = [0x13] ∧ outcomes (.jobLinkRetrain 0 1 0) (started 0 8 [(17, 2)] .run id) = [0x0C] ∧
    outcomes (.jobLinkClose 0 1 7) (started 0 8 [(16, 7), (17, 1)] .load id) = [0x0C] ∧ outcomes (.jobLinkClose 0 1 8) (started 0 8 [(16, 8), (17, 1)] .load id) = [0x0C] ∧
    ((pl (.jobLinkOpen 0 1 7) (started 0 8 [(16, 7)] .hold fun P => modLink P 7 fun L => { L with state := .closed })).links[(7 : Fin 8)]).state = .train ∧
    outcomes (.jobLinkRetRel 0 1 0) (started 0 8 [(17, 3)] .hold id) = [0] := by decide +kernel

/-- A window area of one block, and cycle 4 next to begin. -/
def window (P : Plain) : Plain := { P with basin := { P.basin with areaSize := [(3, 1)] }, run := { P.run with cycle := 4 }, hiu := { P.hiu with xactPrev := 3 } }

theorem test_xactAdvance : outcomes (.xactAdvance 0 1 2) (started 1 0 [(16, 2)] .hold window) = [0x13] ∧
    (pl (.xactAdvance 0 1 3) (started 1 0 [(16, 3)] .hold window)).hiu.xactPrev = 3 ∧ outcomes (.xactAdvance 0 1 3) (started 1 0 [(16, 3)] .hold window) = [0] := by decide +kernel

theorem test_xact_transfers : let s := fun (op cycle woff : Nat) => started 1 op [(16, cycle), (24, 0x8000000000), (32, woff), (36, 64)] .hold window
    xactOperandsOk (s 1 4 0).plains[0] 4 0x8000000000 4032 64 = true ∧ xactOperandsOk (s 1 4 0).plains[0] 4 0x8000000000 4096 64 = false ∧
    outcomes (.xactWrite 0 1 4 0x8000000000 4096 64) (s 1 4 4096) = [0x13] ∧ outcomes (.xactWrite 0 1 3 0x8000000000 0 64) (s 1 3 0) = [0x16] ∧
    (pl (.xactWrite 0 1 4 0x8000000000 0 64) (s 1 4 0)).hiu.xacts.length = 1 ∧ (pl (.xactRead 0 1 3 0x8000000000 0 64) (s 2 3 0)).hiu.xacts.length = 1 := by decide +kernel

theorem test_xactTransferDone : let x : Xact := { seq := 1, write := true, cycle := 4, haddr := 0x8000000000, woff := 0, len := 64, active := false }
    let s := started 1 1 [] .hold fun P => let P := window P; { P with hiu := { P.hiu with xacts := [x] } }
    (takeXact (xactActive s.plains[0]) s.plains[0].hiu.xacts).isSome = true ∧
    outcomes (.xactTransferDone 0) s = [0x18] := by decide +kernel

/-- A started BULK descriptor of a Plain with Bus Master Enable and a grant. -/
def bulk : State :=
  { started 2 1 [(16, 0x8000000000), (24, 0x8000000040)] .hold (fun P => modFn P fun F => { F with bme := true }) with power := { grant := [(0, 0x28)] } }

theorem test_bulk_premises : startedNow bulk.plains[0] 2 1 1 [(16, 8, 0x8000000000), (24, 8, 0x8000000040), (32, 4, 0)] = true ∧ (∀ c : Fin 16, bulk.plains[0].dma.ch[c].cur = none) ∧ look 0 bulk.power.grant 0 ≠ 0 ∧ Memory.wf Config.hostFree bulk.hostMem = true ∧
    bulk.plains[0].hiu.hwin.toNat + 0x8000000000 ≤ 2 ^ 64 ∧ outcomes (.bulkCopy 0 1 0x8000000000 0x8000000040 0) bulk = [0] ∧
    (pl (.bulkCopy 0 1 0x8000000000 0x8000000040 0) bulk).dma.ch[(15 : Fin 16)].done = 1 := by decide +kernel

/-- Two host bytes can differ whatever an unlisted byte reads as. -/
theorem test_host_bytes_differ : ∃ v : Byte, Memory.wf Config.hostFree [(0, v)] = true ∧ v ≠ Config.hostFree 64 := by
  have h : ∀ x y : Byte, ∃ v : Byte, v ≠ x ∧ v ≠ y := by
    intro x y
    by_cases e : x + 1 = y
    · exact ⟨x + 2, by bv_omega, by bv_omega⟩
    · exact ⟨x + 1, by bv_omega, e⟩
  obtain ⟨v, hv, hw⟩ := h (Config.hostFree 0) (Config.hostFree 64)
  exact ⟨v, by simpa [Memory.wf, Sparse.wf] using hv, hw⟩


theorem test_jobMode_valley_and_change : (pl (.jobMode 0 1 0) (started 0 2 [] .hold (link0 fun L => { L with state := .active }))).run.after = some .valley ∧
    (pl (.jobMode 0 1 7) (started 0 2 [(16, 7)] .run id)).run.modePend = some .bridge ∧
    (let s := { started 0 2 [] .hold id with power := { coreOn := 1, colOn := [(0, 3)] } }
     let t := after (.jobMode 0 1 0) s
     t.plains[(0 : Fin 8)].run.mode = .valley ∧ t.power.switchOff = [(0, 1), (0, 0), (0, 9)] ∧ t.plains[(0 : Fin 8)].hiu.valleyDone.isSome = true) := by decide +kernel

theorem test_jobReplay_restore_premises : let s := started 0 6 [(17, 1), (24, 5)] .hold fun P => { P with
      run := { P.run with cycle := 5 }, basin := { P.basin with areaSize := [(0, 1)] }
      cap := { P.cap with dir := [(0, { gen := 0, start := 5, epoch := 0 })], sections := [(5, 0)], holdParts := [(6, 0)] } }
    startedNow s.plains[0] 0 1 6 [(16, 1, 0), (17, 1, 1), (24, 6, 5)] = true ∧ replayError s.plains[0] 0 true 5 = 0 ∧
    (s.plains[0].links.map (replayLink true)).toList.any closingLink = false ∧
    (pl (.jobReplay 0 1 0 true 4) (started 0 6 [(17, 1), (24, 4)] .hold fun P => { P with cap := s.plains[0].cap, basin := s.plains[0].basin })).cap.rplErr = 3 := by decide +kernel

theorem test_xactAdvance_fields : outcomes (.xactAdvance 0 1 3) (started 1 0 [(16, 3), (32, 1)] .hold window) = [0x13] ∧
    outcomes (.xactAdvance 0 1 3) (started 1 0 [(16, 3), (36, 64)] .hold window) = [0] ∧
    (pl (.xactAdvance 0 1 9) (started 1 0 [(16, 9), (32, 1)] .hold window)).hiu.xactPrev = 9 := by decide +kernel
/-! ## Witnesses: rings, mailboxes and DMA -/

theorem test_lut_premises : let inS : Nat → Bool := fun n => (List.range 4).all fun j => let a := pos ([0xD1, 0x45, 0x1A, 0].getD j 0) 0; unk a || n.testBit j == a.getLsbD 0
    ((List.range 16).filter inS) = [3, 7] ∧ (0xCACA : Nat).testBit 3 = true ∧ (0xCACA : Nat).testBit 7 = true := by decide +kernel

theorem test_timers : let s := atTime 100 (at0 .hold fun P => { P with dma := { P.dma with timers := P.dma.timers.set 3 { period := 7, due := 100 } } })
    (pl (.timerPeriodWrite 0 2 0x2710) s).dma.timers[(2 : Fin 8)].due = 10100 ∧ (pl (.timerFire 0 3) s).dma.timers[(3 : Fin 8)].due = 107 ∧
    ((pl (.timerFire 0 3) s).dma.events.map (·.code)) = [4] ∧ (pl (.timerFire 0 3) (atTime 99 s)).dma.events = [] ∧ (pl (.timerFire 0 2) s).dma.events = [] := by decide +kernel

/-- The PCI Express function of Plain 0 with Bus Master Enable, and MSI-X on with every vector open. -/
def msixUp (P : Plain) : Plain := modFn P fun F => { F with bme := true, msixOn := true, open_ := (List.range 64).map fun v => (v, true) }

/-- The JOB ring of Plain 0 with descriptor 1 in host memory at its slot, whose SEQ is `seq`. -/
def ringed (m : Mode) (seq : Byte) (f : Ring → Ring) : State :=
  { at0 m (fun P => modRing (msixUp P) 0 fun R => f { R with en := true }) with
    hostMem := [(64, seq), (65, 0), (66, 0), (67, 0), (68, 7)] }

/-- The JOB ring after a command. -/
def ring (c : Instr) (s : State) : Ring := (pl c s).hiu.rings[(0 : Fin 4)]

theorem test_ringDb : (ring (.ringDb 0 0 1) (ringed .valley 1 id)).dbDrop = 1 ∧ (ring (.ringDb 0 0 64) (ringed .hold 1 id)).avail = 64 ∧
    (ring (.ringDb 0 0 65) (ringed .hold 1 id)).stat = 1 ∧ (ring (.ringDb 0 0 0) (ringed .hold 1 id)).avail = 0 := by decide +kernel

theorem test_descriptorAccept : let s := ringed .hold 1 fun R => { R with avail := 1 }
    canAccept s.plains[0] 0 = true ∧ (ring (.descriptorAccept 0 0) s).acc = 1 ∧ (pl (.descriptorAccept 0 0) s).mgr.evq = [0x0000000100000100] ∧
    (ring (.descriptorAccept 0 0) (ringed .hold 2 fun R => { R with avail := 1 })).stat = 2 ∧ canAccept (ringed .hold 1 id).plains[0] 0 = false := by decide +kernel

theorem test_descriptorReread : let s := ringed .hold 1 fun R => { R with acc := 1, start := 1, reread := some 1 }
    ((pl (.descriptorReread 0 0) s).hiu.cqWait.map (·.status)) = [0] ∧ (ring (.descriptorReread 0 0) s).reread = none ∧
    ((pl (.descriptorReread 0 0) { s with hostMem := [(64, 1), (65, 0), (66, 0), (67, 0), (68, 2)] }).hiu.cqWait.map (·.status)) = [0x12] ∧
    (ring (.descriptorReread 0 0) (ringed .hold 1 fun R => { R with acc := 2, start := 0, reread := some 1 })).reread = some 2 := by decide +kernel

theorem test_ringInit_and_cfg : (ring (.ringInit 0 0 9) (ringed .hold 1 id)).acc = 0 ∧ (ring (.ringInit 0 0 9) (at0 .hold id)).acc = 9 ∧
    (ring (.ringCfgWrite 0 0 0x110) (at0 .hold id)).log2 = 16 ∧ (ring (.ringCfgWrite 0 0 0x111) (at0 .hold id)).stat = 0x20 ∧
    (ring (.ringCfgWrite 0 0 0x6) (ringed .hold 1 fun R => { R with acc := 1 })).stat = 0x10 := by decide +kernel

theorem test_ringAbort : let s := ringed .hold 1 fun R => { R with acc := 0x103, start := 0x102, cmp := 0x101 }
    (ring (.ringAbort 0 0x103) s).cancelled = [0x103] ∧ (ring (.ringAbort 0 0x102) s).abortSeen = [0x102] ∧ (ring (.ringAbort 0 0x102) s).cancelled = [] ∧
    (ring (.ringAbort 0 0x101) s).stat = 8 ∧ (ring (.ringAbort 0 0x104) s).stat = 8 := by decide +kernel

theorem test_cqCseq : let s := at0 .hold fun P => { P with hiu := { P.hiu with pseq := 5 } }
    (pl (.cqCseqWrite 0 5) s).hiu.cseq = 5 ∧ (pl (.cqCseqWrite 0 6) s).hiu.cqBad = true := by decide +kernel

theorem test_fwStart : let s := ringed .hold 1 fun R => { R with acc := 1 }
    (ring (.fwStart 0 1) s).start = 1 ∧ (ring (.fwStart 0 2) s).stat = 4 ∧
    ((pl (.fwStart 0 1) (ringed .hold 1 fun R => { R with acc := 1, cancelled := [1] })).hiu.cqWait.map (·.status)) = [0x10] := by decide +kernel

theorem test_fwPost : ((pl (.fwPost 0 0x13) (ringed .hold 1 fun R => { R with acc := 1, start := 1 })).hiu.cqWait.map fun c => (c.seq, c.status)) = [(1, 0x13)] ∧
    (ring (.fwPost 0 0) (ringed .hold 1 id)).stat = 4 := by decide +kernel

theorem test_record_premises : let s := at0 .hold fun P => let P := msixUp P; { P with hiu := { P.hiu with
      sbEn := true, vec0 := true, sbAt := some 0, cqWait := [{ seq := 1, ring := 0, status := 0, abortSeen := false, irq := true, tag := 0, cycle := 0, result := 0 }] } }
    Memory.wf Config.hostFree s.hostMem = true ∧ cqRoom s.plains[0].hiu = true ∧ (pl (.completionRecordWrite 0) s).hiu.pseq = 1 ∧
    (pl (.statusBlockWrite 0) (atTime 1000 s)).hiu.sbGen = 1 ∧ (pl (.statusBlockWrite 0) (atTime 999 s)).hiu.sbGen = 0 ∧
    cqRoom { s.plains[0].hiu with pseq := 64 } = false ∧
    (let t := modPlain s 0 fun P => { P with hiu := { P.hiu with pseq := 64 } }
     (after (.completionRecordWrite 0) t).msix = [(1, 3)] ∧ (pl (.completionRecordWrite 0) t).hiu.cqWait.length = 1) := by decide +kernel

/-- PIO_TX and PIO_RX of PE0. -/
theorem test_pio_fifos : (eng (.pioTxWrite 0 0 .mgrMachine 7) (pio0 0 id)).tx = [7] ∧ (eng (.pioTxWrite 0 0 .mgrMachine 7) (pio0 0 fun E => { E with tx := [1, 2, 3, 4] })).flags = 1 ∧
    (eng (.pioTxWrite 0 0 .loader 7) (pio0 0 id)).tx = [] ∧ (eng (.pioRxRead 0 0 .mgrUser) (pio0 0 id)).flags = 2 ∧
    (eng (.pioRxRead 0 0 .mgrUser) (pio0 0 fun E => { E with rx := [5, 6] })).lastRx = 5 := by decide +kernel

theorem test_pio_start_and_stop : let s := atTime 5 (at0 .run fun P => modEng P 1 fun E => { E with entry := 9, stoppedAt := some 2 })
    ((pl (.pioStart 0 3) s).pio.eng[(0 : Fin 4)]).running = true ∧ ((pl (.pioStart 0 3) s).pio.eng[(1 : Fin 4)]).running = false ∧
    (pl (.pioStart 0 3) s).pio.startLost = true ∧ ((pl (.pioStart 0 3) (atTime 8 s)).pio.eng[(1 : Fin 4)]).pc = 9 ∧
    (pl (.pioStart 0 1) (at0 .test id)).pio.eng[(0 : Fin 4)].running = false ∧ (eng (.pioStop 0 1) (pio0 0 fun E => { E with startedAt := some 0 })).running = false := by decide +kernel

theorem test_pio_configuration : (pl (.pioBankWrite 0 2) (pio0 0 id)).pio.bankBusy = true ∧ (pl (.pioBankWrite 0 2) (at0 .run id)).pio.bank = 2 ∧
    (eng (.pioCfgWrite 0 0 0 1) (pio0 0 id)).flags = 16 ∧ (eng (.pioCfgWrite 0 0 31 0x0108) (at0 .run id)).imem = [(31, 0x0108)] ∧
    (eng (.pioCfgWrite 0 0 32 0x00040028) (at0 .run id)).base = 40 ∧ (eng (.pioCfgWrite 0 0 32 0x29) (at0 .run id)).flags = 32 := by decide +kernel

theorem test_pio_waits_and_reserved : (eng (.pioAwait 0 0 0) (pio0 0x1007 id)).blocked = true ∧ (eng (.pioAwait 0 0 (BitVec.ofNat 48 (2 ^ 8))) (pio0 0x1007 id)).pc = 1 ∧
    (eng (.pioSigDelay 0 0) (pio0 0x0288 id)).delay = some 1 ∧ (eng (.pioSigDelay 0 0) (pio0 0x0288 fun E => { E with delay := some 0 })).pc = 1 ∧
    ((pl (.pioSigDma 0 0) (pio0 0x0048 id)).dma.events.map (·.code)) = [0x20] ∧
    (pl (.pioSigPace 0 0) (modPlain (pio0 0x0028 id) 0 fun P => { P with pio := { P.pio with src := 1 } })).pio.credit = 1 ∧
    (eng (.pioReservedInstr 0 0) (pio0 0 id)).running = false := by decide +kernel

/-- Mailbox `m` of Plain 0 after a command. -/
def box (m : Fin 4) (c : Instr) (s : State) : Mailbox := (pl c s).hiu.mb[m]

/-- Plain 0 in HOLD with mailbox `m` changed. -/
def boxed (m : Fin 4) (f : Mailbox → Mailbox) : State := at0 .hold fun P => modMb P m f

theorem test_mbGo : (box 2 (.mbGo 0 2 .hostFn 16) (boxed 2 id)).go = true ∧ (box 2 (.mbGo 0 2 .hostFn 17) (boxed 2 id)).stat = 2 ∧
    (box 2 (.mbGo 0 2 .hostFn 7) (boxed 2 id)).go = false ∧ (box 2 (.mbGo 0 2 .hostFn 8) (boxed 2 fun B => { B with holder := 5 })).stat = 8 ∧
    (box 0 (.mbGo 0 0 .mgrMachine 8) (boxed 0 id)).stat = 4 ∧ (box 1 (.mbGo 0 1 .mgrMachine 8) (boxed 1 id)).go = true ∧
    (box 2 (.mbGo 0 2 .hostFn 9) (boxed 2 fun B => { B with go := true })).stat = 1 := by decide +kernel

theorem test_mbAck : (box 2 (.mbAck 0 2 0x80000007) (boxed 2 fun B => { B with go := true, fromHost := true })).code = 7 ∧
    (pl (.mbAck 0 2 0x80000007) (boxed 2 fun B => { B with go := true, fromHost := true })).hiu.fn.wait = [2] ∧
    (box 2 (.mbAck 0 2 7) (boxed 2 fun B => { B with go := true })).go = true ∧ (box 2 (.mbAck 0 2 0x80000007) (boxed 2 id)).done = false := by decide +kernel

theorem test_mbLock : (box 2 (.mbLockRead 0 2 .hostFn) (boxed 2 id)).holder = 1 ∧ (box 2 (.mbLockRead 0 2 .hostFn) (boxed 2 fun B => { B with lockLost := true })).lastRead = 0x100 ∧
    (box 2 (.mbLockRead 0 2 .hostFn) (boxed 2 fun B => { B with holder := 5 })).lastRead = 5 ∧ (box 2 (.mbLockRelease 0 2 .hostFn) (boxed 2 fun B => { B with holder := 1 })).holder = 0 ∧
    (box 2 (.mbLockRelease 0 2 .hostFn) (boxed 2 fun B => { B with holder := 5 })).stat = 8 := by decide +kernel

theorem test_doorbells : let s := at0 .hold fun P => let P := msixUp P; { P with hiu := { P.hiu with dbStat := 1, dbMgr := 3, dbHost := 6 } }
    (pl (.dbSet 0 3) s).mgr.evq = [0x0000000000010120] ∧ (after (.dbSet 0 3) s).msix = [(1, 33)] ∧ (pl (.dbStatClear 0 1) s).hiu.dbStat = 0 ∧
    (after (.dbMaskWrite 0 true 1) s).msix = [(1, 32)] ∧ (pl (.dbMaskWrite 0 false 0) s).mgr.evq = [] := by decide +kernel

/-- Channel 3 of Plain 0 after a command. -/
def ch (c : Instr) (s : State) : Channel := (pl c s).dma.ch[(3 : Fin 16)]

/-- Plain 0 in HOLD with channel 3 changed. -/
def chan3 (f : Channel → Channel) : State := at0 .hold fun P => modCh P 3 fun C => f { C with en := true }

theorem test_chCtl : (ch (.chCtlGo 0 3 1) (chan3 id)).running = true ∧ (ch (.chCtlGo 0 3 1) (chan3 fun C => { C with running := true })).latch = true ∧
    (pl (.chCtlGo 0 3 0) (chan3 id)).dma.dropped = 1 ∧ (pl (.chCtlGo 0 3 5) (chan3 id)).dma.dropped = 1 ∧
    (ch (.chCtlCancel 0 3 1) (chan3 fun C => { C with running := true, latch := true })).running = false ∧
    (pl (.chCtlGo 0 15 1) (at0 .hold id)).dma.ch[(15 : Fin 16)].running = false := by decide +kernel

theorem test_startEvent : let s := modPlain (chan3 fun C => { C with cfg := 0x00204001 }) 0 fun P => { P with dma := { P.dma with events := [{ code := 1 }] } }
    (ch (.dmaStartEvent 0) s).running = true ∧ (pl (.dmaStartEvent 0) s).dma.events = [] := by decide +kernel

theorem test_chCfg : (pl (.chCfgWrite 0 3 0x00200000) (chan3 id)).dma.cfgErr = true ∧ (ch (.chCfgWrite 0 3 0x07044001) (chan3 id)).cfg = 0x07044001 ∧
    (ch (.chCfgWrite 0 3 0x07044001) (chan3 fun C => { C with running := true })).cfg = 0x04044001 ∧ (pl (.chCfgWrite 0 3 1) (chan3 id)).dma.cfgErr = true := by decide +kernel

/-- The arbiter grants Plain 0. -/
def grant0 (s : State) : State := { s with power := { s.power with grant := [(0, 0x28)] } }

/-- 14, the descriptor of the example at SPAD 0x2000, and channel 3 running. -/
def example14 (own : Byte) : State :=
  grant0 <| modPlain (chan3 fun C => { C with running := true, dbase := 0x10002000, cfg := 0x00204001 }) 0 fun P => { P with mem := { P.mem with
    spad := writeBytes zeroByte [] 0x2000 (leBytes 8 0x10008000 ++ leBytes 8 0x800001F000 ++ leBytes 8 0x0000105C00002000 ++ leBytes 7 0 ++ [own]) } }

theorem test_descriptorFetch : (ch (.dmaDescriptorFetch 0 3) (example14 0x80)).cur.isSome = true ∧ (ch (.dmaDescriptorFetch 0 3) (example14 0)).empty = true ∧
    (ch (.dmaDescriptorFetch 0 3) (grant0 (chan3 fun C => { C with running := true, dbase := 0x0FFFFFE0 }))).fetchErr = true ∧ clearing (example14 0x80).plains[0] = false ∧
    (transferOf ((ch (.dmaDescriptorFetch 0 3) (example14 0x80)).cur.getD { desc := 0 }).desc).wrapDst = some 16 := by decide +kernel

/-- Channel 3 with the descriptor `d` at an address. -/
def jobAt (a : BitVec 40) (d : Nat) (f : Channel → Channel) : State :=
  grant0 <| modPlain (chan3 fun C => f { C with running := true, dbase := a, cur := some { desc := BitVec.ofNat 256 d } }) 0 msixUp

theorem test_descriptorComplete : let bad := jobAt 0x8000000000 (2 ^ 128 + 2 ^ 162) id
    let stop := jobAt 0x10002000 (2 ^ 162 + 2 ^ 164) fun C => { C with latch := true }
    Memory.wf Config.hostFree bad.hostMem = true ∧ backRoom bad.plains[0] 3 = true ∧
    jobStatus bad.plains[0] { desc := BitVec.ofNat 256 (2 ^ 128 + 2 ^ 162) } ≠ 0 ∧ (ch (.dmaDescriptorComplete 0 3) bad).running = false ∧
    ((pl (.dmaDescriptorComplete 0 3) bad).dma.events.map (·.code)) = [0x13] ∧
    jobStatus stop.plains[0] { desc := BitVec.ofNat 256 (2 ^ 162 + 2 ^ 164) } = 0 ∧ engineServes stop.plains[0] 3 = true ∧
    (ch (.dmaDescriptorComplete 0 3) stop).running = true ∧ (ch (.dmaDescriptorComplete 0 3) stop).latch = false := by decide +kernel


theorem test_ringAbort_of_a_job : let s := fun (m : Mode) (k : JobKind) (f : Plain → Plain) => at0 m fun P => f { modRing P 0 fun R => { R with acc := 0x102, start := 0x102, cmp := 0x101 } with
      hiu := { (modRing P 0 fun R => { R with acc := 0x102, start := 0x102, cmp := 0x101 }).hiu with job := some (0x102, k) } }
    (pl (.ringAbort 0 0x102) (s .hold .step id)).mgr.evq = [0x0000010200000101] ∧ outcomes (.ringAbort 0 0x102) (s .hold .step id) = [0x11] ∧
    (pl (.ringAbort 0 0x102) (s .step .step fun P => { P with run := { P.run with phase := .row9 } })).run.mode = .hold ∧
    (pl (.ringAbort 0 0x102) (s .step .step fun P => { P with run := { P.run with phase := .stepping } })).run.holdCmd = true ∧
    (pl (.ringAbort 0 0x102) (s .run .checkpoint fun P => { P with cap := { P.cap with dueJob := true } })).cap.dueJob = false ∧
    outcomes (.ringAbort 0 0x102) (s .run .hold id) = [] := by decide +kernel

theorem test_sbCtl_sends_vector_0 : let s := fun vec0 => at0 .hold fun P => let P := msixUp P; { P with hiu := { P.hiu with sbEn := true, vec0 := vec0 } }
    (after (.registerWrite 0 .mgrMachine 0x200208 0) (s true)).msix = [(1, 0)] ∧ (after (.registerWrite 0 .mgrMachine 0x200208 0) (s false)).msix = [] ∧
    (pl (.registerWrite 0 .mgrMachine 0x200208 1) (s true)).hiu.vec0 = true := by decide +kernel

theorem test_pio_stopped : (eng (.pioXfer 0 0 0) (pio0 0x000A fun E => { E with running := false, tx := [7] })).tx = [7] ∧
    ((pl (.pioStart 0 1) (at0 .run fun P => { P with run := { P.run with after := some (.reset 1) } })).pio.eng[(0 : Fin 4)]).running = false := by decide +kernel

theorem test_chStat_flags : let s := chan3 fun C => { C with err := true, empty := true }
    (ch (.registerWrite 0 .mgrMachine 0x4010D4 8) s).err = false ∧ (ch (.registerWrite 0 .mgrMachine 0x4010D4 8) s).empty = true ∧
    (ch (.registerWrite 0 .mgrMachine 0x4010CC 9) s).head = 9 ∧ (ch (.registerWrite 0 .mgrMachine 0x4010CC 9) (chan3 fun C => { C with running := true })).head = 0 ∧
    (ch (.dmaDescriptorComplete 0 3) (jobAt 0x8000000000 (2 ^ 128 + 2 ^ 162) id)).err = true ∧
    (pl (.dmaDescriptorComplete 0 3) (jobAt 0x8000000000 (2 ^ 128 + 2 ^ 162) id)).mgr.evq.map (·.extractLsb' 0 16) = [0x141] := by decide +kernel
/-! ## Witnesses: power, resets and faults -/

/-- The fuses of a module in the TEST life-cycle state: the boot ROM asks for no signature. -/
def testChip : Fuses := { lc := 1, lcPend := 1 }

/-- The state after reset with the power controller changed. -/
def pw (f : Power → Power) : State := { State.reset with power := f State.reset.power }

/-- Plain 0 in RUN, in a device that has started, with the core domain of Plain 0 on. -/
def up : State := { at0 .run id with power := { started := true, coreOn := 1 } }

theorem test_grantInterval : let s : State := { at0 .run (fun P => modCh P 0 fun C => { C with running := true }) with power := { vinHist := [12000], iinMax := 85499 } }
    (after .grantInterval s).power.grant = [(0, 0x28)] ∧ (after .grantInterval s).power.curZero = false ∧
    (after .grantInterval { s with power := { vinHist := [12000], iinMax := 85500 } }).power.grant = [] ∧
    (after .grantInterval { s with power := { vinHist := [12000], iinMax := 85500 } }).power.curZero = true := by decide +kernel

theorem test_powerMeasure : let s := at0 .run fun P => { P with health := { P.health with segs := [3] }, ldr := { P.ldr with env := [(3, 100)] } }
    (pl (.powerMeasure 0 101) s).health.envOver = true ∧ (pl (.powerMeasure 0 100) s).health.envOver = false ∧ (pl (.powerMeasure 0 101) State.reset).health.pwrNow = 0 := by decide +kernel

theorem test_throttleEnd : let s := at0 .run fun P => { P with health := { P.health with throttle := 4 } }
    (pl (.throttleEnd 0 2) (atTime 10000 s)).health.throttle = 0 ∧ (pl (.throttleEnd 0 2) (atTime 9999 s)).health.throttle = 4 ∧ (pl (.throttleEnd 0 1) (atTime 10000 s)).health.throttle = 4 := by decide +kernel

theorem test_vinSample : let W := fun mv iin => (after (.vinSample mv iin) up).power
    (W 3999 0).lowSince = some 0 ∧ (W 4000 0).lowSince = none ∧ (W 4499 0).goodSince = none ∧ (W 4500 0).goodSince = some 0 ∧ (W 4399 0).pwrWarn = true ∧ (W 4400 0).pwrWarn = false ∧
    (pl (.vinSample 12000 90000) up).health.throttle = 1 ∧ (pl (.vinSample 12000 89999) up).health.throttle = 0 ∧
    inReset up = false ∧ pwrWarnN (after (.vinSample 4399 0) up) = false ∧ inReset (at0 .run id) = true ∧ (after (.vinSample 4399 0) (at0 .run id)).power.pwrWarn = false ∧
    (after (.vinSample 3199 0) (pw fun W => { W with held := true, rstCause := 2 })).power.rstCause = 0 ∧
    (after (.vinSample 3200 0) (pw fun W => { W with held := true, rstCause := 2 })).power.rstCause = 2 ∧ (W 3199 0).rstCause = 0 := by decide +kernel

theorem test_supplyReset : let s := pw fun W => { W with started := true, lowSince := some 0 }
    (after .supplyReset (atTime 200 s)).power.held = true ∧ (after .supplyReset (atTime 200 s)).power.rstCause = 2 ∧ (after .supplyReset (atTime 199 s)).power.held = false ∧
    (after .supplyReset (atTime 200 (pw fun W => { W with lowSince := some 0 }))).power.rstCause = 0 := by decide +kernel

theorem test_supplyResetRelease : let s := pw fun W => { W with goodSince := some 0, held := true, rstLow := false }
    (after .supplyResetRelease (atTime 1000000 s)).power.started = true ∧ (after .supplyResetRelease (atTime 999999 s)).power.started = false ∧
    (after .supplyResetRelease (atTime 1000000 { s with power := { s.power with rstLow := true } })).power.started = false := by decide +kernel

theorem test_device_resets : (after .rstNAssert up).power.rstCause = 1 ∧ (after (.railFault 8) up).power.rstCause = 5 ∧
    (after .rstNAssert State.reset).power.rstCause = 0 ∧
    (after .rstNAssert (pw fun W => { W with held := true, rstLow := false })).power.rstCause = 0 ∧
    (after .rstNAssert (pw fun W => { W with held := true, rstLow := false })).power.rstLow = true := by decide +kernel

theorem test_thermalSample : (after (.thermalSample (List.replicate 100 115)) (pw fun W => { W with hot := [99] })).power.rstCause = 3 ∧
    (after (.thermalSample (List.replicate 100 114)) (pw fun W => { W with hot := [99] })).power.rstCause = 0 ∧
    (after (.thermalSample (List.replicate 100 94)) (atTime 1000000 (pw fun W => { W with hotHeld := true, goodSince := some 0, rstLow := false }))).power.started = true ∧
    (after (.thermalSample (List.replicate 100 94)) (pw fun W => { W with hotHeld := true })).power.started = false ∧
    (after (.thermalSample (List.replicate 100 94)) (pw fun W => { W with hotHeld := true })).power.hotHeld = false ∧
    (after (.thermalSample (List.replicate 100 95)) (pw fun W => { W with hotHeld := true })).power.hotHeld = true := by decide +kernel

theorem test_thermal_throttle : (pl (.thermalSample (105 :: List.replicate 99 95)) up).health.throttle = 2 ∧
    (pl (.thermalSample (104 :: List.replicate 99 95)) up).health.throttle = 0 := by decide +kernel

theorem test_arbHost : let s := { at0 .hold (fun P => { P with ldr := { P.ldr with pwrRsv := 0x30 } }) with power := { vinHist := [12000] } }
    arbRsv s = 0x90 ∧ (after (.arbHostWrite 0x8F) s).power.hostRefused = true ∧ (after (.arbHostWrite 0x90) s).power.host = 0x90 := by decide +kernel

theorem test_baseReservation : let s := pw fun W => { W with baseWait := 6, vinHist := [12000] }
    (after (.baseReservationGrant 1) s).plains[(1 : Fin 8)].ldr.pwrRsv = 0x30 ∧ (after (.baseReservationGrant 1) s).power.switching.length = 9 ∧
    (after (.baseReservationGrant 2) s).power.baseWait = 6 := by decide +kernel

theorem test_domainSwitchDone : let s := pw fun W => { W with switching := [(0, 9), (0, 3)] }
    (after (.domainSwitchDone 0 9) s).power.coreOn = 1 ∧ (after (.domainSwitchDone 0 3) s).power.switching.length = 2 ∧
    (pl (.domainSwitchDone 0 3) { pw (fun W => { W with switching := [(0, 3)] }) with fuses := testChip }).run.mode = .quarantine ∧
    (pl (.domainSwitchDone 0 3) (pw fun W => { W with switching := [(0, 3)], coreOn := 1, testStart := 1 })).run.mode = .test ∧
    (pl (.domainSwitchDone 0 3) (pw fun W => { W with switching := [(0, 3)], coreOn := 1, testStart := 3 })).run.mode = .valley := by decide +kernel

theorem test_coldStart : let s := atTime 1000000 (pw fun W => { W with vinHist := [12000], goodSince := some 0 })
    (after .coldStart s).power.started = true ∧ (after .coldStart s).power.switching.length = 72 ∧ (after .coldStart s).hlink.up = true ∧
    (after .coldStart (atTime 1000000 (pw fun W => { W with goodSince := some 0 }))).power.baseWait = 0xFF ∧
    (after .coldStart (atTime 999999 s)).power.started = false ∧ (after .coldStart { s with power := { s.power with held := true } }).power.started = false := by decide +kernel

theorem test_warmResets : (after .devRstWarm State.reset).power.rstCause = 0 ∧ (after .devRstWarm (pw fun W => { W with started := true })).power.rstCause = 4 ∧
    (after .pcieHotReset (pw fun W => { W with started := true })).power.rstCause = 6 ∧
    (after .devRstWarm { up with fuses := testChip }).plains[(0 : Fin 8)].run.mode = .quarantine := by decide +kernel

theorem test_plain_railFault : let s := { at0 .run id with power := { started := true, coreOn := 1 } }
    (pl (.railFault 0) s).run.mode = .valley ∧ (pl (.railFault 0) s).health.code = 0x0A ∧ (pl (.railFault 0) (at0 .run id)).run.mode = .run ∧
    (let t := { at0 .run (fun P => { P with health := { P.health with winOpen := true, code := 5 } }) with power := { started := true, coreOn := 1 } }
     (pl (.railFault 0) t).health.code = 0x0C ∧ (pl (.railFault 0) t).run.wakeLock = true) := by decide +kernel

theorem test_tamper : (pl (.tamperDetect 2) (at0 .run id)).mem.stat.getLsbD 3 = true ∧ (pl (.tamperDetect 2) (at0 .run id)).run.mode = .run ∧
    (pl (.tamperDetect 2) { at0 .run id with fuses := { lc := 3, lcPend := 3 } }).run.mode = .quarantine ∧
    (pl (.tamperDetect 2) { at0 .test id with fuses := { lc := 3, lcPend := 3 } }).run.mode = .test ∧ (after (.tamperDetect 4) State.reset).power.tamper = 16 ∧
    (pl (.tamperDetect 2) { State.reset with fuses := { lc := 3, lcPend := 3 } }).run.tamperPend = true ∧
    (runBootRom (at0 .boot fun P => { P with run := { P.run with tamperPend := true } }) 0).plains[(0 : Fin 8)].run.mode = .quarantine := by decide +kernel

theorem test_functionLevelReset : let s := at0 .run fun P => modMb (msixUp P) 2 fun B => { B with holder := 1 }
    (pl (.functionLevelReset 0) s).run.rstCause = 3 ∧ (box 2 (.functionLevelReset 0) s).lockLost = true ∧ (pl (.functionLevelReset 0) s).hiu.fn.bme = false ∧
    (pl (.functionLevelReset 0) (at0 .test id)).run.mode = .test := by decide +kernel

theorem test_reset_joins : let s := at0 .run fun P => { P with run := { P.run with after := some (.reset 1), rstCause := 1, rstCount := 4 } }
    (pl (.plainCtlReset 0 .hostFn) s).run.rstCause = 1 ∧ (pl (.plainCtlReset 0 .hostFn) s).run.rstCount = 4 ∧
    resetCause s.plains[0] 6 = 6 ∧ (pl (.plainCtlReset 0 .hostFn) (at0 .run id)).run.rstCount = 1 := by decide +kernel

theorem test_plainCtl_resets : (pl (.plainCtlReset 0 .hostFn) (at0 .run id)).run.rstCause = 2 ∧ (pl (.plainCtlReset 0 .hostFn) (at0 .test id)).run.refused = true ∧
    (pl (.plainCtlReset 0 .loader) (at0 .run id)).run.rstCause = 9 ∧ (pl (.plainCtlMgrReset 0 .hostFn) { at0 .run id with fuses := testChip }).mgr.lvl = 2 ∧
    (pl (.plainCtlMgrReset 0 .hostFn) State.reset).run.refused = true := by decide +kernel

theorem test_plainCtl_colReset : let s := at0 .hold fun P => tile0 (fun T => { T with q0 := [req true] }) (modTile P 1 fun T => { T with q0 := [req true] })
    (pl (.plainCtlColReset 0 .hostFn 0) s).tiles[(0 : Fin 64)].q0 = [] ∧ (pl (.plainCtlColReset 0 .hostFn 0) s).tiles[(1 : Fin 64)].q0.length = 1 ∧
    (pl (.plainCtlColReset 0 .hostFn 8) s).run.refused = true ∧ (pl (.plainCtlColReset 0 .hostFn 9) s).tiles[(0 : Fin 64)].q0 = [] ∧
    (pl (.plainCtlColReset 0 .hostFn 7) (at0 .quarantine id)).run.colDirty = true ∧ (pl (.plainCtlColReset 0 .hostFn 7) (at0 .run id)).run.refused = true := by decide +kernel

theorem test_plainCtl_ready_and_ack : (pl (.plainCtlReady 0 .mgrMachine) (at0 .boot id)).run.mode = .hold ∧ (pl (.plainCtlReady 0 .hostFn) (at0 .boot id)).run.refused = true ∧
    (pl (.plainCtlReady 0 .mgrMachine) (at0 .run id)).run.refused = true ∧ (pl (.plainCtlFaultAck 0 .hostFn) (on fun P => { P with run := { P.run with wakeLock := true } })).run.wakeLock = false := by decide +kernel

theorem test_plainCtl_wake : let s := pw fun W => { W with started := true, vinHist := [12000] }
    wakeTaken s 0 = true ∧ (pl (.plainCtlWake 0 .hostFn) s).ldr.pwrRsv = 0x30 ∧ (after (.plainCtlWake 0 .hostFn) (pw fun W => { W with started := true })).power.baseWait = 1 ∧
    wakeTaken State.reset 0 = false ∧ (pl (.plainCtlWake 0 .hostFn) State.reset).run.refused = true := by decide +kernel

/-- Plain 0 in HOLD with a window open. -/
def fault (code : Byte) : State := at0 .hold fun P => { P with health := { P.health with winOpen := true, code := code } }

theorem test_fltCtl : (pl (.fltCtlClose 0 .mgrMachine) (fault 5)).health.winOpen = false ∧ (pl (.fltCtlClose 0 .mgrMachine) (fault 6)).health.winOpen = true ∧
    (pl (.fltCtlClose 0 .mgrMachine) (fault 12)).health.winOpen = true ∧ (pl (.fltCtlClose 0 .hostFn) (fault 5)).health.winOpen = true ∧
    (pl (.fltCtlClr 0) (fault 5)).health.code = 5 ∧ (pl (.fltCtlClr 0) (at0 .hold fun P => { P with health := { P.health with code := 5 } })).health.code = 0 := by decide +kernel

/-- Plain 0 in BOOT while its secure part is wiped. -/
def wiping (pend : Bool) : State := at0 .boot fun P => { P with run := { P.run with bootPend := pend }, mem := { P.mem with stat := 8 } }

theorem test_secureWipeDone : (pl (.secureWipeDone 0) (wiping false)).mem.stat = 16 ∧ (pl (.secureWipeDone 0) { wiping true with fuses := testChip }).run.mode = .quarantine ∧
    (pl (.secureWipeDone 0) (at0 .boot id)).mem.stat = 0 := by decide +kernel

theorem test_progress : (pl (.progressWarn 0) (atTime 100000 (at0 .hold id))).health.code = 9 ∧ (pl (.progressWarn 0) (atTime 99999 (at0 .hold id))).health.code = 0 ∧
    (pl (.progressWarn 0) (atTime 100000 (fault 5))).health.code = 0x0C ∧
    (let s := at0 .hold fun P => { P with bus := { P.bus with pmStage := 1 } }
     (pl (.progressTimeout 0) (atTime 200000 s)).run.rstCause = 5 ∧ (pl (.progressTimeout 0) (atTime 199999 s)).run.rstCause = 9) := by decide +kernel

theorem test_rejoin_refusals : (pl (.rejoinGo 0 0x80008000) (at0 .hold id)).run.rejoinStat = 2 ∧
    (let s := at0 .hold fun P => { P with run := { P.run with admitted := true } }
     (pl (.rejoinGo 0 0x80008001) s).run.rejoinStat = 0x14 ∧ (pl (.rejoinGo 0 0x80008000) s).run.rejoinStat = 0x94) := by decide +kernel

theorem test_rejoin_premises : let s := at0 .hold fun P => { P with run := { P.run with admitted := true } }
    (rejoinRecord s 0 0x8000).2.isSome = true ∧
    (let r := (rejoinRecord s 0 0x8000).2.getD ([], []); (rejoinCode 0 s.plains[0] r.1 r.2).1 = 0 ∧ slotMatches s.plains[0] r.1 = false) := by decide +kernel

theorem test_bootRomInstall : let s := { at0 .quarantine (fun P => modMb { P with run := { P.run with bootStat := 0x31 } } 0 fun B =>
      { B with go := true, msg := [(0, 1)] }) with fuses := testChip }
    installRequest s.plains[0] = some (0, 0) ∧ s.plains[0].mem.spadUe = [] ∧ (box 0 (.bootRomInstall 0) s).code = 1 ∧ (box 0 (.bootRomInstall 0) s).done = true ∧
    installRequest (at0 .hold id).plains[0] = none := by decide +kernel


theorem test_resets_that_meet : let s := at0 .run fun P => { P with run := { P.run with after := some (.reset 1), rstCause := 1 } }
    (pl (.functionLevelReset 0) s).run.rstCause = 1 ∧
    (pl (.rejoinGo 0 0x80008000) State.reset).run.rejoinStat = 2 ∧
    (after (.thermalSample (List.replicate 100 115)) (pw fun W => { W with held := true, rstCause := 2, hot := [99] })).power.hotHeld = true := by decide +kernel

theorem test_fault_of_the_same_step : let s := fun (t : Nat) => atTime t (at0 .hold fun P => { P with health := { P.health with winOpen := true, code := 9, openedAt := 0 } })
    (raiseFault (s 0) 0 5 0 id).plains[(0 : Fin 8)].health.first = 5 ∧ (raiseFault (s 0) 0 5 0 id).plains[(0 : Fin 8)].health.second = 9 ∧
    (raiseFault (s 1) 0 5 0 id).plains[(0 : Fin 8)].health.first = 9 := by decide +kernel
/-! ## Witnesses: the bus, the registers, replay, the Manager and the test port -/

/-- An access of 4 bytes. -/
def access (m : Fin 8) (write : Bool) (addr : BitVec 40) : BusReq :=
  { master := m, lvl := 0, write := write, addr := addr, size := 4, data := [1, 2, 3, 4], tag := 0 }

/-- The masters that BUS_ACCESS_SERVED answers, in order. -/
def answered (rs : List BusReq) (s : State) : List (Fin 8) := (pl (.busAccessServed 0 rs) s).bus.served.map (·.master)

/-- Accesses of M2 and M4 to one bank: M4 has the higher rank, until M2 has waited for 100 µs; and a piece of a burst. -/
theorem test_busAccess_ranks : let s := at0 .hold id
    let old := atTime 100001 (at0 .hold fun P => { P with bus := { P.bus with queue := [{ req := access 2 false 0x10000000, id := 0, loose := false, since := 0, tile := 0, standing := true }] } })
    answered [access 2 false 0x10000000, access 4 false 0x10000000] s = [4] ∧ answered [access 4 false 0x10000000] old = [2] ∧
    ((pl (.busAccessServed 0 [access 4 false 0x10000000]) old).bus.queue.map (·.req.master)) = [4] ∧
    look 0 (pl (.busAccessServed 0 [access 2 false 0x10000000, access 4 false 0x10000000]) s).mem.conf 2 = 1 ∧
    (pl (.busAccessServed 0 [access 1 true 0x10000000]) s).mem.spad = [(0, 1), (1, 2), (2, 3), (3, 4)] ∧
    ((pl (.busAccessServed 0 [{ access 2 false 0x10000000 with size := 2048 }]) s).bus.queue.map (·.moved)) = [1024] ∧
    ((pl (.busAccessServed 0 [access 1 true 0x10000000, access 4 false 0x10000000]) s).bus.served.map (·.answer)) = [.data [], .data [1, 2, 3, 4]] := by decide +kernel

theorem test_busAccess_premises : let s := at0 .hold id
    decodeAddr 0xE80000 = .unmapped ∧ decodeAddr 0x10000000 = .spad 0 ∧ hasPath 3 false (.spad 0) = false ∧
    (busAccess s 0 3 0 false 0x10000000 4 []).2 = .error ∧ (busAccess s 0 3 0 false 0x10000000 4 []).1.plains[(0 : Fin 8)].bus.errHi = 0x80000B00 ∧
    (readBytes zeroByte (busAccess s 0 1 2 true (0x10000000 + (secureBase - 8)) 8 [1, 2, 3, 4, 5, 6, 7, 8]).1.plains[(0 : Fin 8)].mem.spad (secureBase - 8) 8) = [1, 2, 3, 4, 5, 6, 7, 8] ∧
    (busAccess s 0 1 1 true (0x10000000 + secureBase) 8 []).2 = .error := by decide +kernel

theorem test_hostBar0 : let s := at0 .hold id
    decodeAddr 0xE00000 = .unmapped ∧ (pl (.hostBar0Access 0 0xE00000 4 false []) s).bus.answer = .data [0xFF, 0xFF, 0xFF, 0xFF] ∧
    (pl (.hostBar0Access 0 0xE00000 4 false []) s).bus.stat = 4 := by decide +kernel

theorem test_bus_commands : (pl (.bmCtlRecovery 0 .hostFn 1) (at0 .hold id)).bus.recovery = true ∧
    (let s := at0 .hold fun P => { P with mem := { P.mem with spadCe := [(3, true)], writeBack := [3], nvsBusy := 4 } }
     (pl (.spadCeWriteback 0) s).mem.writeBack = [] ∧ (pl (.spadCeWriteback 0) s).mem.spadCe = [] ∧ (pl (.nvsLineWriteDone 0) s).mem.nvsBusy = 3) := by decide +kernel

theorem test_registerWrite : let s := { at0 .hold (fun P => { P with bus := { P.bus with stat := 15 } }) with power := { tamper := 31 } }
    (pl (.registerWrite 0 .mgrMachine 0x500004 5) s).bus.stat = 10 ∧ (pl (.registerWrite 0 .hostPf0 0x500004 5) s).bus.stat = 15 ∧
    (pl (.registerWrite 0 .mgrMachine 0x500005 5) s).bus.stat = 15 ∧ (pl (.registerWrite 0 .mgrMachine 0x500030 0xFFFFFFFF) s).bus.pmCtl = 0x8000FFFF ∧
    (after (.registerWrite 8 .hostPf0 0x30100 3) s).power.tamper = 28 ∧ (after (.registerWrite 8 .mgrMachine 0x30100 3) s).power.tamper = 31 := by decide +kernel

theorem test_regWrite : let s := fun (pairs : List (Nat × Nat)) => started 3 2 ((16, pairs.length) :: pairs.zipIdx.flatMap fun x => [(24 + 8 * x.2, x.1.1), (28 + 8 * x.2, x.1.2)]) .hold id
    let one := s [(0x500024, 0x43)]
    let bad := s [(0x500024, 0x43), (0x1000000, 1)]
    startedNow one.plains[0] 3 1 2 (regWriteFields [(0x500024, 0x43)]) = true ∧
    outcomes (.regWrite 0 1 [(0x500024, 0x43)]) one = [0] ∧ (pl (.regWrite 0 1 [(0x500024, 0x43)]) one).bus.qos = 0x43 ∧
    outcomes (.regWrite 0 1 [(0x500024, 0x43), (0x1000000, 1)]) bad = [0x13] ∧ outcomes (.regWrite 0 1 [(0x500024, 0x44)]) one = [] ∧
    (pl (.regWrite 0 1 [(0x500024, 0x43), (0x1000000, 1)]) bad).bus.qos = (at0 .hold id).plains[0].bus.qos := by decide +kernel

theorem test_test_registers : (after (.devRstTestWrite 2) { State.reset with fuses := testChip }).tap.devTest = true ∧ (after (.devRstTestWrite 2) State.reset).tap.denied = true ∧
    (pl (.obsWrite 0 .hostFn 0xD00000 9) { at0 .hold id with fuses := testChip }).health.obsEn = 9 ∧ (pl (.obsWrite 0 .hostFn 0xD00000 9) (at0 .hold id)).health.obsDenied = true ∧
    (pl (.obsWrite 0 .mgrUser 0xD00000 9) { at0 .hold id with fuses := testChip }).health.obsDenied = true ∧
    (after (.obsWrite 8 .hostPf0 0x70100 9) { at0 .hold id with fuses := testChip }).tap.obsEn = 9 := by decide +kernel

theorem test_i2c : (after (.i2cWrite 0x30000 0xFF) up).power.vinWarn = 0x3F ∧ (after (.i2cWrite 0x10008 1) up).nak = true ∧
    (after (.i2cRead 0x0) up).readData = 0x18800 ∧ (after (.i2cRead 0x2) up).nak = true ∧ (after (.i2cRead 0x0) State.reset).nak = true := by decide +kernel

theorem test_counters : let s := at0 .hold fun P => { P with col := { P.col with hops := 0x500000007 }, stall := { P.stall with waitSteps := 5 }, mem := { P.mem with ceCnt := 3, nvsWr := 0x300000001 }, dma := { P.dma with dropped := 4 } }
    (pl (.colHopsRead 0) s).col.hopsHi = 5 ∧ (pl (.colCtlClr 0 2) s).col.hops = 0 ∧ (pl (.colCtlClr 0 2) s).col.freeze = true ∧ (pl (.qsCtlClr 0 0) s).stall.waitSteps = 0 ∧
    (pl (.spadCtlClr 0) s).mem.ceCnt = 0 ∧ (pl (.nvsWrRead 0) s).mem.nvsWrHi = 3 ∧ (pl (.rcCounterRead 0 0x400000) s).dma.dropped = 0 ∧
    (pl (.rcCounterRead 0 0x400004) s).dma.dropped = 4 ∧ (pl (.spadCtlClr 0) State.reset).mem.ceCnt = 0 := by decide +kernel

theorem test_rcCounter_link : (lk (.rcCounterRead 0 0x800018) (at0 .hold (link0 fun L => { L with crcCnt := 9 }))).crcCnt = 0 ∧
    (lk (.rcCounterRead 0 0x800034) (at0 .hold (link0 fun L => { L with crcCnt := 9 }))).crcCnt = 9 := by decide +kernel

/-- Plain 0 in HOLD before cycle 5, whose log holds cycle 5 with one PASS_IN record: link 0, channel 0, word 7, step `k`. -/
def logged (m : Mode) (k : Nat) (f : Plain → Plain) : State :=
  at0 m fun P => f { P with
    run := { P.run with cycle := 5 }
    basin := { P.basin with areaSize := [(0, 1)] }
    cap := { P.cap with sections := [(5, 0)], holdParts := [(6, 8)], written := 8, rplStop := 5
                        staging := [{ bytes := leBytes 8 (4 + k * 2 ^ 13 + 7 * 2 ^ 32), value := false }] } }

theorem test_rplCtlGo : let s := logged .hold 0 id
    logReaches s.plains[0] 5 5 = true ∧ (pl (.rplCtlGo 0 0) s).run.mode = .replay ∧ (pl (.rplCtlGo 0 0) s).run.phase = .row9 ∧
    (pl (.rplCtlGo 0 0x13) s).cap.rplErr = 1 ∧ (pl (.rplCtlGo 0 0) (logged .hold 0 fun P => { P with cap := { P.cap with rplStop := 4 } })).cap.rplErr = 3 ∧
    (pl (.rplCtlGo 0 0) (logged .hold 0 fun P => { P with cap := { P.cap with rplStop := 6 } })).cap.rplErr = 2 ∧
    (pl (.rplCtlGo 0 0) (logged .hold 0 fun P => { P with run := { P.run with colDirty := true } })).run.mode = .hold ∧
    (pl (.rplCtlGo 0 3) (logged .run 0 id)).cap.rplSlot = 3 := by decide +kernel

theorem test_rplCtlGo_restores : let s := logged .hold 0 fun P => { P with cap := { P.cap with dir := [(1, { gen := 0, start := 5, epoch := 0 })] }, ldr := { P.ldr with epochs := [] } }
    find s.plains[0].cap.dir 1 = some { gen := 0, start := 5, epoch := 0 } ∧ replayError s.plains[0] 1 true 5 = 0 := by decide +kernel

/-- The same in REPLAY, with channel 0 of link 0 leading to q3 of tile 2. -/
def replaying (k : Nat) (f : Plain → Plain) : State :=
  logged .replay k fun P => f (modLink { P with run := { P.run with phase := .stepping } } 0 fun L => { L with chan := [(0, 0x42)] })

theorem test_replayLogInject : nextPassIn (replaying 0 id).plains[0] = some (4 + 7 * 2 ^ 32) ∧ (pl (.replayLogInject 0) (replaying 0 id)).tiles[(2 : Fin 64)].q3 = [7] ∧
    (pl (.replayLogInject 0) (replaying 0 id)).cap.rplNext = 1 ∧ (pl (.replayLogInject 0) (replaying 1 id)).cap.rplNext = 0 ∧
    nextPassIn (pl (.replayLogInject 0) (replaying 0 id)) = none ∧
    (pl (.replayLogInject 0) (replaying 0 fun P => modTile P 2 fun T => { T with q3 := List.replicate 8 0 })).cap.rplNext = 0 := by decide +kernel

/-- The instruction of the statement: ALU0.A from g4, ALU0.ADD of g5, g6 from an immediate, one empty slot. -/
def addition : Nat := (0x80 + 4 * 2 ^ 12) + (0x81 + 5 * 2 ^ 12) * 2 ^ 28 + (6 + 0xFFF * 2 ^ 12 + 2 ^ 24) * 2 ^ 56 + 2 ^ 24 * 2 ^ 84 + 3 * 2 ^ 112

theorem test_manager_addition : let s := mgr0 addition fun M => { M with g := [(4, 3), (5, 0xFFFFFFFFFFFFFFFF)], csr := put 0 M.csr 0x234 1 }
    let M := s.plains[(0 : Fin 8)].mgr
    (M.running && M.long.isEmpty && M.ret.isNone && M.envCall.isNone && M.busErr.isNone && !M.fence && !M.flush && !M.waiting && M.blk.isNone) = true ∧
    eventTaken M = false ∧ segCause M M.lvl.val { slot := 0, off := M.pc, len := 16, right := 62 } = none ∧
    find M.fetch (segAddr M M.lvl.val 0 M.pc / 64) = some (leBytes 64 addition) ∧ leNat ((leBytes 64 addition).take 16) = addition ∧
    look 0 (ran s).ports 0x8F = 2 ∧ look 0 (ran s).g 6 = 0xFFFFFFFFFFFFFFFF ∧ (ran s).pc = 16 ∧ look 0 (ran s).csr 0x234 = 0 := by decide +kernel

theorem test_manager_traps : (let M := ran (mgr0 addition fun M => { M with pc := 8 }); look 0 M.csr 0x222 = 5 ∧ look 0 M.csr 0x223 = 8 ∧ look 0 M.csr 0x221 = 8) ∧
    (let s := mgr0 addition fun M => { M with lvl := 1, evq := [0x0000000100000150], csr := put 0 M.csr 0x220 0x400 }
     eventTaken s.plains[(0 : Fin 8)].mgr = true ∧ look 0 (ran s).csr 0x222 = 9 ∧ look 0 (ran s).csr 0x223 = 0x150 ∧ (ran s).pc = 0x400 ∧ look 0 (ran s).csr 0x224 = 4) ∧
    (pl (.managerInstruction 0 1) (mgr0 addition id)).health.code = 6 ∧ (pl (.managerInstruction 0 1) (mgr0 addition id)).mgr.running = false ∧
    (pl (.managerInstruction 0 2) (mgr0 addition id)).health.code = 7 := by decide +kernel

theorem test_longResult : let s := mgr0 0 fun M => { M with steps := 24, long := [{ unit := 0, reg := 10, value := 7, due := 25 }, { unit := 1, reg := 11, value := 9, due := 24 }], board := [(10, true), (11, true)] }
    let M := (pl (.longResult 0) s).mgr
    M.g = [(11, 9)] ∧ M.board = [(10, true)] ∧ M.long.map (·.reg) = [10] := by decide +kernel

/-- The Manager with one memory operation of `n` bytes at `addr`. -/
def memOp (use : MgrUse) (addr : BitVec 40) (n : Nat) (v : DWord) : State :=
  modPlain (mgr0 0 fun M => { M with mem := [{ use := use, addr := addr, size := n, data := v, lvl := 2 }] }) 0 fun P => { P with mem := { P.mem with spad := [(0, 0x80), (1, 0x90)] } }

theorem test_memory_turns : (mgrFronts (memOp .store 0x10000000 2 0).plains[0]).map (·.use) = [.store] ∧
    (mgrFronts (memOp (.load 3 true) 0x10000000 2 0).plains[0]).map (·.size) = [2] ∧
    mgrFronts (modPlain (memOp .store 0x10000000 2 0) 0 fun P => { P with bus := { P.bus with hung := [1] } }).plains[0] = [] := by decide +kernel

theorem test_load_and_store : (pl (.loadDataReturn 0) (memOp (.load 3 true) 0x10000000 2 0)).mgr.g = [(3, 0xFFFFFFFFFFFF9080)] ∧
    (pl (.loadDataReturn 0) (memOp (.load 3 false) 0x10000000 1 0)).mgr.g = [(3, 0x80)] ∧ (pl (.loadDataReturn 0) (memOp .store 0x10000000 1 0)).mgr.mem.length = 1 ∧
    (pl (.managerStoreAccept 0) (memOp .store 0x10000000 2 0x1234)).mem.spad = [(0, 0x34), (1, 0x12)] ∧
    (pl (.managerStoreAccept 0) (memOp (.load 3 false) 0x10000000 2 0)).mgr.mem.length = 1 ∧
    (let M := (pl (.loadDataReturn 0) (memOp (.load 3 false) 0x10000001 2 0)).mgr; M.g = [(3, 0xFFFFFFFFFFFFFFFF)] ∧ M.busErr = some 0x10000001) := by decide +kernel

/-- The Manager and its shadow with a block operation. -/
def blockOp (b : BlkOp) (f : Plain → Plain) : State :=
  modPlain (mgr0 0 fun M => { M with blk := some b, board := [(b.reg, true)] }) 0 fun P => f { P with lock := { P.lock with shadow := { P.lock.shadow with blk := some b } } }

theorem test_block_fill : let s := blockOp { kind := 1, reg := 7, seg := 0, lvl := 2, src := 0, dst := 0, dstAt := 0x10000040, len := 72, done := 0, pat := 0x0807060504030201 } id
    let P := pl (.blockOpDone 0) s
    s.plains[(0 : Fin 8)].lock.delay.isEmpty = true ∧ P.mgr.blk = none ∧ P.mgr.board = [] ∧ P.mem.spad.length = 72 ∧ readBytes zeroByte P.mem.spad 0x80 8 = [1, 2, 3, 4, 5, 6, 7, 8] := by decide +kernel

/-- COPY of 16 bytes onto a destination 8 bytes above, in one group; COMPARE of the source with it. -/
theorem test_block_copy_and_compare : let b : BlkOp := { kind := 0, reg := 7, seg := 0, lvl := 2, src := 0, dst := 8, srcAt := 0x10000000, dstAt := 0x10000008, len := 16, done := 0, pat := 0 }
    let spad := fun P : Plain => { P with mem := { P.mem with spad := [(0, 1), (8, 2)] } }
    (pl (.blockOpDone 0) (blockOp b spad)).mem.spad = [(0, 1), (8, 1), (16, 2)] ∧
    (pl (.blockOpDone 0) (blockOp { b with kind := 2 } spad)).mgr.g = [] ∧
    (pl (.blockOpDone 0) (blockOp { b with kind := 2 } fun P => { P with mem := { P.mem with spad := [(0, 1), (8, 1)] } })).mgr.g = [(7, 8)] ∧
    (pl (.blockOpDone 0) (blockOp { b with kind := 2, len := 8 } fun P => { P with mem := { P.mem with spad := [(0, 1), (8, 1)] } })).mgr.g = [(7, 0xFFFFFFFFFFFFFFFF)] ∧
    (pl (.blockOpDone 0) (blockOp { b with hung := true } spad)).mgr.blk.isSome = true := by decide +kernel

theorem test_lockstep_self_test : let s := mgr0 0 fun M => { M with steps := 0x100000 }
    (pl (.lockstepSelfTest 0 true false) s).mgr.lsStat = 0x100 ∧ (pl (.lockstepSelfTest 0 true true) s).health.code = 6 ∧ (pl (.lockstepSelfTest 0 false false) s).health.code = 7 ∧
    (pl (.lockstepSelfTest 0 true false) (mgr0 0 fun M => { M with steps := 0xFFFFF })).mgr.lsStat = 0 := by decide +kernel

/-- A device in the TEST life-cycle state with Plain 0 in TEST mode: every scope is granted. -/
def bench (f : Tap → Tap) : State := { at0 .test id with fuses := testChip, tap := f {} }

theorem test_tap_pins : (scopeGranted (bench id) 2 && (bench id).plains.toList.any fun P => decide (P.run.mode = .test)) = true ∧ (after .tapExtest (bench id)).tap.pins = .extest ∧
    (after .tapClamp (bench id)).tap.pins = .clamp ∧ (after .tapHighz (bench id)).tap.ir = 5 ∧ scopeGranted State.reset 2 = false ∧ (after .tapExtest State.reset).tap.ir = 0xFF ∧
    (after .tapIdcode (bench id)).tap.captured = 0x1880056F ∧ (after .tapReset (bench fun T => { T with sessOpen := true })).tap.sessOpen = false ∧
    (after .tapBypass (bench fun T => { T with trstLow := true })).tap.ir = 1 ∧ (after .tapBypass (bench id)).tap.irCaptured = 1 := by decide +kernel

theorem test_tap_auth : (after (.tapAuth 5) State.reset).tap.token = some 5 ∧ (after (.tapAuth 5) (bench fun T => { T with lockedAt := some 3 })).tap.token = none ∧
    (after (.tapAuth 5) { State.reset with fuses := { lc := 5, lcPend := 5 } }).tap.denied = true ∧ (after .authVerifyDone State.reset).tap.chals = 0 ∧
    (after .authLockoutEnd (atTime 100000003 (bench fun T => { T with lockedAt := some 3 }))).tap.lockedAt = none ∧
    (after .authLockoutEnd (atTime 100000002 (bench fun T => { T with lockedAt := some 3 }))).tap.lockedAt = some 3 := by decide +kernel

theorem test_tap_verify_premises : (bench fun T => { T with token := some 0 }).tap.token = some 0 := by decide +kernel

theorem test_testctl : let s := (bench id)
    (after (.testctlWrite 0 0x10000000 2 0x04030201) s).plains[(0 : Fin 8)].mem.spad = [(0, 1), (1, 2), (2, 3), (3, 4)] ∧
    (after (.testctlRead 0 0x10000001 2) s).tap.tcStatus = 2 ∧ (after (.testctlRead 0 0x10000001 2) s).tap.tcData = 0xFFFFFFFF ∧
    (after (.testctlRead 0 0xE80000 3) s).tap.tcStatus = 3 ∧ (after (.testctlRead 1 0x10000000 2) s).tap.tcStatus = 2 ∧ (after .testctlPoll State.reset).tap.denied = true ∧
    (after (.testctlRead 0 0x10000000 2) (bench fun T => { T with tcStatus := 3 })).tap.denied = true := by decide +kernel

theorem test_bist : let s := after (.bistGo 0x201) (bench id)
    s.tap.bistBusy = true ∧ s.plains[(0 : Fin 8)].health.bistRes = 0xF0 ∧ (after (.bistGo 0x201) s).tap.bistRefused = true ∧ (after (.bistGo 0x202) (bench id)).tap.bistRefused = false ∧ (after (.bistGo 0x201) State.reset).tap.bistRefused = true ∧
    (after (.bistDone (2 :: List.replicate 7 0xF0)) s).tap.failPl = 1 ∧ (pl (.bistDone (5 :: List.replicate 7 0xF0)) s).health.bistRes = 0xF0 := by decide +kernel

theorem test_observation_pins : let s := { at0 .hold (fun P => { P with health := { P.health with obsEn := 1, obsSel := [(0, 0x19)] }, run := { P.run with stepCount := 256 } }) with
      power := { started := true, vinHist := [3200] } }
    pinOut s 393 = some true ∧ pinOut { s with power := { s.power with vinHist := [3199] } } 393 = none ∧
    obsPlain s 0 0 = true ∧ obsPlain (modPlain s 0 fun P => { P with run := { P.run with mode := .quarantine } }) 0 0 = false ∧ obsPlain s 0 1 = false ∧ obsPlain s 0 2 = false ∧ obsPlain (modPlain s 0 fun P => { P with health := { P.health with obsAt := [(0, 9)] } }) 0 0 = false ∧
    plainSignal { s with power := { s.power with colOn := [(0, 1)] } } 0 0 = true ∧
    (let u := modPlain { s with power := { s.power with colOn := [(0, 1)] } } 0 fun P => { P with run := { P.run with phase := .backPressure } }; plainSignal u 0 0 = false) ∧
    obsDev { s with tap := { s.tap with obsEn := 2, obsSel := [(1, 1)] }, power := { s.power with pwrWarn := true } } 2 = true := by decide +kernel

theorem test_tick : (match step (atTime 7 State.reset) with
    | .next t => t.timeNs == 8 && t.pending.isEmpty
    | _ => false) = true := by decide +kernel

theorem test_front_command : (match step { State.reset with pending := [.tapBypass, .tapIdcode] } with
    | .next t => t.tap.ir == 0xFF && t.pending == [.tapIdcode]
    | _ => false) = true := by decide +kernel

/-- The memories of one Plain are in canonical form: MemInv's condition. -/
def memOk (P : Plain) : Bool :=
  Memory.wf Config.basinFree P.basin.data && Sparse.wf (fun _ => false) P.basin.tags && Memory.wf zeroByte P.mem.spad && Memory.wf zeroByte P.mem.nvs &&
  Sparse.wf (fun _ => (0 : DWord)) P.mgr.g && Sparse.wf (fun _ => (0 : DWord)) P.mgr.ports && Sparse.wf (fun _ => (0 : DWord)) P.mgr.csr

theorem test_invariants_hold_elsewhere : let s := memOp .store 0x10000000 2 0x1234
    s.plains.toList.all memOk = true ∧ Memory.wf Config.hostFree s.hostMem = true ∧ Sparse.wf (fun _ => (0 : BitVec 9)) s.power.colOn = true ∧
    s.fuses.lc.toNat ≤ s.fuses.lcPend.toNat ∧ s.fuses.lcPend.toNat ≤ 5 := by decide +kernel

theorem test_plain_command : (Instr.nvsLineWriteDone 3).plain = some 3 ∧ (after (.nvsLineWriteDone 3) (at0 .run id)).plains[(0 : Fin 8)].run.mode = .run := by decide +kernel

theorem test_host_access_of_pf0 : let s := { up with fuses := testChip }
    (after (.hostBar0Access 8 0 4 false []) s).readData = 0x18800 ∧ (after (.hostBar0Access 8 0 2 false []) s).readData = 0xFFFFFFFF ∧
    (after (.hostBar0Access 8 2 4 false []) s).readData = 0xFFFFFFFF ∧
    (after (.hostBar0Access 8 0x30100 4 true [3, 0, 0, 0]) { s with power := { s.power with tamper := 31 } }).power.tamper = 28 := by decide +kernel

/-- Two readers of one bank in one matrix step, and a register access of 8 bytes: one piece a step. -/
theorem test_busAccess_pieces : let s := at0 .hold id
    let both := .busAccessServed 0 [access 2 false 0x10000000, access 1 false 0x10000000]
    answered [access 2 false 0x10000000, access 1 false 0x10000000] s = [1] ∧ (pl both s).bus.queue.map (·.req.master) = [2] ∧
    look 0 (pl both s).mem.conf 2 = 1 ∧
    ((pl (.busAccessServed 0 [{ access 1 false 0x500000 with size := 8, lvl := 2 }]) s).bus.queue.map (·.moved)) = [4] := by decide +kernel

/-- A word of one move, the other slots empty. -/
def word1 (m ext : Nat) : Nat := m + 2 ^ 24 * 2 ^ 28 + 2 ^ 24 * 2 ^ 56 + 2 ^ 24 * 2 ^ 84 + ext * 2 ^ 112

theorem test_manager_branches : (let M := ran (mgr0 (word1 (0xF0 + 4 * 2 ^ 12) 0) fun M => { M with g := [(4, 0x40)] }); M.pc = 0x40 ∧ M.steps = 2) ∧
    look 0 (ran (mgr0 (word1 (0xF0 + 4 * 2 ^ 12) 0) fun M => { M with g := [(4, 0x41)] })).csr 0x222 = 5 ∧
    (let M := ran (mgr0 (word1 (0xF1 + 4 * 2 ^ 12) 0) fun M => { M with g := [(4, 0x40)], tsp := [(2, 0x100)] })
     look 0 M.csr 0x222 = 2) ∧
    (let M := ran (mgr0 (word1 (0xF1 + 4 * 2 ^ 12) 0) fun M => { M with g := [(4, 0x40)], tsp := [(2, 0x100)], csr := M.csr ++ [(0x147, 0xF00000FFFFFFFFFF)] })
     M.pc = 0x40 ∧ M.tsp = [(2, 0xF8)] ∧ M.mem.map (·.addr) = [0xF8] ∧ M.mem.map (·.data) = [16]) ∧
    (let M := ran (mgr0 (word1 (0xF2 + 2 ^ 24) 0) fun M => { M with tsp := [(2, 0xF8)], csr := M.csr ++ [(0x147, 0xF00000FFFFFFFFFF)] })
     M.ret.isSome = true ∧ M.mem.map (·.size) = [8] ∧ M.pc = 0) := by decide +kernel

/-- CSR.RD of a CSR into g9. -/
def csrRead (n : Nat) : Nat := (0x118 + n * 2 ^ 12 + 2 ^ 24) + (0x119 + 9 * 2 ^ 12 + 2 ^ 24) * 2 ^ 28 + (0x11A + 2 ^ 24) * 2 ^ 56 + 2 ^ 24 * 2 ^ 84

theorem test_manager_csr_and_tret : ((ran (mgr0 (csrRead 0x220) fun M => { M with csr := M.csr ++ [(0x220, 0x400)] })).long.map fun o => (o.reg, o.value)) = [(9, 0x400)] ∧
    look 0 (ran (mgr0 (csrRead 0x106) fun M => { M with lvl := 0, csr := [(0x101, 0xF00000FFFFFFFFFF)] })).csr 0x222 = 6 ∧
    look 0 (ran (mgr0 (csrRead 0x107) fun M => { M with callMode := true })).csr 0x222 = 0 ∧
    look 0 (ran (mgr0 (csrRead 0x700) id)).csr 0x222 = 1 ∧
    (let M := ran (mgr0 (word1 (0xF4 + 2 ^ 24) 0) fun M => { M with csr := M.csr ++ [(0x221, 0x80), (0x224, 6)] })
     M.pc = 0x80 ∧ M.lvl = 1 ∧ look 0 M.csr 0x224 = 7) ∧
    (let P := pl (.managerInstruction 0 0) (mgr0 addition fun M => { M with pc := 8, csr := put 0 M.csr 0x234 2 })
     P.mgr.running = false ∧ P.health.code = 8) := by decide +kernel

/-- A later load answered first waits with its data until the earlier one has come. -/
theorem test_loads_in_order : let o := fun (r : Nat) (a : BitVec 40) (got : Option DWord) => ({ use := .load r false, addr := a, size := 2, data := 0, lvl := 2, got := got } : MgrOp)
    let s := fun ops => modPlain (mgr0 0 fun M => { M with mem := ops, board := [(3, true), (4, true)] }) 0 fun P => { P with mem := { P.mem with spad := [(0, 0x80)] } }
    let M := (pl (.loadDataReturn 0) (s [o 3 0x10000000 none, o 4 0x10000002 (some 7)])).mgr
    M.g = [(3, 0x80), (4, 7)] ∧ M.mem = [] ∧ M.board = [] ∧
    (mgrFronts (s [o 4 0x10000002 (some 7)]).plains[(0 : Fin 8)]) = [] := by decide +kernel

theorem test_boundary_scan : (let t := after .tapSamplePreload State.reset
     t.tap.ir = 2 ∧ t.tap.irCaptured = 1 ∧ t.tap.scans = 1) ∧
    (after .tapSamplePreload (bench fun T => { T with trstLow := true })).tap.scans = 0 := by decide +kernel

end Sys2Proof.Tests
end

section
/-! SUPPORT. Bits of a word written by `setBit`, and the rows that read or clear counters (05 R112, 06 R126, 15 R330, 00 R6). -/

namespace Sys2Proof.Machine

/-! ## Bits and modes -/

/-- A bit that is set reads as set. -/
theorem bit_setBit_same {w : Nat} (v : BitVec w) (i : Nat) (h : i < w) : bit (setBit v i true) i = true := by
  simp [bit, setBit, h]

/-- Setting a bit leaves the others. -/
theorem bit_setBit_other {w : Nat} (v : BitVec w) (i j : Nat) (b : Bool) (h : j ≠ i) : bit (setBit v i b) j = bit v j := by
  have hi : ((1#w) <<< i).getLsbD j = false := by
    simp only [BitVec.getLsbD_shiftLeft, BitVec.getLsbD_one]
    rcases Nat.lt_or_gt_of_ne h with h | h <;> simp [h]
    omega
  cases b
  · simpa [bit, setBit, hi, -BitVec.getLsbD_shiftLeft] using v.lt_of_getLsbD
  · simp [bit, setBit, hi, -BitVec.getLsbD_shiftLeft]

theorem awake_eq_true {P : Plain} (h : P.run.mode ≠ .valley) : awake P = true := decide_eq_true h

theorem awake_eq_false {P : Plain} (h : P.run.mode = .valley) : awake P = false := by simp [awake, h]

/-- Bits 63:32 of a double word as a word of its number. -/
theorem hi32_toNat (x : DWord) : hi32 x.toNat = x.extractLsb' 32 32 := by
  apply BitVec.eq_of_toNat_eq
  simp [Nat.shiftRight_eq_div_pow]

theorem vmod_eq_self {α : Type} {n : Nat} {v : Vector α n} {i : Fin n} {f : α → α} (h : f v[i] = v[i]) : vmod v i f = v := by
  rw [vmod, h]
  exact Vector.set_getElem_self i.isLt

/-- An update that changes nothing of the Plain changes nothing. -/
theorem modPlain_eq_self {s : State} {p : Fin 8} {f : Plain → Plain} (h : f s.plains[p] = s.plains[p]) : modPlain s p f = s := by
  rw [modPlain, vmod_eq_self h]

/-! ## What the rows do to the Plain -/

theorem colCtlPut_clr (v : Word) (P : Plain) : colCtlPut (setBit v 0 true) P =
    { P with col := { P.col with freeze := v.getLsbD 1, hops := 0, hopsHi := 0, dropCnt := 0, lag := [] } } := by
  have h0 : bit (setBit v 0 true) 0 = true := bit_setBit_same v 0 (by decide)
  have h1 : bit (setBit v 0 true) 1 = v.getLsbD 1 := bit_setBit_other v 0 1 true (by decide)
  simp only [colCtlPut, colClear, h0, h1, if_true]

theorem qsCtlPut_clr (v : Word) (P : Plain) : qsCtlPut (setBit v 0 true) P =
    { P with stall := { P.stall with freeze := v.getLsbD 1, waitSteps := 0, bpSteps := 0, max := 0, overCnt := 0 } } := by
  have h0 : bit (setBit v 0 true) 0 = true := bit_setBit_same v 0 (by decide)
  have h1 : bit (setBit v 0 true) 1 = v.getLsbD 1 := bit_setBit_other v 0 1 true (by decide)
  simp only [qsCtlPut, h0, h1, if_true]

/-- Only the link counters at +0x10 to +0x2C are cleared by a read (R6). -/
theorem clearLinkCounter_eq_self {o : Nat} (L : Link) (h : ¬(0x10 ≤ o ∧ o ≤ 0x2C)) : clearLinkCounter o L = L := by
  unfold clearLinkCounter
  split
  case h_9 => rfl
  all_goals omega

theorem modLink_eq_self {P : Plain} {l : Fin 8} {f : Link → Link} (h : f P.links[l] = P.links[l]) : modLink P l f = P := by
  rw [modLink, vmod_eq_self h]

/-- A read at an offset that holds no counter clears nothing. -/
theorem clearCounter_eq_self {off : Nat} (P : Plain) (h0 : off ≠ 0x400000)
    (hl : ¬(0x800000 ≤ off ∧ off < 0x880000 ∧ 0x10 ≤ off % 0x10000 ∧ off % 0x10000 ≤ 0x2C)) : clearCounter off P = P := by
  unfold clearCounter
  rw [if_neg h0]
  split
  · exact modLink_eq_self (clearLinkCounter_eq_self _ (by omega))
  · rfl

theorem captureHops_eq (P : Plain) : captureHops P = { P with col := { P.col with hopsHi := P.col.hops.extractLsb' 32 32 } } := by
  rw [captureHops, hi32_toNat]

theorem captureNvsWr_eq (P : Plain) : captureNvsWr P = { P with mem := { P.mem with nvsWrHi := P.mem.nvsWr.extractLsb' 32 32 } } := by
  rw [captureNvsWr, hi32_toNat]

/-- LINK_CRC_CNT of link `l` is what a read at its offset clears. -/
theorem clearCounter_crcCnt (l : Fin 8) (P : Plain) :
    clearCounter (0x800018 + 0x10000 * l.val) P = modLink P l fun L => { L with crcCnt := 0 } := by
  have ho : (0x800018 + 0x10000 * l.val) % 0x10000 = 0x18 := by omega
  have hl : Fin.ofNat 8 ((0x800018 + 0x10000 * l.val - 0x800000) / 0x10000) = l := Fin.ext (by simp; omega)
  simp only [clearCounter, ho, hl]
  rw [if_neg (by omega), if_pos (by omega)]
  rfl

/-- LINK_CRC_CNT of link `l` is what a read at its offset shows. -/
theorem peekReg_crcCnt (now : Nat) (F : Fuses) (p l : Fin 8) (P : Plain) :
    peekReg now F p P (0x800018 + 0x10000 * l.val) = P.links[l].crcCnt := by
  have hb : (0x800018 + 0x10000 * l.val) / 0x100000 = 8 := by omega
  have ho : (0x800018 + 0x10000 * l.val) % 0x100000 = 0x18 + 0x10000 * l.val := by omega
  have hm : (0x18 + 0x10000 * l.val) % 0x10000 = 0x18 := by omega
  have hl : Fin.ofNat 8 ((0x18 + 0x10000 * l.val) / 0x10000) = l := Fin.ext (by simp; omega)
  simp only [peekReg, hb, ho, readLinkBlock, hm, hl]
  rw [if_pos (by omega)]
  rfl

/-! ## The rows -/

/-- RC_COUNTER_READ answers what the register shows and clears its counter (R6). -/
theorem exec_rcCounterRead {p : Fin 8} {s : State} (off : BitVec 28) (h : s.plains[p].run.mode ≠ .valley) :
    exec (.rcCounterRead p off) s = .next { modPlain s p (clearCounter off.toNat) with
      readData := peekReg s.timeNs s.fuses p s.plains[p] off.toNat } :=
  congrArg Host.Outcome.next (if_pos (awake_eq_true h))

/-- In VALLEY none of these rows acts (18 R378). -/
theorem counterRows_valley {p : Fin 8} {s : State} (h : s.plains[p].run.mode = .valley) (v : Word) (off : BitVec 28) :
    exec (.colCtlClr p v) s = .next s ∧ exec (.qsCtlClr p v) s = .next s ∧ exec (.spadCtlClr p) s = .next s ∧
    exec (.colHopsRead p) s = .next s ∧ exec (.nvsWrRead p) s = .next s ∧ exec (.rcCounterRead p off) s = .next s := by
  have hoff : ∀ t : State, Host.Outcome.next (if awake s.plains[p] = true then t else s) = (.next s : Out) := fun t => by
    rw [awake_eq_false h]
    rfl
  exact ⟨hoff _, hoff _, hoff _, hoff _, hoff _, hoff _⟩

/-- The counters that a control register clears, and the halves that a read captures (R112, R126, R330). -/
theorem counterRows_awake {p : Fin 8} {s : State} (h : s.plains[p].run.mode ≠ .valley) (v : Word) :
    exec (.colCtlClr p v) s = .next (modPlain s p (colCtlPut (setBit v 0 true))) ∧
    exec (.qsCtlClr p v) s = .next (modPlain s p (qsCtlPut (setBit v 0 true))) ∧
    exec (.spadCtlClr p) s = .next (modPlain s p clearMemCounters) ∧
    exec (.colHopsRead p) s = .next (modPlain s p captureHops) ∧
    exec (.nvsWrRead p) s = .next (modPlain s p captureNvsWr) := by
  have hon : ∀ t : State, Host.Outcome.next (if awake s.plains[p] = true then t else s) = (.next t : Out) := fun t => by
    rw [awake_eq_true h]
    rfl
  exact ⟨hon _, hon _, hon _, hon _, hon _⟩

/-- Settles O49, by one equation for each row, in VALLEY and outside it; what a read of a counter clears and shows is said per offset. -/
theorem countersAreClearedAndCaptured : Obligations.CountersAreClearedAndCaptured := by
  intro p s
  refine ⟨fun h v off => counterRows_valley h v off, fun h v => ?_⟩
  obtain ⟨hcol, hqs, hspad, hhops, hnvs⟩ := counterRows_awake h v
  refine ⟨hcol.trans ?_, hqs.trans ?_, hspad, hhops.trans ?_, hnvs.trans ?_, ?_, fun l => ?_, fun off h0 hl => ?_⟩
  · rw [funext (colCtlPut_clr v)]
  · rw [funext (qsCtlPut_clr v)]
  · rw [funext captureHops_eq]
  · rw [funext captureNvsWr_eq]
  · exact exec_rcCounterRead 0x400000 h
  · have ho : (BitVec.ofNat 28 (0x800018 + 0x10000 * l.val)).toNat = 0x800018 + 0x10000 * l.val := by
      rw [BitVec.toNat_ofNat]
      omega
    rw [exec_rcCounterRead _ h, ho, funext (clearCounter_crcCnt l), peekReg_crcCnt]
  · have h0 : off.toNat ≠ 0x400000 := fun e => h0 (BitVec.eq_of_toNat_eq e)
    rw [exec_rcCounterRead off h, modPlain_eq_self (clearCounter_eq_self _ h0 hl)]

end Sys2Proof.Machine
end

section
/-! SUPPORT. What a command does within one Plain: every shared operation that a register access can reach changes, of the eight
Plains, only its own (01 R13), and neither the fuses, the time nor the queue of commands. -/

namespace Sys2Proof.Machine

/-- From `s` to `t` only Plain `p`, and what all Plains share, changes: the other Plains, the fuses, the time and the queue of commands
are kept. -/
structure Within (p : Fin 8) (s t : State) : Prop where
  others : OthersKept p s t
  fuses : t.fuses = s.fuses
  timeNs : t.timeNs = s.timeNs
  pending : t.pending = s.pending

variable {p : Fin 8} {s t u : State}

/-! ## The rules -/

theorem Within.refl (p : Fin 8) (s : State) : Within p s s := ⟨fun _ _ => rfl, rfl, rfl, rfl⟩

/-- A change of what the Plains share. -/
theorem Within.shared (h : Within p s t) (e : (u.plains, u.fuses, u.timeNs, u.pending) = (t.plains, t.fuses, t.timeNs, t.pending)) :
    Within p s u := by
  simp only [Prod.mk.injEq] at e
  obtain ⟨hp, hf, ht, hq⟩ := e
  exact ⟨fun q hne => by rw [hp, h.others q hne], hf.trans h.fuses, ht.trans h.timeNs, hq.trans h.pending⟩

theorem within_modPlain (f : Plain → Plain) (h : Within p s t) : Within p s (modPlain t p f) :=
  ⟨fun q hne => (modPlain_other t p q f hne).trans (h.others q hne), h.fuses, h.timeNs, h.pending⟩

theorem within_tap (T : Tap) (h : Within p s t) : Within p s { t with tap := T } := h.shared rfl

theorem within_power (W : Power) (h : Within p s t) : Within p s { t with power := W } := h.shared rfl

theorem within_ite {c : Prop} [Decidable c] (ht : Within p s t) (hu : Within p s u) : Within p s (if c then t else u) := by
  split
  · exact ht
  · exact hu

/-- A step with an answer, taken either way. -/
theorem within_ite_fst {α : Type} {c : Prop} [Decidable c] {x y : State × α} (hx : Within p s x.1) (hy : Within p s y.1) :
    Within p s (if c then x else y).1 := by
  split
  · exact hx
  · exact hy

/-- The state of an answer that a match has named. -/
theorem Within.of_fst {α : Type} {x : State × α} {a : α} (h : Within p s x.1) (e : x = (t, a)) : Within p s t := by
  rwa [e] at h

theorem within_foldl {α : Type} {f : State → α → State} (hf : ∀ {v} x, Within p s v → Within p s (f v x)) (l : List α)
    (h : Within p s t) : Within p s (l.foldl f t) :=
  List.foldlRecOn l f h fun _ hv x _ => hf x hv

/-! ## Vectors (13 R256-R258) -/

theorem within_sendMsix (f : Nat) (vs : List Nat) (h : Within p s t) : Within p s (sendMsix t f vs) := h.shared rfl

theorem within_vector (vec : Nat) (h : Within p s t) : Within p s (vector t p vec) := by
  rcases vector_cases t p vec with e | e <;> rw [e]
  · exact within_sendMsix _ _ h
  · exact within_modPlain _ h

theorem within_pf0Vector (vec : Nat) (h : Within p s t) : Within p s (pf0Vector t vec) :=
  within_ite (within_sendMsix _ _ h) (h.shared rfl)

/-! ## Faults, QUARANTINE and VALLEY (18 R369, R378, 19 R384-R388) -/

theorem within_finishQuarantine (boot : Bool) (h : Within p s t) : Within p s (finishQuarantine t p boot) := within_modPlain _ h

theorem within_enterQuarantine (boot : Bool) (h : Within p s t) : Within p s (enterQuarantine t p boot) :=
  have hc := within_modPlain _ h
  within_ite h (within_ite hc (within_finishQuarantine boot hc))

theorem within_valleyCompletes (h : Within p s t) : Within p s (valleyCompletes t p) := within_ite h (within_modPlain _ h)

theorem within_powerOff (h : Within p s t) : Within p s (powerOff t p) :=
  within_valleyCompletes (within_power _ (within_modPlain _ h))

theorem within_doubleFault (code unit : Nat) (h : Within p s t) : Within p s (doubleFault t p code unit) :=
  have hc := within_modPlain _ h
  within_ite (within_modPlain _ (within_powerOff hc)) (within_enterQuarantine true hc)

theorem within_raiseFault (code unit : Nat) {k : State → State} (hk : ∀ {v}, Within p s v → Within p s (k v)) (h : Within p s t) :
    Within p s (raiseFault t p code unit k) := by
  rcases raiseFault_cases t p code unit k with ⟨-, e⟩ | ⟨-, -, e⟩ | ⟨-, -, e⟩ <;> rw [e]
  · exact hk (within_modPlain _ h)
  · exact hk h
  · exact within_doubleFault code unit h

theorem within_raiseUe (code unit : Nat) (ws : List Nat) {k : State → State} (hk : ∀ {v}, Within p s v → Within p s (k v))
    (h : Within p s t) : Within p s (raiseUe t p code unit ws k) :=
  within_ite h (within_ite (hk h) (within_modPlain _ (within_raiseFault code unit hk h)))

/-! ## SPAD and NVS (15 R318-R327) -/

theorem within_tagRead (master a : Nat) {x : State × Option (List Byte)} (h : Within p s x.1) : Within p s (tagRead p master a x).1 := by
  unfold tagRead
  split
  · exact h
  · exact within_modPlain _ h

theorem within_tagWrite (master a : Nat) {x : State × Bool} (h : Within p s x.1) : Within p s (tagWrite p master a x).1 :=
  within_ite_fst h (within_modPlain _ h)

theorem within_reportSpadUes (master : Nat) (ws : List Nat) (h : Within p s t) : Within p s (reportSpadUes t p master ws) :=
  within_raiseUe _ _ _ id (within_foldl (fun _ => within_modPlain _) ws h)

theorem within_spadRead (master off n : Nat) (h : Within p s t) : Within p s (spadRead t p master off n).1 :=
  within_reportSpadUes _ _ (within_modPlain _ h)

theorem within_spadWrite (master off : Nat) (bs : List Byte) (h : Within p s t) : Within p s (spadWrite t p master off bs).1 :=
  within_reportSpadUes _ _ (within_modPlain _ h)

theorem within_reportNvsUes (master : Nat) (ls : List Nat) (h : Within p s t) : Within p s (reportNvsUes t p master ls) :=
  within_raiseUe _ _ _ id (within_foldl (fun _ => within_modPlain _) ls h)

theorem within_nvsRead (master off n : Nat) (h : Within p s t) : Within p s (nvsRead t p master off n).1 :=
  within_reportNvsUes _ _ (within_modPlain _ h)

theorem within_nvsWrite (master off : Nat) (bs : List Byte) (h : Within p s t) : Within p s (nvsWrite t p master off bs).1 :=
  within_reportNvsUes _ _ (within_modPlain _ h)

/-! ## The boot ROM and the resets (18 R369-R378) -/

theorem within_romRead (off n : Nat) (h : Within p s t) : Within p s (romRead t p off n).1 := within_tagRead _ _ (within_nvsRead _ _ _ h)

theorem within_romLoad (off n : Nat) (h : Within p s t) : Within p s (romLoad t p off n).1 := within_tagRead _ _ (within_spadRead _ _ _ h)

theorem within_romStore (off : Nat) (bs : List Byte) (h : Within p s t) : Within p s (romStore t p off bs) :=
  within_tagWrite _ _ (within_spadWrite _ _ _ h)

theorem within_readSlot (slot : Nat) (h : Within p s t) : Within p s (readSlot t p slot).1 := by
  have hh := within_romRead slot 4096 h
  unfold readSlot
  split
  next e => exact hh.of_fst e
  next hdr e => exact within_ite_fst (hh.of_fst e) (within_romRead _ _ (hh.of_fst e))

theorem within_unwrapSlots (rec : List Byte) (h : Within p s t) : Within p s (unwrapSlots rec p t).1 := by
  unfold unwrapSlots
  refine List.foldlRecOn (motive := fun x : State × Bool => Within p s x.1) _ _ h fun x hx k _ => ?_
  dsimp only
  split
  · split
    · exact within_romStore _ _ hx
    · exact hx
  · exact hx

theorem within_bootImage (F : Fuses) (rec img : List Byte) (useB fallback : Bool) (h : Within p s t) :
    Within p s (bootImage F p rec img useB fallback t) :=
  have hb := within_romStore 0 (sub img 4096 (num img 12 4)) h
  within_modPlain _ (within_romStore _ _ (within_romStore _ _ (within_ite_fst (within_unwrapSlots rec hb) hb)))

theorem within_verifyFirmware (h : Within p s t) : Within p s (verifyFirmware t p).1 := by
  have hr := within_romRead 0x1000000 1376 h
  unfold verifyFirmware
  refine within_ite_fst h ?_
  split
  next e => exact within_modPlain _ (hr.of_fst e)
  next rec e =>
    have hx := within_readSlot 0 (hr.of_fst e)
    have hy := within_readSlot 0x800000 hx
    exact within_ite_fst (within_modPlain _ (hr.of_fst e))
      (within_ite_fst hy (within_ite_fst (within_modPlain _ hy) (within_bootImage _ _ _ _ _ hy)))

theorem within_verifiedCopy (h : Within p s t) : Within p s (verifiedCopy t p).1 := by
  have hv := within_romLoad (secureBase + 0x480) 65 h
  unfold verifiedCopy
  split
  next e => exact hv.of_fst e
  next v e => exact within_ite_fst (hv.of_fst e) (within_romLoad _ _ (hv.of_fst e))

theorem within_restartFirmware (h : Within p s t) : Within p s (restartFirmware t p).1 := by
  have hc := within_verifiedCopy h
  unfold restartFirmware
  split
  next e => exact within_modPlain _ (hc.of_fst e)
  next e => exact within_verifyFirmware (hc.of_fst e)

theorem within_bootFailed (h : Within p s t) : Within p s (bootFailed t p) :=
  within_ite (within_raiseFault _ _ (within_enterQuarantine false) h)
    (within_ite (within_raiseFault _ _ id h) (within_ite h (within_modPlain _ h)))

theorem within_afterBootRom {x : State × Bool} (h : Within p s x.1) : Within p s (afterBootRom p x) :=
  within_ite h (within_bootFailed h)

theorem within_runBootRom (h : Within p s t) : Within p s (runBootRom t p) :=
  have hc := within_modPlain _ h
  within_ite hc (within_ite (within_modPlain _ (within_modPlain _ h)) (within_ite
    (within_raiseFault _ _ (within_enterQuarantine true) (within_modPlain _ h)) (within_afterBootRom (within_verifyFirmware (within_modPlain _ h)))))

theorem within_enterBoot (h : Within p s t) : Within p s (enterBoot t p) := within_ite h (within_runBootRom (within_modPlain _ h))

theorem within_finishReset (h : Within p s t) : Within p s (finishReset t p) := within_enterBoot (within_modPlain _ h)

theorem within_plainReset (cause : Nat) (h : Within p s t) : Within p s (plainReset t p cause) :=
  have hc := within_modPlain _ h
  within_ite hc (within_finishReset hc)

theorem within_finishValley (h : Within p s t) : Within p s (finishValley t p) := within_powerOff (within_modPlain _ h)

theorem within_afterClose (h : Within p s t) : Within p s (afterClose t p) := by
  unfold afterClose
  refine within_ite h ?_
  split
  · exact within_finishReset h
  · exact within_finishQuarantine _ h
  · exact within_finishValley h
  · exact h

theorem within_managerOnlyReset (h : Within p s t) : Within p s (managerOnlyReset t p) :=
  have hc := within_modPlain _ h
  within_ite (within_runBootRom hc) (within_afterBootRom (within_restartFirmware hc))

/-! ## The Basin (07 R138-R147) -/

theorem within_reportUes (master unit : Nat) (ws : List Nat) (h : Within p s t) : Within p s (reportUes t p master unit ws) :=
  within_raiseUe _ _ _ (within_modPlain _) (within_foldl (fun _ => within_modPlain _) ws h)

theorem within_basinFetch (master unit off n : Nat) (h : Within p s t) : Within p s (basinFetch t p master unit off n).1 :=
  within_reportUes _ _ _ (within_modPlain _ h)

theorem within_journalFor (master unit page : Nat) (h : Within p s t) : Within p s (journalFor p master unit t page) :=
  have hj := within_modPlain _ h
  within_ite hj (within_reportUes _ _ _ (within_modPlain _ hj))

theorem within_basinStore (master unit off : Nat) (bs : List Byte) (h : Within p s t) : Within p s (basinStore t p master unit off bs).1 :=
  within_reportUes _ _ _ (within_modPlain _ (within_modPlain _ (within_foldl (within_journalFor _ _) _ (within_modPlain _ h))))

theorem within_serveAs (k : Fin 64) (x : Option Word) (h : Within p s t) : Within p s (serveAs t p k x) := within_modPlain _ h

theorem within_mmServe (k : Fin 64) (r : MmReq) (h : Within p s t) : Within p s (mmServe t p k r) := by
  unfold mmServe
  dsimp only
  split
  · exact within_modPlain _ (within_serveAs _ _ h)
  · exact within_ite (within_serveAs _ _ (within_basinStore _ _ _ _ (within_ite (within_modPlain _ h) h)))
      (within_serveAs _ _ (within_basinFetch _ _ _ _ h))

theorem within_performUpTo (upTo : Fin 64 → Bool) (rs : List (Fin 64 × MmReq)) (h : Within p s t) :
    Within p s (performUpTo upTo p rs t) := by
  induction rs generalizing t with
  | nil => exact h
  | cons x rest ih =>
    have hs := within_mmServe x.1 x.2 (within_modPlain (fun P => { P with basin := { P.basin with recv := rest } }) h)
    exact within_ite hs (ih hs)

theorem within_settle (h : Within p s t) : Within p s (settle t p) := within_performUpTo _ _ h

theorem within_basinRead (master unit off n : Nat) (h : Within p s t) : Within p s (basinRead t p master unit off n).1 :=
  within_basinFetch _ _ _ _ (within_settle h)

theorem within_basinWrite (master unit off : Nat) (bs : List Byte) (h : Within p s t) : Within p s (basinWrite t p master unit off bs).1 :=
  within_basinStore _ _ _ _ (within_settle h)

/-! ## Capture and replay (09 R194, R195) -/

theorem within_engineNote (off n : Nat) (h : Within p s t) : Within p s (engineNote p off n t) :=
  within_reportUes _ _ _ (within_modPlain _ h)

theorem within_logNote (a b : Nat) (h : Within p s t) : Within p s (logNote p a b t) :=
  within_ite h (within_engineNote _ _ (within_engineNote _ _ h))

theorem within_noteHold (c : Nat) (h : Within p s t) : Within p s (noteHold p c t) := by
  unfold noteHold
  split
  · exact within_logNote _ _ h
  · exact h

theorem within_applyExtWr (rs : List (List Byte)) (h : Within p s t) : Within p s (applyExtWr p rs t) :=
  within_foldl (fun _ hv => within_ite (within_basinWrite _ _ _ _ hv) hv) rs h

theorem within_noteJournal (g : Nat) (h : Within p s t) : Within p s (noteJournal p g t) :=
  within_ite (within_engineNote _ _ (within_engineNote _ _ h)) (within_engineNote _ _ h)

theorem within_restore (tstep k : Nat) (e : CkptEntry) (h : Within p s t) : Within p s (restore tstep p k e t) :=
  within_applyExtWr _ (within_noteHold _ (within_modPlain _ (within_engineNote _ _ (within_noteJournal _ (within_settle h)))))

theorem within_replayBegin (k : Nat) (restoring : Bool) (h : Within p s t) : Within p s (replayBegin k restoring t p) := by
  unfold replayBegin
  extract_lets s0 s1 P
  have h1 : Within p s s1 := by
    have h0 : Within p s s0 := within_modPlain _ h
    unfold s1
    split
    · exact within_restore _ _ _ h0
    · exact within_modPlain _ h0
    · exact h0
  exact within_ite h1 (within_modPlain _ h1)

theorem within_replayGo (k : Nat) (fromSlot : Bool) (stop : BitVec 48) (h : Within p s t) : Within p s (replayGo t p k fromSlot stop) :=
  have h0 := within_modPlain _ h
  have h1 := within_modPlain _ h0
  within_ite (within_modPlain _ h0) (within_ite h1 (within_replayBegin _ _ h1))

theorem within_linksClosed (h : Within p s t) : Within p s (linksClosed t p) := by
  unfold linksClosed
  split
  · exact within_ite h (within_replayBegin _ _ h)
  · exact within_afterClose h

theorem within_rplCtlWrite (v : Word) (h : Within p s t) : Within p s (rplCtlWrite t p v) :=
  within_ite (within_modPlain _ h) (within_replayGo _ _ _ h)

/-! ## LINK_CTL (08 R179) -/

theorem within_ctlEn (l : Fin 8) (v : Word) (h : Within p s t) : Within p s (ctlEn t p l v) := within_modPlain _ h

theorem within_ctlRetrain (l : Fin 8) (h : Within p s t) : Within p s (ctlRetrain t p l) := within_modPlain _ h

theorem within_ctlClose (l : Fin 8) (h : Within p s t) : Within p s (ctlClose t p l) := within_linksClosed (within_modPlain _ h)

theorem within_ctlRetRel (l : Fin 8) (h : Within p s t) : Within p s (ctlRetRel t p l) := within_modPlain _ h

theorem within_ctlOpen (l : Fin 8) (h : Within p s t) : Within p s (ctlOpen t p l) := within_modPlain _ h

theorem within_linkCtlWrite (l : Fin 8) (v : Word) (h : Within p s t) : Within p s (linkCtlWrite t p l v) :=
  have h0 := within_ctlEn l v h
  have h1 := within_ite (within_ctlRetrain l h0) h0
  have h2 := within_ite (within_ctlClose l h1) h1
  have h3 := within_ite (within_ctlRetRel l h2) h2
  within_ite (within_ctlOpen l h3) h3

/-! ## Rings, mailboxes and doorbell bits (13 R260-R288) -/

theorem within_ringFlag (r : Fin 4) (i : Nat) (h : Within p s t) : Within p s (ringFlag t p r i) :=
  within_ite h (within_vector _ (within_modPlain _ h))

theorem within_ringDoorbell (r : Fin 4) (v : Word) (h : Within p s t) : Within p s (ringDoorbell t p r v) :=
  have h0 := within_tap { t.tap with obsDoorbell := some t.timeNs } (within_modPlain (fun P => modRing P r fun R => { R with dbLast := v }) h)
  within_ite (within_modPlain _ h0) (within_ite (within_ringFlag _ _ (within_modPlain _ h0))
    (within_ite (within_modPlain _ h0) (within_modPlain _ (within_modPlain _ h0))))

theorem within_abortStarted (q : Word) (h : Within p s t) : Within p s (abortStarted t p q) := within_modPlain _ h

theorem within_ringAbortWrite (q : Word) (h : Within p s t) : Within p s (ringAbortWrite t p q) :=
  within_ite h (within_ite (within_modPlain _ h) (within_ite (within_abortStarted _ h) (within_ringFlag _ _ h)))

theorem within_fwStartWrite (v : Word) (h : Within p s t) : Within p s (fwStartWrite t p v) :=
  within_ite h (within_ite (within_modPlain _ (within_ringFlag _ _ h))
    (within_ite (within_modPlain _ (within_modPlain _ h)) (within_modPlain _ (within_modPlain _ h))))

theorem within_fwPostWrite (v : Word) (h : Within p s t) : Within p s (fwPostWrite t p v) :=
  within_ite h (within_ite (within_ringFlag _ _ h) (within_modPlain _ h))

theorem within_ringInitWrite (r : Fin 4) (v : Word) (h : Within p s t) : Within p s (ringInitWrite t p r v) := within_modPlain _ h

theorem within_ringCfgPut (r : Fin 4) (v : Word) (h : Within p s t) : Within p s (ringCfgPut t p r v) :=
  within_ite h (within_ite (within_ringFlag _ _ h) (within_ite (within_ringFlag _ _ (within_modPlain _ h)) (within_modPlain _ h)))

theorem within_cqCseqPut (v : Word) (h : Within p s t) : Within p s (cqCseqPut t p v) :=
  within_ite h (within_ite (within_ite h (within_vector _ (within_modPlain _ h))) (within_modPlain _ h))

theorem within_sbCtlPut (v : Word) (h : Within p s t) : Within p s (sbCtlPut t p v) :=
  have h0 := within_modPlain _ h
  within_ite (within_vector _ h0) h0

theorem within_mbCtlWrite (m : Fin 4) (who : Agent) (v : Word) (h : Within p s t) : Within p s (mbCtlWrite t p m who v) :=
  have h0 := within_modPlain _ h
  have h1 := within_modPlain _ h0
  within_ite h (within_ite h0 (within_ite (within_modPlain _ h0) (within_ite (within_modPlain _ h0) (within_ite h0
    (within_ite (within_modPlain _ h0) (within_ite (within_modPlain _ h1) (within_vector _ h1)))))))

theorem within_mbAckWrite (m : Fin 4) (v : Word) (h : Within p s t) : Within p s (mbAckWrite t p m v) :=
  have h0 := within_modPlain _ h
  within_ite h (within_ite (within_vector _ h0) (within_modPlain _ h0))

theorem within_mbLockGet (m : Fin 4) (who : Agent) (h : Within p s t) : Within p s (mbLockGet t p m who).1 :=
  within_ite_fst h (within_ite_fst h (within_ite_fst (within_modPlain _ h) (within_modPlain _ h)))

theorem within_mbLockPut (m : Fin 4) (who : Agent) (v : Word) (h : Within p s t) : Within p s (mbLockPut t p m who v) :=
  within_modPlain _ h

theorem within_dbUpdate (stat mgr host : Word) (h : Within p s t) : Within p s (dbUpdate t p stat mgr host) :=
  within_foldl (fun _ hv => within_ite (within_vector _ hv) hv) _ (within_modPlain _ (within_modPlain _ h))

theorem within_dbSetBits (v : Word) (h : Within p s t) : Within p s (dbSetBits t p v) := within_dbUpdate _ _ _ (within_tap _ h)

/-! ## PLAIN_CTL, REJOIN_CTL and FLT_CTL (18 R370-R379, 19 R393) -/

theorem within_powerUp (h : Within p s t) : Within p s (powerUp t p) :=
  within_power _ (within_modPlain _ h)

theorem within_requestBase (h : Within p s t) : Within p s (requestBase t p) :=
  within_ite (within_powerUp h) (within_ite h (within_pf0Vector _ (within_power _ h)))

theorem within_refuseCtl (h : Within p s t) : Within p s (refuseCtl t p) := within_modPlain _ h

theorem within_wake (h : Within p s t) : Within p s (wake t p) := within_ite (within_requestBase h) (within_refuseCtl h)

theorem within_colResetCtl (pc : Nat) (h : Within p s t) : Within p s (colResetCtl t p pc) := by
  unfold colResetCtl
  dsimp only
  split
  · exact within_refuseCtl h
  · exact within_ite (within_modPlain _ h) (within_refuseCtl h)

theorem within_plainReady (h : Within p s t) : Within p s (plainReady t p) := within_ite (within_modPlain _ h) (within_refuseCtl h)

theorem within_plainCtlWrite (who : Agent) (v : Word) (h : Within p s t) : Within p s (plainCtlWrite t p who v) :=
  have h0 := within_ite (within_modPlain _ h) h
  have h1 := within_ite (within_refuseCtl h0) h0
  have h2 := within_ite (within_ite (within_plainReady h1) (within_refuseCtl h1)) h1
  have h3 := within_ite (within_colResetCtl _ h2) h2
  within_ite h (within_ite (within_wake h0) (within_ite (within_ite (within_plainReset _ h3) (within_refuseCtl h3))
    (within_ite (within_ite (within_managerOnlyReset h3) (within_refuseCtl h3)) h3)))

theorem within_loaderLoad (off n : Nat) (h : Within p s t) : Within p s (loaderLoad t p off n).1 :=
  within_tagRead _ _ (within_spadRead _ _ _ h)

theorem within_rejoinRecord (off : Nat) (h : Within p s t) : Within p s (rejoinRecord t p off).1 := by
  have hl := within_loaderLoad off (64 + 668) h
  unfold rejoinRecord
  refine within_ite_fst h ?_
  split
  next e => exact hl.of_fst e
  next e => exact within_ite_fst (hl.of_fst e) (within_loaderLoad _ _ (hl.of_fst e))

theorem within_rejoinSlotRead (hd : List Byte) (o n : Nat) (h : Within p s t) : Within p s (rejoinSlotRead p hd o n t).1 :=
  within_engineNote _ _ (within_settle h)

theorem within_rejoinFail (err code : Nat) (h : Within p s t) : Within p s (rejoinFail t p err code) := within_modPlain _ h

theorem within_rejoinSlot (bank : Nat) (hd cfg : List Byte) (h : Within p s t) : Within p s (rejoinSlot t p bank hd cfg) :=
  have h0 := within_rejoinSlotRead hd 0 64 h
  have h1 := within_rejoinSlotRead hd 64 (slotBytes - 64) h0
  within_ite (within_rejoinFail _ _ h) (within_ite h0 (within_ite (within_rejoinFail _ _ h0)
    (within_ite h1 (within_ite (within_rejoinFail _ _ h1) (within_modPlain _ h1)))))

theorem within_rejoinWrite (v : Word) (h : Within p s t) : Within p s (rejoinWrite t p v) := by
  have h0 := within_modPlain (fun P => { P with run := { P.run with rejoinOff := v.setWidth 24 } }) h
  have hr := within_rejoinRecord (fld v 0 24) h0
  unfold rejoinWrite
  refine within_ite h0 (within_ite (within_rejoinFail _ _ h0) ?_)
  split
  next e => exact within_rejoinFail _ _ (hr.of_fst e)
  next e => exact within_ite (within_rejoinFail _ _ (hr.of_fst e)) (within_rejoinSlot _ _ _ (hr.of_fst e))

theorem within_fltClose (who : Agent) (h : Within p s t) : Within p s (fltClose t p who) := within_ite (within_modPlain _ h) h

theorem within_fltCtlWrite (who : Agent) (v : Word) (h : Within p s t) : Within p s (fltCtlWrite t p who v) :=
  within_modPlain _ (within_ite (within_fltClose who h) h)

/-! ## Registers of a Plain's window (22 R424) -/

theorem within_writeModeBlock (who : Agent) (o : Nat) (v : Word) (h : Within p s t) : Within p s (writeModeBlock t p who o v) := by
  unfold writeModeBlock
  split
  · exact within_ite (within_modPlain _ h) h
  · exact within_plainCtlWrite _ _ h
  · exact within_rejoinWrite _ h
  · exact within_modPlain _ h
  · exact h

theorem within_writeRing (r : Fin 4) (o : Nat) (v : Word) (h : Within p s t) : Within p s (writeRing t p r o v) := by
  unfold writeRing
  dsimp only
  split
  · exact within_ringCfgPut _ _ h
  · exact within_modPlain _ h
  · exact within_modPlain _ h
  · exact within_ringDoorbell _ _ h
  · exact within_ringInitWrite _ _ h
  · exact within_ite (within_ringAbortWrite _ h) h
  · exact within_modPlain _ h
  · exact h

theorem within_writeRingBlock (o : Nat) (v : Word) (h : Within p s t) : Within p s (writeRingBlock t p o v) := by
  unfold writeRingBlock
  refine within_ite (within_writeRing _ _ _ h) ?_
  split
  · exact within_ite (within_modPlain _ h) h
  · exact within_modPlain _ h
  · exact within_modPlain _ h
  · exact within_cqCseqPut _ h
  · exact within_ite (within_modPlain _ h) h
  · exact within_ite (within_modPlain _ h) h
  · exact within_ite (within_modPlain _ h) h
  · exact within_sbCtlPut _ h
  · exact within_ite (within_modPlain _ h) h
  · exact within_ite (within_modPlain _ h) h
  · exact within_fwStartWrite _ h
  · exact within_modPlain _ h
  · exact within_modPlain _ h
  · exact within_fwPostWrite _ h
  · exact h

theorem within_writeMbBlock (who : Agent) (o : Nat) (v : Word) (h : Within p s t) : Within p s (writeMbBlock t p who o v) := by
  unfold writeMbBlock
  refine within_ite (within_ite (within_modPlain _ h) ?_) ?_
  · split
    · exact within_mbCtlWrite _ _ _ h
    · exact within_mbAckWrite _ _ h
    · exact within_mbLockPut _ _ _ h
    · exact within_modPlain _ h
    · exact h
  · split
    · exact within_dbUpdate _ _ _ h
    · exact within_dbSetBits _ h
    · exact within_dbUpdate _ _ _ h
    · exact within_dbUpdate _ _ _ h
    · exact h

theorem within_writeLink (l : Fin 8) (o : Nat) (v : Word) (h : Within p s t) : Within p s (writeLink t p l o v) := by
  unfold writeLink
  refine within_ite (within_modPlain _ h) ?_
  split
  · exact within_linkCtlWrite _ _ h
  · exact within_modPlain _ h
  · exact h

theorem within_writeLinkBlock (o : Nat) (v : Word) (h : Within p s t) : Within p s (writeLinkBlock t p o v) := by
  unfold writeLinkBlock
  refine within_ite (within_writeLink _ _ _ h) ?_
  split
  · exact within_modPlain _ h
  · exact within_modPlain _ h
  · exact h

theorem within_writeCapBlock (o : Nat) (v : Word) (h : Within p s t) : Within p s (writeCapBlock t p o v) := by
  unfold writeCapBlock
  refine within_ite (within_ite (within_modPlain _ h) h) ?_
  split
  · exact within_modPlain _ h
  · exact within_modPlain _ h
  · exact within_modPlain _ h
  · exact within_rplCtlWrite _ h
  · exact within_modPlain _ h
  · exact within_modPlain _ h
  · exact within_ite (within_modPlain _ h) h
  · exact h

theorem within_writeHealthBlock (who : Agent) (o : Nat) (v : Word) (h : Within p s t) : Within p s (writeHealthBlock t p who o v) := by
  unfold writeHealthBlock
  split
  · exact within_ite (within_modPlain _ h) h
  · exact within_fltCtlWrite _ _ h
  · exact h

theorem within_obsPut (who : Agent) (o : Nat) (v : Word) (h : Within p s t) : Within p s (obsPut t p who o v) :=
  within_ite h (within_ite (within_modPlain _ h) (within_modPlain _ h))

theorem within_pokeReg (who : Agent) (off : Nat) (v : Word) (h : Within p s t) : Within p s (pokeReg t p who off v) := by
  unfold pokeReg
  dsimp only
  split
  · exact within_writeModeBlock _ _ _ h
  · exact within_modPlain _ h
  · exact within_writeRingBlock _ _ h
  · exact within_writeMbBlock _ _ _ h
  · exact within_modPlain _ h
  · exact within_modPlain _ h
  · exact within_modPlain _ h
  · exact within_modPlain _ h
  · exact within_writeLinkBlock _ _ h
  · exact within_modPlain _ h
  · exact within_writeCapBlock _ _ h
  · exact within_modPlain _ h
  · exact within_writeHealthBlock _ _ _ h
  · exact within_obsPut _ _ _ h
  · exact h

theorem within_writeReg (who : Agent) (off : Nat) (v : Word) (h : Within p s t) : Within p s (writeReg t p who off v) :=
  have hs := within_ite (within_settle h) h
  within_ite (within_pokeReg _ _ _ hs) hs

theorem within_readReg (who : Agent) (off : Nat) (h : Within p s t) : Within p s (readReg t p who off).1 :=
  within_ite_fst h (within_ite_fst (within_mbLockGet _ _ h) (within_ite_fst (within_modPlain _ h)
    (within_ite_fst (within_modPlain _ h) (within_ite_fst (within_modPlain _ h) (within_modPlain _ h)))))

/-! ## The bus matrix (15 R307-R316) -/

theorem within_memRead (master a n : Nat) (h : Within p s t) : Within p s (memRead t p master a n).1 := by
  unfold memRead
  split
  · exact within_ite_fst (within_modPlain _ h) (within_tagRead _ _ (within_spadRead _ _ _ h))
  · exact within_tagRead _ _ (within_basinRead _ _ _ _ h)
  · exact within_tagRead _ _ (within_nvsRead _ _ _ h)
  · exact h
  · exact within_modPlain _ h

theorem within_memStore {toBasin : State → Nat → List Byte → State × Bool}
    (hb : ∀ {v} off bs, Within p s v → Within p s (toBasin v off bs).1) (master lvl a : Nat) (bs : List Byte) (h : Within p s t) : Within p s (memStore toBasin t p master lvl a bs).1 := by
  unfold memStore
  split
  · exact within_ite_fst (within_modPlain _ h) (within_tagWrite _ _ (within_spadWrite _ _ _ h))
  · exact within_tagWrite _ _ (hb _ _ h)
  · exact within_ite_fst (within_tagWrite _ _ (within_nvsWrite _ _ _ h)) (within_modPlain _ h)
  · exact within_ite_fst (h.shared rfl) h
  · exact within_modPlain _ h

theorem within_busFault (m a kind : Nat) (h : Within p s t) : Within p s (busFault t p m a kind).1 := within_modPlain _ h

theorem within_busUnmapped (m a : Nat) (h : Within p s t) : Within p s (busUnmapped t p m a).1 := within_modPlain _ h

theorem within_busReadRegs (who : Agent) (off k : Nat) (h : Within p s t) : Within p s (busReadRegs t p who off k).1 := by
  induction k generalizing t off with
  | zero => exact h
  | succ k ih => exact ih _ (within_readReg _ _ h)

theorem within_busWriteRegs (who : Agent) (off k : Nat) (bs : List Byte) (h : Within p s t) :
    Within p s (busWriteRegs t p who off k bs) := by
  induction k generalizing t off bs with
  | zero => exact h
  | succ k ih => exact ih _ _ (within_writeReg _ _ _ h)

theorem within_answerOf {x : State × Option (List Byte)} (h : Within p s x.1) : Within p s (answerOf x).1 := by
  unfold answerOf
  split <;> exact h

theorem within_busReadAt (x : Access) (h : Within p s t) : Within p s (busReadAt t p x).1 := by
  unfold busReadAt
  split
  · exact within_answerOf (within_tagRead _ _ (within_spadRead _ _ _ h))
  · exact within_busReadRegs _ _ _ h
  · exact h
  · dsimp only
    split
    · exact within_modPlain _ h
    · exact within_busFault _ _ _ h
  · exact within_answerOf (within_memRead _ _ _ h)

theorem within_busWriteAt (x : Access) (bs : List Byte) (h : Within p s t) : Within p s (busWriteAt t p x bs).1 := by
  unfold busWriteAt
  split
  · exact within_tagWrite _ _ (within_spadWrite _ _ _ h)
  · exact within_busWriteRegs _ _ _ _ h
  · exact within_ite_fst (within_modPlain _ h) (within_busFault _ _ _ h)
  · exact within_memStore (fun _ _ => within_basinWrite _ _ _ _) _ _ _ _ h

theorem within_serveAccess (x : Access) (data : List Byte) (h : Within p s t) : Within p s (serveAccess t p x data).1 := by
  unfold serveAccess
  refine within_ite_fst (within_busUnmapped _ _ h) ?_
  split
  · exact within_busFault _ _ _ h
  · exact within_ite_fst (within_busWriteAt _ _ h) (within_busReadAt _ h)

theorem within_serveOne (e : BusWait) (h : Within p s t) : Within p s (serveOne p t e) :=
  within_ite h (within_modPlain _ (within_serveAccess _ _ h))

theorem within_matrixStep (ws : List BusWait) (h : Within p s t) : Within p s (matrixStep p ws t) :=
  within_modPlain _ (within_foldl within_serveOne ws (within_modPlain _ h))

theorem within_awaitTurn (n : Nat) (h : Within p s t) : Within p s (awaitTurn p n t).1 := by
  induction n generalizing t with
  | zero => exact within_modPlain _ h
  | succ n ih =>
    unfold awaitTurn
    dsimp only
    split
    · exact within_modPlain _ (within_matrixStep _ h)
    · exact within_ite_fst (within_modPlain _ h) (ih (within_matrixStep _ h))

theorem within_takeTurn (tag : Nat) (x : Access) (h : Within p s t) : Within p s (takeTurn t p tag x).1 :=
  have hr := within_ite_fst h (within_awaitTurn _ (within_modPlain _ h))
  within_ite_fst (within_modPlain _ hr) hr

theorem within_busPieces (x : Access) (data : List Byte) (n moved : Nat) (got : List Byte) (bad : Bool) (h : Within p s t) :
    Within p s (busPieces p x data n moved got bad t).1 := by
  induction n generalizing t moved got bad with
  | zero => exact h
  | succ n ih =>
    have hturn := within_takeTurn 0 (pieceOf t.plains[p] x moved) h
    unfold busPieces
    dsimp only
    split
    next e => exact hturn.of_fst e
    next e =>
      have hserve := within_serveAccess (pieceOf t.plains[p] x moved) (sub data moved (pieceOf t.plains[p] x moved).size) (hturn.of_fst e)
      exact within_ite_fst hserve (within_ite_fst (ih _ _ _ hserve) hserve)

theorem within_busAccess (m lvl : Nat) (write : Bool) (a n : Nat) (data : List Byte) (h : Within p s t) :
    Within p s (busAccess t p m lvl write a n data).1 :=
  have hp := within_busPieces _ _ _ _ _ _ h
  within_ite (within_modPlain _ hp) hp

/-! ## The host's accesses (15 R309, 13 R256-R258) -/

theorem within_plainFnPut (off : Nat) (v : Word) (h : Within p s t) : Within p s (plainFnPut t p off v) :=
  within_sendMsix _ _ (within_modPlain _ h)

theorem within_hostUnmap (h : Within p s t) : Within p s (hostUnmap t p) := within_modPlain _ h

theorem within_hostInValley (off n : Nat) (write : Bool) (data : List Byte) (h : Within p s t) :
    Within p s (hostInValley t p off n write data).1 :=
  within_ite_fst (within_ite_fst (within_busWriteRegs _ _ _ _ h) (within_busReadRegs _ _ _ h)) h

theorem within_hostAccess (off n : Nat) (write : Bool) (data : List Byte) (h : Within p s t) :
    Within p s (hostAccess t p off n write data).1 :=
  have ha := within_busAccess _ _ _ _ _ _ h
  within_ite_fst (within_hostInValley _ _ _ _ h) (within_ite_fst (within_hostUnmap h) (within_ite_fst (within_modPlain _ ha) ha))

theorem within_hostWrite (off : Nat) (v : Word) (h : Within p s t) : Within p s (hostWrite t p off v) :=
  within_ite (within_plainFnPut _ _ h) (within_ite (within_writeReg _ _ _ h) (within_hostAccess _ _ _ _ h))

theorem within_pf0PlainWrite (off : Nat) (v : Word) (h : Within p s t) : Within p s (pf0PlainWrite t p off v) :=
  within_ite (within_writeReg _ _ _ h) h

end Sys2Proof.Machine
end

section
/-! SUPPORT. Who reaches which registers: REGISTER_WRITE and OBS_WRITE by window and agent (22 R422, R424, 20 R400), REG_WRITE (13 R272),
the host's accesses to PF0 (22 R421) and the I²C slave (21 R413). -/

namespace Sys2Proof.Machine

variable {s : State}

/-! ## REGISTER_WRITE (22 R422, R424) -/

/-- A write at an aligned offset of a Plain's window, by the path of its agent. -/
def plainWrite (s : State) (p : Fin 8) (who : Agent) (o : Nat) (v : Word) : State :=
  match who with
  | .hostFn => hostWrite s p o v
  | .hostPf0 => pf0PlainWrite s p o v
  | .i2c => s
  | who => writeReg s p who o v

theorem exec_registerWrite_misaligned (q : Fin 9) (who : Agent) {off : BitVec 28} (v : Word) (h : off.toNat % 4 ≠ 0) :
    exec (.registerWrite q who off v) s = .next s := if_pos h

theorem exec_registerWrite_plain (p : Fin 8) (who : Agent) {off : BitVec 28} (v : Word) (h : off.toNat % 4 = 0) :
    exec (.registerWrite p.castSucc who off v) s = .next (plainWrite s p who off.toNat v) := by
  refine (if_neg (not_not.mpr h)).trans ((dif_pos p.isLt).trans ?_)
  cases who <;> rfl

theorem exec_registerWrite_pf0 (who : Agent) {off : BitVec 28} (v : Word) (h : off.toNat % 4 = 0) :
    exec (.registerWrite 8 who off v) s =
      .next (if who = .hostPf0 then (if fnOffset off.toNat then pf0FnPut s off.toNat v else writePf0 s who off.toNat v) else s) :=
  (if_neg (not_not.mpr h)).trans (dif_neg (by decide))

/-- PF0's window takes no write of another agent. -/
theorem exec_registerWrite_pf0_refused {who : Agent} (off : BitVec 28) (v : Word) (hw : who ≠ .hostPf0) :
    exec (.registerWrite 8 who off v) s = .next s := by
  by_cases ha : off.toNat % 4 = 0
  · rw [exec_registerWrite_pf0 who v ha, if_neg hw]
  · exact exec_registerWrite_misaligned 8 who v ha

/-- A write by the host at a register of PF0. -/
theorem exec_registerWrite_pf0_register {off : BitVec 28} (v : Word) (ha : off.toNat % 4 = 0) (hf : fnOffset off.toNat = false) :
    exec (.registerWrite 8 .hostPf0 off v) s = .next (writePf0 s .hostPf0 off.toNat v) := by
  rw [exec_registerWrite_pf0 _ v ha, if_pos rfl, hf]
  rfl

/-- Agents without a path to a Plain's register: PF0 outside the mailboxes and doorbell bits, and the I²C slave. -/
theorem plainWrite_unreached {who : Agent} {o : Nat} (p : Fin 8) (v : Word)
    (h : (who = .hostPf0 ∧ (o < 0x300000 ∨ 0x300410 ≤ o)) ∨ who = .i2c) : plainWrite s p who o v = s := by
  rcases h with ⟨rfl, ho⟩ | rfl
  · exact if_neg (by omega)
  · rfl

theorem exec_registerWrite_unreached {q : Fin 9} {who : Agent} {off : BitVec 28} (v : Word) (hq : q ≠ 8)
    (h : (who = .hostPf0 ∧ (off.toNat < 0x300000 ∨ 0x300410 ≤ off.toNat)) ∨ who = .i2c) :
    exec (.registerWrite q who off v) s = .next s := by
  obtain ⟨p, rfl⟩ := Fin.exists_castSucc_eq.mpr hq
  by_cases ha : off.toNat % 4 = 0
  · rw [exec_registerWrite_plain p who v ha, plainWrite_unreached p v h]
  · exact exec_registerWrite_misaligned _ who v ha

theorem within_plainWrite (p : Fin 8) (who : Agent) (o : Nat) (v : Word) : Within p s (plainWrite s p who o v) := by
  have h := Within.refl p s
  unfold plainWrite
  split
  · exact within_hostWrite _ _ h
  · exact within_pf0PlainWrite _ _ h
  · exact h
  · exact within_writeReg _ _ _ h

theorem exec_registerWrite_within (p : Fin 8) (who : Agent) (off : BitVec 28) (v : Word) :
    ∃ t, exec (.registerWrite p.castSucc who off v) s = .next t ∧ Within p s t := by
  by_cases ha : off.toNat % 4 = 0
  · exact ⟨_, exec_registerWrite_plain p who v ha, within_plainWrite p who _ v⟩
  · exact ⟨s, exec_registerWrite_misaligned _ who v ha, Within.refl p s⟩

/-! ## Registers of a Plain's window -/

/-- Below the Basin's areas a register of an awake Plain is written at once. -/
theorem writeReg_awake {p : Fin 8} (who : Agent) {off : Nat} (v : Word) (h : s.plains[p].run.mode ≠ .valley) (ho : off < 0x900040) :
    writeReg s p who off v = pokeReg s p who off v := by
  have hlow : decide (0x900040 ≤ off) = false := decide_eq_false (by omega)
  simp only [writeReg, hlow, Bool.false_and, awake_eq_true h, Bool.true_or, if_true, Bool.false_eq_true, if_false]

/-- PM_CTL while EN = 0 notes since when the monitor does not count, and with EN = 1 again that time is left out (15 R317). -/
theorem pmCtlPut_eq (now : Nat) (v : Word) (P : Plain) : pmCtlPut now v P =
    let P := { P with bus := { P.bus with pmCtl := v &&& 0x8000FFFF#32 } }
    match P.bus.pmHeld with
    | none => if v.getLsbD 31 then P else { P with bus := { P.bus with pmHeld := some now } }
    | some t0 => if v.getLsbD 31 then { P with
        bus := { P.bus with pmHeld := none }
        mgr := { P.mgr with retiredAt := if P.mgr.retiredAt ≤ t0 then P.mgr.retiredAt + (now - t0) else now } } else P := by
  cases hh : P.bus.pmHeld <;> cases hv : v.getLsbD 31 <;> simp only [pmCtlPut, bit, hh, hv] <;> rfl

/-- A write by machine-level firmware of a register of an awake Plain. -/
theorem exec_registerWrite_firmware {p : Fin 8} {off : BitVec 28} (v : Word) (h : s.plains[p].run.mode ≠ .valley)
    (ha : off.toNat % 4 = 0) (ho : off.toNat < 0x900040) :
    exec (.registerWrite p.castSucc .mgrMachine off v) s = .next (pokeReg s p .mgrMachine off.toNat v) := by
  rw [exec_registerWrite_plain p _ v ha]
  exact congrArg Host.Outcome.next (writeReg_awake _ v h ho)

/-- An update is what it makes of the Plain as it stands. -/
theorem modPlain_congr {p : Fin 8} {f g : Plain → Plain} (h : f s.plains[p] = g s.plains[p]) : modPlain s p f = modPlain s p g := by
  simp only [modPlain, vmod, h]

/-! ## DEV_RST (18 R382, 20 R397) -/

/-- TEST is written while scope 0 is granted, else DENIED. -/
theorem exec_devRstTestWrite (v : Word) : exec (.devRstTestWrite v) s =
    .next { s with tap := if scopeGranted s 0 then { s.tap with devTest := v.getLsbD 1 } else { s.tap with denied := true } } := by
  refine congrArg Host.Outcome.next ?_
  unfold devTestWrite
  split <;> rfl

/-- A write without WARM writes TEST only. -/
theorem devRstWrite_noWarm {v : Word} (h : v.getLsbD 0 = false) : devRstWrite s v = devTestWrite s v :=
  if_neg (by rw [bit, h]; decide)

/-! ## REG_WRITE (13 R272) -/

theorem pairsOk_iff (pairs : List (Word × Word)) : pairsOk pairs = true ↔
    1 ≤ pairs.length ∧ pairs.length ≤ 5 ∧ ∀ x ∈ pairs, x.1.toNat % 4 = 0 ∧ x.1.toNat < 0x1000000 := by
  simp only [pairsOk, Bool.and_eq_true, decide_eq_true_eq, List.all_eq_true, and_assoc]

theorem exec_regWrite_idle {p : Fin 8} {seq : Word} {pairs : List (Word × Word)}
    (h : startedNow s.plains[p] 3 seq 2 (regWriteFields pairs) = false) : exec (.regWrite p seq pairs) s = .next s :=
  if_pos (by rw [h]; rfl)

theorem exec_regWrite_bad {p : Fin 8} {seq : Word} {pairs : List (Word × Word)}
    (h : startedNow s.plains[p] 3 seq 2 (regWriteFields pairs) = true) (hp : ¬pairsOk pairs = true) :
    exec (.regWrite p seq pairs) s = .next (modPlain s p fun P => outcome P 3 seq 0x13 0) :=
  (if_neg (by rw [h]; decide)).trans (if_pos (by rw [Bool.not_eq_true] at hp; rw [hp]; rfl))

theorem exec_regWrite_good {p : Fin 8} {seq : Word} {pairs : List (Word × Word)}
    (h : startedNow s.plains[p] 3 seq 2 (regWriteFields pairs) = true) (hp : pairsOk pairs = true) :
    exec (.regWrite p seq pairs) s = .next (modPlain (pairs.foldl (fun u (x : Word × Word) => hostWrite u p x.1.toNat x.2) s) p
      fun P => outcome P 3 seq 0 0) :=
  (if_neg (by rw [h]; decide)).trans (if_neg (by rw [hp]; decide))

/-! ## Host accesses to PF0 (22 R421) -/

theorem exec_hostBar0Access_pf0 (off : BitVec 28) (size : Nat) (write : Bool) (data : List Byte) :
    exec (.hostBar0Access 8 off size write data) s = .next (hostPf0Access s off.toNat size write data) := by
  change execHostBar0Access 8 off size write data s = _
  exact dif_neg (by decide)

/-- An access that is not one aligned word writes nothing and reads all ones. -/
theorem hostPf0Access_odd {off n : Nat} (data : List Byte) (h : n ≠ 4 ∨ off % 4 ≠ 0) :
    hostPf0Access s off n true data = s ∧ hostPf0Access s off n false data = { s with readData := 0xFFFFFFFF#32 } :=
  ⟨if_pos h, if_pos h⟩

/-- A read of an aligned word of the window. -/
theorem hostPf0Access_read {off : Nat} (data : List Byte) (ha : off % 4 = 0) (ho : off < 0x4000000) :
    hostPf0Access s off 4 false data = { s with readData := readPf0 s off } := by
  have hf : fnOffset off = false := decide_eq_false (by omega)
  simp [hostPf0Access, ha, hf]

/-! ## OBS_WRITE (20 R400) -/

theorem exec_obsWrite_misaligned (q : Fin 9) (who : Agent) {off : BitVec 28} (v : Word) (h : off.toNat % 4 ≠ 0) :
    exec (.obsWrite q who off v) s = .next s := if_pos h

theorem takesObs_eq (who : Agent) : takesObs who = (who == .hostFn || who == .mgrMachine || who == .testPort) := by
  cases who <;> rfl

/-- OBS_CTL of a Plain: stored where the agent and scope 1 allow it, else DENIED. -/
theorem obsPut_ctl (p : Fin 8) (who : Agent) (v : Word) : obsPut s p who 0 v = modPlain s p fun P => { P with
    health := if takesObs who && scopeGranted s 1 then { P.health with obsEn := v.setWidth 4, obsDenied := P.health.obsDenied && !v.getLsbD 4 }
      else { P.health with obsDenied := true } } := by
  unfold obsPut
  rw [if_neg (by decide)]
  split <;> rfl

/-- OBS_CTL of the device, which the host also writes through PF0. -/
theorem obsDevPut_ctl (who : Agent) (v : Word) : obsDevPut s who 0 v = { s with
    tap := if (takesObs who || who == .hostPf0) && scopeGranted s 1 then
        { s.tap with obsEn := v.setWidth 4, obsDenied := s.tap.obsDenied && !v.getLsbD 4 }
      else { s.tap with obsDenied := true } } := by
  unfold obsDevPut
  rw [if_neg (by decide)]
  split <;> rfl

theorem exec_obsWrite_plainCtl {p : Fin 8} (who : Agent) (v : Word) (h : s.plains[p].run.mode ≠ .valley) :
    exec (.obsWrite p.castSucc who 0xD00000 v) s = .next (obsPut s p who 0 v) :=
  (dif_pos p.isLt).trans (congrArg Host.Outcome.next (if_pos ⟨awake_eq_true h, by decide⟩))

theorem exec_obsWrite_deviceCtl (who : Agent) (v : Word) : exec (.obsWrite 8 who 0x70100 v) s = .next (obsDevPut s who 0 v) :=
  congrArg Host.Outcome.next (if_pos (by decide))

/-! ## The I²C slave (21 R413) -/

/-- Every register but these eight is refused. -/
theorem i2cMask_eq_none {o : Nat} (h : o ∉ [0x20000, 0x30000, 0x40000, 0x30200, 0x30004, 0x40004, 0x20014, 0x30100]) : i2cMask o = none := by
  unfold i2cMask
  split
  case h_9 => rfl
  all_goals exact absurd (by decide) h

theorem exec_i2cWrite_inReset (off : BitVec 24) (v : Word) (h : inReset s = true) : exec (.i2cWrite off v) s = .next { s with nak := true } :=
  if_pos h

theorem exec_i2cWrite_refused {off : BitVec 24} (v : Word) (h : i2cMask off.toNat = none) :
    exec (.i2cWrite off v) s = .next { s with nak := true } := by
  change execI2cWrite off v s = _
  unfold execI2cWrite
  rw [h]
  exact ite_self _

theorem exec_i2cWrite_taken {off : BitVec 24} {m : Word} (v : Word) (hr : inReset s = false) (h : i2cMask off.toNat = some m) :
    exec (.i2cWrite off v) s = .next (writePf0 { s with nak := false } .i2c off.toNat (v &&& m)) := by
  change execI2cWrite off v s = _
  unfold execI2cWrite
  rw [hr, h]
  rfl

/-- The bits of a register that its mask keeps whole. -/
theorem setWidth_and_mask {k : Nat} (v m : Word) (h : m.setWidth k = BitVec.allOnes k) : (v &&& m).setWidth k = v.setWidth k := by
  rw [BitVec.setWidth_and, h, BitVec.and_allOnes]

/-- PWR_WARN's threshold is among the registers open to the slave. -/
theorem exec_i2cWrite_vinWarn (v : Word) (hr : inReset s = false) :
    exec (.i2cWrite 0x30000 v) s = .next { s with nak := false, power := { s.power with vinWarn := v.setWidth 6 } } := by
  rw [exec_i2cWrite_taken v hr rfl, ← setWidth_and_mask v 0x3F (by decide)]
  rfl

/-- The thermal threshold is among them too. -/
theorem exec_i2cWrite_thermWarn (v : Word) (hr : inReset s = false) :
    exec (.i2cWrite 0x40000 v) s = .next { s with nak := false, power := { s.power with thermWarn := v.setWidth 8 } } := by
  rw [exec_i2cWrite_taken v hr rfl, ← setWidth_and_mask v 0xFF (by decide)]
  rfl

theorem exec_i2cRead_refused {off : BitVec 24} (h : inReset s = true ∨ off.toNat % 4 ≠ 0) :
    exec (.i2cRead off) s = .next { s with nak := true } := if_pos h

theorem exec_i2cRead_taken {off : BitVec 24} (hr : inReset s = false) (ha : off.toNat % 4 = 0) :
    exec (.i2cRead off) s = .next { s with nak := false, readData := readPf0 s off.toNat } :=
  if_neg (by simp [hr, ha])

/-- Settles O48, agent by agent: whatever path a write of a Plain's window takes, it stays within that Plain
(`exec_registerWrite_within`); the other clauses are each row's meaning at the registers named. -/
theorem registersTakeWritesOfTheirAgents : Obligations.RegistersTakeWritesOfTheirAgents := by
  intro s
  refine ⟨fun q who off v => ?agents, fun p who off v => ?plain, fun v => ?pf0, fun p seq pairs => ?regWrite, fun v h => ?devRst,
    fun off size data => ?hostPf0, fun p who v => ?obs, fun off v => ?i2c⟩
  case agents =>
    refine ⟨fun h => ⟨exec_registerWrite_misaligned q who v h, exec_obsWrite_misaligned q who v h⟩, ?_, exec_registerWrite_unreached v⟩
    rintro rfl hw
    exact exec_registerWrite_pf0_refused off v hw
  case plain =>
    obtain ⟨t, ht, hkept⟩ := exec_registerWrite_within p who off v
    refine ⟨⟨t, ht, hkept.others⟩, ?_⟩
    rintro h rfl
    have hpm := congrArg (fun f => (.next (modPlain s p f) : Out)) (funext (pmCtlPut_eq s.timeNs v))
    exact ⟨exec_registerWrite_firmware v h (by decide) (by decide), (exec_registerWrite_firmware v h (by decide) (by decide)).trans hpm,
      exec_registerWrite_firmware v h (by decide) (by decide)⟩
  case pf0 =>
    exact ⟨exec_registerWrite_pf0_register v (by decide) (by decide), exec_registerWrite_pf0_register v (by decide) (by decide),
      exec_devRstTestWrite v⟩
  case regWrite =>
    exact ⟨exec_regWrite_idle, fun h hp => exec_regWrite_bad h (mt (pairsOk_iff pairs).mp hp),
      fun h hp => exec_regWrite_good h ((pairsOk_iff pairs).mpr hp)⟩
  case devRst =>
    exact (exec_registerWrite_pf0_register v (by decide) (by decide)).trans (congrArg Host.Outcome.next (devRstWrite_noWarm h))
  case hostPf0 =>
    simp only [exec_hostBar0Access_pf0]
    refine ⟨fun h => ?_, ?_⟩
    · obtain ⟨hw, hr⟩ := hostPf0Access_odd (s := s) data h
      exact ⟨congrArg _ hw, congrArg _ hr⟩
    · rintro rfl ha ho
      exact congrArg _ (hostPf0Access_read data ha ho)
  case obs =>
    refine ⟨fun h => ?_, ?_⟩
    · rw [exec_obsWrite_plainCtl who v h, obsPut_ctl, takesObs_eq]
      exact congrArg Host.Outcome.next (modPlain_congr rfl)
    · rw [exec_obsWrite_deviceCtl who v, obsDevPut_ctl, takesObs_eq]
  case i2c =>
    exact ⟨fun h => exec_i2cWrite_refused v (i2cMask_eq_none h),
      fun h => ⟨exec_i2cWrite_inReset off v h, exec_i2cRead_refused (.inl h)⟩,
      fun h => ⟨exec_i2cWrite_vinWarn v h, exec_i2cWrite_thermWarn v h⟩, fun h => exec_i2cRead_refused (.inr h), exec_i2cRead_taken⟩

end Sys2Proof.Machine
end

section
/-! SUPPORT. What the rest of the commands do within one Plain: steps and boundaries, links, JOB operations, power, images, the Manager,
DMA and the test port change, of the eight Plains, only the one they are addressed to (01 R13). -/

namespace Sys2Proof.Machine

variable {p : Fin 8} {s t : State}

/-! ## Faults, VALLEY and records (18 R378, 12 R249) -/

theorem within_closeIn (h : Within p s t) : Within p s (closeIn t p) := within_modPlain _ h

theorem within_writeFaultRecord (kind : Nat) (h : Within p s t) : Within p s (writeFaultRecord t p kind) :=
  within_nvsWrite _ _ _ (within_modPlain _ (within_nvsWrite _ _ _ (within_nvsRead _ _ _ h)))

theorem within_startValley (h : Within p s t) : Within p s (startValley t p) :=
  have hc := within_modPlain _ h
  within_ite hc (within_finishValley hc)

theorem within_valleyFollows (h : Within p s t) : Within p s (valleyFollows t p) :=
  within_ite (within_startValley (within_modPlain _ h)) h

/-- A fault of the running cycle: the cycle is abandoned, and a VALLEY that waited for HOLD follows. -/
theorem within_abandon (code unit : Nat) (g : State → Plain → Plain) (h : Within p s t) :
    Within p s (valleyFollows (raiseFault t p code unit fun v => modPlain v p (g v)) p) :=
  within_valleyFollows (within_raiseFault _ _ (within_modPlain _) h)

/-! ## Tile requests of the Basin (07 R138, R143) -/

theorem within_receiveRequest (k : Fin 64) (h : Within p s t) : Within p s (receiveRequest t p k) := by
  unfold receiveRequest
  split
  · exact h
  · exact within_modPlain _ h

theorem within_completeRequest (k : Fin 64) (h : Within p s t) : Within p s (completeRequest t p k) :=
  within_modPlain _ (within_ite (within_performUpTo _ _ h) h)

theorem within_drainTile (n : Nat) (k : Fin 64) (h : Within p s t) : Within p s (drainTile n p k t) := by
  induction n generalizing t with
  | zero => exact h
  | succ n ih => exact ih (within_completeRequest k (within_receiveRequest k h))

theorem within_drainQ0 (h : Within p s t) : Within p s (drainQ0 p t) :=
  within_foldl (fun _ => within_drainTile _ _) _ (within_settle h)

/-! ## Boundaries (01 R20, 09 R180-R195) -/

theorem within_takeCkpt (c slot : Nat) (h : Within p s t) : Within p s (takeCkpt p c slot t) := within_modPlain _ (within_drainQ0 h)

theorem within_row7 (c : Nat) (ok : Bool) (h : Within p s t) : Within p s (row7 p c ok t) :=
  within_ite h (within_ite (within_takeCkpt _ _ h) (within_modPlain _ h))

theorem within_row7Jobs (c : Nat) (ok jobDue : Bool) (h : Within p s t) : Within p s (row7Jobs p c ok jobDue t) :=
  within_ite (within_modPlain _ (within_row7 _ _ (within_modPlain _ h))) (within_row7 _ _ h)

theorem within_noteSection (c : Nat) (h : Within p s t) : Within p s (noteSection p c t) := by
  unfold noteSection
  split
  · exact within_logNote _ _ h
  · exact h

theorem within_finishRows (h : Within p s t) : Within p s (finishRows t p) :=
  have h2 := within_ite (within_applyExtWr _ h) h
  have h7 := within_modPlain _ (within_row7Jobs _ _ _ (within_modPlain _ h2))
  have hr := within_ite (within_applyExtWr _ (within_noteHold _ h7)) h7
  within_ite hr (within_valleyFollows (within_modPlain _ hr))

theorem within_row2 (h : Within p s t) : Within p s (row2 t p) :=
  have h0 := within_modPlain _ h
  have h1 := within_modPlain _ h0
  within_ite (within_modPlain _ h0) (within_ite (within_finishRows h1) (within_modPlain _ h1))

/-! ## Writes of memory that are logged (09 R186) -/

theorem within_extWrite (master origin off : Nat) (bs : List Byte) (h : Within p s t) : Within p s (extWrite t p master origin off bs).1 :=
  within_modPlain _ (within_basinWrite _ _ _ _ h)

theorem within_memWrite (master lvl origin a : Nat) (bs : List Byte) (h : Within p s t) : Within p s (memWrite t p master lvl origin a bs).1 :=
  within_memStore (fun _ _ => within_extWrite _ _ _ _) _ _ _ _ h

theorem within_hostPut (a : Nat) (bs : List Byte) (h : Within p s t) : Within p s (hostPut t a bs) := h.shared rfl

/-! ## Pass links (08 R149-R179) -/

theorem within_rxSequenced (l : Fin 8) (f : Frame) {take : State → State} (hk : ∀ {v}, Within p s v → Within p s (take v))
    (h : Within p s t) : Within p s (rxSequenced t p l f take) :=
  have h0 := within_modPlain _ h
  within_ite (within_modPlain _ h0) (within_ite (hk (within_modPlain _ h0)) (within_ite h0 (within_modPlain _ h0)))

theorem within_linkDown (l : Fin 8) (h : Within p s t) : Within p s (linkDown t p l) :=
  within_linksClosed (within_abandon _ _ _ (within_modPlain _ h))

theorem within_failLane (l : Fin 8) (working : Nat) (h : Within p s t) : Within p s (failLane t p l working) :=
  have h0 := within_modPlain _ h
  within_ite (within_linkDown l h0) h0

theorem within_rxCodeword (l : Fin 8) (rx : LaneCodeword) (code : BitVec 4) (h : Within p s t) : Within p s (rxCodeword p l rx code t) :=
  have hu := within_modPlain _ h
  within_ite h (within_ite (within_ite (within_failLane _ _ hu) hu) (within_ite h (within_linksClosed (within_modPlain _ h))))

/-! ## JOB operations (13 R269, 18 R368) -/

theorem within_jobDone (seq : Word) (status result : Nat) (h : Within p s t) : Within p s (jobDone t p seq status result) := within_modPlain _ h

theorem within_jobModeTo (seq : Word) (m : Mode) (h : Within p s t) : Within p s (jobModeTo t p seq m) :=
  have refused := within_jobDone seq 0x0C 0 h
  within_ite refused (within_ite
    (within_ite (within_startValley (within_modPlain _ h)) (within_ite (within_modPlain _ h) refused))
    (within_ite refused (within_ite (within_ite (within_jobDone _ _ _ (within_modPlain _ h)) refused)
      (within_ite (within_modPlain _ h) refused))))

theorem within_jobLink (seq : Word) (code : Nat) (link : Byte) (holdOnly : Bool) {act : State → Fin 8 → Fin 8 → State}
    (ha : ∀ l, Within p s (act t p l)) (h : Within p s t) : Within p s (jobLink t p seq code link holdOnly act) :=
  within_ite h (within_ite (within_jobDone _ _ _ h) (within_ite (within_jobDone _ _ _ h) (within_jobDone _ _ _ (ha _))))

/-! ## Power and health of a Plain (17 R344-R356) -/

theorem within_throttleSet (cause : Nat) (on : Bool) (h : Within p s t) : Within p s (throttleSet t p cause on) :=
  within_pf0Vector _ (within_power _ (within_modPlain _ h))

theorem within_causeIs (cause : Nat) (present : Bool) (h : Within p s t) : Within p s (causeIs cause t p present) :=
  have h0 := within_modPlain _ h
  within_ite h (within_ite (within_ite h0 (within_throttleSet _ _ h0)) (within_ite (within_modPlain _ h) h))

theorem within_plainUp (h : Within p s t) : Within p s (plainUp t p) :=
  have h0 := within_modPlain _ (within_modPlain _ h)
  within_ite (within_modPlain _ h0) (within_enterBoot h0)

/-! ## The boot ROM's recovery service (18 R377) -/

theorem within_stagedImage (off : Nat) (h : Within p s t) : Within p s (stagedImage t p off).1 := by
  have hh := within_romLoad off 4096 h
  unfold stagedImage
  refine within_ite_fst h ?_
  split
  next e => exact hh.of_fst e
  next e => exact within_ite_fst (hh.of_fst e) (within_romLoad _ _ (hh.of_fst e))

theorem within_stagedCandidate (off : Nat) (h : Within p s t) : Within p s (stagedCandidate t p off).1 := by
  have hi := within_stagedImage off h
  unfold stagedCandidate
  split
  next e => exact hi.of_fst e
  next e =>
    have hr := within_romRead 0x1000000 1376 (hi.of_fst e)
    split
    next e' => exact hr.of_fst e'
    next e' => exact hr.of_fst e'

/-! ## Images (10 R200-R216) -/

theorem within_ldPiece (a n : Nat) (h : Within p s t) : Within p s (ldPiece t p a n).1 := by
  unfold ldPiece
  split
  · exact within_modPlain _ h
  · exact within_memRead _ _ _ h

theorem within_ldPieces (k a n : Nat) (h : Within p s t) : Within p s (ldPieces p k a n t).1 := by
  induction k generalizing t a n with
  | zero => exact h
  | succ k ih =>
    have hr := within_ldPiece a (min n 1024) (within_takeTurn 0 { master := 6, lvl := 0, write := false, addr := a, size := min n 1024, tile := 0 } h)
    exact within_ite_fst hr (ih _ _ hr)

theorem within_ldRead (a n : Nat) (h : Within p s t) : Within p s (ldRead t p a n).1 :=
  within_ite_fst (within_ldPiece _ _ h) (within_ldPieces _ _ _ h)

theorem within_keyUnitRead (off n : Nat) (h : Within p s t) : Within p s (keyUnitRead t p off n).1 := within_ite_fst h (within_spadRead _ _ _ h)

theorem within_keySlot (k : Nat) (h : Within p s t) : Within p s (keySlot t p k).1 := within_ite_fst h (within_keyUnitRead _ _ h)

theorem within_openPart (keyslot : Nat) (e raw : List Byte) (h : Within p s t) : Within p s (openPart t p keyslot e raw).1 := by
  have hk := within_keySlot keyslot h
  unfold openPart
  refine within_ite_fst ?_ h
  split
  next e => exact hk.of_fst e
  next e => exact hk.of_fst e

theorem within_readParts (addr v : Nat) (man : List Byte) (ks : List Nat) (h : Within p s t) : Within p s (readParts p addr v man ks t).1 := by
  induction ks generalizing t with
  | nil => exact h
  | cons k ks ih =>
    have ho := within_openPart (num man 12 1) (partEntry man (partIndex man v k)) (ldRead t p (addr + num (partEntry man (partIndex man v k)) 8 8) (num (partEntry man (partIndex man v k)) 16 8)).2
      (within_ldRead (addr + num (partEntry man (partIndex man v k)) 8 8) (num (partEntry man (partIndex man v k)) 16 8) h)
    unfold readParts
    dsimp only
    split
    next e => exact ho.of_fst e
    next e =>
      have hrest := ih (ho.of_fst e)
      split
      next e' => exact hrest.of_fst e'
      next => exact hrest

theorem within_verifyImage (addr len vplain : Nat) (bind : DWord) (h : Within p s t) : Within p s (verifyImage t p addr len vplain bind).1 := by
  unfold verifyImage
  extract_lets hdr n r man k s0 key
  have hk : Within p s s0 := within_keyUnitRead _ _ (within_ldRead _ _ (within_ldRead _ _ h))
  split
  · exact hk
  refine within_ite_fst hk (within_ite_fst hk (within_ite_fst hk ?_))
  split
  · exact hk
  have hp := within_readParts addr vplain man [1, 2, 3, 4, 5, 6] hk
  split
  next e => exact hp.of_fst e
  next e =>
    split
    · exact hp.of_fst e
    · exact within_ite_fst (hp.of_fst e) (within_ite_fst (hp.of_fst e) (hp.of_fst e))

end Sys2Proof.Machine
end

section
/-! SUPPORT. The Manager, the engines that move data, and the test port change, of the eight Plains, only their own (01 R13). -/

namespace Sys2Proof.Machine

variable {p : Fin 8} {s t : State}

/-! ## The Manager (11, 12) -/

theorem within_modMgr (f : Manager → Manager) (h : Within p s t) : Within p s (modMgr t p f) := within_modPlain _ h

theorem within_thirdFault (h : Within p s t) : Within p s (thirdFault t p) := by
  have hr := within_writeFaultRecord 1 (within_modMgr (fun M => { M with running := false }) h)
  unfold thirdFault
  exact within_raiseFault _ _ (within_plainReset _) hr

theorem within_mgrTrap (c : Nat) (x epc raiser : DWord) (h : Within p s t) : Within p s (mgrTrap t p c x epc raiser) :=
  have h0 := within_modPlain _ h
  within_ite (within_thirdFault h0) (within_modPlain _ h0)

theorem within_fetchIssue (pa : Nat) (h : Within p s t) : Within p s (fetchIssue t p pa).1 := by
  unfold fetchIssue
  dsimp only
  split
  · exact h
  next r _ =>
    refine within_ite_fst h ?_
    have hb := within_busAccess 0 r.lvl.val false (64 * r.line) 64 [] h
    split
    next e => exact within_modPlain _ (hb.of_fst e)
    next e => exact within_modPlain _ (hb.of_fst e)
    next e => exact within_modPlain _ (hb.of_fst e)
    next e => exact hb.of_fst e

theorem within_fetchAt (pa : Nat) (h : Within p s t) : Within p s (fetchAt t p pa).1 := by
  have hi := within_fetchIssue pa h
  unfold fetchAt
  dsimp only
  split
  · exact hi
  · exact within_ite_fst hi (within_ite_fst hi (within_modPlain _ hi))

theorem within_mgrEnvCall (h : Within p s t) : Within p s (mgrEnvCall t p) := by
  unfold mgrEnvCall
  split
  · exact h
  · exact within_mgrTrap _ _ _ _ h

theorem within_mgrDo (a : Option MgrAct) (h : Within p s t) : Within p s (mgrDo t p a) := by
  unfold mgrDo
  split
  · exact within_modMgr _ h
  · exact within_mgrTrap _ _ _ _ h
  · exact within_modPlain _ h
  · exact within_modPlain _ h
  · exact within_mgrEnvCall (within_modPlain _ h)

theorem within_mgrFetchRun (E : MgrDelay) (h : Within p s t) : Within p s (mgrFetchRun t p E) := by
  unfold mgrFetchRun
  refine within_ite (within_mgrDo _ h) ?_
  split
  · exact within_mgrDo _ h
  have hf := within_fetchAt (segAddr t.plains[p].mgr t.plains[p].mgr.lvl.val 0 t.plains[p].mgr.pc) h
  split
  next e => exact within_mgrDo _ (hf.of_fst e)
  next e => exact hf.of_fst e
  next e => exact within_ite (within_modMgr _ (hf.of_fst e)) (within_mgrDo _ (hf.of_fst e))

theorem within_mgrNext (E : MgrDelay) (h : Within p s t) : Within p s (mgrNext t p E) := by
  unfold mgrNext
  extract_lets s0 M
  have h0 : Within p s s0 := within_modMgr _ h
  refine within_ite h0 ?_
  split
  · split
    · exact h0
    · exact within_mgrDo _ h0
  split
  · exact within_mgrTrap _ _ _ _ (within_modMgr _ h0)
  · exact within_ite (within_mgrTrap _ _ _ _ h0) (within_ite h0 (within_ite h0 (within_mgrFetchRun _ (within_modMgr _ h0))))

theorem within_mgrServe (o : MgrOp) (h : Within p s t) : Within p s (mgrServe t p o).1 := within_modPlain _ (within_busAccess _ _ _ _ _ _ h)

theorem within_lockstepFailure (kind : Nat) (h : Within p s t) : Within p s (lockstepFailure t p kind) := by
  unfold lockstepFailure
  exact within_raiseFault _ _
    (fun hv => within_ite (within_modPlain _ hv) (within_ite (within_plainReset _ hv) (within_enterQuarantine _ hv)))
    (within_writeFaultRecord _ (within_modPlain _ h))

theorem within_blkRead (lvl k a : Nat) (h : Within p s t) : Within p s (blkRead p lvl k t a).1 := by
  induction k generalizing t a with
  | zero => exact h
  | succ k ih =>
    have hgo : ∀ {v : State} (bs : List Byte), Within p s v →
        Within p s (match blkRead p lvl k v ((a + 8) % 2 ^ 40) with
          | (v, .inl cs) => (v, .inl (bs ++ cs))
          | r => r : State × (List Byte ⊕ BlkGroup)).1 := by
      intro v bs hv
      have hr := ih ((a + 8) % 2 ^ 40) hv
      split
      next e => exact hr.of_fst e
      next => exact hr
    have hb := within_busAccess 1 lvl false a 8 [] h
    unfold blkRead
    dsimp only
    split
    next e => exact hgo _ (hb.of_fst e)
    next e => exact hgo _ (within_modMgr _ (hb.of_fst e))
    next e => exact hb.of_fst e
    next e => exact hb.of_fst e

theorem within_blkWrite (lvl k a : Nat) (bs : List Byte) (h : Within p s t) : Within p s (blkWrite p lvl k t a bs).1 := by
  induction k generalizing t a bs with
  | zero => exact h
  | succ k ih =>
    have hb := within_busAccess 1 lvl true a 8 (bs.take 8) h
    unfold blkWrite
    split
    next e => exact ih _ _ (hb.of_fst e)
    next e => exact ih _ _ (within_modMgr _ (hb.of_fst e))
    next e => exact hb.of_fst e
    next e => exact hb.of_fst e

theorem within_blkGroup (b : BlkOp) (h : Within p s t) : Within p s (blkGroup t p b).1 := by
  unfold blkGroup
  extract_lets n src dst
  refine within_ite_fst (within_blkWrite _ _ _ _ h) ?_
  have hr := within_blkRead b.lvl.val n src h
  split
  next e => exact hr.of_fst e
  next e =>
    refine within_ite_fst (within_blkWrite _ _ _ _ (hr.of_fst e)) ?_
    have hd := within_blkRead b.lvl.val n dst (hr.of_fst e)
    split
    next e' => exact hd.of_fst e'
    next e' => exact hd.of_fst e'

theorem within_blkStep (h : Within p s t) : Within p s (blkStep t p) := by
  unfold blkStep
  split
  · exact h
  next b _ =>
    refine within_ite h (within_ite (within_modPlain _ h) (within_ite (within_lockstepFailure _ h) ?_))
    have hg := within_blkGroup b h
    split
    next e => exact within_ite (within_modPlain _ (hg.of_fst e)) (within_modMgr _ (hg.of_fst e))
    next e => exact within_modPlain _ (hg.of_fst e)
    next e => exact hg.of_fst e
    next e => exact within_modMgr _ (hg.of_fst e)

theorem within_blkRun (k : Nat) (h : Within p s t) : Within p s (blkRun p k t) := by
  induction k generalizing t with
  | zero => exact h
  | succ k ih => exact ih (within_blkStep h)

theorem within_mgrStep (h : Within p s t) : Within p s (mgrStep t p) := by
  have hb := within_blkStep h
  unfold mgrStep
  refine within_ite hb ?_
  dsimp only
  split
  · exact within_modPlain _ hb
  · exact within_modPlain _ (within_mgrNext _ (within_modPlain _ hb))

/-! ## Drains and transfers (09 R184, R192, 14 R292-R301) -/

theorem within_captureTurn (k off n : Nat) (h : Within p s t) : Within p s (captureTurn t p k off n).1 :=
  within_ite_fst h (within_takeTurn _ _ h)

theorem within_arriveLate (h : Within p s t) : Within p s (arriveLate t p) :=
  within_ite h (within_foldl (fun _ => within_memWrite _ _ _ _ _) _ (within_modPlain _ h))

theorem within_arriveAt (a : Nat) (h : Within p s t) : Within p s (arriveAt t p a) := within_ite (within_arriveLate h) h

theorem within_storeGroup (V : Mover) (T : Transfer) (a : Nat) (bs : List Byte) (h : Within p s t) : Within p s (storeGroup V T t p a bs).1 := by
  have hm := within_memStore (toBasin := fun v off bs => basinWrite v p (basinMaster 3) 3 off bs) (fun _ _ => within_basinWrite _ _ _ _) 3 0 a bs
    (within_arriveAt a h)
  unfold storeGroup
  split
  · exact within_ite_fst (within_modPlain _ h) hm
  · exact hm

theorem within_moveGroups (V : Mover) (T : Transfer) (n i : Nat) (w : List (Nat × List Byte)) (h : Within p s t) :
    Within p s (moveGroups V p T n i t w).1 := by
  induction n generalizing t i w with
  | zero => exact h
  | succ n ih =>
    unfold moveGroups
    extract_lets r a
    have hr : Within p s r.1 := by
      unfold r
      split
      · exact h
      · exact within_memRead _ _ _ h
    clear_value r
    split
    next => exact hr
    next bs =>
      refine within_ite_fst hr ?_
      have hs := within_storeGroup V T a bs hr
      split
      next e' => exact hs.of_fst e'
      next e' => exact within_ite_fst (ih _ _ (hs.of_fst e')) (hs.of_fst e')

theorem within_compareGroups (V : Mover) (T : Transfer) (n i : Nat) (h : Within p s t) : Within p s (compareGroups V p T n i t).1 := by
  induction n generalizing t i with
  | zero => exact h
  | succ n ih =>
    have ha := within_memRead 2 (wrapAt T.wrapSrc T.src (64 * i)) 64 h
    unfold compareGroups
    split
    next e => exact ha.of_fst e
    next e =>
      refine within_ite_fst (ha.of_fst e) ?_
      have hb := within_memRead 2 (wrapAt T.wrapDst T.dst (64 * i)) 64 (ha.of_fst e)
      split
      next e' => exact hb.of_fst e'
      next e' =>
        split
        · exact hb.of_fst e'
        · exact within_ite_fst (ih _ (hb.of_fst e')) (hb.of_fst e')

theorem within_movePiece (V : Mover) (T : Transfer) (X : Progress) (h : Within p s t) : Within p s (movePiece V p T X t).1 := by
  have hm := within_moveGroups V T (nextGroups T X) X.moved X.part h
  unfold movePiece
  dsimp only
  split
  · exact within_compareGroups _ _ _ _ h
  · split
    · exact within_modPlain _ hm
    · exact within_ite_fst (within_modPlain _ hm) (within_ite_fst (within_modPlain _ hm) hm)

theorem within_pieceTurn (V : Mover) (T : Transfer) (X : Progress) (h : Within p s t) : Within p s (pieceTurn V p T X t).1 := by
  have ht : ∀ (c : Bool) (x : Access) (r : State × Bool), Within p s r.1 → Within p s (if c then takeTurn r.1 p V.chan x else r).1 :=
    fun c x r hr => within_ite_fst (within_takeTurn _ _ hr) hr
  unfold pieceTurn
  dsimp only
  split
  · exact ht _ _ _ h
  · exact ht _ _ _ (ht _ _ _ h)
  · exact ht _ _ _ (ht _ _ _ h)

theorem within_runPieces (V : Mover) (T : Transfer) (n : Nat) (X : Progress) (h : Within p s t) : Within p s (runPieces V p T n X t).1 := by
  induction n generalizing t X with
  | zero => exact h
  | succ n ih =>
    have ht := within_pieceTurn V T X h
    have hm := within_movePiece V T X ht
    unfold runPieces
    refine within_ite_fst h (within_ite_fst ht (within_ite_fst hm ?_))
    split
    · exact hm
    · exact ih _ hm

theorem within_finishRing (c : Fin 16) (d : BitVec 256) (status result : Nat) (h : Within p s t) :
    Within p s (finishRing t p c d status result) :=
  have h0 := within_memWrite _ _ _ _ _ (within_arriveAt _ h)
  have h1 := within_memWrite _ _ _ _ _ h0
  within_ite h0 (within_ite h1 (within_modPlain _ h1))

theorem within_finishDescriptor (c : Fin 16) (j : DmaJob) (status result : Nat) (h : Within p s t) :
    Within p s (finishDescriptor t p c j status result) := within_ite (within_modPlain _ h) (within_finishRing _ _ _ _ h)

theorem within_runChannel (n : Nat) (c : Fin 16) (h : Within p s t) : Within p s (runChannel n t p c) := by
  unfold runChannel
  dsimp only
  split
  · exact h
  · have hends : ∀ {v : State} (f : Plain → Plain) (j : DmaJob) (status result : Nat), Within p s v →
        Within p s (finishDescriptor (modPlain v p f) p c j status result) :=
      fun f j status result hv => within_finishDescriptor _ _ _ _ (within_modPlain f hv)
    have hpieces : ∀ {v : State} V T X f, Within p s v → Within p s (runPieces V p T n X (modPlain v p f)).1 :=
      fun V T X f hv => within_runPieces V T n X (within_modPlain f hv)
    refine within_ite h (within_ite (hends _ _ _ _ h) (within_ite h (within_ite (hpieces _ _ _ _ h) ?_)))
    split
    · exact hends _ _ _ _ (hpieces _ _ _ _ h)
    · exact within_modPlain _ (hpieces _ _ _ _ h)

theorem within_fetchDescriptor (c : Fin 16) (h : Within p s t) : Within p s (fetchDescriptor t p c) := by
  unfold fetchDescriptor
  extract_lets C a r s1
  have hr : Within p s r.1 := within_ite_fst (within_memRead _ _ _ h) h
  have h1 : Within p s s1 := within_modPlain _ hr
  refine within_ite hr ?_
  split
  · exact within_modPlain _ h1
  · exact within_ite (within_modPlain _ h1) (within_modPlain _ h1)

theorem within_bulkRun (seq : Word) (op : Nat) (fs : List (Nat × Nat × Nat)) (T : Transfer) (h : Within p s t) :
    Within p s (bulkRun t p seq op fs T) := by
  unfold bulkRun
  dsimp only
  split
  · exact within_ite (within_runChannel _ _ h) h
  · exact within_ite h (within_ite (within_modPlain _ h) (within_runChannel _ _ (within_modPlain _ h)))

theorem within_xactDone (seq : Word) (status result : Nat) (h : Within p s t) : Within p s (xactDone t p seq status result) := within_modPlain _ h

theorem within_startXact (seq : Word) (write : Bool) (cycle haddr woff len : Nat) (h : Within p s t) :
    Within p s (startXact t p seq write cycle haddr woff len) :=
  have h0 := within_modPlain _ h
  have hd := fun status => within_xactDone seq status 0 h0
  within_ite h (within_ite (hd _) (within_ite (hd _) (within_ite (hd _) (within_modPlain _ h0))))

/-! ## Host and test port (13 R255, 20 R396) -/

theorem within_hostFnAccess (off n : Nat) (write : Bool) (data : List Byte) (h : Within p s t) :
    Within p s (hostFnAccess t p off n write data).1 :=
  within_ite_fst h (within_ite_fst (within_plainFnPut _ _ h) h)

theorem within_m7Access (write : Bool) (addr n : Nat) (bs : List Byte) (h : Within p s t) : Within p s (m7Access t p write addr n bs).1 :=
  within_ite_fst h (within_busAccess _ _ _ _ _ _ h)

theorem within_modTap (f : Tap → Tap) (h : Within p s t) : Within p s (modTap t f) := within_tap _ h

theorem within_testctlAccess (addr : BitVec 40) (sizeCode : BitVec 2) (write : Bool) (data : DWord) (h : Within p s t) :
    Within p s (testctlAccess t p addr sizeCode write data) := by
  have hc := within_modTap (fun T => selectInstr 0x11 .normal (testctlWord T) T) h
  have hm := within_m7Access write addr.toNat (2 ^ sizeCode.toNat) (leBytes (2 ^ sizeCode.toNat) data.toNat) hc
  unfold testctlAccess
  refine within_ite (within_modTap _ h) (within_ite (within_modTap _ hc) ?_)
  dsimp only
  split
  · exact within_modTap _ hm
  · exact within_modTap _ hm
  · exact within_modTap _ hm

end Sys2Proof.Machine
end

section
/-! SUPPORT. What the commands of the device keep: the time and the queue of commands (01 R13, log entries 1 and 2); and the wait for
TEST, which a Plain's own start leaves as it is (01 R23). -/

namespace Sys2Proof.Machine

/-- From `s` to `t` the clock and the queue of commands stand. -/
structure ClockKept (s t : State) : Prop where
  timeNs : t.timeNs = s.timeNs
  pending : t.pending = s.pending

variable {p : Fin 8} {s t u : State}

/-! ## The rules -/

theorem ClockKept.refl (s : State) : ClockKept s s := ⟨rfl, rfl⟩

theorem ClockKept.shared (h : ClockKept s t) (e : (u.timeNs, u.pending) = (t.timeNs, t.pending)) : ClockKept s u := by
  simp only [Prod.mk.injEq] at e
  exact ⟨e.1.trans h.timeNs, e.2.trans h.pending⟩

/-- What stays within one Plain keeps the clock. -/
theorem ClockKept.within (h : ClockKept s t) (k : Within p t u) : ClockKept s u :=
  ⟨k.timeNs.trans h.timeNs, k.pending.trans h.pending⟩

theorem clockKept_ite {c : Prop} [Decidable c] (ht : ClockKept s t) (hu : ClockKept s u) : ClockKept s (if c then t else u) := by
  split
  · exact ht
  · exact hu

/-- Plain after Plain does what stays within it. -/
theorem clockKept_plains {f : State → Fin 8 → State} (hf : ∀ v q, Within q v (f v q)) (l : List (Fin 8)) (h : ClockKept s t) :
    ClockKept s (l.foldl f t) :=
  List.foldlRecOn l f h fun v hv q _ => hv.within (hf v q)

/-! ## Reports and the arbiter (17 R346-R350, R364) -/

theorem clockKept_eventAll (code unit detail : Nat) (h : ClockKept s t) : ClockKept s (eventAll t code unit detail) := h.shared rfl

theorem clockKept_pf0Vector (vec : Nat) (h : ClockKept s t) : ClockKept s (pf0Vector t vec) := h.within (within_pf0Vector (p := 0) vec (.refl 0 t))

theorem clockKept_power (W : Power) (h : ClockKept s t) : ClockKept s { t with power := W } := h.shared rfl

theorem clockKept_tap (T : Tap) (h : ClockKept s t) : ClockKept s { t with tap := T } := h.shared rfl

theorem clockKept_updateUnder (h : ClockKept s t) : ClockKept s (updateUnder t) :=
  clockKept_ite h (clockKept_eventAll _ _ _ (clockKept_pf0Vector _ (clockKept_power _ h)))

theorem clockKept_arbHostPut (v : Word) (h : ClockKept s t) : ClockKept s (arbHostPut v t) :=
  clockKept_ite (clockKept_pf0Vector _ (clockKept_power _ h)) (clockKept_updateUnder (clockKept_power _ h))

/-! ## Resets and starts (17 R354, 18 R370-R375) -/

theorem clockKept_startTest (h : ClockKept s t) : ClockKept s (startTest t) := clockKept_ite (h.shared rfl) h

theorem clockKept_coldReset (cause : BitVec 3) (h : ClockKept s t) : ClockKept s (coldReset t cause) := h.shared rfl

theorem clockKept_supplyRecords (h : ClockKept s t) : ClockKept s (supplyRecords t) :=
  clockKept_ite h (clockKept_plains (fun v q => within_ite (within_writeFaultRecord 4 (.refl q v)) (.refl q v)) _ h)

theorem clockKept_coldStart (h : ClockKept s t) : ClockKept s (coldStart t) :=
  clockKept_ite (h.shared rfl)
    (clockKept_plains (fun v q => within_ite (within_requestBase (.refl q v)) (.refl q v)) _ (h.shared rfl))

theorem clockKept_releaseReset (h : ClockKept s t) : ClockKept s (releaseReset t) :=
  clockKept_ite (clockKept_power _ h) (clockKept_coldStart h)

theorem within_warmUp (h : Within p s t) : Within p s (warmUp t p) :=
  within_ite h (within_ite (within_plainUp h) (within_ite h (within_requestBase h)))

theorem clockKept_warmReset (cause : BitVec 3) (h : ClockKept s t) : ClockKept s (warmReset t cause) :=
  clockKept_ite (h.shared rfl)
    (clockKept_startTest (clockKept_plains (fun v q => within_warmUp (.refl q v)) _ (h.shared rfl)))

theorem clockKept_warmIfStarted (cause : BitVec 3) (h : ClockKept s t) : ClockKept s (warmIfStarted t cause) :=
  clockKept_ite (clockKept_warmReset cause h) h

/-! ## Supply and sensors (17 R353-R361) -/

theorem clockKept_aonLoss (h : ClockKept s t) : ClockKept s (aonLoss t) := clockKept_power _ h

theorem clockKept_samplePwrWarn (mv : Nat) (h : ClockKept s t) : ClockKept s (samplePwrWarn mv t) :=
  have hs := fun vec W => clockKept_eventAll 0x0200 0 mv (clockKept_pf0Vector vec (clockKept_power W h))
  have hc := fun vec W => clockKept_eventAll 0x0201 0 mv (clockKept_pf0Vector vec (clockKept_power W h))
  clockKept_ite (hs _ _) (clockKept_ite (hc _ _) h)

theorem clockKept_limitFlag (i : Nat) (pairs : List (Nat × Nat)) {tell : State → Nat → Nat → State}
    (ht : ∀ {v} a b, ClockKept s v → ClockKept s (tell v a b)) (h : ClockKept s t) : ClockKept s (limitFlag i pairs tell t) := by
  unfold limitFlag
  split
  · exact h
  · exact clockKept_ite h (ht _ _ (clockKept_pf0Vector _ (clockKept_power _ h)))

theorem clockKept_sampleLimits (h : ClockKept s t) : ClockKept s (sampleLimits t) := by
  have hp : ∀ {v} (q : Fin 8) a b, ClockKept s v → ClockKept s (modPlain v q fun P => if awake P then event P 0x0207 a b else P) :=
    fun q _ _ hv => hv.within (within_modPlain _ (.refl q _))
  unfold sampleLimits
  exact clockKept_limitFlag _ _ (fun _ _ => clockKept_eventAll _ _ _)
    (List.foldlRecOn _ _ h fun _ hv q _ => clockKept_limitFlag _ _ (hp q) hv)

theorem clockKept_sampleWarn (h : ClockKept s t) : ClockKept s (sampleWarn t) := by
  unfold sampleWarn
  extract_lets tj W v
  have h0 : ClockKept s v := clockKept_power _ h
  clear_value tj v
  exact clockKept_ite (clockKept_eventAll _ _ _ (clockKept_pf0Vector _ (clockKept_power _ h0))) (clockKept_ite (clockKept_power _ h0) h0)

theorem clockKept_sampleThrottle (h : ClockKept s t) : ClockKept s (sampleThrottle t) :=
  clockKept_plains (fun v q => within_ite (within_causeIs _ _ (within_causeIs _ _ (.refl q v))) (.refl q v)) _ h

/-! ## Registers of PF0 (22 R422) -/

theorem clockKept_pf0FnPut (off : Nat) (v : Word) (h : ClockKept s t) : ClockKept s (pf0FnPut t off v) := h.shared rfl

theorem clockKept_obsDevPut (who : Agent) (o : Nat) (v : Word) (h : ClockKept s t) : ClockKept s (obsDevPut t who o v) :=
  clockKept_ite h (clockKept_ite (clockKept_tap _ h) (clockKept_tap _ h))

theorem clockKept_bistCtlWrite (v : Word) (h : ClockKept s t) : ClockKept s (bistCtlWrite t v) :=
  clockKept_ite (h.shared rfl) (clockKept_ite (h.shared rfl) (h.shared rfl))

theorem clockKept_devTestWrite (v : Word) (h : ClockKept s t) : ClockKept s (devTestWrite t v) :=
  clockKept_ite (clockKept_tap _ h) (clockKept_tap _ h)

theorem clockKept_devRstWrite (v : Word) (h : ClockKept s t) : ClockKept s (devRstWrite t v) :=
  have h0 := clockKept_devTestWrite v h
  clockKept_ite (clockKept_warmIfStarted _ h0) h0

theorem clockKept_writePf0 (who : Agent) (off : Nat) (v : Word) (h : ClockKept s t) : ClockKept s (writePf0 t who off v) := by
  unfold writePf0
  dsimp only
  split
  case h_1 => exact clockKept_ite (clockKept_tap _ h) h
  case h_2 => exact clockKept_devRstWrite _ h
  case h_3 => exact clockKept_arbHostPut _ h
  case h_14 => exact clockKept_tap _ h
  case h_15 => exact clockKept_bistCtlWrite _ h
  case h_16 => exact clockKept_tap _ h
  case h_17 => exact clockKept_ite (clockKept_obsDevPut _ _ _ h) h
  all_goals exact clockKept_power _ h

theorem clockKept_hostPf0Access (off n : Nat) (write : Bool) (data : List Byte) (h : ClockKept s t) :
    ClockKept s (hostPf0Access t off n write data) :=
  clockKept_ite (clockKept_ite h (h.shared rfl)) (clockKept_ite (clockKept_ite (clockKept_pf0FnPut _ _ h) (h.shared rfl))
    (clockKept_ite (clockKept_writePf0 _ _ _ h) (h.shared rfl)))

/-! ## The test port (20 R394-R401) -/

theorem clockKept_modTap (f : Tap → Tap) (h : ClockKept s t) : ClockKept s (modTap t f) := h.shared rfl

theorem clockKept_endSession (h : ClockKept s t) : ClockKept s (endSession t) := clockKept_ite (h.shared rfl) (h.shared rfl)

theorem clockKept_drivePins (code : Byte) (pins : PinDrive) (h : ClockKept s t) : ClockKept s (drivePins t code pins) :=
  clockKept_ite (clockKept_modTap _ h) (clockKept_modTap _ h)

theorem clockKept_lcRequest (valid : Bool) (b : Nat) (h : ClockKept s t) : ClockKept s (lcRequest t valid b) :=
  clockKept_ite (clockKept_endSession (h.shared rfl)) (clockKept_modTap _ h)

/-! ## The Plains that wait for TEST (01 R23, 18 R368): a Plain's own boot leaves them as they are -/

/-- From `s` to `t` the same Plains wait for TEST. -/
def WaitKept (s t : State) : Prop := t.power.testStart = s.power.testStart

theorem waitKept_modPlain (f : Plain → Plain) (h : WaitKept s t) : WaitKept s (modPlain t p f) := h

theorem waitKept_ite {c : Prop} [Decidable c] (ht : WaitKept s t) (hu : WaitKept s u) : WaitKept s (if c then t else u) := by
  split
  · exact ht
  · exact hu

theorem waitKept_ite_fst {α : Type} {c : Prop} [Decidable c] {x y : State × α} (hx : WaitKept s x.1) (hy : WaitKept s y.1) :
    WaitKept s (if c then x else y).1 := by
  split
  · exact hx
  · exact hy

theorem WaitKept.of_fst {α : Type} {x : State × α} {a : α} (h : WaitKept s x.1) (e : x = (t, a)) : WaitKept s t := by rwa [e] at h

theorem waitKept_foldl {α : Type} {f : State → α → State} (hf : ∀ {v} x, WaitKept s v → WaitKept s (f v x)) (l : List α)
    (h : WaitKept s t) : WaitKept s (l.foldl f t) :=
  List.foldlRecOn l f h fun _ hv x _ => hf x hv

theorem waitKept_enterQuarantine (boot : Bool) (h : WaitKept s t) : WaitKept s (enterQuarantine t p boot) :=
  waitKept_ite h (waitKept_ite h h)

theorem waitKept_powerOff (h : WaitKept s t) : WaitKept s (powerOff t p) :=
  have h0 : WaitKept s { t with power := { t.power with testStart := t.power.testStart } } := h
  waitKept_ite h0 h0

theorem waitKept_doubleFault (code unit : Nat) (h : WaitKept s t) : WaitKept s (doubleFault t p code unit) :=
  waitKept_ite (waitKept_modPlain _ (waitKept_powerOff (waitKept_modPlain _ h))) (waitKept_enterQuarantine true (waitKept_modPlain _ h))

theorem waitKept_raiseFault (code unit : Nat) {k : State → State} (hk : ∀ {v}, WaitKept s v → WaitKept s (k v)) (h : WaitKept s t) :
    WaitKept s (raiseFault t p code unit k) := by
  rcases raiseFault_cases t p code unit k with ⟨-, e⟩ | ⟨-, -, e⟩ | ⟨-, -, e⟩ <;> rw [e]
  · exact hk (waitKept_modPlain _ h)
  · exact hk h
  · exact waitKept_doubleFault code unit h

/-- Uncorrectable words without a recovery of their own. -/
theorem waitKept_raiseUe (code unit : Nat) (ws : List Nat) (h : WaitKept s t) : WaitKept s (raiseUe t p code unit ws id) :=
  waitKept_ite h (waitKept_ite h (waitKept_modPlain _ (waitKept_raiseFault code unit id h)))

theorem waitKept_reportSpadUes (master : Nat) (ws : List Nat) (h : WaitKept s t) : WaitKept s (reportSpadUes t p master ws) :=
  waitKept_raiseUe _ _ _ (waitKept_foldl (fun _ => waitKept_modPlain _) ws h)

theorem waitKept_reportNvsUes (master : Nat) (ls : List Nat) (h : WaitKept s t) : WaitKept s (reportNvsUes t p master ls) :=
  waitKept_raiseUe _ _ _ (waitKept_foldl (fun _ => waitKept_modPlain _) ls h)

theorem waitKept_romStore (off : Nat) (bs : List Byte) (h : WaitKept s t) : WaitKept s (romStore t p off bs) :=
  have hw : WaitKept s (spadWrite t p 1 off bs).1 := waitKept_reportSpadUes _ _ (waitKept_modPlain _ h)
  waitKept_ite_fst hw hw

theorem waitKept_romRead (off n : Nat) (h : WaitKept s t) : WaitKept s (romRead t p off n).1 := by
  have hr : WaitKept s (nvsRead t p 1 off n).1 := waitKept_reportNvsUes _ _ (waitKept_modPlain _ h)
  unfold romRead tagRead
  split
  · exact hr
  · exact hr

theorem waitKept_readSlot (slot : Nat) (h : WaitKept s t) : WaitKept s (readSlot t p slot).1 := by
  have hh := waitKept_romRead (p := p) slot 4096 h
  unfold readSlot
  split
  next e => exact hh.of_fst e
  next e => exact waitKept_ite_fst (hh.of_fst e) (waitKept_romRead _ _ (hh.of_fst e))

theorem waitKept_unwrapSlots (rec : List Byte) (h : WaitKept s t) : WaitKept s (unwrapSlots rec p t).1 := by
  unfold unwrapSlots
  refine List.foldlRecOn (motive := fun x : State × Bool => WaitKept s x.1) _ _ h fun x hx k _ => ?_
  dsimp only
  split
  · split
    · exact waitKept_romStore _ _ hx
    · exact hx
  · exact hx

theorem waitKept_bootImage (F : Fuses) (rec img : List Byte) (useB fallback : Bool) (h : WaitKept s t) :
    WaitKept s (bootImage F p rec img useB fallback t) :=
  have hb := waitKept_romStore 0 (sub img 4096 (num img 12 4)) h
  waitKept_modPlain _ (waitKept_romStore _ _ (waitKept_romStore _ _ (waitKept_ite_fst (waitKept_unwrapSlots rec hb) hb)))

theorem waitKept_verifyFirmware (h : WaitKept s t) : WaitKept s (verifyFirmware t p).1 := by
  have hr := waitKept_romRead (p := p) 0x1000000 1376 h
  unfold verifyFirmware
  refine waitKept_ite_fst h ?_
  split
  next e => exact waitKept_modPlain _ (hr.of_fst e)
  next rec e =>
    have hy := waitKept_readSlot (p := p) 0x800000 (waitKept_readSlot (p := p) 0 (hr.of_fst e))
    exact waitKept_ite_fst (waitKept_modPlain _ (hr.of_fst e))
      (waitKept_ite_fst hy (waitKept_ite_fst (waitKept_modPlain _ hy) (waitKept_bootImage _ _ _ _ _ hy)))

theorem waitKept_bootFailed (h : WaitKept s t) : WaitKept s (bootFailed t p) :=
  waitKept_ite (waitKept_raiseFault _ _ (waitKept_enterQuarantine false) h)
    (waitKept_ite (waitKept_raiseFault _ _ id h) (waitKept_ite h (waitKept_modPlain _ h)))

theorem waitKept_afterBootRom {x : State × Bool} (h : WaitKept s x.1) : WaitKept s (afterBootRom p x) :=
  waitKept_ite h (waitKept_bootFailed h)

theorem waitKept_runBootRom (h : WaitKept s t) : WaitKept s (runBootRom t p) :=
  waitKept_ite (waitKept_modPlain _ h) (waitKept_ite (waitKept_modPlain _ (waitKept_modPlain _ h)) (waitKept_ite
    (waitKept_raiseFault _ _ (waitKept_enterQuarantine true) (waitKept_modPlain _ h))
    (waitKept_afterBootRom (waitKept_verifyFirmware (waitKept_modPlain _ h)))))

theorem waitKept_enterBoot (h : WaitKept s t) : WaitKept s (enterBoot t p) := waitKept_ite h (waitKept_runBootRom (waitKept_modPlain _ h))

theorem waitKept_plainUp (h : WaitKept s t) : WaitKept s (plainUp t p) :=
  have h0 := waitKept_modPlain (p := p) _ (waitKept_modPlain (p := p) _ h)
  waitKept_ite (waitKept_modPlain _ h0) (waitKept_enterBoot h0)

/-- A Plain enters TEST with the others that wait for it, or nothing happens to it. -/
theorem startTest_at (s : State) (q : Fin 8) :
    (startTest s).plains[q] = s.plains[q] ∨
    (s.power.testStart.getLsbD q.val = true ∧ (startTest s).plains[q] = setMode s.plains[q] .test) := by
  unfold startTest
  split
  · by_cases hq : bit s.power.testStart q.val = true
    · exact .inr ⟨hq, (vall_at _ _ q).trans (if_pos hq)⟩
    · exact .inl ((vall_at _ _ q).trans (if_neg hq))
  · exact .inl rfl

end Sys2Proof.Machine
end

section
/-! SUPPORT. The rows: what one command changes outside the Plain it is addressed to (01 R13, R15, R23). -/

namespace Sys2Proof.Machine

/-- Every state that the outcome answers meets `R`. -/
def Answers (R : State → Prop) (o : Out) : Prop := ∀ t, o = .next t → R t

variable {p : Fin 8} {s t : State} {R : State → Prop}

theorem Answers.next (h : R t) : Answers R (.next t) := fun _ e => by
  cases e
  exact h

theorem answers_ite {c : Prop} [Decidable c] {x y : Out} (hx : Answers R x) (hy : Answers R y) : Answers R (if c then x else y) := by
  split
  · exact hx
  · exact hy

theorem Answers.mono {R' : State → Prop} {o : Out} (h : Answers R o) (k : ∀ t, R t → R' t) : Answers R' o := fun t e => k t (h t e)

/-- Outside its own Plain a command changes nothing of the others but the wire of the short link that joins them and the common entry
to TEST, and it keeps the queue and the clock. -/
def Spares (c : Instr) (s t : State) : Prop :=
  (∀ p q, c.plain = some p → q ≠ p →
    t.plains[q] = s.plains[q] ∨
    (∃ l m, c.frameLink = some l ∧ shortPeer p l = some (q, m) ∧
      t.plains[q] = modLink s.plains[q] m fun L => { L with wire := L.wire.tail }) ∨
    (∃ d, c = .domainSwitchDone p d ∧ s.power.testStart.getLsbD q.val = true ∧ t.plains[q] = setMode s.plains[q] .test)) ∧
  t.pending = s.pending ∧ t.timeNs = s.timeNs

/-- A command of one Plain that stays within it. -/
theorem answers_plain {c : Instr} {o : Out} (hc : c.plain = some p) (h : Answers (Within p s) o) : Answers (Spares c s) o :=
  h.mono fun _ hw => ⟨fun p' q hp hq => .inl (hw.others q (by rwa [Option.some.inj (hc.symm.trans hp)])), hw.pending, hw.timeNs⟩

/-- A command of the device. -/
theorem answers_device {c : Instr} {o : Out} (hc : c.plain = none) (h : Answers (ClockKept s) o) : Answers (Spares c s) o :=
  h.mono fun _ hw => ⟨fun p _ hp => (Option.some_ne_none p (hp.symm.trans hc)).elim, hw.pending, hw.timeNs⟩

/-! ## Frames (01 R15) -/

/-- A frame arrives off-package, or leaves the wire of the neighbour's end of a short link. -/
theorem arrived_cases {l : Fin 8} {f : Frame} {v : State} (h : arrived s p l f = some v) :
    v = s ∨ ∃ q m, shortPeer p l = some (q, m) ∧ v = modPlain s q fun P => modLink P m fun L => { L with wire := L.wire.tail } := by
  unfold arrived at h
  split at h
  · exact .inl (Option.some.inj h).symm
  next q m hp =>
    split at h
    · exact .inr ⟨q, m, hp, (Option.some.inj h).symm⟩
    · cases h

/-- A frame that leaves the neighbour's wire, and then changes only the Plain at which it arrives. -/
theorem spares_of_wire {c : Instr} {l q m : Fin 8} (hc : c.plain = some p) (hl : c.frameLink = some l) (hp : shortPeer p l = some (q, m))
    (h : Within p (modPlain s q fun P => modLink P m fun L => { L with wire := L.wire.tail }) t) : Spares c s t := by
  refine ⟨fun p' q' hp' hne => ?_, h.pending, h.timeNs⟩
  obtain rfl := Option.some.inj (hc.symm.trans hp')
  have hk := h.others q' hne
  by_cases hq : q' = q
  · subst hq
    exact .inr (.inl ⟨l, m, hl, hp, hk.trans (modPlain_same _ _ _)⟩)
  · exact .inl (hk.trans (modPlain_other _ _ _ _ hq))

theorem onArrival_spares {c : Instr} {l : Fin 8} (f : Frame) {k : State → State} (hc : c.plain = some p) (hl : c.frameLink = some l)
    (hk : ∀ {v w}, Within p v w → Within p v (k w)) : Answers (Spares c s) (onArrival p l f k s) := by
  have hself : Answers (Spares c s) (.next s) := answers_plain hc (.next (.refl p s))
  unfold onArrival
  split
  · exact hself
  next v hv =>
    have hrow : ∀ w, Within p v w → Spares c s w := by
      intro w hw
      rcases arrived_cases hv with rfl | ⟨q, m, hp, rfl⟩
      · exact answers_plain hc (.next hw) w rfl
      · exact spares_of_wire hc hl hp hw
    have hu := within_modPlain (fun P => modLink P l countArrival) (.refl p v)
    exact answers_ite (.next (hrow _ (within_modPlain _ hu))) (.next (hrow _ (hk hu)))

/-- A row that takes a frame of its type. -/
theorem frameRow_spares {c : Instr} {l : Fin 8} (f : Frame) {k : State → State} {b : Bool} (hc : c.plain = some p)
    (hl : c.frameLink = some l) (hk : ∀ {v w}, Within p v w → Within p v (k w)) :
    Answers (Spares c s) (if b then .next s else onArrival p l f k s) :=
  answers_ite (answers_plain hc (.next (.refl p s))) (onArrival_spares f hc hl hk)

theorem frameCheckFail_spares (l : Fin 8) : Answers (Spares (.frameCheckFail p l) s) (execFrameCheckFail p l s) := by
  unfold execFrameCheckFail
  refine .next ?_
  split
  · exact answers_plain rfl (.next (within_modPlain _ (.refl p s))) _ rfl
  next q m hp =>
    refine ⟨fun p' q' hp' hne => ?_, rfl, rfl⟩
    obtain rfl := Option.some.inj hp'
    have hs := modPlain_other s p q' (fun P => modLink P l fun L => { countArrival L with crcCnt := satInc L.crcCnt }) hne
    by_cases hq : q' = q
    · subst hq
      exact .inr (.inl ⟨l, m, rfl, hp, (modPlain_same _ _ _).trans (congrArg (modLink · m _) hs)⟩)
    · exact .inl ((modPlain_other _ _ _ _ hq).trans hs)

/-! ## The common entry to TEST (01 R23, 18 R368) -/

theorem domainSwitchDone_spares (d : Fin 10) : Answers (Spares (.domainSwitchDone p d) s) (execDomainSwitchDone p d s) := by
  have hself : ∀ {t}, Within p s t → Answers (Spares (.domainSwitchDone p d) s) (.next t) := fun h => answers_plain rfl (.next h)
  unfold execDomainSwitchDone
  refine answers_ite (hself (within_valleyCompletes (within_power _ (.refl p s)))) (answers_ite ?_ (hself (.refl p s)))
  dsimp only
  have hon : Within p s { s with power := { setDomain s.power p d true with switching := s.power.switching.tail } } := within_power _ (.refl p s)
  split
  · exact hself hon
  · have hup := within_plainUp hon
    have hwait : WaitKept s (plainUp { s with power := { setDomain s.power p d true with switching := s.power.switching.tail } } p) :=
      waitKept_plainUp (by simp only [WaitKept, setDomain]; split <;> rfl)
    have hclock := clockKept_startTest ((ClockKept.refl s).within hup)
    refine .next ⟨fun p' q hp' hne => ?_, hclock.pending, hclock.timeNs⟩
    obtain rfl := Option.some.inj hp'
    rcases startTest_at (plainUp { s with power := { setDomain s.power p d true with switching := s.power.switching.tail } } p) q with e | ⟨hq, e⟩
    · exact .inl (e.trans (hup.others q hne))
    · rw [hwait] at hq
      exact .inr (.inr ⟨d, rfl, hq, e.trans (congrArg (setMode · .test) (hup.others q hne))⟩)

/-! ## Rows of one Plain that need more than their shared operation -/

theorem stepRelease_within (cols : BitVec 9) : Answers (Within p s) (execStepRelease p cols s) := by
  have h0 := within_modPlain flagCorrections (.refl p s)
  refine answers_ite (.next (.refl p s)) ?_
  dsimp only
  split
  · exact .next (within_abandon _ _ _ (within_modPlain _ h0))
  · exact answers_ite (.next (within_modPlain _ h0)) (.next (within_modPlain _ h0))

theorem captureRoomFreed_within : Answers (Within p s) (execCaptureRoomFreed p s) :=
  have h0 := within_modPlain _ (.refl p s)
  answers_ite (.next (.refl p s)) (answers_ite (.next (within_row2 (.refl p s))) (.next (within_ite (within_finishRows h0) h0)))

theorem captureDrain_within : Answers (Within p s) (execCaptureDrain p s) := by
  unfold execCaptureDrain
  dsimp only
  split
  · exact .next (.refl p s)
  · exact answers_ite (.next (.refl p s)) (.next (within_ite (within_captureTurn _ _ _ (.refl p s)) (within_modPlain _ (within_captureTurn _ _ _ (.refl p s)))))

theorem checkpointDrainDone_within : Answers (Within p s) (execCheckpointDrainDone p s) := by
  unfold execCheckpointDrainDone
  split
  · exact .next (.refl p s)
  · exact .next (within_ite (within_captureTurn _ _ _ (.refl p s)) (within_modPlain _ (within_captureTurn _ _ _ (.refl p s))))

theorem passTxTake_within (l : Fin 8) : Answers (Within p s) (execPassTxTake p l s) := by
  unfold execPassTxTake
  dsimp only
  split
  · exact .next (.refl p s)
  · exact answers_ite (.next (within_modPlain _ (.refl p s))) (answers_ite (.next (.refl p s)) (.next (within_modPlain _ (.refl p s))))

theorem creditReturnTimeout_within (l : Fin 8) : Answers (Within p s) (execCreditReturnTimeout p l s) := by
  unfold execCreditReturnTimeout
  split
  · exact answers_ite (.next (within_modPlain _ (.refl p s))) (.next (.refl p s))
  · exact .next (.refl p s)

theorem passRxPush_within (l : Fin 8) (chan : Fin 64) : Answers (Within p s) (execPassRxPush p l chan s) := by
  unfold execPassRxPush
  dsimp only
  split
  · exact .next (.refl p s)
  · exact answers_ite (.next (.refl p s)) (.next (within_modPlain _ (.refl p s)))

theorem replayLogInject_within : Answers (Within p s) (execReplayLogInject p s) := by
  unfold execReplayLogInject
  refine answers_ite (.next (.refl p s)) ?_
  split
  · exact .next (.refl p s)
  · exact answers_ite (.next (.refl p s)) (answers_ite (.next (.refl p s)) (.next (within_modPlain _ (.refl p s))))

theorem jobLoad_within (seq : Word) (addr len : DWord) (vplain : BitVec 16) (bind : DWord) :
    Answers (Within p s) (execJobLoad p seq addr len vplain bind s) :=
  have hv := within_verifyImage addr.toNat len.toNat vplain.toNat bind (.refl p s)
  answers_ite (.next (.refl p s)) (answers_ite (.next (within_modPlain _ (.refl p s))) (answers_ite (.next (within_modPlain _ (.refl p s)))
    (answers_ite (.next hv) (.next (within_modPlain _ hv)))))

theorem loadCommit_within : Answers (Within p s) (execLoadCommit p s) := by
  unfold execLoadCommit
  dsimp only
  split
  · exact .next (.refl p s)
  · have hr := fun addr v man ks => within_readParts addr v man ks (within_settle (.refl p s))
    exact answers_ite (.next (.refl p s)) (answers_ite (.next (hr _ _ _ _)) (.next (within_modPlain _ (hr _ _ _ _))))

theorem jobMode_within (seq : Word) (code : Byte) : Answers (Within p s) (execJobMode p seq code s) := by
  unfold execJobMode
  refine answers_ite (.next (.refl p s)) ?_
  split
  · exact .next (within_jobDone _ _ _ (.refl p s))
  · exact .next (within_jobModeTo _ _ (.refl p s))

theorem epochSwitch_within (seq : Word) (target : BitVec 48) (addr : DWord) (len : Word) :
    Answers (Within p s) (execEpochSwitch p seq target addr len s) := by
  have hr := within_ldRead addr.toNat len.toNat (.refl p s)
  have hdone : ∀ {v} (f : Plain → Plain), Within p s v → Answers (Within p s) (.next (modPlain v p f)) := fun f h => .next (within_modPlain f h)
  refine answers_ite (.next (.refl p s)) (answers_ite (hdone _ (.refl p s)) (answers_ite (hdone _ (.refl p s)) (answers_ite (hdone _ (.refl p s))
    (answers_ite (.next hr) (answers_ite (hdone _ hr) (answers_ite (hdone _ hr) (answers_ite (hdone _ hr) (answers_ite (hdone _ hr) ?_))))))))
  split
  · exact hdone _ hr
  · exact answers_ite (hdone _ hr) (hdone _ hr)

theorem xactTransferDone_within : Answers (Within p s) (execXactTransferDone p s) := by
  unfold execXactTransferDone
  dsimp only
  split
  · exact .next (.refl p s)
  · have hr := fun V T n X => within_runPieces V T n X (.refl p s)
    refine answers_ite (.next (within_xactDone _ _ _ (within_modPlain _ (.refl p s)))) (.next (within_ite (hr _ _ _ _) ?_))
    split
    · exact within_modPlain _ (hr _ _ _ _)
    · exact within_xactDone _ _ _ (within_modPlain _ (hr _ _ _ _))
    · exact within_xactDone _ _ _ (within_modPlain _ (hr _ _ _ _))

theorem descriptorAccept_within (r : Fin 4) : Answers (Within p s) (execDescriptorAccept p r s) :=
  answers_ite (.next (.refl p s)) (answers_ite (.next (within_ringFlag _ _ (within_modPlain _ (.refl p s)))) (.next (within_modPlain _ (.refl p s))))

theorem completionRecordWrite_within : Answers (Within p s) (execCompletionRecordWrite p s) := by
  have h1 := fun a bs f => within_modPlain (p := p) f (within_hostPut a bs (.refl p s))
  unfold execCompletionRecordWrite
  dsimp only
  split
  · exact .next (.refl p s)
  · exact answers_ite (.next (within_ite (.refl p s) (within_vector _ (within_modPlain _ (.refl p s)))))
      (answers_ite (.next (.refl p s)) (.next (within_ite (within_vector _ (h1 _ _ _)) (h1 _ _ _))))

theorem statusBlockWrite_within : Answers (Within p s) (execStatusBlockWrite p s) :=
  have h1 := within_modPlain _ (within_hostPut _ _ (.refl p s))
  have h2 := within_ite (within_vector 0 h1) h1
  answers_ite (.next (within_ite (within_vector 1 h2) h2)) (.next (.refl p s))

theorem descriptorReread_within (r : Fin 4) : Answers (Within p s) (execDescriptorReread p r s) := by
  unfold execDescriptorReread
  dsimp only
  split
  · exact .next (.refl p s)
  · exact answers_ite (.next (.refl p s)) (.next (within_modPlain _ (.refl p s)))

theorem functionLevelReset_within : Answers (Within p s) (execFunctionLevelReset p s) := by
  have h0 := fun f => within_modPlain f (.refl p s)
  unfold execFunctionLevelReset
  refine .next ?_
  split
  · exact h0 _
  · exact within_modPlain _ (h0 _)
  · exact within_plainReset _ (within_modPlain _ (h0 _))

theorem managerInstruction_within (lockstep : BitVec 2) : Answers (Within p s) (execManagerInstruction p lockstep s) :=
  answers_ite (.next (.refl p s)) (answers_ite (.next (within_mgrStep (.refl p s))) (answers_ite (.next (within_lockstepFailure _ (.refl p s)))
    (answers_ite (.next (within_lockstepFailure _ (.refl p s))) (.next (within_mgrStep (within_modPlain _ (.refl p s)))))))

theorem longResult_within : Answers (Within p s) (execLongResult p s) := by
  unfold execLongResult
  dsimp only
  split
  · exact .next (.refl p s)
  · exact .next (within_modMgr _ (.refl p s))

theorem loadDataReturn_within : Answers (Within p s) (execLoadDataReturn p s) := by
  unfold execLoadDataReturn
  dsimp only
  split
  · exact .next (.refl p s)
  next o _ =>
    have hs := within_mgrServe o (.refl p s)
    refine answers_ite (.next (.refl p s)) (answers_ite (.next hs) ?_)
    split
    · exact .next (within_modPlain _ hs)
    · exact .next (within_modMgr _ (within_modPlain _ hs))
    · exact .next hs

theorem managerStoreAccept_within : Answers (Within p s) (execManagerStoreAccept p s) := by
  unfold execManagerStoreAccept
  dsimp only
  split
  · exact .next (.refl p s)
  next o _ =>
    have hs := within_mgrServe o (.refl p s)
    exact answers_ite (.next (.refl p s)) (answers_ite (.next (within_modMgr _ hs)) (.next hs))

theorem blockOpDone_within : Answers (Within p s) (execBlockOpDone p s) := by
  unfold execBlockOpDone
  split
  · exact .next (.refl p s)
  · exact .next (within_blkRun _ (.refl p s))

theorem lockstepSelfTest_within (detected realMismatch : Bool) : Answers (Within p s) (execLockstepSelfTest p detected realMismatch s) :=
  have h0 := within_modPlain _ (.refl p s)
  answers_ite (.next (.refl p s)) (answers_ite (.next (within_lockstepFailure _ h0)) (answers_ite (.next (within_modMgr _ h0))
    (.next (within_lockstepFailure _ h0))))

theorem dmaStartEvent_within : Answers (Within p s) (execDmaStartEvent p s) := by
  unfold execDmaStartEvent
  split
  · exact .next (.refl p s)
  · exact .next (within_modPlain _ (.refl p s))

theorem dmaDescriptorComplete_within (c : Fin 16) : Answers (Within p s) (execDmaDescriptorComplete p c s) := by
  unfold execDmaDescriptorComplete
  split
  · exact .next (.refl p s)
  · exact .next (within_runChannel _ _ (.refl p s))

theorem powerMeasure_within (qw : Word) : Answers (Within p s) (execPowerMeasure p qw s) := by
  have h0 := fun f => within_modPlain f (.refl p s)
  unfold execPowerMeasure
  refine answers_ite (.next (.refl p s)) ?_
  dsimp only
  split
  · exact .next (h0 _)
  · exact answers_ite (.next (within_pf0Vector _ (within_modPlain _ (h0 _)))) (.next (h0 _))

theorem railFault_within (h : p.val < 8) : Answers (Within p s) (execRailFault ⟨p.val, by omega⟩ s) := by
  unfold execRailFault
  rw [dif_pos h]
  exact answers_ite (.next (.refl p s))
    (.next (within_raiseFault _ _ (fun hv => within_powerOff (within_closeIn hv)) (within_pf0Vector _ (within_power _ (.refl p s)))))

theorem bootRomInstall_within : Answers (Within p s) (execBootRomInstall p s) := by
  unfold execBootRomInstall
  split
  · exact .next (.refl p s)
  next off slot _ =>
    refine answers_ite (.next (within_mbAckWrite _ _ (.refl p s))) ?_
    have hc := within_stagedCandidate off (.refl p s)
    split
    next e => exact .next (within_mbAckWrite _ _ (hc.of_fst e))
    next e => exact .next (within_mbAckWrite _ _ (within_tagWrite _ _ (within_nvsWrite _ _ _ (hc.of_fst e))))

theorem secureWipeDone_within : Answers (Within p s) (execSecureWipeDone p s) :=
  have h0 := within_modPlain _ (.refl p s)
  answers_ite (.next (.refl p s)) (.next (within_ite (within_runBootRom h0) h0))

theorem testctl_within (addr : BitVec 40) (sizeCode : BitVec 2) (write : Bool) (data : DWord) :
    Answers (Within p s) (scanned s fun v => testctlAccess v p addr sizeCode write data) :=
  .next (within_ite (.refl p s) (within_testctlAccess _ _ _ _ (within_modTap _ (.refl p s))))

theorem regWrite_within (seq : Word) (pairs : List (Word × Word)) : Answers (Within p s) (execRegWrite p seq pairs s) :=
  answers_ite (.next (.refl p s)) (answers_ite (.next (within_modPlain _ (.refl p s)))
    (.next (within_modPlain _ (within_foldl (fun _ => within_hostWrite _ _) _ (.refl p s)))))

end Sys2Proof.Machine
end

section
/-! SUPPORT. Every command, row by row: outside the Plain it is addressed to it spares what `Spares` says (01 R13, R15, R23). -/

namespace Sys2Proof.Machine

variable {p : Fin 8} {s t : State}

/-- A row of one Plain that acts by a shared operation. -/
theorem spares_row {c : Instr} (hc : c.plain = some p) (h : Within p s t) : Answers (Spares c s) (.next t) := answers_plain hc (.next h)

/-- A row of one Plain whose condition may fail. -/
theorem spares_guarded {c : Instr} {b : Prop} [Decidable b] (hc : c.plain = some p) (h : Within p s t) :
    Answers (Spares c s) (if b then .next t else .next s) := answers_ite (spares_row hc h) (spares_row hc (.refl p s))

/-- The Plain that a window number below 8 names. -/
theorem window_plain {q : Fin 9} (h : q.val < 8) : (if h : q.val < 8 then some (⟨q.val, h⟩ : Fin 8) else none) = some ⟨q.val, h⟩ := dif_pos h

theorem registerWrite_spares (q : Fin 9) (who : Agent) (off : BitVec 28) (v : Word) :
    Answers (Spares (.registerWrite q who off v) s) (exec (.registerWrite q who off v) s) := by
  by_cases h : q.val < 8
  · obtain ⟨t, ht, hw⟩ := exec_registerWrite_within (s := s) ⟨q.val, h⟩ who off v
    exact answers_plain (window_plain h) fun u hu => by
      cases ht.symm.trans hu
      exact hw
  · refine answers_device (dif_neg h) (answers_ite (.next (.refl s)) ?_)
    rw [dif_neg h]
    exact .next (clockKept_ite (clockKept_ite (clockKept_pf0FnPut _ _ (.refl s)) (clockKept_writePf0 _ _ _ (.refl s))) (.refl s))

theorem obsWrite_spares (q : Fin 9) (who : Agent) (off : BitVec 28) (v : Word) :
    Answers (Spares (.obsWrite q who off v) s) (exec (.obsWrite q who off v) s) := by
  change Answers _ (execObsWrite q who off v s)
  unfold execObsWrite
  by_cases h : q.val < 8
  · refine answers_plain (window_plain h) (answers_ite (.next (.refl _ s)) ?_)
    rw [dif_pos h]
    exact .next (within_ite (within_obsPut _ _ _ (.refl _ s)) (.refl _ s))
  · refine answers_device (dif_neg h) (answers_ite (.next (.refl s)) ?_)
    rw [dif_neg h]
    exact .next (clockKept_ite (clockKept_obsDevPut _ _ _ (.refl s)) (.refl s))

theorem hostBar0Access_spares (q : Fin 9) (off : BitVec 28) (size : Nat) (write : Bool) (data : List Byte) :
    Answers (Spares (.hostBar0Access q off size write data) s) (exec (.hostBar0Access q off size write data) s) := by
  change Answers _ (execHostBar0Access q off size write data s)
  unfold execHostBar0Access
  by_cases h : q.val < 8
  · rw [dif_pos h]
    refine answers_plain (window_plain h) (.next (within_modPlain _ ?_))
    split
    · exact within_hostFnAccess _ _ _ _ (.refl _ s)
    · exact within_hostAccess _ _ _ _ (.refl _ s)
  · rw [dif_neg h]
    exact answers_device (dif_neg h) (.next (clockKept_hostPf0Access _ _ _ _ (.refl s)))

theorem railFault_spares (q : Fin 9) : Answers (Spares (.railFault q) s) (exec (.railFault q) s) := by
  by_cases h : q.val < 8
  · exact answers_plain (p := ⟨q.val, h⟩) (window_plain h) (railFault_within h)
  · change Answers _ (execRailFault q s)
    unfold execRailFault
    rw [dif_neg h]
    exact answers_device (dif_neg h) (answers_ite (.next (.refl s)) (.next (clockKept_coldReset _ (.refl s))))

/-! ## Commands of the device -/

theorem vinSample_clock (mv iinMa : Nat) : Answers (ClockKept s) (execVinSample mv iinMa s) := by
  have h0 := fun W => clockKept_power W (.refl s)
  exact answers_ite (.next (clockKept_ite (clockKept_aonLoss (h0 _)) (h0 _)))
    (.next (clockKept_updateUnder (clockKept_plains (fun v q => within_ite (within_causeIs _ _ (.refl q v)) (.refl q v)) _
      (clockKept_samplePwrWarn _ (h0 _)))))

theorem supplyReset_clock : Answers (ClockKept s) (execSupplyReset s) := by
  unfold execSupplyReset
  split
  · exact .next (.refl s)
  · exact answers_ite (.next (.refl s)) (.next (clockKept_power _ (clockKept_coldReset _ (clockKept_supplyRecords (.refl s)))))

theorem thermalSample_clock (temps : List Nat) : Answers (ClockKept s) (execThermalSample temps s) := by
  unfold execThermalSample
  extract_lets old temp hot W v u
  have h0 : ClockKept s v := clockKept_power _ (.refl s)
  clear_value temp hot W v u
  refine answers_ite (answers_ite ?_ (.next h0)) (answers_ite ?_ (answers_ite (.next h0) ?_))
  · exact .next (clockKept_ite (clockKept_releaseReset h0) (h0.shared rfl))
  · exact .next ((clockKept_coldReset 3 (clockKept_supplyRecords h0)).shared rfl)
  · exact .next (clockKept_sampleLimits (clockKept_sampleThrottle (clockKept_sampleWarn h0)))

theorem tamperDetect_clock (sensor : Fin 5) : Answers (ClockKept s) (execTamperDetect sensor s) := by
  unfold execTamperDetect
  extract_lets W v w u
  have hw : ClockKept s w := (ClockKept.refl s).shared rfl
  have hu : ClockKept s u := clockKept_eventAll _ _ _ (clockKept_pf0Vector _ hw)
  exact answers_ite (.next hu) (.next (clockKept_plains
    (fun v q => within_ite (within_raiseFault _ _ (within_enterQuarantine true) (.refl q v)) (.refl q v)) _ hu))

theorem clockKept_boundaryScan (h : ClockKept s t) : ClockKept s (boundaryScan t) := clockKept_modTap _ h

theorem scanned_clock {f : State → State} (hf : ∀ {v}, ClockKept s v → ClockKept s (f v)) : Answers (ClockKept s) (scanned s f) :=
  .next (clockKept_ite (.refl s) (hf (clockKept_modTap _ (.refl s))))

theorem authVerifyDone_clock : Answers (ClockKept s) (execAuthVerifyDone s) := by
  unfold execAuthVerifyDone
  split
  · exact .next (.refl s)
  · extract_lets ok scope v w
    have h0 : ClockKept s v := clockKept_modTap _ (.refl s)
    have h1 : ClockKept s w := clockKept_ite (clockKept_modTap _ h0) (clockKept_modTap _ h0)
    exact .next (clockKept_ite (clockKept_lcRequest _ _ h1) h1)

theorem authLockoutEnd_clock : Answers (ClockKept s) (execAuthLockoutEnd s) := by
  unfold execAuthLockoutEnd
  split
  · exact answers_ite (.next (clockKept_modTap _ (.refl s))) (.next (.refl s))
  · exact .next (.refl s)

theorem i2cWrite_clock (off : BitVec 24) (v : Word) : Answers (ClockKept s) (execI2cWrite off v s) := by
  unfold execI2cWrite
  refine answers_ite (.next ((ClockKept.refl s).shared rfl)) ?_
  split
  · exact .next (clockKept_writePf0 _ _ _ ((ClockKept.refl s).shared rfl))
  · exact .next ((ClockKept.refl s).shared rfl)

/-! ## All commands -/

/-- What a command spares, by a case for every row. -/
theorem exec_spares (c : Instr) (s : State) : Answers (Spares c s) (exec c s) := by
  cases c with
  -- rows that change their Plain at once, or only where their condition holds
  | captureQ7Pop p | paceCtlWrite p | chCtlGo p | chCtlCancel p | chCfgWrite p | timerPeriodWrite p | pioDrv p | pioLdsh p | pioStsh p
  | pioCtr p | pioSigHalt p | pioSigDelay p | pioTxWrite p | pioStart p | pioStop p | pioBankWrite p | pioCfgWrite p | spadCeWriteback p
  | nvsLineWriteDone p | fltCtlClr p | linkCtlEn p | linkCtlRetrain p | linkCtlRetRel p | linkCtlOpen p | ringInit p | mbLockRelease p =>
    exact spares_row rfl (within_modPlain _ (.refl p s))
  | capCtlStart p | capCtlStop p | ckptCtlNow p | colCtlClr p | qsCtlClr p | basinCtlClr p | spadCtlClr p | colHopsRead p | nvsWrRead p
  | basinRsvWrite p | bmCtlRecovery p | pioSigEvt p | pioSigPace p | pioSigDma p =>
    exact spares_row rfl (within_ite (within_modPlain _ (.refl p s)) (.refl p s))
  | backPressureStallEnd p | openResend p | linkTrained p | replayTimeout p | heldRepeat p | timerFire p | pioReservedInstr p =>
    exact spares_guarded rfl (within_modPlain _ (.refl p s))
  | pioBr p | pioXfer p | pioAwait p => exact spares_row rfl (within_modPlain _ (within_modPlain _ (.refl p s)))
  | pioRxRead p => exact spares_row rfl (within_ite (.refl p s) (within_modPlain _ (.refl p s)))
  | rcCounterRead p => exact spares_row rfl (within_ite ((within_modPlain _ (.refl p s)).shared rfl) (.refl p s))
  -- steps and boundaries
  | stepRelease p cols => exact answers_plain rfl (stepRelease_within cols)
  | boundarySequence p => exact spares_guarded rfl (within_row2 (within_modPlain _ (.refl p s)))
  | captureRoomFreed p => exact answers_plain rfl captureRoomFreed_within
  | cycleRelease p =>
    have h0 := within_modPlain (beginCycle s.timeNs) (.refl p s)
    exact spares_guarded rfl (within_ite (within_noteSection _ h0) h0)
  | stallTimeout p => exact answers_ite (spares_row rfl (within_abandon _ _ _ (.refl p s))) (spares_row rfl (.refl p s))
  | captureDrain p => exact answers_plain rfl captureDrain_within
  | checkpointDrainDone p => exact answers_plain rfl checkpointDrainDone_within
  | replayLogInject p => exact answers_plain rfl replayLogInject_within
  | rplCtlGo p => exact spares_row rfl (within_ite (within_rplCtlWrite _ (.refl p s)) (.refl p s))
  -- the Basin
  | mmRequestTake p k => exact spares_row rfl (within_receiveRequest k (.refl p s))
  | mmRequestComplete p k => exact spares_row rfl (within_completeRequest k (.refl p s))
  | patrolScrub p =>
    exact answers_plain rfl (answers_ite (.next (.refl p s)) (answers_ite (.next (within_reportUes _ _ _ (.refl p s)))
      (answers_ite (.next (within_modPlain _ (.refl p s))) (.next (.refl p s)))))
  | basinTempSample p =>
    exact answers_plain rfl (answers_ite (.next (.refl p s)) (.next (within_causeIs _ _ (within_modPlain _ (.refl p s)))))
  -- Pass links
  | passTxTake p l => exact answers_plain rfl (passTxTake_within l)
  | frameSend p l => exact answers_ite (spares_row rfl (.refl p s)) (spares_row rfl (within_linksClosed (within_modPlain _ (.refl p s))))
  | dataFrameRx p l f => exact frameRow_spares f rfl rfl (within_rxSequenced l f (within_modPlain _))
  | cycleFrameRx p l f => exact frameRow_spares f rfl rfl (within_rxSequenced l f fun hv => within_modPlain _ hv)
  | creditFrameRx p l f | closingFrameRx p l f | returnFrameRx p l f =>
    exact frameRow_spares f rfl rfl fun hw => within_linksClosed (within_rxSequenced l f (within_modPlain _) hw)
  | openFrameRx p l f | refuseFrameRx p l f | trainFrameRx p l f => exact frameRow_spares f rfl rfl fun hw => within_modPlain _ hw
  | reservedFrameRx p l f =>
    exact frameRow_spares f rfl rfl fun hw => within_ite (within_modPlain _ hw) (within_rxSequenced l f (within_modPlain _) hw)
  | frameCheckFail p l => exact frameCheckFail_spares l
  | ackRx p l rx => exact spares_row rfl (within_rxCodeword l _ _ (.refl p s))
  | nakRx p l rx => exact spares_row rfl (within_rxCodeword l _ _ (.refl p s))
  | creditReturnTimeout p l => exact answers_plain rfl (creditReturnTimeout_within l)
  | passRxPush p l chan => exact answers_plain rfl (passRxPush_within l chan)
  | laneFail p l => exact spares_guarded rfl (within_failLane l _ (.refl p s))
  | retrainDone p => exact answers_ite (spares_row rfl (.refl p s)) (spares_row rfl (within_modPlain _ (.refl p s)))
  | retrainAttemptFail p l =>
    exact answers_plain rfl (answers_ite (.next (.refl p s)) (answers_ite (.next (within_linkDown l (.refl p s)))
      (.next (within_modPlain _ (.refl p s)))))
  | syncLost p => exact spares_guarded rfl (within_valleyFollows (within_modPlain _ (.refl p s)))
  | closeDeliveryEnd p | closeTimeout p => exact spares_guarded rfl (within_linksClosed (within_modPlain _ (.refl p s)))
  | linkCtlClose p l => exact spares_row rfl (within_ctlClose l (.refl p s))
  -- descriptors
  | jobLoad p seq addr len vplain bind => exact answers_plain rfl (jobLoad_within seq addr len vplain bind)
  | loadCommit p => exact answers_plain rfl loadCommit_within
  | jobMode p seq code => exact answers_plain rfl (jobMode_within seq code)
  | jobHold p =>
    exact answers_plain rfl (answers_ite (.next (.refl p s)) (answers_ite (.next (within_valleyFollows (within_modPlain _ (.refl p s))))
      (.next (within_jobDone _ _ _ (.refl p s)))))
  | jobStep p seq =>
    have hd := fun status => within_jobDone seq status 0 (.refl p s)
    exact answers_plain rfl (answers_ite (.next (.refl p s)) (answers_ite (.next (hd _)) (answers_ite (.next (hd _))
      (answers_ite (.next (hd _)) (.next (within_modPlain _ (.refl p s)))))))
  | jobCheckpoint p seq =>
    have hd := fun status => within_jobDone seq status 0 (.refl p s)
    exact answers_plain rfl (answers_ite (.next (.refl p s)) (answers_ite (.next (hd _))
      (answers_ite (.next (within_modPlain _ (.refl p s))) (.next (hd _)))))
  | jobReplay p seq =>
    have hd := fun status => within_jobDone seq status 0 (.refl p s)
    exact answers_plain rfl (answers_ite (.next (.refl p s)) (answers_ite (.next (hd _)) (answers_ite (.next (hd _))
      (.next (within_replayGo _ _ _ (within_modPlain _ (.refl p s)))))))
  | jobReset p => exact answers_ite (spares_row rfl (.refl p s)) (spares_row rfl (within_plainReset _ (within_modPlain _ (.refl p s))))
  | jobLinkOpen p seq link => exact spares_row rfl (within_jobLink _ _ _ _ (fun l => within_ctlOpen l (.refl p s)) (.refl p s))
  | jobLinkClose p seq link => exact spares_row rfl (within_jobLink _ _ _ _ (fun l => within_ctlClose l (.refl p s)) (.refl p s))
  | jobLinkRetrain p seq link => exact spares_row rfl (within_jobLink _ _ _ _ (fun l => within_ctlRetrain l (.refl p s)) (.refl p s))
  | jobLinkRetRel p seq link => exact spares_row rfl (within_jobLink _ _ _ _ (fun l => within_ctlRetRel l (.refl p s)) (.refl p s))
  | epochSwitch p seq target addr len => exact answers_plain rfl (epochSwitch_within seq target addr len)
  | regWrite p seq pairs => exact answers_plain rfl (regWrite_within seq pairs)
  | xactAdvance p =>
    exact answers_ite (spares_row rfl (.refl p s)) (spares_row rfl (within_xactDone _ _ _ (within_modPlain _ (.refl p s))))
  | xactWrite p | xactRead p => exact spares_row rfl (within_startXact _ _ _ _ _ _ (.refl p s))
  | xactTransferDone p => exact answers_plain rfl xactTransferDone_within
  | bulkCopy p | bulkFill p | bulkCompare p => exact spares_row rfl (within_bulkRun _ _ _ _ (.refl p s))
  -- rings, mailboxes and doorbell bits
  | ringDb p r v => exact spares_row rfl (within_ringDoorbell r v (.refl p s))
  | descriptorAccept p r => exact answers_plain rfl (descriptorAccept_within r)
  | ringAbort p q => exact spares_row rfl (within_ringAbortWrite q (.refl p s))
  | fwStart p v => exact spares_row rfl (within_fwStartWrite v (.refl p s))
  | fwPost p v => exact spares_row rfl (within_fwPostWrite v (.refl p s))
  | ringCfgWrite p r v => exact spares_row rfl (within_ringCfgPut r v (.refl p s))
  | cqCseqWrite p v => exact spares_row rfl (within_cqCseqPut v (.refl p s))
  | completionRecordWrite p => exact answers_plain rfl completionRecordWrite_within
  | statusBlockWrite p => exact answers_plain rfl statusBlockWrite_within
  | descriptorReread p r => exact answers_plain rfl (descriptorReread_within r)
  | functionLevelReset p => exact answers_plain rfl functionLevelReset_within
  | mbGo p m who => exact spares_row rfl (within_mbCtlWrite m who _ (.refl p s))
  | mbAck p m v => exact spares_row rfl (within_mbAckWrite m v (.refl p s))
  | mbLockRead p m who => exact spares_row rfl (within_mbLockGet m who (.refl p s))
  | dbSet p v => exact spares_row rfl (within_ite (within_dbSetBits v (.refl p s)) (.refl p s))
  | dbStatClear p => exact spares_row rfl (within_ite (within_dbUpdate _ _ _ (.refl p s)) (.refl p s))
  | dbMaskWrite p =>
    exact spares_row rfl (within_ite (within_ite (within_dbUpdate _ _ _ (.refl p s)) (within_dbUpdate _ _ _ (.refl p s))) (.refl p s))
  -- the Manager
  | managerInstruction p lockstep => exact answers_plain rfl (managerInstruction_within lockstep)
  | longResult p => exact answers_plain rfl longResult_within
  | loadDataReturn p => exact answers_plain rfl loadDataReturn_within
  | managerStoreAccept p => exact answers_plain rfl managerStoreAccept_within
  | blockOpDone p => exact answers_plain rfl blockOpDone_within
  | lockstepSelfTest p detected realMismatch => exact answers_plain rfl (lockstepSelfTest_within detected realMismatch)
  | progressWarn p => exact spares_guarded rfl (within_raiseFault _ _ id (within_modPlain _ (.refl p s)))
  | progressTimeout p => exact spares_guarded rfl (within_plainReset _ (.refl p s))
  -- DMA
  | dmaStartEvent p => exact answers_plain rfl dmaStartEvent_within
  | dmaDescriptorFetch p c =>
    exact answers_plain rfl (answers_ite (.next (.refl p s)) (answers_ite (.next (within_runChannel _ c (.refl p s)))
      (answers_ite (.next (.refl p s)) (.next (within_fetchDescriptor c (.refl p s))))))
  | dmaDescriptorComplete p c => exact answers_plain rfl (dmaDescriptorComplete_within c)
  -- the bus matrix and its memories
  | busAccessServed p =>
    exact answers_ite (spares_row rfl (.refl p s)) (spares_row rfl (within_matrixStep _ (within_modPlain _ (.refl p s))))
  | hostBar0Access q off size write data => exact hostBar0Access_spares q off size write data
  | secureWipeDone p => exact answers_plain rfl secureWipeDone_within
  | obsWrite q who off v => exact obsWrite_spares q who off v
  | registerWrite q who off v => exact registerWrite_spares q who off v
  -- power and health of a Plain
  | powerMeasure p qw => exact answers_plain rfl (powerMeasure_within qw)
  | throttleEnd p => exact spares_guarded rfl (within_throttleSet _ _ (.refl p s))
  | railFault q => exact railFault_spares q
  | baseReservationGrant p => exact spares_guarded rfl (within_powerUp (.refl p s))
  | domainSwitchDone p d => exact domainSwitchDone_spares d
  -- modes and resets of a Plain
  | plainCtlWake p who | plainCtlReset p who | plainCtlMgrReset p who | plainCtlColReset p who | plainCtlReady p who
  | plainCtlFaultAck p who => exact spares_row rfl (within_plainCtlWrite who _ (.refl p s))
  | rejoinGo p => exact spares_row rfl (within_rejoinWrite _ (.refl p s))
  | bootRomInstall p => exact answers_plain rfl bootRomInstall_within
  | fltCtlClose p who => exact spares_row rfl (within_fltClose who (.refl p s))
  | testctlRead p addr sizeCode => exact answers_plain rfl (testctl_within addr sizeCode false 0)
  | testctlWrite p addr sizeCode data => exact answers_plain rfl (testctl_within addr sizeCode true data)
  -- commands of the device
  | grantInterval => exact answers_device rfl (.next ((clockKept_updateUnder (.refl s)).shared rfl))
  | vinSample mv iinMa => exact answers_device rfl (vinSample_clock mv iinMa)
  | supplyReset => exact answers_device rfl supplyReset_clock
  | supplyResetRelease =>
    exact answers_device rfl (answers_ite (.next (clockKept_ite (clockKept_power _ (.refl s)) (clockKept_releaseReset (.refl s)))) (.next (.refl s)))
  | thermalSample temps => exact answers_device rfl (thermalSample_clock temps)
  | tamperDetect sensor => exact answers_device rfl (tamperDetect_clock sensor)
  | arbHostWrite v => exact answers_device rfl (.next (clockKept_arbHostPut v (.refl s)))
  | coldStart =>
    have h0 := fun W => clockKept_power W (.refl s)
    exact answers_device rfl (answers_ite (.next (h0 _)) (.next (clockKept_coldStart (h0 _))))
  | rstNAssert =>
    have h0 := fun W => clockKept_power W (.refl s)
    exact answers_device rfl (answers_ite (.next (h0 _)) (.next (clockKept_coldReset _ (h0 _))))
  | devRstWarm | pcieHotReset => exact answers_device rfl (.next (clockKept_warmIfStarted _ (.refl s)))
  | tapReset => exact answers_device rfl (.next ((clockKept_endSession (.refl s)).shared rfl))
  | tapIdcode | tapBypass => exact answers_device rfl (scanned_clock (clockKept_modTap _))
  | tapSamplePreload => exact answers_device rfl (scanned_clock fun hv => clockKept_boundaryScan (clockKept_modTap _ hv))
  | tapExtest =>
    exact answers_device rfl (scanned_clock fun hv => clockKept_ite (clockKept_boundaryScan (clockKept_drivePins _ _ hv)) (clockKept_modTap _ hv))
  | tapClamp | tapHighz => exact answers_device rfl (scanned_clock (clockKept_drivePins _ _))
  | tapAuth | testctlPoll =>
    exact answers_device rfl (scanned_clock fun hv => clockKept_ite (clockKept_modTap _ hv) (clockKept_modTap _ hv))
  | authVerifyDone => exact answers_device rfl authVerifyDone_clock
  | authLockoutEnd => exact answers_device rfl authLockoutEnd_clock
  | bistGo v => exact answers_device rfl (.next (clockKept_bistCtlWrite _ (.refl s)))
  | bistDone => exact answers_device rfl (answers_ite (.next (.refl s)) (.next ((ClockKept.refl s).shared rfl)))
  | devRstTestWrite v => exact answers_device rfl (.next (clockKept_devTestWrite v (.refl s)))
  | i2cWrite off v => exact answers_device rfl (i2cWrite_clock off v)
  | i2cRead =>
    exact answers_device rfl (answers_ite (.next ((ClockKept.refl s).shared rfl)) (.next ((ClockKept.refl s).shared rfl)))

/-- Settles O60, by `exec_spares`: a command's operations stay within its Plain, a frame that arrives leaves the neighbour's wire first,
and only the last domain of a TEST start reaches the Plains that wait for it. -/
theorem commandsOfOnePlainLeaveTheOthers : Obligations.CommandsOfOnePlainLeaveTheOthers :=
  fun c s t h => exec_spares c s t h

end Sys2Proof.Machine
end

section
/-! SUPPORT. The release of a cycle (01 R20 rows 9 and 10). -/

namespace Sys2Proof.Machine

variable {p : Fin 8} {s : State}

/-! ## Reads of a log without errors (07 R141) -/

/-- Where no word is in error the capture engine's read counts nothing and raises nothing. -/
theorem engineNote_clean (off n : Nat) (hce : s.plains[p].basin.ce = []) (hue : s.plains[p].basin.ue = []) : engineNote p off n s = s := by
  have hnone : ∀ w : Nat, look false ([] : Sparse Bool) w = false := fun _ => rfl
  simp only [engineNote, hce, hue, hnone, Bool.false_and, List.filter_false, List.length_nil, noteCe, if_pos, reportUes, List.foldl_nil, raiseUe_none]
  exact modPlain_eq_self rfl

theorem logNote_clean (a b : Nat) (hce : s.plains[p].basin.ce = []) (hue : s.plains[p].basin.ue = []) : logNote p a b s = s := by
  simp only [logNote, engineNote_clean _ _ hce hue, ite_self]

theorem noteSection_clean (c : Nat) (hce : s.plains[p].basin.ce = []) (hue : s.plains[p].basin.ue = []) : noteSection p c s = s := by
  unfold noteSection
  split
  · exact logNote_clean _ _ hce hue
  · rfl

/-! ## The parts of a Plain that a release changes -/

/-- A step that may wait stalls, and changes nothing but its tiles' correction flags and the start of the stall (04 R69, 05 R115). -/
theorem startWait_frame (now : Nat) (P : Plain) : ∃ T since, startWait now P = { P with tiles := T, stall := { P.stall with since := since } } := by
  unfold startWait
  split
  · exact ⟨(flagCorrections P).tiles, some (P.stall.since.getD now), by simp only [flagCorrections, allTiles]⟩
  · exact ⟨P.tiles, P.stall.since, rfl⟩

theorem clearRefs_frame (P : Plain) : ∃ T, clearRefs P = { P with tiles := T } := by
  unfold clearRefs
  split
  · exact ⟨vall P.tiles fun _ T => { T with capRef := [] }, rfl⟩
  · exact ⟨P.tiles, rfl⟩

/-- What a release makes of each part of a Plain (01 R20 row 10). -/
theorem beginCycle_frame (now : Nat) (P : Plain) : ∃ T since recovered, beginCycle now P =
    { P with
      tiles := T
      run := { P.run with phase := .stepping, step := 0, cycleStart := now, late := startsLate now P, recovered := recovered,
                          paceRef := if P.ldr.paceEn then some (now + P.ldr.period.toNat) else none }
      ldr := if startsLate now P then { P.ldr with lateCnt := satInc P.ldr.lateCnt } else P.ldr
      stall := { P.stall with acc := 0, since := since }
      pio := if P.run.mode = .bridge then { P.pio with credit := P.pio.credit - 1, decAt := some (pioPeriod now) } else P.pio
      cap := { P.cap with rplNext := 0 }
      links := vall P.links fun _ L => { L with recovered := false } } := by
  obtain ⟨T, hT⟩ := clearRefs_frame P
  unfold beginCycle
  rw [hT]
  obtain ⟨U, since, hU⟩ := startWait_frame now _
  exact ⟨U, since, _, hU⟩

/-- CYCLE_RELEASE of a Plain that may be released, where a replay's section of the log is read without an error. -/
theorem exec_cycleRelease (hgo : canRelease s.timeNs s.plains[p] = true)
    (hlog : s.plains[p].run.mode = .replay → s.plains[p].basin.ce = [] ∧ s.plains[p].basin.ue = []) :
    exec (.cycleRelease p) s = .next (modPlain s p (beginCycle s.timeNs)) := by
  change execCycleRelease p s = _
  unfold execCycleRelease
  rw [if_pos hgo]
  refine congrArg Host.Outcome.next (ite_eq_right_iff.2 fun hm => ?_)
  have hat := modPlain_same s p (beginCycle s.timeNs)
  obtain ⟨T, since, recovered, hrow⟩ := beginCycle_frame s.timeNs s.plains[p]
  rw [hrow] at hat
  obtain ⟨hce, hue⟩ := hlog ((congrArg (·.run.mode) hat).symm.trans hm)
  exact noteSection_clean _ ((congrArg (·.basin.ce) hat).trans hce) ((congrArg (·.basin.ue) hat).trans hue)

/-- Settles O4: the release is `beginCycle`, whose frame says what becomes of each part of the Plain. -/
theorem cycleReleaseBeginsStepZero : Obligations.CycleReleaseBeginsStepZero := by
  intro p s hgo hlog
  refine ⟨_, exec_cycleRelease hgo hlog, onlyPlain_modPlain s p _, ?_⟩
  obtain ⟨T, since, recovered, hrow⟩ := beginCycle_frame s.timeNs s.plains[p]
  rw [modPlain_same, hrow]
  refine ⟨rfl, rfl, rfl, rfl, rfl, rfl, apply_ite Loader.lateCnt _ _ _, apply_ite Pio.credit _ _ _, rfl, fun l => ?_⟩
  simp only [vall_at]

end Sys2Proof.Machine
end

section
/-! SUPPORT. Frames that arrive (08 R149-R156, R429): whether one arrives, whether it is spoilt, and whether it is taken in order. -/

namespace Sys2Proof.Machine

variable {p l : Fin 8} {f : Frame} {s v : State}

theorem modLink_modLink (P : Plain) (l : Fin 8) (g k : Link → Link) : modLink (modLink P l g) l k = modLink P l fun L => k (g L) := by
  simp [modLink, vmod]

/-! ## Arrival (R15, R150, R155) -/

theorem onArrival_none (k : State → State) (h : arrived s p l f = none) : onArrival p l f k s = .next s := by
  simp only [onArrival, h]

/-- A frame with a byte in an uncorrectable codeword is counted and passed, and the row does nothing more. -/
theorem onArrival_spoilt (k : State → State) (h : arrived s p l f = some v) (hup : lanesUp v.plains[p].links[l].state = true)
    (hbad : nextSpoilt v.plains[p].links[l] = true) :
    onArrival p l f k s = .next (modPlain v p fun P => modLink P l fun L => { passFrame L with crcCnt := satInc L.crcCnt }) := by
  simp only [onArrival, h, hup, hbad, Bool.and_self, if_true, modPlain_modPlain, modLink_modLink]
  refine congrArg Host.Outcome.next (modPlain_congr ?_)
  simp only [modLink, vmod, countArrival, hup, if_true, passFrame]

/-- Any other frame reaches the row's operation once its bytes are passed. -/
theorem onArrival_taken (k : State → State) (h : arrived s p l f = some v)
    (hok : lanesUp v.plains[p].links[l].state = false ∨ nextSpoilt v.plains[p].links[l] = false) :
    onArrival p l f k s = .next (k (modPlain v p fun P => modLink P l countArrival)) := by
  have hb : (lanesUp v.plains[p].links[l].state && nextSpoilt v.plains[p].links[l]) = false := by
    rcases hok with hup | hbad
    · rw [hup, Bool.false_and]
    · rw [hbad, Bool.and_false]
  simp only [onArrival, h, hb, Bool.false_eq_true, if_false]

/-- A row of the well-formed frames of one type. -/
theorem frameRow_good {n : Nat} {o : Out} (h : goodFrame f n = true) : (if !goodFrame f n then .next s else o) = o := by
  simp only [h, Bool.not_true, Bool.false_eq_true, if_false]

theorem frameRow_none {b : Bool} (k : State → State) (h : arrived s p l f = none) :
    (if b then .next s else onArrival p l f k s) = .next s := by
  rw [onArrival_none k h, ite_self]

theorem reservedRow {b : Bool} {o : Out} (h : b = true) : (if !b then .next s else o) = o := by
  simp only [h, Bool.not_true, Bool.false_eq_true, if_false]

/-! ## Sequence (R156, R429) -/

/-- What becomes of a sequenced frame that is not taken: outside ACTIVE and DRAIN it is counted, a duplicate is discarded, and after a
gap NAK is due once. -/
def notTaken (s : State) (p l : Fin 8) (f : Frame) : State :=
  let L := s.plains[p].links[l]
  if linkSending L.state = false then modPlain s p fun P => modLink P l fun L => { L with lastRx := s.timeNs, drop := satInc L.drop }
  else if seqBefore f.seq L.rxNext = true ∨ L.nakSent = true then modPlain s p fun P => modLink P l fun L => { L with lastRx := s.timeNs }
  else modPlain s p fun P => modLink P l fun L => { L with lastRx := s.timeNs, nakDue := true, nakSent := true }

theorem rxSequenced_notTaken (take : State → State)
    (h : linkSending s.plains[p].links[l].state = false ∨ f.seq ≠ s.plains[p].links[l].rxNext) :
    rxSequenced s p l f take = notTaken s p l f := by
  unfold rxSequenced notTaken
  simp only [modPlain_modPlain, modLink_modLink, Bool.not_eq_true']
  by_cases hs : linkSending s.plains[p].links[l].state = false
  · rw [if_pos hs, if_pos hs]
    rfl
  rw [if_neg hs, if_neg hs, if_neg (h.resolve_left hs)]
  by_cases hb : seqBefore f.seq s.plains[p].links[l].rxNext = true
  · rw [if_pos hb, if_pos (.inl hb)]
  rw [if_neg hb]
  by_cases hn : s.plains[p].links[l].nakSent = true
  · rw [if_pos (.inr hn)]
    exact modPlain_congr (by simp only [modLink, vmod, hn, if_true])
  · rw [if_neg (not_or.2 ⟨hb, hn⟩)]
    exact modPlain_congr (by simp only [modLink, vmod, hn, Bool.false_eq_true, if_false])

theorem rxSequenced_inSequence (take : State → State) (hs : linkSending s.plains[p].links[l].state = true)
    (hseq : f.seq = s.plains[p].links[l].rxNext) :
    rxSequenced s p l f take = take (modPlain s p fun P => modLink P l fun L =>
      { L with lastRx := s.timeNs, rxNext := L.rxNext + 1, nakSent := false }) := by
  simp only [rxSequenced, hs, hseq, Bool.not_true, Bool.false_eq_true, if_false, if_true, modPlain_modPlain, modLink_modLink]

/-! ## The rows of the sequenced frames -/

section
variable (h : arrived s p l f = some v) (hok : lanesUp v.plains[p].links[l].state = false ∨ nextSpoilt v.plains[p].links[l] = false)
include h hok

theorem exec_dataFrameRx_taken (hg : goodFrame f 1 = true) : exec (.dataFrameRx p l f) s = .next
    (rxSequenced (modPlain v p fun P => modLink P l countArrival) p l f fun s => modPlain s p fun P => modLink P l (takeData f)) :=
  (frameRow_good hg).trans (onArrival_taken _ h hok)

theorem exec_cycleFrameRx_taken (hg : goodFrame f 2 = true) : exec (.cycleFrameRx p l f) s = .next
    (rxSequenced (modPlain v p fun P => modLink P l countArrival) p l f fun s => modPlain s p (takeCycle l f s.timeNs)) :=
  (frameRow_good hg).trans (onArrival_taken _ h hok)

theorem exec_creditFrameRx_taken (hg : goodFrame f 3 = true) : exec (.creditFrameRx p l f) s = .next
    (linksClosed (rxSequenced (modPlain v p fun P => modLink P l countArrival) p l f fun s =>
      modPlain s p fun P => modLink P l fun L => tryClosed (takeCredit f L)) p) :=
  (frameRow_good hg).trans (onArrival_taken _ h hok)

theorem exec_closingFrameRx_taken (hg : goodFrame f 6 = true) : exec (.closingFrameRx p l f) s = .next
    (linksClosed (rxSequenced (modPlain v p fun P => modLink P l countArrival) p l f fun s =>
      modPlain s p fun P => modLink P l (takeClosing f)) p) :=
  (frameRow_good hg).trans (onArrival_taken _ h hok)

theorem exec_returnFrameRx_taken (hg : goodFrame f 7 = true) : exec (.returnFrameRx p l f) s = .next
    (linksClosed (rxSequenced (modPlain v p fun P => modLink P l countArrival) p l f fun s =>
      modPlain s p fun P => modLink P l (takeReturn f)) p) :=
  (frameRow_good hg).trans (onArrival_taken _ h hok)

/-- A reserved or malformed frame of a sequenced type (R155). -/
theorem exec_reservedFrameRx_sequenced (hm : malformed f = true) (h4 : f.typ ≠ 4) (h5 : f.typ ≠ 5) (h8 : f.typ ≠ 8) :
    exec (.reservedFrameRx p l f) s = .next (rxSequenced (modPlain v p fun P => modLink P l countArrival) p l f fun s =>
      modPlain s p fun P => modLink P l fun L => linkFlag L 6) := by
  have ht : ¬(f.typ.toNat = 4 ∨ f.typ.toNat = 5 ∨ f.typ.toNat = 8) := by bv_omega
  refine ((reservedRow hm).trans (onArrival_taken _ h hok)).trans ?_
  rw [if_neg ht]

theorem exec_reservedFrameRx_unsequenced (hm : malformed f = true) (ht : f.typ = 4 ∨ f.typ = 5 ∨ f.typ = 8) :
    exec (.reservedFrameRx p l f) s = .next (modPlain (modPlain v p fun P => modLink P l countArrival) p fun P => modLink P l fun L =>
      { L with lastRx := v.timeNs, drop := satInc L.drop }) := by
  have ht : f.typ.toNat = 4 ∨ f.typ.toNat = 5 ∨ f.typ.toNat = 8 := by bv_omega
  refine ((reservedRow hm).trans (onArrival_taken _ h hok)).trans ?_
  rw [if_pos ht]
  rfl

end

/-- A sequenced frame that is not taken: the row stops there, but for what waits for the links to close. -/
theorem sequencedFrame_notTaken (h : arrived s p l f = some v)
    (hok : lanesUp v.plains[p].links[l].state = false ∨ nextSpoilt v.plains[p].links[l] = false) :
    let u := modPlain v p fun P => modLink P l countArrival
    (linkSending u.plains[p].links[l].state = false ∨ f.seq ≠ u.plains[p].links[l].rxNext) →
      (goodFrame f 1 = true → exec (.dataFrameRx p l f) s = .next (notTaken u p l f)) ∧
      (goodFrame f 2 = true → exec (.cycleFrameRx p l f) s = .next (notTaken u p l f)) ∧
      (goodFrame f 3 = true → exec (.creditFrameRx p l f) s = .next (linksClosed (notTaken u p l f) p)) ∧
      (goodFrame f 6 = true → exec (.closingFrameRx p l f) s = .next (linksClosed (notTaken u p l f) p)) ∧
      (goodFrame f 7 = true → exec (.returnFrameRx p l f) s = .next (linksClosed (notTaken u p l f) p)) ∧
      (malformed f = true → f.typ ≠ 4 → f.typ ≠ 5 → f.typ ≠ 8 → exec (.reservedFrameRx p l f) s = .next (notTaken u p l f)) := by
  intro u hu
  have hnot := fun take => rxSequenced_notTaken take hu
  refine ⟨fun hg => ?_, fun hg => ?_, fun hg => ?_, fun hg => ?_, fun hg => ?_, fun hm h4 h5 h8 => ?_⟩
  · rw [exec_dataFrameRx_taken h hok hg, hnot]
  · rw [exec_cycleFrameRx_taken h hok hg, hnot]
  · rw [exec_creditFrameRx_taken h hok hg, hnot]
  · rw [exec_closingFrameRx_taken h hok hg, hnot]
  · rw [exec_returnFrameRx_taken h hok hg, hnot]
  · rw [exec_reservedFrameRx_sequenced h hok hm h4 h5 h8, hnot]

/-- A reserved or malformed frame in sequence is accepted and sets PROTO (R155, R179). -/
theorem reservedFrame_accepted (h : arrived s p l f = some v)
    (hok : lanesUp v.plains[p].links[l].state = false ∨ nextSpoilt v.plains[p].links[l] = false) :
    let u := modPlain v p fun P => modLink P l countArrival
    linkSending u.plains[p].links[l].state = true → f.seq = u.plains[p].links[l].rxNext → malformed f = true → f.typ ≠ 4 → f.typ ≠ 5 → f.typ ≠ 8 →
      exec (.reservedFrameRx p l f) s = .next (modPlain u p fun P => modLink P l fun L =>
        { L with lastRx := u.timeNs, rxNext := L.rxNext + 1, nakSent := false, flags := setBit L.flags 6 true }) := by
  intro u hs hseq hm h4 h5 h8
  rw [exec_reservedFrameRx_sequenced h hok hm h4 h5 h8, rxSequenced_inSequence _ hs hseq]
  simp only [modPlain_modPlain, modLink_modLink, linkFlag, u]

/-- Settles O12, by whether the frame arrives, whether a codeword has spoilt it, and whether it is taken in order. -/
theorem sequencedFramesAreTakenInOrder : Obligations.SequencedFramesAreTakenInOrder := by
  intro p l f s
  refine ⟨fun h => ?_, fun v h hup hbad => ?_, fun v h hok => ⟨?_, ?_, ?_⟩, fun h => ?_, fun q m h => ?_⟩
  · exact ⟨frameRow_none _ h, frameRow_none _ h, frameRow_none _ h, frameRow_none _ h, frameRow_none _ h, frameRow_none _ h⟩
  · have hlost := fun k => onArrival_spoilt k h hup hbad
    have hrow := fun {n : Nat} k (hg : goodFrame f n = true) => (frameRow_good (s := s) hg).trans (hlost k)
    exact ⟨hrow _, hrow _, hrow _, hrow _, hrow _, hrow _, hrow _, hrow _, fun hm => (reservedRow hm).trans (hlost _)⟩
  · exact sequencedFrame_notTaken h hok
  · exact reservedFrame_accepted h hok
  · exact exec_reservedFrameRx_unsequenced h hok
  · change execFrameCheckFail p l s = _
    simp only [execFrameCheckFail, h]
  · change execFrameCheckFail p l s = _
    simp only [execFrameCheckFail, h]

end Sys2Proof.Machine
end

section
/-! SUPPORT. Frames in sequence on an ACTIVE link (08 R163-R166, R170-R175): what each of the five changes of its link, and of its Plain. -/

namespace Sys2Proof.Machine

variable {p l : Fin 8} {f : Frame} {s v : State}

/-! ## Updates of one link -/

/-- An update of link `l` of Plain `p`. -/
theorem linkUpdate_frame (s : State) (p l : Fin 8) (g : Link → Link) :
    OnlyPlain p s (modPlain s p fun P => modLink P l g) ∧
    (modPlain s p fun P => modLink P l g).plains[p] =
      { s.plains[p] with links := (modPlain s p fun P => modLink P l g).plains[p].links } ∧
    (modPlain s p fun P => modLink P l g).plains[p].links[l] = g s.plains[p].links[l] ∧
    ∀ m : Fin 8, m ≠ l → (modPlain s p fun P => modLink P l g).plains[p].links[m] = s.plains[p].links[m] := by
  rw [modPlain_same]
  exact ⟨onlyPlain_modPlain _ _ _, rfl, modLink_same _ _ _, fun m hm => modLink_other _ _ _ _ hm⟩

theorem linkUpdate_after (s : State) (p l : Fin 8) (g : Link → Link) :
    (modPlain s p fun P => modLink P l g).plains[p].run.after = s.plains[p].run.after := by
  rw [modPlain_same]
  rfl

theorem modLink_congr {P : Plain} {f g : Link → Link} (h : f P.links[l] = g P.links[l]) : modLink P l f = modLink P l g := by
  simp only [modLink, vmod, h]

/-! ## Closing (R175, R176) -/

/-- Where nothing waits for the links to close, nothing follows. -/
theorem linksClosed_idle (h : s.plains[p].run.after = none) : linksClosed s p = s := by
  simp only [linksClosed, afterClose, h, ite_self]

theorem tryClosed_active {L : Link} (h : L.state = .active) : tryClosed L = L := by
  simp only [tryClosed, closeDone, h, reduceCtorEq, decide_false, Bool.false_and, Bool.false_eq_true, if_false]

/-! ## Credits (R156, R164) -/

/-- One entry of a CREDIT frame. -/
def addCredit (init : Bool) (L : Link) (x : Nat × Nat) : Link :=
  let L := { L with cred := put 0 L.cred x.1 (look 0 L.cred x.1 + x.2) }
  if init then { L with granted := put false L.granted x.1 true }
  else trimReplay { L with replay := confirmFrames x.1 x.2 L.replay }

theorem takeCredit_eq (f : Frame) (L : Link) : takeCredit f L = (creditEntries f).foldl (addCredit (f.flags.getLsbD 0)) L := rfl

/-- A write of anything but the value of the unlisted indices is read back, whatever the order of the store. -/
theorem look_put_listed {α : Type} [DecidableEq α] (d : α) (m : Sparse α) (i : Nat) (v : α) (h : v ≠ d) : look d (put d m i v) i = v := by
  unfold look put
  induction m with
  | nil => simp [sset, sget, h]
  | cons e r ih =>
    obtain ⟨k, w⟩ := e
    unfold sset
    by_cases hlt : i < k
    · simp [sget, hlt, h]
    · by_cases heq : i = k
      · simp [sget, heq, h]
      · have hne : k ≠ i := fun e => heq e.symm
        simp [sget, hlt, heq, hne, ih]

theorem addCredit_frame (init : Bool) (L : Link) (x : Nat × Nat) :
    (addCredit init L x).state = L.state ∧ (addCredit init L x).rxNext = L.rxNext ∧
    (addCredit init L x).cred = put 0 L.cred x.1 (look 0 L.cred x.1 + x.2) := by
  unfold addCredit
  cases init
  · exact ⟨rfl, rfl, rfl⟩
  · exact ⟨rfl, rfl, rfl⟩

/-- One entry adds its count to its channel's credit. -/
theorem addCredit_cred (init : Bool) (L : Link) (x : Nat × Nat) (h : x.2 ≠ 0) (n : Nat) :
    look 0 (addCredit init L x).cred n = look 0 L.cred n + if x.1 == n then x.2 else 0 := by
  rw [(addCredit_frame init L x).2.2]
  by_cases hn : x.1 = n
  · subst hn
    rw [look_put_listed _ _ _ _ (by omega), if_pos (beq_self_eq_true _)]
  · rw [look_put_other _ _ _ _ _ (Ne.symm hn), if_neg (by simpa using hn), Nat.add_zero]

theorem creditEntries_counted (f : Frame) : ∀ x ∈ creditEntries f, x.2 ≠ 0 := by
  intro x hx
  simpa using (List.mem_filter.1 hx).2

/-- The entries of a CREDIT frame, one after the other. -/
theorem credits_frame (init : Bool) (xs : List (Nat × Nat)) (hx : ∀ x ∈ xs, x.2 ≠ 0) (L : Link) :
    (xs.foldl (addCredit init) L).state = L.state ∧ (xs.foldl (addCredit init) L).rxNext = L.rxNext ∧
    ∀ n, look 0 (xs.foldl (addCredit init) L).cred n = look 0 L.cred n + ((xs.filter fun x => x.1 == n).map (·.2)).sum := by
  induction xs generalizing L with
  | nil => exact ⟨rfl, rfl, fun _ => rfl⟩
  | cons x xs ih =>
    obtain ⟨hstate, hnext, -⟩ := addCredit_frame init L x
    obtain ⟨ihstate, ihnext, ihcred⟩ := ih (fun y hy => hx y (List.mem_cons_of_mem _ hy)) (addCredit init L x)
    refine ⟨ihstate.trans hstate, ihnext.trans hnext, fun n => (ihcred n).trans ?_⟩
    rw [addCredit_cred init L x (hx x List.mem_cons_self), List.filter_cons]
    split
    · simp only [List.map_cons, List.sum_cons, Nat.add_assoc]
    · rfl

/-! ## CYCLE frames (R170-R173) -/

/-- From `P` to `Q` a hold may have been taken up: of the links only the CYCLE frames that are due change. -/
structure HoldTaken (P Q : Plain) : Prop where
  plain : Q = { P with links := Q.links, sync := Q.sync, run := Q.run }
  link : ∀ m : Fin 8, Q.links[m] = { P.links[m] with dueCycle := Q.links[m].dueCycle }

theorem HoldTaken.refl (P : Plain) : HoldTaken P P := ⟨rfl, fun _ => rfl⟩

theorem holdTaken_raiseHold (t : Nat) (P : Plain) : HoldTaken P (raiseHold t P) := by
  refine ⟨rfl, fun m => ?_⟩
  unfold raiseHold sendCycle
  rw [allLinks_at]
  split
  · rfl
  · rfl

theorem holdTaken_adoptHold (t : Nat) (P : Plain) : HoldTaken P (adoptHold t P) := by
  unfold adoptHold
  extract_lets done
  split
  · exact .refl P
  split
  · exact ⟨rfl, fun _ => rfl⟩
  split
  · split
    · exact .refl P
    · exact holdTaken_raiseHold t P
  · exact holdTaken_raiseHold t P

theorem HoldTaken.noteGate {P Q : Plain} (h : HoldTaken P Q) (now : Nat) (before : Bool) : HoldTaken P (noteGate now before Q) := by
  unfold Machine.noteGate
  split
  · exact ⟨by rw [h.plain], h.link⟩
  · exact h

/-- The check of a CYCLE frame sets flags of the link and nothing else (R170). -/
theorem checkCycle_frame (P : Plain) (f : Frame) (L : Link) (rx : Option Nat) : ∃ flags mismatch skew,
    checkCycle P f { L with rxCycle := rx } = { L with flags := flags, failMismatch := mismatch, failSkew := skew, rxCycle := rx } := by
  unfold checkCycle
  extract_lets m own
  split
  · exact ⟨setBit L.flags 1 true, L.failMismatch, true, rfl⟩
  split
  · split
    · exact ⟨L.flags, L.failMismatch, L.failSkew, rfl⟩
    · exact ⟨setBit L.flags 0 true, true, L.failSkew, rfl⟩
  · exact ⟨setBit L.flags 0 true, true, L.failSkew, rfl⟩

/-! ## A link that has taken a frame in sequence -/

/-- The receiver of a frame in sequence goes on to the next number (R156). -/
def inSequence (now : Nat) (L : Link) : Link := { L with lastRx := now, rxNext := L.rxNext + 1, nakSent := false }

theorem takeClosing_inSequence (now : Nat) (f : Frame) {L : Link} (ha : L.state = .active) (hd : L.dueClosing = none) :
    takeClosing f (inSequence now L) =
      { L with lastRx := now, rxNext := L.rxNext + 1, nakSent := false, closeTaken := true, closeBoth := L.closeMine && !f.flags.getLsbD 0,
               dueClosing := some (BitVec.ofNat 3 (payField f 6 1), true), closeReason := BitVec.ofNat 3 (payField f 6 1),
               closePeer := true, closeMine := false, returnsMade := false } := if_pos ⟨ha, hd⟩

theorem takeCredit_inSequence (now : Nat) (f : Frame) {L : Link} (ha : L.state = .active) :
    (tryClosed (takeCredit f (inSequence now L))).rxNext = L.rxNext + 1 ∧ (tryClosed (takeCredit f (inSequence now L))).state = .active ∧
    ∀ n, look 0 (tryClosed (takeCredit f (inSequence now L))).cred n =
      look 0 L.cred n + (((creditEntries f).filter fun x => x.1 == n).map (·.2)).sum := by
  obtain ⟨hstate, hnext, hcred⟩ := credits_frame (f.flags.getLsbD 0) (creditEntries f) (creditEntries_counted f) (inSequence now L)
  rw [← takeCredit_eq] at hstate hnext hcred
  rw [tryClosed_active (hstate.trans ha)]
  exact ⟨hnext, hstate.trans ha, hcred⟩

/-- A RETURN frame marks the frames that it names, and sets RETURNED (R175, R179). -/
theorem takeReturn_inSequence (now : Nat) (f : Frame) {L : Link} (ha : L.state = .active) :
    (takeReturn f (inSequence now L)).rxNext = L.rxNext + 1 ∧
    (returnEntries f ≠ [] → (takeReturn f (inSequence now L)).flags = setBit L.flags 7 true) ∧
    ∀ h e, h ∈ L.replay → (returnEntries f).find? (fun e => e.1 = h.frame.seq) = some e →
      ({ h with mark := .returned e.2, unconf := 0 } : HeldFrame) ∈ (takeReturn f (inSequence now L)).replay := by
  unfold takeReturn
  extract_lets es last full mark M
  have hmark : ∀ h ∈ L.replay, ∀ e, es.find? (fun e => e.1 = h.frame.seq) = some e →
      ({ h with mark := .returned e.2, unconf := 0 } : HeldFrame) ∈ M.replay := by
    intro h hh e he
    refine List.mem_filterMap.2 ⟨h, hh, ?_⟩
    simp only [mark, he]
  by_cases hes : es = []
  · rw [if_pos hes, tryClosed_active (L := M) ha]
    exact ⟨rfl, fun hne => absurd hes hne, fun h e hh he => hmark h hh e he⟩
  · rw [if_neg hes, tryClosed_active (L := linkFlag M 7) ha]
    exact ⟨rfl, fun _ => rfl, fun h e hh he => hmark h hh e he⟩

/-- A CYCLE frame is recorded at its link; on a foreign link nothing else happens, on another a hold may be taken up (R170-R173, R179). -/
theorem takeCycle_frame (l : Fin 8) (f : Frame) (now : Nat) (P : Plain) :
    (P.links[l].foreign = true → takeCycle l f now P = modLink P l (recordPeer f)) ∧
    ∃ flags mismatch skew rxCycle, HoldTaken (modLink P l fun L =>
      { recordPeer f L with flags := flags, failMismatch := mismatch, failSkew := skew, rxCycle := rxCycle }) (takeCycle l f now P) := by
  unfold takeCycle
  extract_lets before P1 P2
  have hl : P1.links[l] = recordPeer f P.links[l] := modLink_same _ _ _
  by_cases hf : P1.links[l].foreign = true
  · refine ⟨fun _ => if_pos hf, P.links[l].flags, P.links[l].failMismatch, P.links[l].failSkew, P.links[l].rxCycle, ?_⟩
    rw [if_pos hf]
    exact modLink_congr (P := P) (l := l) (f := recordPeer f) rfl ▸ HoldTaken.refl P1
  · refine ⟨fun h => absurd (hl ▸ h) hf, ?_⟩
    rw [if_neg hf]
    obtain ⟨flags, mismatch, skew, hc⟩ := checkCycle_frame P1 f (recordPeer f P.links[l]) (some (max (P.links[l].rxCycle.getD 0) (cycNumber f)))
    refine ⟨flags, mismatch, skew, some (max (P.links[l].rxCycle.getD 0) (cycNumber f)), ?_⟩
    have hP2 : P2 = modLink P l fun L => { recordPeer f L with
        flags := flags, failMismatch := mismatch, failSkew := skew, rxCycle := some (max (P.links[l].rxCycle.getD 0) (cycNumber f)) } :=
      (modLink_modLink P l _ _).trans (modLink_congr hc)
    rw [← hP2]
    refine HoldTaken.noteGate ?_ _ _
    split
    · exact holdTaken_adoptHold _ _
    · exact .refl _

/-- What a CYCLE frame in sequence makes of its Plain. -/
theorem takeCycle_inSequence {P Q : Plain} {now : Nat} (h : Q = takeCycle l f now (modLink P l (inSequence now))) :
    Q.links[l].rxNext = P.links[l].rxNext + 1 ∧ Q.links[l].peerCyc = BitVec.ofNat 48 (cycNumber f) ∧
    Q.links[l].peerEpoch = cycEpoch f ∧ Q.links[l].peerTag = cycTag f ∧
    (∀ m : Fin 8, m ≠ l → Q.links[m] = { P.links[m] with dueCycle := Q.links[m].dueCycle }) ∧
    Q = { P with links := Q.links, sync := Q.sync, run := Q.run } ∧
    (P.links[l].foreign = true → Q.sync = P.sync ∧ Q.run = P.run ∧
      Q.links[l] = { P.links[l] with
        lastRx := now, rxNext := P.links[l].rxNext + 1, nakSent := false, peerCyc := Q.links[l].peerCyc,
        peerEpoch := Q.links[l].peerEpoch, peerTag := Q.links[l].peerTag, peerFlags := Q.links[l].peerFlags }) := by
  obtain ⟨hforeign, flags, mismatch, skew, rxCycle, htaken⟩ := takeCycle_frame l f now (modLink P l (inSequence now))
  rw [modLink_modLink, ← h] at htaken
  have hat := htaken.link l
  rw [modLink_same] at hat
  refine ⟨by rw [hat]; rfl, by rw [hat]; rfl, by rw [hat]; rfl, by rw [hat]; rfl, fun m hm => ?_, htaken.plain, fun hf => ?_⟩
  · have hm' := htaken.link m
    rwa [modLink_other _ _ _ _ hm] at hm'
  · have hQ : Q = modLink P l fun L => recordPeer f (inSequence now L) :=
      (h.trans (hforeign (by rw [modLink_same]; exact hf))).trans (modLink_modLink _ _ _ _)
    rw [hQ, modLink_same]
    exact ⟨rfl, rfl, rfl⟩

/-! ## The rows of the five frames on an ACTIVE link (R156) -/

section
variable {u : State} (ha : u.plains[p].links[l].state = .active) (hseq : f.seq = u.plains[p].links[l].rxNext)
include ha hseq

theorem rxSequenced_active (take : State → State) :
    rxSequenced u p l f take = take (modPlain u p fun P => modLink P l (inSequence u.timeNs)) :=
  rxSequenced_inSequence take (by simp only [ha, linkSending]) hseq

/-- A frame whose effect is on its link alone. -/
theorem rxSequenced_link (g : Link → Link) : rxSequenced u p l f (fun s => modPlain s p fun P => modLink P l g) =
    modPlain u p fun P => modLink P l fun L => g (inSequence u.timeNs L) := by
  rw [rxSequenced_active ha hseq]
  simp only [modPlain_modPlain, modLink_modLink]

/-- The same, after which nothing waits for the links to close. -/
theorem rxSequenced_link_closed (g : Link → Link) (hafter : u.plains[p].run.after = none) :
    linksClosed (rxSequenced u p l f (fun s => modPlain s p fun P => modLink P l g)) p =
      modPlain u p fun P => modLink P l fun L => g (inSequence u.timeNs L) := by
  rw [rxSequenced_link ha hseq, linksClosed_idle ((linkUpdate_after u p l _).trans hafter)]

end

/-- Settles O13: each of the five frames is taken in sequence, and its operation on the link says what it does. -/
theorem acceptedFramesTakeEffect : Obligations.AcceptedFramesTakeEffect := by
  intro p l f s v h hbad u L ha hseq hafter
  have hok := Or.inr (a := lanesUp v.plains[p].links[l].state = false) hbad
  refine ⟨fun hg => ?_, fun hg => ?_, fun hg => ?_, fun hg hd => ?_, fun hg => ?_⟩
  · rw [exec_dataFrameRx_taken h hok hg, rxSequenced_link ha hseq]
    rfl
  · have hrow := exec_cycleFrameRx_taken h hok hg
    rw [rxSequenced_active ha hseq] at hrow
    exact ⟨_, hrow, (onlyPlain_modPlain u p _).trans (onlyPlain_modPlain _ p _), takeCycle_inSequence ((modPlain_same _ _ _).trans (congrArg _ (modPlain_same _ _ _)))⟩
  · have hrow := exec_creditFrameRx_taken h hok hg
    rw [rxSequenced_link_closed ha hseq _ hafter] at hrow
    obtain ⟨honly, hplain, hlink, hothers⟩ := linkUpdate_frame u p l fun L => tryClosed (takeCredit f (inSequence u.timeNs L))
    obtain ⟨hnext, hstate, hcred⟩ := takeCredit_inSequence u.timeNs f ha
    rw [← hlink] at hnext hstate hcred
    exact ⟨_, hrow, honly, hplain, hnext, hstate, hcred, hothers⟩
  · rw [exec_closingFrameRx_taken h hok hg, rxSequenced_link_closed ha hseq _ hafter]
    exact congrArg Host.Outcome.next (modPlain_congr (modLink_congr (takeClosing_inSequence u.timeNs f ha hd)))
  · have hrow := exec_returnFrameRx_taken h hok hg
    rw [rxSequenced_link_closed ha hseq _ hafter] at hrow
    obtain ⟨honly, hplain, hlink, hothers⟩ := linkUpdate_frame u p l fun L => takeReturn f (inSequence u.timeNs L)
    obtain ⟨hnext, hflags, hmarks⟩ := takeReturn_inSequence u.timeNs f ha
    rw [← hlink] at hnext hflags hmarks
    exact ⟨_, hrow, honly, hplain, hnext, hflags, hmarks, hothers⟩

end Sys2Proof.Machine
end

section
/-! SUPPORT. How a link opens (08 R162, R167-R169, R176): its control register, training, and OPEN, REFUSE and TRAIN frames. -/

namespace Sys2Proof.Machine

variable {p l : Fin 8} {f : Frame} {s v : State}

/-! ## LINK_CTL, training and the OPEN that is due -/

theorem exec_linkCtlEn (w : Word) : exec (.linkCtlEn p l w) s =
    if s.plains[p].run.mode ≠ .load then .next s
    else .next (modPlain s p fun P => modLink P l fun L =>
      if w.getLsbD 0 = true ∧ L.state = .off ∧ farEnabled s.fuses.plainsEn p l = true then
        { L with en := true, foreign := w.getLsbD 1, state := .train, working := lanesOf l, attempts := 0, lastRx := s.timeNs }
      else { L with en := w.getLsbD 0, foreign := w.getLsbD 1 }) := by
  change Host.Outcome.next (ctlEn s p l w) = _
  unfold ctlEn
  split
  next hm => exact congrArg Host.Outcome.next (modPlain_eq_self (if_pos hm))
  next hm =>
    refine congrArg Host.Outcome.next (modPlain_congr ((if_neg hm).trans (modLink_congr ?_)))
    by_cases h0 : w.getLsbD 0 = true
    · simp only [bit, h0]
    · simp only [bit, h0, Bool.false_eq_true, false_and, if_false]

theorem exec_linkCtlOpen_train (hc : s.plains[p].links[l].state = .closed)
    (hr : (s.plains[p].links[l].replay.all fun h => decide (h.mark = .held)) = true) (hf : farEnabled s.fuses.plainsEn p l = true)
    (hk : keptClosed s.plains[p] s.plains[p].links[l] = false) :
    exec (.linkCtlOpen p l) s = .next (modPlain s p fun P => modLink P l fun L =>
      { L with state := .train, thenReplay := false, working := lanesOf l, attempts := 0, replay := [], lastRx := s.timeNs }) :=
  congrArg Host.Outcome.next (modPlain_congr (modLink_congr (if_pos ⟨hc, hr, hf, by rw [hk]; rfl⟩)))

theorem exec_linkCtlOpen_kept (hk : keptClosed s.plains[p] s.plains[p].links[l] = true) : exec (.linkCtlOpen p l) s = .next s := by
  have hn : ¬((!keptClosed s.plains[p] s.plains[p].links[l]) = true) := by rw [hk]; exact Bool.false_ne_true
  exact congrArg Host.Outcome.next (modPlain_eq_self (modLink_eq_self (if_neg fun h => hn h.2.2.2)))

/-! ## OPEN, REFUSE and TRAIN frames -/

section
variable {en : BitVec 8} {now : Nat} {P : Plain} (hw : P.links[l].state = .openWait) (hload : P.run.mode ≠ .load)
  (hvalley : P.run.mode ≠ .valley) (hfar : farEnabled en p l = true)
include hw hload hvalley hfar

theorem open_answered : ¬(P.run.mode = .valley ∨ (!farEnabled en p l) = true) ∧ ¬(P.run.mode = .load ∨ linkSending P.links[l].state = true) := by
  rw [hfar, hw]
  exact ⟨not_or.2 ⟨hvalley, Bool.false_ne_true⟩, not_or.2 ⟨hload, Bool.false_ne_true⟩⟩

/-- An OPEN frame in OPEN_WAIT of a Plain that has no image is refused (R168). -/
theorem takeOpen_noImage (ha : P.run.admitted = false) :
    takeOpen en p l f now P = modLink P l fun L => refuse 5 { L with lastRx := now } := by
  obtain ⟨h1, h2⟩ := open_answered hw hload hvalley hfar
  have h3 : (!P.run.admitted) = true := by rw [ha]; rfl
  exact (if_neg h1).trans ((if_neg h2).trans ((if_pos h3).trans (modLink_modLink _ _ _ _)))

/-- With an image, one that fails a check of R168 is refused with its reason, and undoes an earlier one. -/
theorem takeOpen_failed (ha : P.run.admitted = true) (hr : openReason P P.links[l] f ≠ 0) : takeOpen en p l f now P =
    modLink P l fun L => { refuse (openReason P P.links[l] f) { L with lastRx := now } with openIn := false } := by
  obtain ⟨h1, h2⟩ := open_answered hw hload hvalley hfar
  have h3 : ¬(!P.run.admitted) = true := by rw [ha]; exact Bool.false_ne_true
  exact (if_neg h1).trans ((if_neg h2).trans ((if_neg h3).trans ((if_neg (not_not_intro hw)).trans
    ((if_pos hr).trans (modLink_modLink _ _ _ _)))))

/-- One that passes is noted, and the link may become ACTIVE. -/
theorem takeOpen_passed (ha : P.run.admitted = true) (hr : openReason P P.links[l] f = 0) : takeOpen en p l f now P =
    modLink P l fun L => tryActive P now { L with lastRx := now, openIn := true } := by
  obtain ⟨h1, h2⟩ := open_answered hw hload hvalley hfar
  have h3 : ¬(!P.run.admitted) = true := by rw [ha]; exact Bool.false_ne_true
  exact (if_neg h1).trans ((if_neg h2).trans ((if_neg h3).trans ((if_neg (not_not_intro hw)).trans
    ((if_neg (not_not_intro hr)).trans (modLink_modLink _ _ _ _)))))

end

/-- A link whose far end's OPEN passes, and which has sent its own, is ACTIVE and counts from 0 (R156, R164, R168, R169). -/
theorem tryActive_opens (P : Plain) (now : Nat) {L A : Link} (hA : A = tryActive P now { L with lastRx := now, openIn := true })
    (hw : L.state = .openWait) (ho : L.openOut = true) :
    A.state = .active ∧ A.txNext = 0 ∧ A.rxNext = 0 ∧ A.txAck = 4095 ∧ A.dueInit = initialGrants L ∧ A.dueCycle = [repeatFrame P] ∧ A.cred = [] := by
  obtain rfl : A = enterActive { L with lastRx := now, openIn := true } now (repeatFrame P) (decide (P.run.phase = .row9)) :=
    hA.trans (if_pos ⟨hw, rfl, ho⟩)
  exact ⟨rfl, rfl, rfl, rfl, rfl, rfl, rfl⟩

theorem tryActive_waits (P : Plain) (now : Nat) {L : Link} (ho : L.openOut = false) : tryActive P now L = L :=
  if_neg fun h => Bool.false_ne_true (ho.symm.trans h.2.2)

/-- A REFUSE is counted with its reason in every state but OFF and CLOSED (R167, R168). -/
theorem takeRefuse_counted {now : Nat} {P : Plain} (ho : P.links[l].state ≠ .off) (hc : P.links[l].state ≠ .closed)
    (hr : P.links[l].thenReplay = false ∨ P.cap.rplActive = false) :
    takeRefuse l f now P = modLink P l fun L =>
      { L with lastRx := now, refused := satInc L.refused, refuse := BitVec.ofNat 3 (payField f 0 1), openOut := false } := by
  have hn : ¬(P.links[l].thenReplay && P.cap.rplActive) = true := by
    rcases hr with h | h
    · rw [h, Bool.false_and]
      exact Bool.false_ne_true
    · rw [h, Bool.and_false]
      exact Bool.false_ne_true
  unfold takeRefuse
  extract_lets L
  split
  next h => exact absurd h ho
  next h => exact absurd h hc
  next => exact if_neg hn

theorem takeRefuse_closed {now : Nat} {P : Plain} (hc : P.links[l].state = .closed) :
    takeRefuse l f now P = modLink P l fun L => { L with lastRx := now, drop := satInc L.drop } := by
  unfold takeRefuse
  extract_lets L
  split
  next h => cases hc.symm.trans h
  next => rfl
  next h => exact absurd hc h

/-! ## The rows of the unsequenced frames -/

section
variable (h : arrived s p l f = some v) (hok : lanesUp v.plains[p].links[l].state = false ∨ nextSpoilt v.plains[p].links[l] = false)
include h hok

theorem exec_openFrameRx_taken (hg : goodFrame f 4 = true) : exec (.openFrameRx p l f) s = .next
    (modPlain (modPlain v p fun P => modLink P l countArrival) p (takeOpen v.fuses.plainsEn p l f v.timeNs)) :=
  (frameRow_good hg).trans (onArrival_taken _ h hok)

theorem exec_refuseFrameRx_taken (hg : goodFrame f 5 = true) : exec (.refuseFrameRx p l f) s = .next
    (modPlain (modPlain v p fun P => modLink P l countArrival) p (takeRefuse l f v.timeNs)) :=
  (frameRow_good hg).trans (onArrival_taken _ h hok)

theorem exec_trainFrameRx_taken (hg : goodFrame f 8 = true) : exec (.trainFrameRx p l f) s = .next
    (modPlain (modPlain v p fun P => modLink P l countArrival) p fun P => modLink P l fun L => { L with lastRx := v.timeNs }) :=
  (frameRow_good hg).trans (onArrival_taken _ h hok)

end

/-- What an OPEN frame that is answered makes of its link. -/
theorem openFrame_link {u t : State} {g : Link → Link} (ht : t = modPlain u p fun P => modLink P l g) :
    OnlyPlain p u t ∧ t.plains[p] = { u.plains[p] with links := t.plains[p].links } ∧
    (∀ m : Fin 8, m ≠ l → t.plains[p].links[m] = u.plains[p].links[m]) ∧ t.plains[p].links[l] = g u.plains[p].links[l] := by
  obtain ⟨honly, hplain, hlink, hothers⟩ := linkUpdate_frame u p l g
  rw [ht]
  exact ⟨honly, hplain, hothers, hlink⟩

/-- An OPEN frame in OPEN_WAIT is answered at its link (R168). -/
theorem openFrame_effect {u : State} (hw : u.plains[p].links[l].state = .openWait) (hload : u.plains[p].run.mode ≠ .load)
    (hvalley : u.plains[p].run.mode ≠ .valley) (hfar : farEnabled u.fuses.plainsEn p l = true) :
    let M := u.plains[p].links[l]
    ∃ t, modPlain u p (takeOpen u.fuses.plainsEn p l f u.timeNs) = t ∧ OnlyPlain p u t ∧ t.plains[p] = { u.plains[p] with links := t.plains[p].links } ∧
      (∀ m : Fin 8, m ≠ l → t.plains[p].links[m] = u.plains[p].links[m]) ∧
      (u.plains[p].run.admitted = false → t.plains[p].links[l] = refuse 5 { M with lastRx := u.timeNs }) ∧
      (u.plains[p].run.admitted = true → openReason u.plains[p] M f ≠ 0 →
        t.plains[p].links[l] = { refuse (openReason u.plains[p] M f) { M with lastRx := u.timeNs } with openIn := false }) ∧
      (u.plains[p].run.admitted = true → openReason u.plains[p] M f = 0 →
        if M.openOut then
          t.plains[p].links[l].state = .active ∧ t.plains[p].links[l].txNext = 0 ∧ t.plains[p].links[l].rxNext = 0 ∧ t.plains[p].links[l].txAck = 4095 ∧
          t.plains[p].links[l].dueInit = initialGrants M ∧ t.plains[p].links[l].dueCycle = [repeatFrame u.plains[p]] ∧ t.plains[p].links[l].cred = []
        else t.plains[p].links[l] = { M with lastRx := u.timeNs, openIn := true }) := by
  intro M
  cases ha : u.plains[p].run.admitted with
  | false =>
    obtain ⟨honly, hplain, hothers, hlink⟩ := openFrame_link (modPlain_congr (s := u) (takeOpen_noImage (f := f) (now := u.timeNs) hw hload hvalley hfar ha))
    exact ⟨_, rfl, honly, hplain, hothers, fun _ => hlink, nofun, nofun⟩
  | true =>
    by_cases hr : openReason u.plains[p] M f = 0
    · obtain ⟨honly, hplain, hothers, hlink⟩ := openFrame_link (modPlain_congr (s := u) (takeOpen_passed (now := u.timeNs) hw hload hvalley hfar ha hr))
      refine ⟨_, rfl, honly, hplain, hothers, nofun, fun _ h => absurd hr h, fun _ _ => ?_⟩
      split
      next ho => exact tryActive_opens _ _ hlink hw ho
      next ho => exact hlink.trans (tryActive_waits _ _ (Bool.eq_false_iff.2 ho))
    · obtain ⟨honly, hplain, hothers, hlink⟩ := openFrame_link (modPlain_congr (s := u) (takeOpen_failed (now := u.timeNs) hw hload hvalley hfar ha hr))
      exact ⟨_, rfl, honly, hplain, hothers, nofun, fun _ _ => hlink, fun _ h => absurd h hr⟩

/-- Settles O14: LINK_CTL and training row by row, and the unsequenced frames by the state of the link that they reach. -/
theorem linksOpenByTrainingAndOpen : Obligations.LinksOpenByTrainingAndOpen := by
  intro p l s L
  refine ⟨exec_linkCtlEn, exec_linkCtlOpen_train, exec_linkCtlOpen_kept, fun w ht h0 hw => if_pos ⟨ht, h0, hw⟩,
    fun hw ha hm hd ho => if_pos ⟨hw, ha, hm, hd, ho⟩, fun f v h hok => ?_⟩
  intro u M
  refine ⟨fun hg hw hload hvalley hfar => ?_, fun hg ho hc hr => ?_, fun hg hc => ?_, exec_trainFrameRx_taken h hok⟩
  · obtain ⟨t, ht, hrest⟩ := openFrame_effect (f := f) hw hload hvalley hfar
    exact ⟨t, (exec_openFrameRx_taken h hok hg).trans (congrArg _ ht), hrest⟩
  · exact (exec_refuseFrameRx_taken h hok hg).trans (congrArg _ (modPlain_congr (takeRefuse_counted ho hc hr)))
  · exact (exec_refuseFrameRx_taken h hok hg).trans (congrArg _ (modPlain_congr (takeRefuse_closed hc)))

end Sys2Proof.Machine
end

section
/-! SUPPORT. The copy of a tile that a checkpoint takes reads 0 where nothing is listed (09 R192): a near file whose word is 0 shows it. -/

namespace Sys2Proof.Machine

/-- A step word that moves nothing, with CEND and CKPT_OK (03 R69, R70). -/
def lastIdleStep : StepWord := BitVec.ofNat 4096 (((List.range 24).map fun i => 0x100000 * 2 ^ (24 * i)).sum + 0x40800000 * 2 ^ 3904)

/-- A tile with that step word at step 0 and the value 0 in near-file word 0. -/
def zeroWordTile : Tile := { store := [(0, lastIdleStep)], nf := [(0, 0)] }

/-- Plain 0 in RUN at the end of a cycle of one step, with room for one checkpoint slot and a checkpoint due. -/
def endWithCheckpoint : State :=
  modPlain State.reset 0 fun P => { P with
    tiles := Vector.replicate 64 zeroWordTile
    ldr := { P.ldr with len := 1 }
    run := { P.run with mode := .run, admitted := true, phase := .stepping, step := 1 }
    basin := { P.basin with areaSize := [(1, 2065)] }
    cap := { P.cap with due := true } }

/-- The boundary of Plain `P` meets the premises of O3's clause on rows 3 to 9, and takes a checkpoint into slot 0. -/
def takesCheckpoint (P : Plain) : Prop :=
  canEnd P = true ∧ P.run.mode ≠ .replay ∧ capSize P = 0 ∧ P.cap.outq = [] ∧
  (∀ k : Fin 64, P.tiles[k].q7 = [] ∧ P.tiles[k].q0 = [] ∧ P.tiles[k].held0 = none) ∧ P.basin.recv = [] ∧
  P.run.after = none ∧ P.run.modePend = none ∧ P.run.holdNext = false ∧ P.run.holdAsks = false ∧
  (∀ l : Fin 8, P.links[l].failMismatch = false ∧ P.links[l].failSkew = false) ∧
  P.cap.due = true ∧ P.cap.dueJob = false ∧ (ckptOkAll P = true ∧ P.cap.draining = none) ∧ freeSlot P = some 0

theorem takesCheckpoint_endWithCheckpoint : takesCheckpoint endWithCheckpoint.plains[(0 : Fin 8)] := by
  unfold takesCheckpoint
  decide +kernel

/-- What O3 says of near-file word 0 of tile 0 in the copy that the boundary takes. -/
theorem snapshot_of_boundary {p : Fin 8} {s : State} (h : Obligations.BoundaryEndsTheCycle) (hP : takesCheckpoint s.plains[p]) :
    ∃ t, exec (.boundarySequence p) s = .next t ∧
      look laneX t.plains[p].tiles[(0 : Fin 64)].snapNf 0 = look laneX s.plains[p].tiles[(0 : Fin 64)].nf 0 := by
  obtain ⟨hend, hmode, hsize, houtq, htiles, hrecv, hafter, hpend, hnext, hasks, hlinks, hdue, hjob, hok, hslot⟩ := hP
  obtain ⟨t, f, hexec, -, -, -, -, -, -, -, -, -, -, hckpt⟩ :=
    h.2 p s hend hmode hsize houtq htiles hrecv hafter hpend hnext hasks hlinks
  have htaken := hckpt (by rw [hdue]; rfl) hjob
  rw [if_pos hok] at htaken
  obtain ⟨-, -, hsnap⟩ := htaken 0 hslot
  exact ⟨t, hexec, (hsnap 0 0).1 (by decide)⟩

/-- What near-file word 0 of tile 0 of Plain 0 reads in the snapshot buffer after a command, under the near file's own default. -/
def snapshotWord (o : Out) : Option Word :=
  match o with
  | .next t => some (look laneX t.plains[(0 : Fin 8)].tiles[(0 : Fin 64)].snapNf 0)
  | _ => none

theorem endWithCheckpoint_snapshot : snapshotWord (exec (.boundarySequence 0) endWithCheckpoint) = some laneX ∧
    look laneX endWithCheckpoint.plains[(0 : Fin 8)].tiles[(0 : Fin 64)].nf 0 = 0 := by
  decide +kernel

/-- Refutes O3: its last clause reads the snapshot buffer with the near file's default lane(X), while the buffer's unlisted words read 0
(09 R192). A tile whose near-file word 0 holds 0 has that word unlisted in the copy that the boundary takes, so there the clause compares
lane(X) with 0. -/
theorem not_boundaryEndsTheCycle : ¬ Obligations.BoundaryEndsTheCycle := by
  intro h
  obtain ⟨t, hexec, hcopy⟩ := snapshot_of_boundary h takesCheckpoint_endWithCheckpoint
  obtain ⟨hread, hword⟩ := endWithCheckpoint_snapshot
  rw [hexec] at hread
  have hX : laneX = (0 : Word) := (Option.some.inj hread).symm.trans (hcopy.trans hword)
  exact absurd hX (by decide)

end Sys2Proof.Machine
end

section
/-! SUPPORT. A JOB MODE VALLEY in a state whose record of the grants is not in canonical form (17 R347, 18 R378). -/

namespace Sys2Proof.Machine

/-- A JOB MODE VALLEY that Plain `P` in HOLD may start, with no link that closes: the premises of O21's clause. -/
def startsValley (P : Plain) (seq : Word) : Prop :=
  P.run.after = none ∧ seq ∉ P.hiu.rings[(0 : Fin 4)].abortSeen ∧ startedNow P 0 seq 2 [(16, 1, 0)] = true ∧
  (P.run.mode = .hold ∨ P.run.mode = .quarantine) ∧ (closeLinks P 1 true).links.toList.any closingLink = false

/-- What O21 says of the grant of a Plain that enters VALLEY. -/
theorem grant_of_valley {p : Fin 8} {seq : Word} {s : State} (h : Obligations.JobOperationsAct) (hP : startsValley s.plains[p] seq) :
    ∃ t, exec (.jobMode p seq 0) s = .next t ∧ look 0 t.power.grant p.val = 0 := by
  obtain ⟨hafter, habort, hstart, hmode, hlinks⟩ := hP
  obtain ⟨-, -, -, hvalley, -⟩ := h p seq s hafter habort
  obtain ⟨t, hexec, -, hrest⟩ := hvalley hstart hmode
  rw [if_neg (by rw [hlinks]; exact Bool.false_ne_true)] at hrest
  obtain ⟨-, -, -, -, -, hgrant, -⟩ := hrest
  exact ⟨t, hexec, hgrant⟩

/-- Plain 0 in HOLD with a JOB MODE VALLEY started as descriptor 1, where the record of the grants lists Plain 0 twice. -/
def valleyWithTwoGrants : State :=
  { modPlain State.reset 0 fun P => modRing { P with run := { P.run with mode := .hold } } 0 fun R =>
      { R with en := true, acc := 1, start := 1, avail := 1, buf := [(1, BitVec.ofNat 512 (1 + 2 * 2 ^ 32))] } with
    power := { grant := [(0, 5), (0, 7)] } }

theorem startsValley_valleyWithTwoGrants : startsValley valleyWithTwoGrants.plains[(0 : Fin 8)] 1 := by
  unfold startsValley
  decide +kernel

/-- What the grant of Plain 0 reads after a command. -/
def grantAfter (o : Out) : Option Nat :=
  match o with
  | .next t => some (look 0 t.power.grant 0)
  | _ => none

/-- VALLEY drops the first of the two entries, and the second one is read. -/
theorem valleyWithTwoGrants_grant : grantAfter (exec (.jobMode 0 1 0) valleyWithTwoGrants) = some 7 := by
  decide +kernel

/-- Refutes O21: its clause on MODE VALLEY says that the Plain's grant reads 0 in VALLEY for every state, also where the arbiter's record
of the grants is not in canonical form. There the entry that VALLEY clears uncovers another entry of the same Plain, which is read. The
statement has no premise on the record, and neither `Inv` nor `MemInv` speaks of it. -/
theorem not_jobOperationsAct : ¬ Obligations.JobOperationsAct := by
  intro h
  obtain ⟨t, hexec, hgrant⟩ := grant_of_valley h startsValley_valleyWithTwoGrants
  have hread := valleyWithTwoGrants_grant
  rw [hexec] at hread
  exact absurd ((Option.some.inj hread).symm.trans hgrant) (by decide)

end Sys2Proof.Machine
end

section
/-! SUPPORT. Four-state words (02 R28-R39): the positions of a word that is built position by position, and what the LUT and the resolve
triggers make of each position. -/

namespace Sys2Proof.Machine

/-! ## Digits of a sum of powers -/

theorem foldr_range_eq_sum (f : Nat → Nat) (n c : Nat) :
    (List.range n).foldr (fun k acc => f k + acc) c = ∑ k ∈ Finset.range n, f k + c := by
  induction n generalizing c with
  | zero => simp
  | succ n ih => rw [List.range_succ, List.foldr_append, Finset.sum_range_succ, List.foldr_cons, List.foldr_nil, ih]; omega

theorem digits_lt {b : Nat} {g : Nat → Nat} (hg : ∀ k, g k < b) (n : Nat) : ∑ k ∈ Finset.range n, g k * b ^ k < b ^ n := by
  induction n with
  | zero => simp
  | succ n ih =>
    have hn := Nat.mul_le_mul_right (b ^ n) (Nat.succ_le_of_lt (hg n))
    rw [Finset.sum_range_succ, pow_succ, mul_comm (b ^ n)]
    rw [Nat.succ_mul] at hn
    omega

theorem digit_of_sum {b : Nat} {g : Nat → Nat} (hg : ∀ k, g k < b) {n k : Nat} (hk : k < n) :
    (∑ i ∈ Finset.range n, g i * b ^ i) / b ^ k % b = g k := by
  have hb : 0 < b := Nat.zero_lt_of_lt (hg 0)
  induction n, Nat.succ_le_of_lt hk using Nat.le_induction with
  | base =>
    rw [Finset.sum_range_succ, Nat.add_mul_div_right _ _ (by positivity), Nat.div_eq_of_lt (digits_lt hg k), Nat.zero_add, Nat.mod_eq_of_lt (hg k)]
  | succ n hn ih =>
    obtain ⟨m, rfl⟩ := Nat.exists_eq_add_of_le hn
    have hsplit : g (k + 1 + m) * b ^ (k + 1 + m) = g (k + 1 + m) * b ^ m * b * b ^ k := by rw [pow_add, pow_succ]; ring
    rw [Finset.sum_range_succ, hsplit, Nat.add_mul_div_right _ _ (by positivity), Nat.add_mul_mod_self_right]
    exact ih (by omega)

/-! ## Positions of a word (R28, R29) -/

theorem pos_toNat (w : Word) (k : Nat) : (pos w k).toNat = w.toNat / 4 ^ k % 4 := by
  rw [pos, BitVec.extractLsb'_toNat, Nat.shiftRight_eq_div_pow, pow_mul, show (2 : Nat) ^ 2 = 4 from rfl]

theorem ofPos_toNat (f : Nat → Pos) : (ofPos f).toNat = ∑ k ∈ Finset.range 16, (f k).toNat * 4 ^ k := by
  rw [ofPos, foldr_range_eq_sum, Nat.add_zero, BitVec.toNat_ofNat]
  exact Nat.mod_eq_of_lt (digits_lt (b := 4) (fun k => (f k).isLt) 16)

/-- A position of a word that is built position by position. -/
theorem pos_ofPos (f : Nat → Pos) {k : Nat} (hk : k < 16) : pos (ofPos f) k = f k := by
  apply BitVec.eq_of_toNat_eq
  rw [pos_toNat, ofPos_toNat, digit_of_sum (b := 4) (fun k => (f k).isLt) hk]

theorem ofPos_congr {f g : Nat → Pos} (h : ∀ k < 16, f k = g k) : ofPos f = ofPos g := by
  apply BitVec.eq_of_toNat_eq
  rw [ofPos_toNat, ofPos_toNat]
  exact Finset.sum_congr rfl fun k hk => by rw [h k (Finset.mem_range.1 hk)]

/-! ## LUT units (R32-R35) -/

theorem b2n_lt : ∀ b : Bool, b2n b < 2 := by decide

/-- The index that four positions select, by its bits. -/
theorem lutIndex_eq (a b c d : Pos) : lutIndex [a, b, c, d] =
    b2n (a.getLsbD 0) + 2 * b2n (b.getLsbD 0) + 4 * b2n (c.getLsbD 0) + 8 * b2n (d.getLsbD 0) := by
  simp only [lutIndex, List.zip_cons_cons, List.zip_nil_left, List.foldr_cons, List.foldr_nil]
  omega

theorem lutIndex_lt (a b c d : Pos) : lutIndex [a, b, c, d] < 16 := by
  have ha := b2n_lt (a.getLsbD 0)
  have hb := b2n_lt (b.getLsbD 0)
  have hc := b2n_lt (c.getLsbD 0)
  have hd := b2n_lt (d.getLsbD 0)
  rw [lutIndex_eq]
  omega

/-- The four inputs of a LUT trigger at one position, by number (R32). -/
def lutInput (a b c d : Pos) (j : Nat) : Pos :=
  match j with
  | 0 => a
  | 1 => b
  | 2 => c
  | _ => d

/-- The index set S of R33. -/
def Agrees (x : Nat → Pos) (n : Nat) : Prop := n < 16 ∧ ∀ j, j < 4 → unk (x j) = false → n.testBit j = (x j).getLsbD 0

theorem mem_hits_iff (a b c d : Pos) (n : Nat) :
    n ∈ (List.range 16).filter (lutAgrees [a, b, c, d]) ↔ Agrees (lutInput a b c d) n := by
  have hall : ∀ q : Nat → Prop, (∀ j, j < 4 → q j) ↔ q 0 ∧ q 1 ∧ q 2 ∧ q 3 := fun q =>
    ⟨fun h => ⟨h 0 (by omega), h 1 (by omega), h 2 (by omega), h 3 (by omega)⟩, fun ⟨h0, h1, h2, h3⟩ j hj => by interval_cases j <;> assumption⟩
  have himp : ∀ (p : Pos) (j : Nat), (unk p || n.testBit j == p.getLsbD 0) = true ↔ (unk p = false → n.testBit j = p.getLsbD 0) := fun p j => by
    cases unk p <;> simp
  simp only [List.mem_filter, List.mem_range, Agrees, hall, lutAgrees, List.zip_cons_cons, List.zip_nil_left, List.all_cons, List.all_nil,
    Bool.and_true, Bool.and_eq_true, himp, lutInput]

/-- The inputs' own v bits select an index of S. -/
theorem agrees_lutIndex (a b c d : Pos) : Agrees (lutInput a b c d) (lutIndex [a, b, c, d]) := by
  refine ⟨lutIndex_lt a b c d, fun j hj _ => ?_⟩
  have hbits : ∀ (x y z w : Bool) (j : Fin 4), (b2n x + 2 * b2n y + 4 * b2n z + 8 * b2n w).testBit j = match j with
      | 0 => x
      | 1 => y
      | 2 => z
      | 3 => w := by decide
  rw [lutIndex_eq, hbits _ _ _ _ ⟨j, hj⟩]
  interval_cases j <;> rfl

/-- With every input known S holds one index. -/
theorem agrees_known {a b c d : Pos} (h : ∀ j, j < 4 → unk (lutInput a b c d j) = false) {n : Nat} (hn : Agrees (lutInput a b c d) n) :
    n = lutIndex [a, b, c, d] := by
  refine Nat.eq_of_testBit_eq fun j => ?_
  by_cases hj : j < 4
  · rw [hn.2 j hj (h j hj), (agrees_lutIndex a b c d).2 j hj (h j hj)]
  · have hsmall : ∀ m, m < 16 → m.testBit j = false := fun m hm =>
      Nat.testBit_lt_two_pow (hm.trans_le (Nat.pow_le_pow_right (n := 2) (i := 4) (by omega) (Nat.le_of_not_lt hj)))
    rw [hsmall n hn.1, hsmall _ (lutIndex_lt a b c d)]

/-- A table that holds one value at every index of S gives that value. -/
theorem lutExact_agreed {t : Nat} {a b c d : Pos} {v : Bool} (h : ∀ n, Agrees (lutInput a b c d) n → t.testBit n = v) :
    lutExact t [a, b, c, d] = if v then 1 else 0 := by
  have hself := (mem_hits_iff a b c d _).2 (agrees_lutIndex a b c d)
  have hhits : ∀ n ∈ (List.range 16).filter (lutAgrees [a, b, c, d]), t.testBit n = v := fun n hn => h n ((mem_hits_iff a b c d n).1 hn)
  unfold lutExact
  cases v with
  | false =>
    have hnone : ((List.range 16).filter (lutAgrees [a, b, c, d])).any (fun n => t.testBit n) = false :=
      List.any_eq_false.2 fun n hn => by simp [hhits n hn]
    simp only [hnone, Bool.false_eq_true, if_false]
  | true =>
    have hsome : ((List.range 16).filter (lutAgrees [a, b, c, d])).any (fun n => t.testBit n) = true :=
      List.any_eq_true.2 ⟨_, hself, hhits _ hself⟩
    have hall : ((List.range 16).filter (lutAgrees [a, b, c, d])).any (fun n => !t.testBit n) = false :=
      List.any_eq_false.2 fun n hn => by simp [hhits n hn]
    simp only [hsome, hall, Bool.false_eq_true, if_false, if_true]

/-- A table that holds both values within S gives X. -/
theorem lutExact_split {t : Nat} {a b c d : Pos} {n m : Nat} (hn : Agrees (lutInput a b c d) n) (hm : Agrees (lutInput a b c d) m)
    (htn : t.testBit n = true) (htm : t.testBit m = false) : lutExact t [a, b, c, d] = 2 := by
  have hsome : ((List.range 16).filter (lutAgrees [a, b, c, d])).any (fun n => t.testBit n) = true :=
    List.any_eq_true.2 ⟨n, (mem_hits_iff a b c d n).2 hn, htn⟩
  have hclear : ((List.range 16).filter (lutAgrees [a, b, c, d])).any (fun n => !t.testBit n) = true :=
    List.any_eq_true.2 ⟨m, (mem_hits_iff a b c d m).2 hm, by simp [htm]⟩
  unfold lutExact
  simp only [hsome, hclear, if_true]

theorem pos_lutEval (kind : LutKind) (tbl : Nat → Nat) (i0 i1 i2 d : Word) {k : Nat} (hk : k < 16) :
    pos (lutEval kind tbl i0 i1 i2 d) k = lutPos kind (tbl k) [pos i0 k, pos i1 k, pos i2 k, pos d k] := pos_ofPos _ hk

theorem any_unk_iff (a b c d : Pos) : [a, b, c, d].any unk = true ↔ ∃ j, j < 4 ∧ unk (lutInput a b c d j) = true := by
  constructor
  · simp only [List.any_cons, List.any_nil, Bool.or_false, Bool.or_eq_true]
    rintro (h | h | h | h)
    exacts [⟨0, by omega, h⟩, ⟨1, by omega, h⟩, ⟨2, by omega, h⟩, ⟨3, by omega, h⟩]
  · rintro ⟨j, hj, h⟩
    interval_cases j <;> simp_all [lutInput]

/-- The pessimistic result is X under an unknown input. -/
theorem lutPos_pessimistic_unknown (t : Nat) {a b c d : Pos} (h : ∃ j, j < 4 ∧ unk (lutInput a b c d j) = true) :
    lutPos .pessimistic t [a, b, c, d] = 2 := if_pos ((any_unk_iff a b c d).2 h)

/-- The pessimistic result of known inputs is the table's bit. -/
theorem lutPos_pessimistic_known (t : Nat) {a b c d : Pos} (h : ∀ j, j < 4 → unk (lutInput a b c d j) = false) :
    lutPos .pessimistic t [a, b, c, d] = if t.testBit (lutIndex [a, b, c, d]) then 1 else 0 := by
  have hany : ¬ [a, b, c, d].any unk = true := fun hu => by
    obtain ⟨j, hj, hx⟩ := (any_unk_iff a b c d).1 hu
    exact absurd (h j hj) (by simp [hx])
  exact (if_neg hany).trans (lutExact_agreed fun n hn => by rw [agrees_known h hn])

/-- Settles O25: S is the set of indices that agree with the known inputs, never empty, and a single index when all are known. -/
theorem lutOutputsFollowExactXAndPessimisticRules : Obligations.LutOutputsFollowExactXAndPessimisticRules := by
  intro tbl i0 i1 i2 d k hk a inS
  have ha : a = lutInput (pos i0 k) (pos i1 k) (pos i2 k) (pos d k) := rfl
  have hS : inS = Agrees (lutInput (pos i0 k) (pos i1 k) (pos i2 k) (pos d k)) := rfl
  rw [pos_lutEval _ _ _ _ _ _ hk, pos_lutEval _ _ _ _ _ _ hk, hS, ha]
  refine ⟨fun b h => lutExact_agreed h, fun n m hn hm htn htm => lutExact_split hn hm htn htm, lutPos_pessimistic_unknown _, fun h => ?_⟩
  rw [lutPos_pessimistic_known _ h, lutIndex_eq]
  rfl

/-! ## Resolve (R37) -/

theorem res2_comm : ∀ p q : Pos, res2 p q = res2 q p := by decide

theorem res2_assoc : ∀ p q r : Pos, res2 (res2 p q) r = res2 p (res2 q r) := by decide

theorem res2_z_left : ∀ q : Pos, res2 3 q = q := by decide

theorem res2_driven : ∀ p q : Pos, p ≠ 3 → q ≠ 3 → res2 p q = if p = q ∧ p ≠ 2 then p else 2 := by decide

/-- The resolve trigger resolves position by position (R37, R79). -/
theorem pos_resolve (o d : Word) {k : Nat} (hk : k < 16) : pos (bwEval 0x179 o d) k = res2 (pos o k) (pos d k) := pos_ofPos _ hk

theorem resolve_comm (o d : Word) : bwEval 0x179 o d = bwEval 0x179 d o := ofPos_congr fun _ _ => res2_comm _ _

theorem resolve_assoc (o d e : Word) : bwEval 0x179 (bwEval 0x179 o d) e = bwEval 0x179 o (bwEval 0x179 d e) := by
  refine ofPos_congr fun k hk => ?_
  rw [pos_resolve _ _ hk, pos_resolve _ _ hk, res2_assoc]

/-- Settles O26: the resolve trigger acts position by position, and `res2` is commutative and associative with Z as its unit. -/
theorem resolveCombinesDriversInAnyOrder : Obligations.ResolveCombinesDriversInAnyOrder := by
  intro o d e
  refine ⟨fun k hk => ?_, resolve_comm o d, resolve_assoc o d e⟩
  rw [pos_resolve o d hk]
  refine ⟨fun h => ?_, fun h => ?_, res2_driven _ _, pos_ofPos _ hk, pos_ofPos _ hk, pos_ofPos _ hk⟩
  · rw [h, res2_z_left]
  · rw [h, res2_comm, res2_z_left]

end Sys2Proof.Machine
end

section
/-! SUPPORT. Memory-model requests (02 R44, 04 R86, R87, 06 R114, R120, 07 R138): the receipt of one, its effect in the order of receipt,
and its completion. -/

namespace Sys2Proof.Machine

variable {p : Fin 8} {k : Fin 64} {s : State} {r : MmReq}

/-! ## Updates of one tile -/

theorem modTile_congr {P : Plain} {f g : Tile → Tile} (h : f P.tiles[k] = g P.tiles[k]) : modTile P k f = modTile P k g := by
  unfold modTile vmod
  rw [h]

theorem modTile_modTile (P : Plain) (k : Fin 64) (f g : Tile → Tile) : modTile (modTile P k f) k g = modTile P k fun T => g (f T) := by
  simp [modTile, vmod]

/-! ## Receipt (R114, R120) -/

theorem takeable_eq {phase : Phase} {T : Tile} {rest : List MmReq} (hq : T.q0 = r :: rest) :
    takeable phase T = if q0Pops phase T && (r.write || decide (0 < T.credits)) then some r else none := by
  unfold takeable
  rw [hq]

/-- The head stays in q0 while the window of its own step is open, and a read without a credit stays too. -/
theorem exec_mmRequestTake_kept {rest : List MmReq} (hq : s.plains[p].tiles[k].q0 = r :: rest)
    (h : q0Pops s.plains[p].run.phase s.plains[p].tiles[k] = false ∨ (r.write = false ∧ s.plains[p].tiles[k].credits = 0)) :
    exec (.mmRequestTake p k) s = .next s := by
  have hnone : takeable s.plains[p].run.phase s.plains[p].tiles[k] = none := by
    rw [takeable_eq hq]
    rcases h with h | ⟨hw, hc⟩
    · rw [h, Bool.false_and, if_neg Bool.false_ne_true]
    · rw [hw, hc, decide_eq_false (Nat.lt_irrefl 0), Bool.or_false, Bool.and_false, if_neg Bool.false_ne_true]
  change Host.Outcome.next (receiveRequest s p k) = _
  rw [receiveRequest, hnone]

/-- The controller takes the head of q0 to the end of its order of receipt. -/
theorem exec_mmRequestTake_taken {rest : List MmReq} (hq : s.plains[p].tiles[k].q0 = r :: rest)
    (hpop : q0Pops s.plains[p].run.phase s.plains[p].tiles[k] = true) (hc : r.write = true ∨ 0 < s.plains[p].tiles[k].credits) :
    exec (.mmRequestTake p k) s = .next (modPlain s p fun P =>
      modTile { P with basin := { P.basin with recv := P.basin.recv ++ [(k, r)] } } k fun T =>
        admitHeld { T with q0 := rest, credits := if r.write then T.credits else T.credits - 1 }) := by
  have hsome : takeable s.plains[p].run.phase s.plains[p].tiles[k] = some r := by
    rw [takeable_eq hq, hpop, Bool.true_and, if_pos]
    rcases hc with hw | hc
    · rw [hw, Bool.true_or]
    · rw [decide_eq_true hc, Bool.or_true]
  change Host.Outcome.next (receiveRequest s p k) = _
  rw [receiveRequest, hsome]
  refine congrArg Host.Outcome.next (modPlain_congr (modTile_congr ?_))
  dsimp only
  rw [hq, List.tail_cons]

/-! ## Effect (R44, R86, R87) -/

/-- The controller holds only these requests. -/
def withRecv (rest : List (Fin 64 × MmReq)) (P : Plain) : Plain := { P with basin := { P.basin with recv := rest } }

/-- A request that has taken effect waits with its response. -/
def awaits (x : Option Word) (T : Tile) : Tile := { T with served := T.served ++ [x] }

theorem deliverResponse_awaits {T : Tile} (h : T.served = []) (x : Option Word) :
    deliverResponse (awaits x T) = { T with q1 := T.q1 ++ x.toList } := by
  cases x <;> simp [deliverResponse, awaits, h]

/-- A request that names no element flags its reason, and a read waits with the all-X word (R86). -/
theorem mmServe_noElement {why : Nat} (h : mmElement s.plains[p].basin r = .inl why) :
    mmServe s p k r = modPlain s p fun P => modTile P k fun T => setOpstat (awaits (if r.write then none else some laneX) T) why := by
  unfold mmServe
  rw [h]
  simp only [serveAs, modPlain_modPlain, modTile_modTile, awaits]

theorem noteOverlap_frame (off n : Nat) (B : Basin) : ∃ stat ovl, noteOverlap off n B = { B with stat := stat, ovl := ovl } := by
  unfold noteOverlap
  induction blocksOf off n generalizing B with
  | nil => exact ⟨_, _, rfl⟩
  | cons b bs ih =>
    rw [List.foldl_cons]
    cases decidedByIndex B (max off (b * 512)) with
    | none => exact ih B
    | some x =>
      obtain ⟨stat, ovl, h⟩ := ih { B with stat := setBit B.stat 0 true, ovl := if bit B.ovl 31 then B.ovl else w32 (x.1 + x.2 * 256 + 2 ^ 31) }
      exact ⟨stat, ovl, h⟩

theorem noteCe_frame (n : Nat) (B : Basin) : ∃ cnt stat, noteCe n B = { B with ceCnt := cnt, stat := stat } := by
  unfold noteCe
  split
  · exact ⟨_, _, rfl⟩
  · exact ⟨_, _, rfl⟩

/-- An access that has met no uncorrectable word reports nothing (R141). -/
theorem reportUes_none (s : State) (p : Fin 8) (master unit : Nat) : reportUes s p master unit [] = s := raiseUe_none _ _ _ _ _

/-- What a read of an element counts in the Basin's registers: its corrected words, and an overlap of regions (R132, R141). -/
def counted (off n : Nat) (P : Plain) : Plain := { P with basin := noteCe (ceWords P.basin off n).length (noteOverlap off n P.basin) }

theorem counted_frame (off n : Nat) (P : Plain) :
    ∃ cnt stat ovl, counted off n P = { P with basin := { P.basin with ceCnt := cnt, stat := stat, ovl := ovl } } := by
  obtain ⟨stat, ovl, ho⟩ := noteOverlap_frame off n P.basin
  obtain ⟨cnt, stat', hc⟩ := noteCe_frame (ceWords P.basin off n).length (noteOverlap off n P.basin)
  exact ⟨cnt, stat', ovl, by rw [counted, hc, ho]⟩

/-- A read without uncorrectable words answers the bytes. -/
theorem basinFetch_clean {off n : Nat} (h : ueWords s.plains[p].basin off n = []) (master unit : Nat) :
    basinFetch s p master unit off n = (modPlain s p (counted off n), some (basinBytes s.plains[p].basin off n)) := by
  unfold basinFetch
  simp only [h, reportUes_none, List.isEmpty_nil, if_true]
  exact congrArg (·, _) (modPlain_congr rfl)

/-- The bytes of an element of a region (R86, R87). -/
def elementSize (e : BitVec 128) : Nat := if rgnTwoState e then 2 else 4

/-- The Basin offset of an element. -/
def elementAt (e : BitVec 128) (i : Nat) : Nat := rgnBase e + elementSize e * i

theorem elementAt_eq (e : BitVec 128) (i : Nat) : rgnBase e + (if rgnTwoState e then 2 * i else 4 * i) = elementAt e i := by
  unfold elementAt elementSize
  split <;> rfl

/-- The word that a read of an element answers, by the packing of its region (R87). -/
def elementWord (B : Basin) (e : BitVec 128) (i : Nat) : Word :=
  let bs := basinBytes B (elementAt e i) (elementSize e)
  if rgnTwoState e then mk (leNat bs) else w32 (leNat bs)

/-- A read of an element without uncorrectable words waits with its word. -/
theorem mmServe_read {e : BitVec 128} {i : Nat} (h : mmElement s.plains[p].basin r = .inr (e, i)) (hw : r.write = false)
    (hue : ueWords s.plains[p].basin (elementAt e i) (elementSize e) = []) :
    mmServe s p k r = modPlain s p fun P =>
      modTile (counted (elementAt e i) (elementSize e) P) k (awaits (some (elementWord s.plains[p].basin e i))) := by
  have hfetch := basinFetch_clean hue 0 k.val
  unfold mmServe
  rw [h]
  dsimp only
  rw [hw, if_neg Bool.false_ne_true, elementAt_eq]
  unfold elementSize at hfetch ⊢
  rw [hfetch, serveAs, modPlain_modPlain]
  rfl

/-! ## Completion (R44, R86, R147) -/

/-- A request that has taken effect is delivered. -/
theorem exec_mmRequestComplete_delivers {x : Option Word} {rest : List (Option Word)} (h : s.plains[p].tiles[k].served = x :: rest) :
    exec (.mmRequestComplete p k) s = .next (modPlain s p fun P => modTile P k deliverResponse) := by
  change Host.Outcome.next (completeRequest s p k) = _
  unfold completeRequest
  rw [if_neg fun hn => absurd (h.symm.trans hn.1) (List.cons_ne_nil _ _)]

/-- A tile that has no request with the controller completes none. -/
theorem exec_mmRequestComplete_none (hs : s.plains[p].tiles[k].served = []) (hr : ∀ x ∈ s.plains[p].basin.recv, x.1 ≠ k) :
    exec (.mmRequestComplete p k) s = .next s := by
  have hany : ¬ s.plains[p].basin.recv.any (fun x => decide (x.1 = k)) = true := by
    rw [List.any_eq_true]
    rintro ⟨x, hx, hk⟩
    exact hr x hx (of_decide_eq_true hk)
  have hd : deliverResponse s.plains[p].tiles[k] = s.plains[p].tiles[k] := by unfold deliverResponse; rw [hs]
  change Host.Outcome.next (completeRequest s p k) = _
  unfold completeRequest
  rw [if_neg fun hn => hany hn.2]
  refine congrArg Host.Outcome.next (modPlain_eq_self ?_)
  unfold modTile
  rw [vmod_eq_self hd]

/-- The tile's oldest request takes effect after what the controller has received before it, and is delivered. -/
theorem exec_mmRequestComplete_performs (hs : s.plains[p].tiles[k].served = []) (hr : ∃ q, (k, q) ∈ s.plains[p].basin.recv) :
    exec (.mmRequestComplete p k) s =
      .next (modPlain (performUpTo (fun u => decide (u = k)) p s.plains[p].basin.recv s) p fun P => modTile P k deliverResponse) := by
  have hany : s.plains[p].basin.recv.any (fun x => decide (x.1 = k)) = true := by
    obtain ⟨q, hq⟩ := hr
    exact List.any_eq_true.2 ⟨_, hq, decide_eq_true rfl⟩
  change Host.Outcome.next (completeRequest s p k) = _
  unfold completeRequest
  rw [if_pos ⟨hs, hany⟩]

theorem performUpTo_stops {upTo : Fin 64 → Bool} {t : Fin 64} (h : upTo t = true) (rest : List (Fin 64 × MmReq)) :
    performUpTo upTo p ((t, r) :: rest) s = mmServe (modPlain s p (withRecv rest)) p t r := if_pos h

theorem performUpTo_goes_on {upTo : Fin 64 → Bool} {t : Fin 64} (h : upTo t = false) (rest : List (Fin 64 × MmReq)) :
    performUpTo upTo p ((t, r) :: rest) s = performUpTo upTo p rest (mmServe (modPlain s p (withRecv rest)) p t r) :=
  if_neg (by rw [h]; exact Bool.false_ne_true)

/-- The oldest request that the controller has received takes effect and is delivered. -/
theorem exec_mmRequestComplete_oldest {rest : List (Fin 64 × MmReq)} (hs : s.plains[p].tiles[k].served = [])
    (hr : s.plains[p].basin.recv = (k, r) :: rest) :
    exec (.mmRequestComplete p k) s =
      .next (modPlain (mmServe (modPlain s p (withRecv rest)) p k r) p fun P => modTile P k deliverResponse) := by
  rw [exec_mmRequestComplete_performs hs ⟨r, by rw [hr]; exact List.mem_cons_self⟩, hr, performUpTo_stops (decide_eq_true rfl)]

/-- A completion of a request that names no element. -/
theorem exec_mmRequestComplete_noElement {rest : List (Fin 64 × MmReq)} {why : Nat} (hs : s.plains[p].tiles[k].served = [])
    (hr : s.plains[p].basin.recv = (k, r) :: rest) (he : mmElement s.plains[p].basin r = .inl why) :
    exec (.mmRequestComplete p k) s = .next (modPlain s p fun P => modTile (withRecv rest P) k fun T =>
      { T with opstat := setBit T.opstat why true, q1 := if r.write then T.q1 else T.q1 ++ [laneX] }) := by
  have he' : mmElement (modPlain s p (withRecv rest)).plains[p].basin r = .inl why := by rw [modPlain_same]; exact he
  rw [exec_mmRequestComplete_oldest hs hr, mmServe_noElement he']
  simp only [modPlain_modPlain, modTile_modTile]
  refine congrArg Host.Outcome.next (modPlain_congr (modTile_congr ?_))
  have hd := deliverResponse_awaits (T := setOpstat s.plains[p].tiles[k] why) hs (if r.write then none else some laneX)
  refine Eq.trans hd ?_
  cases r.write
  · rfl
  · exact congrArg (fun q => { setOpstat s.plains[p].tiles[k] why with q1 := q }) (List.append_nil _)

/-- A completion of a read of an element without uncorrectable words. -/
theorem exec_mmRequestComplete_read {rest : List (Fin 64 × MmReq)} {e : BitVec 128} {i : Nat} (hs : s.plains[p].tiles[k].served = [])
    (hr : s.plains[p].basin.recv = (k, r) :: rest) (he : mmElement s.plains[p].basin r = .inr (e, i)) (hw : r.write = false)
    (hue : ueWords s.plains[p].basin (elementAt e i) (elementSize e) = []) :
    exec (.mmRequestComplete p k) s = .next (modPlain s p fun P =>
      modTile (counted (elementAt e i) (elementSize e) (withRecv rest P)) k fun T => { T with q1 := T.q1 ++ [elementWord s.plains[p].basin e i] }) := by
  have hB : (modPlain s p (withRecv rest)).plains[p].basin = { s.plains[p].basin with recv := rest } := by rw [modPlain_same]; rfl
  have he' : mmElement (modPlain s p (withRecv rest)).plains[p].basin r = .inr (e, i) := by rw [hB]; exact he
  have hue' : ueWords (modPlain s p (withRecv rest)).plains[p].basin (elementAt e i) (elementSize e) = [] := by rw [hB]; exact hue
  have hword : elementWord (modPlain s p (withRecv rest)).plains[p].basin e i = elementWord s.plains[p].basin e i := by rw [hB]; rfl
  rw [exec_mmRequestComplete_oldest hs hr, mmServe_read he' hw hue', hword]
  simp only [modPlain_modPlain, modTile_modTile]
  refine congrArg Host.Outcome.next (modPlain_congr (modTile_congr ?_))
  obtain ⟨cnt, stat, ovl, hc⟩ := counted_frame (elementAt e i) (elementSize e) (withRecv rest s.plains[p])
  have hT : (counted (elementAt e i) (elementSize e) (withRecv rest s.plains[p])).tiles = s.plains[p].tiles := by rw [hc]; rfl
  rw [hT]
  exact deliverResponse_awaits hs _

/-- Settles O7: the receipt, and the completion of a delivered, an unnamed and a read request, each an update of one Plain. -/
theorem memoryRequestIsTakenAndServed : Obligations.MemoryRequestIsTakenAndServed := by
  refine ⟨fun p k s r rest hq => ⟨exec_mmRequestTake_kept hq, exec_mmRequestTake_taken hq⟩, fun p k s x rest h => ?_,
    fun p k s r rest hs hr => ⟨fun why he => exec_mmRequestComplete_noElement hs hr he, fun e i he hw => ?_⟩⟩
  · rw [exec_mmRequestComplete_delivers h]
    refine congrArg Host.Outcome.next (modPlain_congr (modTile_congr ?_))
    unfold deliverResponse
    rw [h]
    cases x
    · exact congrArg (fun q => { s.plains[p].tiles[k] with served := rest, q1 := q }) (List.append_nil _).symm
    · rfl
  · intro n hue
    refine ⟨_, exec_mmRequestComplete_read hs hr he hw hue, onlyPlain_modPlain s p _, ?_⟩
    obtain ⟨cnt, stat, ovl, hc⟩ := counted_frame (elementAt e i) (elementSize e) (withRecv rest s.plains[p])
    rw [modPlain_same, hc, modTile_same]
    exact ⟨rfl, rfl, fun j hj => modTile_other _ _ _ _ hj, rfl, rfl⟩

/-- Settles O8: the controller's requests take effect one after the other up to the first of the tile. -/
theorem requestsTakeEffectInOrderOfReceipt : Obligations.RequestsTakeEffectInOrderOfReceipt := by
  refine ⟨fun p j k s q r rest hjk hs hr => ?_, fun p k s => exec_mmRequestComplete_none⟩
  intro drop
  rw [exec_mmRequestComplete_performs hs ⟨r, by rw [hr]; exact List.mem_cons_of_mem _ List.mem_cons_self⟩, hr, performUpTo_goes_on (decide_eq_false hjk),
    performUpTo_stops (decide_eq_true rfl)]
  rfl

end Sys2Proof.Machine
end

section
/-! SUPPORT. A write of the Basin (02 R43, R44, 07 R132-R134, R141, R144): the journal record of its 4 KiB block changes bytes of the
journal area only, the materialisation of its 512-byte block changes no byte as it reads, and the write itself changes its own bytes. -/

namespace Sys2Proof.Machine

variable {p : Fin 8} {k : Fin 64} {s : State} {r : MmReq}

/-! ## The region of a byte (R131, R132) -/

theorem winner_congr {B C : Basin} (h : C.rgn = B.rgn) (a : Nat) : winner C a = winner B a := by
  unfold winner rgnsAt
  rw [h]

/-- Regions begin and end at 4 KiB blocks, so one region wins a whole block. -/
theorem rgnHas_page (e : BitVec 128) {a b : Nat} (h : a / 4096 = b / 4096) : rgnHas e a = rgnHas e b := by
  have hge : ∀ m : Nat, m * 4096 ≤ a ↔ m * 4096 ≤ b := fun m => by omega
  have hlt : ∀ m : Nat, a < m * 4096 ↔ b < m * 4096 := fun m => by omega
  unfold rgnHas rgnBase rgnSize
  rw [← Nat.add_mul, decide_eq_decide.2 (hge _), decide_eq_decide.2 (hlt _)]

theorem winner_page (B : Basin) {a b : Nat} (h : a / 4096 = b / 4096) : winner B a = winner B b := by
  unfold winner rgnsAt
  rw [List.filter_congr fun r _ => rgnHas_page r.2 h]

/-! ## What a byte reads as (R43, R133, R134) -/

/-- A byte reads the stored content where its block is tagged or lies in no region. -/
theorem basinByte_stored {B : Basin} {a : Nat} (h : storedAt B a = true) : basinByte B a = sget Config.basinFree B.data a := by
  unfold storedAt at h
  unfold basinByte
  cases hw : winner B a with
  | none => rfl
  | some w => rw [hw, Option.isNone_some, Bool.false_or] at h; exact if_pos h

theorem storedAt_congr {B C : Basin} (hr : C.rgn = B.rgn) {a : Nat} (ht : look false C.tags (a / 512) = look false B.tags (a / 512)) :
    storedAt C a = storedAt B a := by
  unfold storedAt
  rw [winner_congr hr, ht]

/-- What a byte reads as depends on the region table, its block's tag and its stored content. -/
theorem basinByte_congr {B C : Basin} {a : Nat} (hr : C.rgn = B.rgn) (ht : look false C.tags (a / 512) = look false B.tags (a / 512))
    (hd : sget Config.basinFree C.data a = sget Config.basinFree B.data a) : basinByte C a = basinByte B a := by
  unfold basinByte
  rw [winner_congr hr, ht, hd]

/-! ## What every part of a write keeps -/

/-- The parts of the Basin that no step of a write touches: the region table, the areas and the requests received; the written-tags that
are set stay set, no word becomes uncorrectable, and the stored bytes stay in canonical form. -/
structure WriteKeeps (B C : Basin) : Prop where
  rgn : C.rgn = B.rgn
  areaBase : C.areaBase = B.areaBase
  areaSize : C.areaSize = B.areaSize
  recv : C.recv = B.recv
  tagged : ∀ b, look false B.tags b = true → look false C.tags b = true
  ue : B.ue = [] → C.ue = []
  wf : Memory.wf Config.basinFree B.data = true → Memory.wf Config.basinFree C.data = true

theorem WriteKeeps.refl (B : Basin) : WriteKeeps B B := ⟨rfl, rfl, rfl, rfl, fun _ => id, id, id⟩

theorem WriteKeeps.trans {B C D : Basin} (h : WriteKeeps B C) (g : WriteKeeps C D) : WriteKeeps B D :=
  ⟨g.rgn.trans h.rgn, g.areaBase.trans h.areaBase, g.areaSize.trans h.areaSize, g.recv.trans h.recv, fun b hb => g.tagged b (h.tagged b hb),
    fun hu => g.ue (h.ue hu), fun hw => g.wf (h.wf hw)⟩

/-- Clearing marks where there are none leaves none. -/
theorem unmark_nil (ws : List Nat) : ws.foldl (fun u w => put false u w false) ([] : Sparse Bool) = [] := by
  induction ws with
  | nil => rfl
  | cons w ws ih => exact ih

theorem rawWrite_keeps (off : Nat) (bs : List Byte) (B : Basin) : WriteKeeps B (rawWrite off bs B) where
  rgn := rfl
  areaBase := rfl
  areaSize := rfl
  recv := rfl
  tagged _ := id
  ue hu := by
    unfold rawWrite
    dsimp only
    rw [hu]
    exact unmark_nil _
  wf hw := writeBytes_wf _ _ _ _ hw

theorem noteOverlap_keeps (off n : Nat) (B : Basin) : WriteKeeps B (noteOverlap off n B) ∧ (noteOverlap off n B).data = B.data := by
  obtain ⟨stat, ovl, h⟩ := noteOverlap_frame off n B
  rw [h]
  exact ⟨⟨rfl, rfl, rfl, rfl, fun _ => id, id, id⟩, rfl⟩

theorem noteCe_keeps (n : Nat) (B : Basin) : WriteKeeps B (noteCe n B) ∧ (noteCe n B).data = B.data := by
  obtain ⟨cnt, stat, h⟩ := noteCe_frame n B
  rw [h]
  exact ⟨⟨rfl, rfl, rfl, rfl, fun _ => id, id, id⟩, rfl⟩

/-! ## The journal (R144, R145) -/

/-- The first byte of the journal area. -/
def jrnlBase (B : Basin) : Nat := look 0 B.areaBase 2 * 4096

/-- A byte of the journal area. -/
def inJournal (B : Basin) (a : Nat) : Prop := jrnlBase B ≤ a ∧ a < jrnlBase B + 64 * jrnlUnits B

/-- A step of the journal changes no stored byte outside the journal area, and no tag. -/
structure JournalOnly (B C : Basin) : Prop where
  keeps : WriteKeeps B C
  tags : C.tags = B.tags
  data : ∀ a, ¬ inJournal B a → sget Config.basinFree C.data a = sget Config.basinFree B.data a

theorem JournalOnly.refl (B : Basin) : JournalOnly B B := ⟨.refl B, rfl, fun _ _ => rfl⟩

theorem inJournal_congr {B C : Basin} (h : WriteKeeps B C) (a : Nat) : inJournal C a ↔ inJournal B a := by
  unfold inJournal jrnlBase jrnlUnits
  rw [h.areaBase, h.areaSize]

theorem JournalOnly.trans {B C D : Basin} (h : JournalOnly B C) (g : JournalOnly C D) : JournalOnly B D :=
  ⟨h.keeps.trans g.keeps, g.tags.trans h.tags,
    fun a ha => (g.data a fun hc => ha ((inJournal_congr h.keeps a).1 hc)).trans (h.data a ha)⟩

/-- A step that leaves the stored bytes and the tags. -/
theorem journalOnly_of_data {B C : Basin} (hk : WriteKeeps B C) (ht : C.tags = B.tags) (hd : C.data = B.data) : JournalOnly B C :=
  ⟨hk, ht, fun a _ => by rw [hd]⟩

theorem noteOverlap_journal (off n : Nat) (B : Basin) : JournalOnly B (noteOverlap off n B) := by
  obtain ⟨stat, ovl, h⟩ := noteOverlap_frame off n B
  exact journalOnly_of_data (noteOverlap_keeps off n B).1 (by rw [h]) (noteOverlap_keeps off n B).2

theorem noteCe_journal (n : Nat) (B : Basin) : JournalOnly B (noteCe n B) := by
  obtain ⟨cnt, stat, h⟩ := noteCe_frame n B
  exact journalOnly_of_data (noteCe_keeps n B).1 (by rw [h]) (noteCe_keeps n B).2

/-- One 64-byte unit goes into the ring of the journal area. -/
theorem rawWrite_journal (B : Basin) (hu : 0 < jrnlUnits B) {bs : List Byte} (hb : bs.length ≤ 64) :
    JournalOnly B (rawWrite (jrnlBase B + 64 * (B.head % jrnlUnits B)) bs B) := by
  refine ⟨rawWrite_keeps _ _ _, rfl, fun a ha => writeBytes_other _ _ _ _ _ ?_⟩
  have hm := Nat.mod_lt B.head hu
  unfold inJournal at ha
  generalize B.head % jrnlUnits B = m at hm
  by_contra hin
  exact ha (by constructor <;> omega)

theorem jrnlAppend_journal (n : Nat) (bs : List Byte) (B : Basin) (hu : 0 < jrnlUnits B) : JournalOnly B (jrnlAppend n bs B) := by
  induction n generalizing bs B with
  | zero => exact .refl B
  | succ n ih =>
    have hraw := rawWrite_journal B hu (List.length_take_le 64 bs)
    unfold jrnlAppend
    refine hraw.trans (JournalOnly.trans ?_ (ih _ _ hu))
    exact journalOnly_of_data ⟨rfl, rfl, rfl, rfl, fun _ => id, id, id⟩ rfl rfl

/-- The journal record of a block changes nothing of the tiles, and of the Basin the journal only. -/
theorem journalPage_journal (P : Plain) (page : Nat) :
    (journalPage P page).tiles = P.tiles ∧ JournalOnly P.basin (journalPage P page).basin := by
  have hflags : ∀ (B C : Basin), C.rgn = B.rgn → C.areaBase = B.areaBase → C.areaSize = B.areaSize → C.recv = B.recv → C.tags = B.tags →
      C.ue = B.ue → C.data = B.data → JournalOnly B C := fun B C hr hab has hv ht hu hd =>
    journalOnly_of_data ⟨hr, hab, has, hv, fun _ hb => by rw [ht]; exact hb, fun h => hu.trans h, fun h => by rw [hd]; exact h⟩ ht hd
  unfold journalPage
  dsimp only
  split
  · exact ⟨rfl, .refl _⟩
  · split
    · rename_i hfits
      have hu : 0 < jrnlUnits P.basin := Nat.zero_lt_of_lt (of_decide_eq_true hfits)
      exact ⟨rfl, (jrnlAppend_journal _ _ _ hu).trans (hflags _ _ rfl rfl rfl rfl rfl rfl rfl)⟩
    · exact ⟨rfl, hflags _ _ rfl rfl rfl rfl rfl rfl rfl⟩

theorem ueWords_nil {B : Basin} (h : B.ue = []) (off n : Nat) : ueWords B off n = [] := by
  have hnone : ∀ w : Nat, look false ([] : Sparse Bool) w = false := fun _ => rfl
  unfold ueWords
  simp only [h, hnone, Bool.false_and, List.filter_false]

/-- A Plain whose Basin has gone through journal steps. -/
def Journalled (P Q : Plain) : Prop := Q.tiles = P.tiles ∧ JournalOnly P.basin Q.basin

/-- Where no word is uncorrectable, the record of one block is an update of the Plain. -/
theorem journalFor_clean (hue : s.plains[p].basin.ue = []) (master unit page : Nat) :
    ∃ Q, journalFor p master unit s page = modPlain s p (fun _ => Q) ∧ Journalled s.plains[p] Q := by
  have hpage := journalPage_journal s.plains[p] page
  unfold journalFor
  dsimp only
  split
  · exact ⟨journalPage s.plains[p] page, modPlain_congr rfl, hpage⟩
  · rw [ueWords_nil hue, reportUes_none, modPlain_modPlain]
    exact ⟨_, modPlain_congr rfl, hpage.1, hpage.2.trans (noteCe_journal _ _)⟩

theorem journal_clean (pages : List Nat) (hue : s.plains[p].basin.ue = []) (master unit : Nat) :
    ∃ Q, pages.foldl (journalFor p master unit) s = modPlain s p (fun _ => Q) ∧ Journalled s.plains[p] Q := by
  induction pages generalizing s with
  | nil => exact ⟨s.plains[p], (modPlain_eq_self rfl).symm, rfl, .refl _⟩
  | cons page pages ih =>
    obtain ⟨Q, hQ, ht, hj⟩ := journalFor_clean hue master unit page
    have hsame := modPlain_same s p fun _ => Q
    obtain ⟨R, hR, ht', hj'⟩ := ih (s := modPlain s p fun _ => Q) (by rw [hsame]; exact hj.keeps.ue hue)
    rw [hsame] at ht' hj'
    exact ⟨R, by rw [List.foldl_cons, hQ, hR, modPlain_modPlain], ht'.trans ht, hj.trans hj'⟩

/-! ## Materialisation (R43) -/

/-- A step of a write that changes no byte as it reads. -/
structure ReadsKept (B C : Basin) : Prop where
  keeps : WriteKeeps B C
  reads : ∀ a, basinByte C a = basinByte B a

theorem ReadsKept.refl (B : Basin) : ReadsKept B B := ⟨.refl B, fun _ => rfl⟩

theorem ReadsKept.trans {B C D : Basin} (h : ReadsKept B C) (g : ReadsKept C D) : ReadsKept B D :=
  ⟨h.keeps.trans g.keeps, fun a => (g.reads a).trans (h.reads a)⟩

theorem basinBytes_length (B : Basin) (off n : Nat) : (basinBytes B off n).length = n := by simp [basinBytes]

theorem look_tagged (B : Basin) (block : Nat) : look false (put false B.tags block true) block = true :=
  look_put_listed false B.tags block true (by decide)

theorem tagged_keeps (B : Basin) (block : Nat) : WriteKeeps B { B with tags := put false B.tags block true } := by
  refine ⟨rfl, rfl, rfl, rfl, fun b hb => ?_, id, id⟩
  by_cases hbb : b = block
  · subst hbb
    exact look_tagged B b
  · exact (look_put_other false B.tags block b true hbb).trans hb

theorem rawWrite_tagged_keeps (off : Nat) (bs : List Byte) (B : Basin) (block : Nat) :
    WriteKeeps B { rawWrite off bs B with tags := put false B.tags block true } :=
  (rawWrite_keeps off bs B).trans (tagged_keeps (rawWrite off bs B) block)

theorem getElem_basinBytes (B : Basin) (off n i : Nat) (h : i < (basinBytes B off n).length) : (basinBytes B off n)[i] = basinByte B (off + i) := by
  simp only [basinBytes, List.getElem_map, List.getElem_range]

/-- A block that gets its written-tag is stored as it read before. -/
theorem formBlock_reads {B : Basin} (hwf : Memory.wf Config.basinFree B.data = true) {block : Nat} {bs : List Byte}
    (hbs : bs = basinBytes B (512 * block) 512) :
    ReadsKept B { rawWrite (512 * block) bs B with tags := put false B.tags block true } := by
  have hlen : bs.length = 512 := by rw [hbs, basinBytes_length]
  refine ⟨rawWrite_tagged_keeps _ _ B block, fun a => ?_⟩
  by_cases hin : a / 512 = block
  · have ha : 512 * block + a % 512 = a := by omega
    have hlt : a % 512 < bs.length := by omega
    have hread := writeBytes_at Config.basinFree B.data (512 * block) (a % 512) bs hwf hlt
    rw [List.getElem_of_eq hbs, getElem_basinBytes, ha] at hread
    refine (basinByte_stored ?_).trans hread
    unfold storedAt
    rw [hin, look_tagged, Bool.or_true]
  · refine basinByte_congr rfl (look_put_other false B.tags block _ true hin) (writeBytes_other _ _ _ _ _ ?_)
    omega

theorem materialise_reads {B : Basin} (hwf : Memory.wf Config.basinFree B.data = true) (block : Nat) :
    ReadsKept B (materialise B block) ∧ storedAt (materialise B block) (512 * block) = true := by
  have hdiv : 512 * block / 512 = block := by omega
  unfold materialise
  cases hw : winner B (512 * block) with
  | none => exact ⟨.refl B, by simp [storedAt, hw]⟩
  | some w =>
    dsimp only
    cases ht : look false B.tags block with
    | true => exact ⟨by rw [if_pos rfl]; exact .refl B, by rw [if_pos rfl]; simp [storedAt, hdiv, ht]⟩
    | false =>
      rw [if_neg Bool.false_ne_true]
      refine ⟨formBlock_reads hwf rfl, ?_⟩
      unfold storedAt
      rw [hdiv, look_tagged, Bool.or_true]

theorem storedAt_kept {B C : Basin} (h : WriteKeeps B C) {a : Nat} (hs : storedAt B a = true) : storedAt C a = true := by
  unfold storedAt at hs ⊢
  rw [winner_congr h.rgn]
  rcases Bool.or_eq_true_iff.1 hs with hw | ht
  · rw [hw, Bool.true_or]
  · rw [h.tagged _ ht, Bool.or_true]

/-- Every block of a range is materialised before the write, and no byte reads otherwise for it. -/
theorem materialise_all (blocks : List Nat) {B : Basin} (hwf : Memory.wf Config.basinFree B.data = true) :
    ReadsKept B (blocks.foldl materialise B) ∧ ∀ b ∈ blocks, storedAt (blocks.foldl materialise B) (512 * b) = true := by
  induction blocks generalizing B with
  | nil => exact ⟨.refl B, fun b hb => absurd hb List.not_mem_nil⟩
  | cons b bs ih =>
    obtain ⟨hr, hs⟩ := materialise_reads hwf b
    obtain ⟨hr', hs'⟩ := ih (hr.keeps.wf hwf)
    exact ⟨hr.trans hr', List.forall_mem_cons.2 ⟨storedAt_kept hr'.keeps hs, hs'⟩⟩

theorem mem_blocksOf {off n a : Nat} (h1 : off ≤ a) (h2 : a < off + n) : a / 512 ∈ blocksOf off n := by
  unfold blocksOf unitsOf
  rw [if_neg (by omega), List.mem_map]
  exact ⟨a / 512 - off / 512, List.mem_range.2 (by omega), by omega⟩

theorem storedAt_block (B : Basin) {a b : Nat} (h : a / 512 = b / 512) : storedAt B a = storedAt B b := by
  unfold storedAt
  rw [winner_page B (by omega : a / 4096 = b / 4096), h]

/-! ## The write itself (R44) -/

/-- With no refused word the bytes of a write are written one after the other. -/
theorem storeBytes_data (off : Nat) (bs : List Byte) (B : Basin) :
    (storeBytes off [] bs B).data = writeBytes Config.basinFree B.data off bs := by
  unfold storeBytes
  dsimp only
  generalize B.data = m
  induction bs generalizing m off with
  | nil => rfl
  | cons b bs ih =>
    rw [List.zipIdx_cons, List.foldl_cons, ih]
    rfl

/-- The write of bytes into materialised blocks: they read back, and every other byte reads as before. -/
theorem storeBytes_reads {B : Basin} (hwf : Memory.wf Config.basinFree B.data = true) {off : Nat} {bs : List Byte}
    (hst : ∀ a, off ≤ a → a < off + bs.length → storedAt B a = true) :
    basinBytes (storeBytes off [] bs B) off bs.length = bs ∧
    ∀ a, (a < off ∨ off + bs.length ≤ a) → basinByte (storeBytes off [] bs B) a = basinByte B a := by
  constructor
  · refine List.ext_getElem (basinBytes_length _ _ _) fun i _ hi => ?_
    have hstored : storedAt (storeBytes off [] bs B) (off + i) = true :=
      (storedAt_congr rfl rfl).trans (hst _ (by omega) (by omega))
    rw [getElem_basinBytes, basinByte_stored hstored, storeBytes_data]
    exact writeBytes_at _ _ _ _ _ hwf hi
  · intro a ha
    refine basinByte_congr rfl rfl ?_
    rw [storeBytes_data]
    exact writeBytes_other _ _ _ _ _ ha

/-- An update of the Basin of a Plain. -/
def onBasin (f : Basin → Basin) (P : Plain) : Plain := { P with basin := f P.basin }

/-- A write after its journal record: the blocks are materialised, the corrected words that it merges are counted, and the bytes stored. -/
def placed (off : Nat) (bs : List Byte) (B : Basin) : Basin :=
  let M := (blocksOf off bs.length).foldl materialise B
  storeBytes off [] bs (noteCe (mergedCe M off bs.length).length M)

/-- What a write of `bs` at `off` makes of a Basin without uncorrectable words: the bytes read back, and every other byte outside the
journal area reads as before. -/
structure Wrote (off : Nat) (bs : List Byte) (B C : Basin) : Prop where
  recv : C.recv = B.recv
  bytes : basinBytes C off bs.length = bs
  others : ∀ a, (a < off ∨ off + bs.length ≤ a) → ¬ inJournal B a → basinByte C a = basinByte B a

theorem placed_wrote {B : Basin} (hwf : Memory.wf Config.basinFree B.data = true) (off : Nat) (bs : List Byte) : Wrote off bs B (placed off bs B) := by
  obtain ⟨hmat, hst⟩ := materialise_all (blocksOf off bs.length) hwf
  unfold placed
  dsimp only
  generalize (blocksOf off bs.length).foldl materialise B = M at hmat hst
  obtain ⟨cnt, stat, hce⟩ := noteCe_frame (mergedCe M off bs.length).length M
  rw [hce]
  obtain ⟨hbytes, hothers⟩ := storeBytes_reads (B := { M with ceCnt := cnt, stat := stat }) (hmat.keeps.wf hwf) (off := off) (bs := bs)
    fun a h1 h2 => (storedAt_block M (by omega : a / 512 = 512 * (a / 512) / 512)).trans (hst _ (mem_blocksOf h1 h2))
  exact ⟨hmat.keeps.recv, hbytes, fun a ha _ => (hothers a ha).trans (hmat.reads a)⟩

/-- A journal step before a write. -/
theorem Wrote.after {off : Nat} {bs : List Byte} {B J C : Basin} (hj : JournalOnly B J) (h : Wrote off bs J C) : Wrote off bs B C :=
  ⟨h.recv.trans hj.keeps.recv, h.bytes, fun a ha hn =>
    (h.others a ha fun hin => hn ((inJournal_congr hj.keeps a).1 hin)).trans (basinByte_congr hj.keeps.rgn (by rw [hj.tags]) (hj.data a hn))⟩

/-- The write behind the journal is an update of the Basin where no word is uncorrectable. -/
theorem basinStore_eq {u : State} {master unit off : Nat} {bs : List Byte}
    (hu : (pagesOf off bs.length).foldl (journalFor p master unit) (modPlain s p (onBasin (noteOverlap off bs.length))) = u)
    (hue : ((blocksOf off bs.length).foldl materialise u.plains[p].basin).ue = []) :
    (basinStore s p master unit off bs).1 = modPlain u p (onBasin (placed off bs)) := by
  have hmat := modPlain_same u p (onBasin ((blocksOf off bs.length).foldl materialise))
  have hbad : refusedWords ((blocksOf off bs.length).foldl materialise u.plains[p].basin) off bs.length = [] := by
    rw [refusedWords, ueWords_nil hue, List.filter_nil]
  unfold onBasin at hu hmat
  unfold basinStore
  dsimp only
  rw [hu, hmat, hbad, reportUes_none, modPlain_modPlain]
  rfl

/-- A write where no word is uncorrectable (R43, R44, R144). -/
theorem basinStore_clean (hwf : Memory.wf Config.basinFree s.plains[p].basin.data = true) (hue : s.plains[p].basin.ue = [])
    (master unit off : Nat) (bs : List Byte) :
    ∃ Q, (basinStore s p master unit off bs).1 = modPlain s p (fun _ => Q) ∧ Q.tiles = s.plains[p].tiles ∧
      Wrote off bs s.plains[p].basin Q.basin := by
  have hnote := noteOverlap_journal off bs.length s.plains[p].basin
  have hsame := modPlain_same s p (onBasin (noteOverlap off bs.length))
  obtain ⟨J, hJ, htiles, hj⟩ := journal_clean (pagesOf off bs.length) (s := modPlain s p (onBasin (noteOverlap off bs.length)))
    (p := p) (by rw [hsame]; exact hnote.keeps.ue hue) master unit
  rw [hsame] at htiles hj
  rw [modPlain_modPlain] at hJ
  have hJ' := modPlain_same s p fun _ => J
  replace hj := hnote.trans hj
  obtain ⟨hmat, -⟩ := materialise_all (blocksOf off bs.length) (hj.keeps.wf hwf)
  refine ⟨onBasin (placed off bs) J, ?_, htiles, (placed_wrote (hj.keeps.wf hwf) off bs).after hj⟩
  rw [basinStore_eq hJ (by rw [hJ']; exact hmat.keeps.ue (hj.keeps.ue hue)), modPlain_modPlain]

/-! ## A write request (R86) -/

/-- The bytes of a write's datum, by the packing of its region. -/
def datumBytes (e : BitVec 128) (x : Word) : List Byte := if rgnTwoState e then leBytes 2 (val x 16) else leBytes 4 x.toNat

theorem leBytes_length (n x : Nat) : (leBytes n x).length = n := by
  induction n generalizing x with
  | zero => rfl
  | succ n ih => rw [leBytes, List.length_cons, ih]

theorem datumBytes_length (e : BitVec 128) (x : Word) : (datumBytes e x).length = elementSize e := by
  unfold datumBytes elementSize
  split <;> exact leBytes_length _ _

/-- The flag of a datum with an unknown position is an update of the tile. -/
theorem flagDatum_eq (b : Bool) (s : State) (p : Fin 8) (k : Fin 64) (i : Nat) :
    (if b then modPlain s p fun P => modTile P k fun T => setOpstat T i else s) = modPlain s p fun P => modTile P k (setOpstatIf b i) := by
  cases b with
  | true => exact if_pos rfl
  | false =>
    refine (if_neg Bool.false_ne_true).trans (modPlain_eq_self ?_).symm
    exact congrArg (fun v => { s.plains[p] with tiles := v }) (vmod_eq_self (f := setOpstatIf false i) (if_neg Bool.false_ne_true))

/-- A write of an element in a Basin without uncorrectable words: its tile waits for the completion, with a flag where the datum of a
two-state element holds an unknown position (R86). -/
theorem mmServe_write {e : BitVec 128} {i : Nat} (h : mmElement s.plains[p].basin r = .inr (e, i)) (hw : r.write = true)
    (hwf : Memory.wf Config.basinFree s.plains[p].basin.data = true) (hue : s.plains[p].basin.ue = []) :
    ∃ Q, mmServe s p k r = modPlain s p (fun _ => modTile Q k (awaits none)) ∧
      Q.tiles = (modTile s.plains[p] k (setOpstatIf (rgnTwoState e && xOf r.data != 0) 3)).tiles ∧
      Wrote (elementAt e i) (datumBytes e r.data) s.plains[p].basin Q.basin := by
  have hsame := modPlain_same s p fun P => modTile P k (setOpstatIf (rgnTwoState e && xOf r.data != 0) 3)
  obtain ⟨Q, hQ, htiles, hwrote⟩ := basinStore_clean (p := p) (s := modPlain s p fun P => modTile P k (setOpstatIf (rgnTwoState e && xOf r.data != 0) 3))
    (by rw [hsame]; exact hwf) (by rw [hsame]; exact hue) 0 k.val (elementAt e i) (datumBytes e r.data)
  rw [hsame] at htiles hwrote
  refine ⟨Q, ?_, htiles, hwrote⟩
  unfold mmServe
  rw [h]
  dsimp only
  rw [if_pos hw, flagDatum_eq, elementAt_eq]
  unfold datumBytes at hQ
  rw [hQ, serveAs, modPlain_modPlain, modPlain_modPlain]
  rfl

theorem modTile_field {α : Type} (g : Tile → α) {P : Plain} {f : Tile → Tile} (h : g (f P.tiles[k]) = g P.tiles[k]) (j : Fin 64) :
    g (modTile P k f).tiles[j] = g P.tiles[j] := by
  by_cases hj : j = k
  · subst hj
    rw [modTile_same, h]
  · rw [modTile_other _ _ _ _ hj]

/-- A completion of a write of an element in a Basin without uncorrectable words. -/
theorem exec_mmRequestComplete_write {rest : List (Fin 64 × MmReq)} {e : BitVec 128} {i : Nat} (hs : s.plains[p].tiles[k].served = [])
    (hr : s.plains[p].basin.recv = (k, r) :: rest) (he : mmElement s.plains[p].basin r = .inr (e, i)) (hw : r.write = true)
    (hwf : Memory.wf Config.basinFree s.plains[p].basin.data = true) (hue : s.plains[p].basin.ue = []) :
    ∃ Q, exec (.mmRequestComplete p k) s = .next (modPlain s p fun _ => Q) ∧
      Wrote (elementAt e i) (datumBytes e r.data) (withRecv rest s.plains[p]).basin Q.basin ∧
      ∀ j : Fin 64, Q.tiles[j].q0 = s.plains[p].tiles[j].q0 ∧ Q.tiles[j].q1 = s.plains[p].tiles[j].q1 := by
  have hsame := modPlain_same s p (withRecv rest)
  obtain ⟨Q, hQ, htiles, hwrote⟩ := mmServe_write (k := k) (s := modPlain s p (withRecv rest)) (p := p) (r := r) (e := e) (i := i)
    (by rw [hsame]; exact he) hw (by rw [hsame]; exact hwf) (by rw [hsame]; exact hue)
  rw [hsame] at hwrote htiles
  have hserved : Q.tiles[k].served = [] := by
    rw [htiles]
    exact (modTile_field Tile.served (by unfold setOpstatIf setOpstat; split <;> rfl) k).trans hs
  have hqueue : ∀ {β : Type} (g : Tile → β), (∀ T b, g (setOpstatIf b 3 T) = g T) → ∀ j : Fin 64, g Q.tiles[j] = g s.plains[p].tiles[j] := by
    intro β g hg j
    rw [htiles]
    exact modTile_field g (hg _ _) j
  refine ⟨modTile Q k fun T => deliverResponse (awaits none T), ?_, hwrote, fun j => ⟨?_, ?_⟩⟩
  · rw [exec_mmRequestComplete_oldest hs hr, hQ, modPlain_modPlain, modPlain_modPlain]
    exact congrArg Host.Outcome.next (modPlain_congr (modTile_modTile _ _ _ _))
  · refine (modTile_field Tile.q0 ?_ j).trans (hqueue Tile.q0 (fun T b => by unfold setOpstatIf setOpstat; split <;> rfl) j)
    rw [deliverResponse_awaits hserved]
  · refine (modTile_field Tile.q1 ?_ j).trans (hqueue Tile.q1 (fun T b => by unfold setOpstatIf setOpstat; split <;> rfl) j)
    rw [deliverResponse_awaits hserved]
    exact List.append_nil _

/-- Settles O9: the write takes effect on its blocks, which the journal and the materialisation have left reading as before, and its
completion changes no Basin byte and no queue. -/
theorem basinWriteStoresItsBytesOnly : Obligations.BasinWriteStoresItsBytesOnly := by
  intro p k s r rest e i hs hr hw he hwf _ hue bs off jbase
  have hoff : elementAt e i = off := congrArg (fun n => rgnBase e + n * i) (datumBytes_length e r.data).symm
  obtain ⟨Q, hexec, hwrote, hqueues⟩ := exec_mmRequestComplete_write hs hr he hw hwf hue
  rw [hoff] at hwrote
  refine ⟨_, hexec, onlyPlain_modPlain s p _, ?_⟩
  rw [modPlain_same]
  refine ⟨hwrote.recv, hwrote.bytes, fun a ha hj => hwrote.others a ha fun hin => ?_, hqueues⟩
  obtain ⟨h1, h2⟩ : jbase ≤ a ∧ a < jbase + 64 * jrnlUnits s.plains[p].basin := hin
  omega

end Sys2Proof.Machine
end

section
/-! SUPPORT. The bitwise and the arithmetic unit on known words compute what their numbers give, and a sum is X from its lowest unknown
position on (02 R36, R38, R39, 04 R75, R79-R82). -/

namespace Sys2Proof.Machine

variable {a d : Word}

/-! ## Known positions and the number of a word (R75) -/

/-- The known position of a bit. -/
def known (b : Bool) : Pos := if b then 1 else 0

theorem eq_known : ∀ {p : Pos}, unk p = false → p = known (p.getLsbD 0) := by decide

theorem known_injective : ∀ {x y : Bool}, known x = known y ↔ x = y := by decide

theorem unk_known : ∀ x : Bool, unk (known x) = false := by decide

/-- The v bit of a position. -/
def vBit (w : Word) (k : Nat) : Bool := (pos w k).getLsbD 0

theorem testBit_of_digits (b : Nat → Bool) (n k : Nat) : (∑ i ∈ Finset.range n, b2n (b i) * 2 ^ i).testBit k = (decide (k < n) && b k) := by
  by_cases hk : k < n
  · rw [Nat.testBit_eq_decide_div_mod_eq, digit_of_sum (fun i => b2n_lt (b i)) hk, decide_eq_true hk, Bool.true_and]
    cases b k <;> rfl
  · have hlt := digits_lt (fun i => b2n_lt (b i)) n
    rw [Nat.testBit_lt_two_pow (hlt.trans_le (Nat.pow_le_pow_right (by omega) (Nat.le_of_not_lt hk))), decide_eq_false hk, Bool.false_and]

theorem val_eq_sum (w : Word) (n : Nat) : val w n = ∑ k ∈ Finset.range n, b2n (vBit w k) * 2 ^ k := by
  rw [val, foldr_range_eq_sum, Nat.add_zero]
  rfl

theorem testBit_val (w : Word) (n k : Nat) : (val w n).testBit k = (decide (k < n) && vBit w k) := by
  rw [val_eq_sum, testBit_of_digits]

theorem testBit_val_lt (w : Word) {n k : Nat} (hk : k < n) : (val w n).testBit k = vBit w k := by
  rw [testBit_val, decide_eq_true hk, Bool.true_and]

theorem val_lt (w : Word) (n : Nat) : val w n < 2 ^ n := by
  rw [val_eq_sum]
  exact digits_lt (fun k => b2n_lt (vBit w k)) n

theorem val_succ (w : Word) (n : Nat) : val w (n + 1) = val w n + b2n (vBit w n) * 2 ^ n := by
  rw [val_eq_sum, val_eq_sum, Finset.sum_range_succ]

theorem val_mod (w : Word) {m n : Nat} (h : m ≤ n) : val w n % 2 ^ m = val w m := by
  refine Nat.eq_of_testBit_eq fun k => ?_
  rw [Nat.testBit_mod_two_pow, testBit_val, testBit_val]
  by_cases hk : k < m
  · simp [hk, hk.trans_le h]
  · simp [hk]

theorem xOf_eq_sum (w : Word) : xOf w = ∑ k ∈ Finset.range 16, b2n (unk (pos w k)) * 2 ^ k := by
  rw [xOf, foldr_range_eq_sum, Nat.add_zero]

/-- In a known word every position is known. -/
theorem unk_of_allk {w : Word} (h : allk w 16 = true) {k : Nat} (hk : k < 16) : unk (pos w k) = false := by
  have hlt : xOf w < 2 ^ 16 := by rw [xOf_eq_sum]; exact digits_lt (fun k => b2n_lt (unk (pos w k))) 16
  have hzero : xOf w = 0 := by rw [← Nat.mod_eq_of_lt hlt]; exact eq_of_beq h
  have hbit := testBit_of_digits (fun k => unk (pos w k)) 16 k
  rw [← xOf_eq_sum, hzero, Nat.zero_testBit, decide_eq_true hk, Bool.true_and] at hbit
  exact hbit.symm

theorem pos_of_allk {w : Word} (h : allk w 16 = true) {k : Nat} (hk : k < 16) : pos w k = known (vBit w k) := eq_known (unk_of_allk h hk)

theorem pos_mk (x : Nat) {k : Nat} (hk : k < 16) : pos (mk x) k = known (x.testBit k) := pos_ofPos _ hk

/-- Two known words have one number when their positions are the same. -/
theorem val_eq_iff : val a 16 = val d 16 ↔ ∀ k < 16, vBit a k = vBit d k := by
  constructor
  · intro h k hk
    rw [← testBit_val_lt a hk, ← testBit_val_lt d hk, h]
  · intro h
    refine Nat.eq_of_testBit_eq fun k => ?_
    rw [testBit_val, testBit_val]
    by_cases hk : k < 16
    · rw [h k hk]
    · rw [decide_eq_false hk, Bool.false_and, Bool.false_and]

/-! ## The bitwise unit on known words (R79, R80) -/

/-- A bitwise result of known words is the number whose bits the operation gives. -/
theorem bitwise_known {f : Pos → Pos → Pos} {g : Bool → Bool → Bool} (hf : ∀ x y, f (known x) (known y) = known (g x y))
    (ha : allk a 16 = true) (hd : allk d 16 = true) {N : Nat} (hN : ∀ k < 16, N.testBit k = g (vBit a k) (vBit d k)) :
    ofPos (fun k => f (pos a k) (pos d k)) = mk N :=
  ofPos_congr fun k hk => by rw [pos_of_allk ha hk, pos_of_allk hd hk, hf, ← hN k hk]; rfl

theorem testBit_complement {x : Nat} (hx : x < 2 ^ 16) {k : Nat} (hk : k < 16) : (65535 - x).testBit k = !x.testBit k := by
  have h := Nat.testBit_two_pow_sub_succ hx k
  rwa [decide_eq_true hk, Bool.true_and, show 2 ^ 16 - (x + 1) = 65535 - x by omega] at h

/-- A fold over the positions of a known word. -/
theorem foldPos_known {f : Pos → Pos → Pos} {g : Bool → Bool → Bool} (hf : ∀ x y, f (known x) (known y) = known (g x y)) (hd : allk d 16 = true) :
    foldPos f d = known ((List.range 15).foldl (fun acc k => g acc (vBit d (k + 1))) (vBit d 0)) := by
  have hfold : ∀ n, n ≤ 15 → (List.range n).foldl (fun acc k => f acc (pos d (k + 1))) (pos d 0) =
      known ((List.range n).foldl (fun acc k => g acc (vBit d (k + 1))) (vBit d 0)) := by
    intro n
    induction n with
    | zero => exact fun _ => pos_of_allk hd (by omega)
    | succ n ih =>
      intro hn
      rw [List.range_succ, List.foldl_append, List.foldl_append, ih (by omega)]
      simp only [List.foldl_cons, List.foldl_nil]
      rw [pos_of_allk hd (by omega : n + 1 < 16), hf]
  exact hfold 15 (by omega)

theorem foldl_and_range (b : Nat → Bool) (n : Nat) :
    (List.range n).foldl (fun acc k => acc && b (k + 1)) (b 0) = true ↔ ∀ k < n + 1, b k = true := by
  induction n with
  | zero => simp
  | succ n ih => rw [List.range_succ, List.foldl_append, List.foldl_cons, List.foldl_nil, Bool.and_eq_true, ih, Nat.forall_lt_succ_right (n := n + 1)]

theorem foldl_or_range (b : Nat → Bool) (n : Nat) :
    (List.range n).foldl (fun acc k => acc || b (k + 1)) (b 0) = false ↔ ∀ k < n + 1, b k = false := by
  induction n with
  | zero => simp
  | succ n ih => rw [List.range_succ, List.foldl_append, List.foldl_cons, List.foldl_nil, Bool.or_eq_false_iff, ih, Nat.forall_lt_succ_right (n := n + 1)]

theorem val_full_iff : val d 16 = 65535 ↔ ∀ k < 16, vBit d k = true := by
  have hfull : ∀ k < 16, Nat.testBit 65535 k = true := by decide
  constructor
  · intro h k hk
    rw [← testBit_val_lt d hk, h, hfull k hk]
  · intro h
    refine Nat.eq_of_testBit_eq fun k => ?_
    rw [testBit_val]
    by_cases hk : k < 16
    · rw [h k hk, hfull k hk, decide_eq_true hk, Bool.true_and]
    · rw [decide_eq_false hk, Bool.false_and, Nat.testBit_lt_two_pow]
      exact lt_of_lt_of_le (by omega) (Nat.pow_le_pow_right (n := 2) (i := 16) (by omega) (Nat.le_of_not_lt hk))

theorem val_zero_iff : val d 16 = 0 ↔ ∀ k < 16, vBit d k = false := by
  constructor
  · intro h k hk
    rw [← testBit_val_lt d hk, h, Nat.zero_testBit]
  · intro h
    refine Nat.eq_of_testBit_eq fun k => ?_
    rw [testBit_val, Nat.zero_testBit]
    by_cases hk : k < 16
    · rw [h k hk, Bool.and_false]
    · rw [decide_eq_false hk, Bool.false_and]

theorem foldPos_and (hd : allk d 16 = true) : foldPos and2 d = if val d 16 = 65535 then 1 else 0 := by
  rw [foldPos_known (g := (· && ·)) (by decide) hd, known]
  simp only [foldl_and_range, val_full_iff]

theorem foldPos_or (hd : allk d 16 = true) : foldPos or2 d = if val d 16 = 0 then 0 else 1 := by
  rw [foldPos_known (g := (· || ·)) (by decide) hd, known, ← ite_not]
  simp only [Bool.not_eq_true, foldl_or_range, val_zero_iff]

/-! ## Compares of known words (R82) -/

theorem arEq_known (ha : allk a 16 = true) (hd : allk d 16 = true) : arEq a d = if val a 16 = val d 16 then 1 else 0 := by
  have hunk : (List.range 16).any (fun k => unk (pos a k) || unk (pos d k)) = false := List.any_eq_false.2 fun k hk => by
    rw [unk_of_allk ha (List.mem_range.1 hk), unk_of_allk hd (List.mem_range.1 hk)]
    decide
  have hne : (List.range 16).any (fun k => !unk (pos a k) && !unk (pos d k) && pos a k != pos d k) = true ↔ ¬ val a 16 = val d 16 := by
    rw [val_eq_iff, List.any_eq_true]
    push Not
    refine exists_congr fun k => ?_
    rw [List.mem_range]
    refine and_congr_right fun hk => ?_
    rw [pos_of_allk ha hk, pos_of_allk hd hk, unk_known, unk_known, Bool.not_false, Bool.true_and, Bool.true_and, bne_iff_ne, ne_eq, known_injective]
  unfold arEq
  dsimp only
  rw [hunk, if_neg Bool.false_ne_true]
  by_cases h : val a 16 = val d 16
  · rw [if_neg fun hx => hne.1 hx h, if_pos h]
  · rw [if_pos (hne.2 h), if_neg h]

/-- Below the sign position a less-than is that of the numbers of the positions compared. -/
theorem arLtFrom_known (sgn : Bool) (ha : allk a 16 = true) (hd : allk d 16 = true) {n : Nat} (hn : n ≤ if sgn then 15 else 16) :
    arLtFrom sgn a d n = known (decide (val a n < val d n)) := by
  induction n with
  | zero => rfl
  | succ n ih =>
    have hn16 : n < 16 := by split at hn <;> omega
    have hsign : (sgn && n == 15) = false := by
      cases sgn with
      | false => rfl
      | true => exact beq_eq_false_iff_ne.2 (Nat.ne_of_lt hn)
    have hal := val_lt a n
    have hdl := val_lt d n
    rw [arLtFrom, pos_of_allk ha hn16, pos_of_allk hd hn16, unk_known, unk_known, hsign, val_succ, val_succ, ih (Nat.le_of_succ_le hn)]
    cases vBit a n <;> cases vBit d n <;> simp [known, b2n] <;> omega

theorem arLt_known (ha : allk a 16 = true) (hd : allk d 16 = true) : arLtFrom false a d 16 = if val a 16 < val d 16 then 1 else 0 := by
  rw [arLtFrom_known false ha hd (by simp)]
  simp only [known, decide_eq_true_eq]

theorem msb_ofNat_val (w : Word) : (BitVec.ofNat 16 (val w 16)).msb = vBit w 15 := by
  rw [BitVec.msb_eq_getLsbD_last, BitVec.getLsbD_ofNat, testBit_val_lt w (by omega)]
  rfl

/-- The signed compare flips the decision at the sign position. -/
theorem arLtSigned_known (ha : allk a 16 = true) (hd : allk d 16 = true) :
    arLtFrom true a d 16 = if (BitVec.ofNat 16 (val a 16)).slt (BitVec.ofNat 16 (val d 16)) then 1 else 0 := by
  have hal := val_lt a 15
  have hdl := val_lt d 15
  rw [BitVec.slt_eq_ult, msb_ofNat_val, msb_ofNat_val, BitVec.ult, BitVec.toNat_ofNat, BitVec.toNat_ofNat, Nat.mod_eq_of_lt (val_lt a 16),
    Nat.mod_eq_of_lt (val_lt d 16), val_succ a 15, val_succ d 15, arLtFrom, pos_of_allk ha (by omega), pos_of_allk hd (by omega), unk_known, unk_known,
    arLtFrom_known true ha hd (by simp)]
  cases vBit a 15 <;> cases vBit d 15 <;> simp [known, b2n] <;> omega

/-! ## Sums (R38, R81) -/

/-- The lowest unknown position is at most `k` when one of the positions up to `k` is unknown (R38). -/
theorem lowestUnk_le_iff {k : Nat} (hk : k < 16) : lowestUnk a d ≤ k ↔ ∃ j, j ≤ k ∧ (unk (pos a j) = true ∨ unk (pos d j) = true) := by
  unfold lowestUnk
  cases h : (List.range 16).find? fun k => unk (pos a k) || unk (pos d k) with
  | none =>
    rw [List.find?_eq_none] at h
    constructor
    · intro hle
      exact absurd hle (by simp; omega)
    · rintro ⟨j, hj, hu⟩
      exact absurd (Bool.or_eq_true_iff.2 hu) (h j (List.mem_range.2 (by omega)))
  | some m =>
    rw [List.find?_range_eq_some] at h
    obtain ⟨hm, -, hbelow⟩ := h
    constructor
    · exact fun hle => ⟨m, hle, Bool.or_eq_true_iff.1 hm⟩
    · rintro ⟨j, hj, hu⟩
      by_contra hlt
      have hnot := hbelow j (by simp at hlt; omega)
      rw [Bool.or_eq_true_iff.2 hu] at hnot
      exact absurd hnot (by decide)

theorem lowestUnk_known (ha : allk a 16 = true) (hd : allk d 16 = true) : lowestUnk a d = 16 := by
  have hnone : (List.range 16).find? (fun k => unk (pos a k) || unk (pos d k)) = none := List.find?_eq_none.2 fun k hk => by
    rw [unk_of_allk ha (List.mem_range.1 hk), unk_of_allk hd (List.mem_range.1 hk)]
    decide
  rw [lowestUnk, hnone]
  rfl

/-- The number of a sum without a carry in. -/
theorem arAdd_sum (a d ci : Word) : arAdd false false a d ci =
    (if lowestUnk a d < 16 then (ofPos fun k => if lowestUnk a d ≤ k then 2 else pos (mk ((val a 16 + val d 16) % 65536)) k, one 2)
     else (mk ((val a 16 + val d 16) % 65536), one (if 65536 ≤ val a 16 + val d 16 then 1 else 0))) := by
  have hnum : (((val a 16 : Int) + val d 16 + (0 : Nat)) % 65536).toNat = (val a 16 + val d 16) % 65536 := by omega
  have hcarry : (65536 : Int) ≤ (val a 16 : Int) + val d 16 + (0 : Nat) ↔ 65536 ≤ val a 16 + val d 16 := by omega
  unfold arAdd
  simp only [Bool.false_eq_true, if_false]
  rw [show unk 0 = false from rfl, if_neg Bool.false_ne_true, show b2n (BitVec.getLsbD (0 : Pos) 0) = 0 from rfl, hnum]
  simp only [hcarry]

/-- The number of a difference of known words without a borrow in. -/
theorem arAdd_difference (ci : Word) (ha : allk a 16 = true) (hd : allk d 16 = true) : arAdd true false a d ci =
    (mk ((val a 16 + 65536 - val d 16) % 65536), one (if val a 16 < val d 16 then 1 else 0)) := by
  have hd16 := val_lt d 16
  have hnum : (((val a 16 : Int) - val d 16 - (0 : Nat)) % 65536).toNat = (val a 16 + 65536 - val d 16) % 65536 := by omega
  have hborrow : (val a 16 : Int) - val d 16 - (0 : Nat) < 0 ↔ val a 16 < val d 16 := by omega
  unfold arAdd
  simp only [if_true, Bool.false_eq_true, if_false]
  rw [show unk 0 = false from rfl, if_neg Bool.false_ne_true, show b2n (BitVec.getLsbD (0 : Pos) 0) = 0 from rfl, hnum, lowestUnk_known ha hd,
    if_neg (Nat.lt_irrefl 16)]
  simp only [hborrow]

theorem arAdd_sum_known (ci : Word) (ha : allk a 16 = true) (hd : allk d 16 = true) : arAdd false false a d ci =
    (mk ((val a 16 + val d 16) % 65536), one (if 65536 ≤ val a 16 + val d 16 then 1 else 0)) := by
  rw [arAdd_sum, lowestUnk_known ha hd, if_neg (Nat.lt_irrefl 16)]

/-- From the lowest unknown position on a sum and its carry are X. -/
theorem arAdd_unknown (ci : Word) {k : Nat} (hk : k < 16) (hu : ∃ j, j ≤ k ∧ (unk (pos a j) = true ∨ unk (pos d j) = true)) :
    pos (arAdd false false a d ci).1 k = 2 ∧ (arAdd false false a d ci).2 = one 2 := by
  have hle := (lowestUnk_le_iff hk).2 hu
  rw [arAdd_sum, if_pos (by omega)]
  exact ⟨(pos_ofPos _ hk).trans (if_pos hle), rfl⟩

/-- Below it a position of a sum is that of the operands' low positions. -/
theorem arAdd_below (ci : Word) {k : Nat} (hk : k < 16) (hkn : ∀ j, j ≤ k → unk (pos a j) = false ∧ unk (pos d j) = false) :
    pos (arAdd false false a d ci).1 k = if (val a (k + 1) + val d (k + 1)).testBit k then 1 else 0 := by
  have hgt : ¬ lowestUnk a d ≤ k := fun hle => by
    obtain ⟨j, hj, hu⟩ := (lowestUnk_le_iff hk).1 hle
    obtain ⟨h1, h2⟩ := hkn j hj
    rw [h1, h2] at hu
    exact absurd hu (by decide)
  have hlow : ((val a 16 + val d 16) % 65536).testBit k = (val a (k + 1) + val d (k + 1)).testBit k := by
    have hcut : ∀ x : Nat, x.testBit k = (x % 2 ^ (k + 1)).testBit k := fun x => by
      rw [Nat.testBit_mod_two_pow, decide_eq_true (by omega), Bool.true_and]
    rw [hcut, hcut (val a (k + 1) + val d (k + 1)), show (65536 : Nat) = 2 ^ 16 from rfl, Nat.mod_mod_of_dvd _ (Nat.pow_dvd_pow 2 (by omega)),
      Nat.add_mod, val_mod a (by omega), val_mod d (by omega)]
  have hpos : pos (mk ((val a 16 + val d 16) % 65536)) k = if (val a (k + 1) + val d (k + 1)).testBit k then 1 else 0 := by
    rw [pos_mk _ hk, hlow]
    rfl
  rw [arAdd_sum]
  split
  · exact (pos_ofPos _ hk).trans ((if_neg hgt).trans hpos)
  · exact hpos

/-! ## Everything that known words give (R36, R38, R39) -/

/-- The bitwise results of known words are those of their numbers. -/
theorem bwEval_known (ha : allk a 16 = true) (hd : allk d 16 = true) :
    bwEval 0x171 a d = mk (val a 16 &&& val d 16) ∧ bwEval 0x172 a d = mk (val a 16 ||| val d 16) ∧ bwEval 0x173 a d = mk (val a 16 ^^^ val d 16) ∧
    bwEval 0x174 a d = mk (65535 - (val a 16 &&& val d 16)) ∧ bwEval 0x175 a d = mk (65535 - (val a 16 ||| val d 16)) ∧
    bwEval 0x176 a d = mk (65535 - (val a 16 ^^^ val d 16)) ∧ bwEval 0x177 a d = mk (65535 - val d 16) ∧
    bwEval 0x178 a d = mk (val a 16 &&& (65535 - val d 16)) := by
  have hva := val_lt a 16
  have hvd := val_lt d 16
  have hand : ∀ k < 16, (val a 16 &&& val d 16).testBit k = (vBit a k && vBit d k) := fun k hk => by
    rw [Nat.testBit_and, testBit_val_lt a hk, testBit_val_lt d hk]
  have hor : ∀ k < 16, (val a 16 ||| val d 16).testBit k = (vBit a k || vBit d k) := fun k hk => by
    rw [Nat.testBit_or, testBit_val_lt a hk, testBit_val_lt d hk]
  have hxor : ∀ k < 16, (val a 16 ^^^ val d 16).testBit k = (vBit a k ^^ vBit d k) := fun k hk => by
    rw [Nat.testBit_xor, testBit_val_lt a hk, testBit_val_lt d hk]
  have hnot : ∀ k < 16, (65535 - val d 16).testBit k = !vBit d k := fun k hk => by rw [testBit_complement hvd hk, testBit_val_lt d hk]
  refine ⟨?_, ?_, ?_, ?_, ?_, ?_, ?_, ?_⟩
  · exact bitwise_known (f := and2) (g := fun x y => x && y) (by decide) ha hd hand
  · exact bitwise_known (f := or2) (g := fun x y => x || y) (by decide) ha hd hor
  · exact bitwise_known (f := xor2) (g := fun x y => x ^^ y) (by decide) ha hd hxor
  · exact bitwise_known (f := fun p q => not1 (and2 p q)) (g := fun x y => !(x && y)) (by decide) ha hd fun k hk => by
      rw [testBit_complement (Nat.and_lt_two_pow _ hvd) hk, hand k hk]
  · exact bitwise_known (f := fun p q => not1 (or2 p q)) (g := fun x y => !(x || y)) (by decide) ha hd fun k hk => by
      rw [testBit_complement (Nat.or_lt_two_pow hva hvd) hk, hor k hk]
  · exact bitwise_known (f := fun p q => not1 (xor2 p q)) (g := fun x y => !(x ^^ y)) (by decide) ha hd fun k hk => by
      rw [testBit_complement (Nat.xor_lt_two_pow hva hvd) hk, hxor k hk]
  · exact bitwise_known (f := fun _ q => not1 q) (g := fun _ y => !y) (by decide) ha hd hnot
  · exact bitwise_known (f := fun p q => and2 p (not1 q)) (g := fun x y => x && !y) (by decide) ha hd fun k hk => by
      rw [Nat.testBit_and, testBit_val_lt a hk, hnot k hk]

/-- The compares of known words are those of their numbers. -/
theorem arEval_compare_known (ci : Word) (ha : allk a 16 = true) (hd : allk d 16 = true) :
    arEval 0x196 a ci d = (one (if val a 16 = val d 16 then 1 else 0), 0) ∧ arEval 0x197 a ci d = (one (if val a 16 < val d 16 then 1 else 0), 0) ∧
    arEval 0x198 a ci d = (one (if (BitVec.ofNat 16 (val a 16)).slt (BitVec.ofNat 16 (val d 16)) then 1 else 0), 0) := by
  have heq : arEval 0x196 a ci d = (one (arEq a d), 0) := rfl
  have hless : arEval 0x197 a ci d = (one (arLtFrom false a d 16), 0) := rfl
  have hsigned : arEval 0x198 a ci d = (one (arLtFrom true a d 16), 0) := rfl
  refine ⟨?_, ?_, ?_⟩
  · rw [heq, arEq_known ha hd]
  · rw [hless, arLt_known ha hd]
  · rw [hsigned, arLtSigned_known ha hd]

end Sys2Proof.Machine
end

section
/-! SUPPORT. One step of one tile (03 R46-R71, 04 R73-R83): the moves of a step word, and what each phase of the step changes. -/

namespace Sys2Proof.Machine

/-! ## Lists -/

theorem filterMap_range_none {α : Type} {f : Nat → Option α} {n : Nat} (h : ∀ j < n, f j = none) : (List.range n).filterMap f = [] :=
  List.filterMap_eq_nil_iff.2 fun j hj => h j (List.mem_range.1 hj)

theorem filterMap_range_one {α : Type} {f : Nat → Option α} {n i : Nat} {x : α} (hi : i < n) (hx : f i = some x)
    (h : ∀ j < n, j ≠ i → f j = none) : (List.range n).filterMap f = [x] := by
  induction n with
  | zero => exact absurd hi (Nat.not_lt_zero i)
  | succ n ih =>
    rw [List.range_succ, List.filterMap_append]
    rcases Nat.lt_succ_iff_lt_or_eq.1 hi with hlt | rfl
    · rw [ih hlt fun j hj => h j (by omega), List.filterMap_cons_none (h n (by omega) (by omega))]
      rfl
    · rw [filterMap_range_none fun j hj => h j (by omega) (by omega), List.filterMap_cons_some hx]
      rfl

theorem filterMap_range_two {α : Type} {f : Nat → Option α} {n i j : Nat} {x y : α} (hij : i < j) (hj : j < n) (hx : f i = some x)
    (hy : f j = some y) (h : ∀ m < n, m ≠ i → m ≠ j → f m = none) : (List.range n).filterMap f = [x, y] := by
  induction n with
  | zero => exact absurd hj (Nat.not_lt_zero j)
  | succ n ih =>
    rw [List.range_succ, List.filterMap_append]
    rcases Nat.lt_succ_iff_lt_or_eq.1 hj with hlt | rfl
    · rw [ih hlt fun m hm => h m (by omega), List.filterMap_cons_none (h n (by omega) (by omega) (by omega))]
      rfl
    · rw [filterMap_range_one hij hx fun m hm hne => h m (by omega) hne (by omega), List.filterMap_cons_some hy]
      rfl

theorem foldl_fixed {α β : Type} {f : α → β → α} {a : α} {l : List β} (h : ∀ x ∈ l, f a x = a) : l.foldl f a = a := by
  induction l with
  | nil => rfl
  | cons x l ih => rw [List.foldl_cons, h x List.mem_cons_self, ih fun y hy => h y (List.mem_cons_of_mem _ hy)]

/-! ## Words that a bank serves (R60, R61) -/

theorem mem_firstSeen {x : Nat} {xs : List Nat} : x ∈ firstSeen xs ↔ x ∈ xs := by
  induction xs with
  | nil => exact Iff.rfl
  | cons y ys ih =>
    simp only [firstSeen, List.mem_cons, List.mem_filter, ih, decide_eq_true_eq]
    by_cases h : x = y <;> simp [h]

theorem firstSeen_length_le (xs : List Nat) : (firstSeen xs).length ≤ xs.length := by
  induction xs with
  | nil => exact Nat.le_refl 0
  | cons y ys ih => exact Nat.succ_le_succ ((List.length_filter_le _ _).trans ih)

/-- A near-file word is served where no more words are named than a bank serves. -/
theorem mem_banked {n x : Nat} {xs : List Nat} (hx : x ∈ xs) (h256 : x < 256) (hn : (firstSeen (xs.filter (· < 256))).length ≤ n) : x ∈ banked n xs := by
  have hmem : x ∈ firstSeen (xs.filter (· < 256)) := mem_firstSeen.2 (List.mem_filter.2 ⟨hx, decide_eq_true h256⟩)
  refine List.mem_flatMap.2 ⟨x % 8, List.mem_range.2 (Nat.mod_lt x (by omega)), ?_⟩
  rw [List.take_of_length_le ((List.length_filter_le _ _).trans hn)]
  exact List.mem_filter.2 ⟨hmem, beq_self_eq_true _⟩

theorem mem_banked_length {n x : Nat} {xs : List Nat} (hx : x ∈ xs) (h256 : x < 256) (hn : xs.length ≤ n) : x ∈ banked n xs :=
  mem_banked hx h256 ((firstSeen_length_le _).trans ((List.length_filter_le _ _).trans hn))

/-- One word that two moves name is one word of its bank. -/
theorem mem_banked_pair {d : Nat} (h256 : d < 256) : d ∈ banked 1 [d, d] :=
  mem_banked List.mem_cons_self h256 (by simp [firstSeen, h256])

/-! ## The moves of a step word (R46-R50) -/

/-- Every slot of a step word but those listed is empty. -/
def Quiet (sw : StepWord) (js : List Nat) : Prop := ∀ j, j < 24 → j ∉ js → fldN (swSlot sw j) 21 3 = 0 ∧ (swSlot sw j).testBit 20 = true

/-- The fields of a move slot (R64). -/
def SlotIs (sw : StepWord) (j src dst gsel : Nat) (inv : Bool) : Prop :=
  j < 24 ∧ fldN (swSlot sw j) 10 10 = src ∧ fldN (swSlot sw j) 0 10 = dst ∧ fldN (swSlot sw j) 21 3 = gsel ∧ (swSlot sw j).testBit 20 = inv

/-- The move of one slot, its data unread. -/
def slotMove (T : Tile) (sw : StepWord) (i : Nat) : Option Move :=
  if fldN (swSlot sw i) 21 3 = 0 ∧ (swSlot sw i).testBit 20 then none
  else some { slot := i, src := fldN (swSlot sw i) 10 10, dst := fldN (swSlot sw i) 0 10,
              out := guardOut (if fldN (swSlot sw i) 21 3 = 0 then 1 else look 2 T.gd (fldN (swSlot sw i) 21 3)) ((swSlot sw i).testBit 20), data := 0 }

theorem movesOf_eq (T : Tile) (sw : StepWord) : movesOf T sw = (List.range 24).filterMap (slotMove T sw) := rfl

theorem slotMove_quiet {sw : StepWord} {js : List Nat} (T : Tile) (h : Quiet sw js) {j : Nat} (hj : j < 24) (hn : j ∉ js) : slotMove T sw j = none :=
  if_pos (h j hj hn)

/-- The value of the guard that a slot selects (R50). -/
def guardOf (T : Tile) (gsel : Nat) : Pos := if gsel = 0 then 1 else look 2 T.gd gsel

theorem slotMove_of_slot {sw : StepWord} {i a d gsel : Nat} {inv : Bool} (T : Tile) (h : SlotIs sw i a d gsel inv) (hg : ¬(gsel = 0 ∧ inv = true)) :
    slotMove T sw i = some { slot := i, src := a, dst := d, out := guardOut (guardOf T gsel) inv, data := 0 } := by
  obtain ⟨-, rfl, rfl, rfl, rfl⟩ := h
  exact if_neg hg

/-- A slot without a guard executes (R50). -/
theorem guardOut_always (T : Tile) : guardOut (guardOf T 0) false = .execute := by
  rw [guardOf, if_pos rfl]
  decide

theorem slotMove_always {sw : StepWord} {i a d : Nat} (T : Tile) (h : SlotIs sw i a d 0 false) :
    slotMove T sw i = some { slot := i, src := a, dst := d, out := .execute, data := 0 } := by
  rw [slotMove_of_slot T h (by simp), guardOut_always]

section moves

variable {T : Tile} {sw : StepWord} {cycle step i j a b d e : Nat}

/-- The move of a step word with one slot in use (R46, R50). -/
theorem readPhase_one {gsel : Nat} {inv : Bool} (h : SlotIs sw i a d gsel inv) (hq : Quiet sw [i]) (hg : ¬(gsel = 0 ∧ inv = true)) :
    readPhase T cycle step sw =
      [{ slot := i, src := a, dst := d, out := guardOut (guardOf T gsel) inv, data := srcVal T cycle step sw (banked 2 [a]) a }] := by
  have hms : movesOf T sw = [{ slot := i, src := a, dst := d, out := guardOut (guardOf T gsel) inv, data := 0 }] := by
    rw [movesOf_eq]
    exact filterMap_range_one h.1 (slotMove_of_slot T h hg) fun m hm hne => slotMove_quiet T hq hm (by simpa using hne)
  unfold readPhase
  rw [hms]
  rfl

/-- The moves of a step word with two executing slots. -/
theorem readPhase_two (hij : i < j) (hi : SlotIs sw i a d 0 false) (hj : SlotIs sw j b e 0 false) (hq : Quiet sw [i, j]) :
    readPhase T cycle step sw =
      [{ slot := i, src := a, dst := d, out := .execute, data := srcVal T cycle step sw (banked 2 [a, b]) a },
       { slot := j, src := b, dst := e, out := .execute, data := srcVal T cycle step sw (banked 2 [a, b]) b }] := by
  have hms : movesOf T sw = [{ slot := i, src := a, dst := d, out := .execute, data := 0 }, { slot := j, src := b, dst := e, out := .execute, data := 0 }] := by
    rw [movesOf_eq]
    exact filterMap_range_two hij hj.1 (slotMove_always T hi) (slotMove_always T hj)
      fun m hm hne hne' => slotMove_quiet T hq hm (by simp [hne, hne'])
  unfold readPhase
  rw [hms]
  rfl

/-- A near-file source reads its word (R46, R61). -/
theorem srcVal_near {served : List Nat} (h256 : a < 256) (hs : a ∈ served) : srcVal T cycle step sw served a = look laneX T.nf a := by
  unfold srcVal
  rw [if_pos h256, if_pos hs]

theorem readPhase_near (h256 : a < 256) (h : SlotIs sw i a d 0 false) (hq : Quiet sw [i]) :
    readPhase T cycle step sw = [{ slot := i, src := a, dst := d, out := .execute, data := look laneX T.nf a }] := by
  rw [readPhase_one h hq (by simp), srcVal_near h256 (mem_banked_length List.mem_cons_self h256 (by simp)), guardOut_always]

theorem readPhase_near_two (hij : i < j) (ha : a < 256) (hb : b < 256) (hi : SlotIs sw i a d 0 false) (hj : SlotIs sw j b e 0 false)
    (hq : Quiet sw [i, j]) :
    readPhase T cycle step sw =
      [{ slot := i, src := a, dst := d, out := .execute, data := look laneX T.nf a },
       { slot := j, src := b, dst := e, out := .execute, data := look laneX T.nf b }] := by
  rw [readPhase_two hij hi hj hq, srcVal_near ha (mem_banked_length List.mem_cons_self ha (by simp)),
    srcVal_near hb (mem_banked_length (by simp) hb (by simp))]

/-- The pop ports (R76). -/
theorem popQueue_cases {n : Nat} (h : popQueue a = some n) :
    (a = 0x1C5 ∧ n = 1) ∨ (a = 0x1D2 ∧ n = 2) ∨ (a = 0x1D3 ∧ n = 3) ∨ (a = 0x1D4 ∧ n = 4) ∨ (a = 0x1D5 ∧ n = 5) := by
  unfold popQueue at h
  split at h
  · simp at h
    omega
  · split at h
    · simp at h
      omega
    · exact absurd h (by simp)

/-- A pop port reads its queue's head (R76, R118). -/
theorem srcVal_pop {n : Nat} (h : popQueue a = some n) (served : List Nat) : srcVal T cycle step sw served a = (popList T n).headD laneX := by
  rcases popQueue_cases h with ⟨rfl, rfl⟩ | ⟨rfl, rfl⟩ | ⟨rfl, rfl⟩ | ⟨rfl, rfl⟩ | ⟨rfl, rfl⟩ <;> rfl

end moves

/-! ## Flags (R71) -/

/-- Setting a flag where `b` holds adds it to the word. -/
theorem bit_setStatIf (b : Bool) {i : Nat} (hi : i < 32) (T : Tile) (j : Nat) : bit (setStatIf b i T).stat j = (bit T.stat j || (b && decide (j = i))) := by
  cases b with
  | false => simp [setStatIf]
  | true =>
    by_cases h : j = i
    · subst h
      simp [setStatIf, setStat, bit_setBit_same _ _ hi]
    · simp [setStatIf, setStat, bit_setBit_other _ _ _ _ h, h]

/-- Two tiles that differ in TILE_STAT at most. -/
def StatOnly (T U : Tile) : Prop := U = { T with stat := U.stat }

theorem StatOnly.refl (T : Tile) : StatOnly T T := rfl

theorem StatOnly.setStatIf {T U : Tile} (h : StatOnly T U) (b : Bool) (i : Nat) : StatOnly T (setStatIf b i U) := by
  cases b with
  | false => exact h
  | true =>
    unfold StatOnly
    rw [h]
    rfl

/-- The flags of a step change TILE_STAT only. -/
theorem flagPhase_frame (checked : Bool) (T0 : Tile) (ms : List Move) (T : Tile) : StatOnly T (flagPhase checked T0 ms T) :=
  StatOnly.setStatIf (StatOnly.setStatIf (StatOnly.setStatIf (StatOnly.setStatIf (StatOnly.setStatIf (.refl T) _ _) _ _) _ _) _ _) _ _

/-- The conflict, guard and queue flags after a step's port use (R71). -/
theorem flagPhase_bits (checked : Bool) (T0 : Tile) (ms : List Move) (T : Tile) :
    bit (flagPhase checked T0 ms T).stat 2 = (bit T.stat 2 || !(conflictSlots ms).isEmpty) ∧
    bit (flagPhase checked T0 ms T).stat 3 = (bit T.stat 3 || ms.any fun m => m.out == .unknown) ∧
    bit (flagPhase checked T0 ms T).stat 16 = bit T.stat 16 := by
  unfold flagPhase
  refine ⟨?_, ?_, ?_⟩ <;> simp [bit_setStatIf]

/-- Recording a fault changes TILE_FAULT, and TQ_FLAGS.FQ beside the queues' own flags (R71, R119). -/
theorem recordFaults_frame (fs : List SchedFault) (T : Tile) :
    ∃ fault tqFlags, recordFaults fs T = { T with fault := fault, tqFlags := tqFlags } ∧ ∀ n < 16, bit tqFlags n = (bit T.tqFlags n || bit tqFlags n) := by
  unfold recordFaults
  split
  · exact ⟨T.fault, T.tqFlags, rfl, fun n _ => (Bool.or_self _).symm⟩
  · dsimp only
    split
    · exact ⟨T.fault, T.tqFlags, rfl, fun n _ => (Bool.or_self _).symm⟩
    · split
      · have hmask : ∀ n < 16, (0xFFF8FFFF#32).getLsbD n = true := by decide
        refine ⟨_, _, rfl, fun n hn => ?_⟩
        simp only [bit, BitVec.getLsbD_or, BitVec.getLsbD_and, hmask n hn, Bool.and_true, ← Bool.or_assoc, Bool.or_self]
      · exact ⟨_, _, rfl, fun n _ => (Bool.or_self _).symm⟩

end Sys2Proof.Machine
end

section
/-! SUPPORT. The phases of a tile's step (03 R52-R63, 04 R73-R83): the storage that the moves write, the pops, the triggers and the
results that arrive. -/

namespace Sys2Proof.Machine

variable {T : Tile} {ms : List Move} {d : Nat}

/-! ## The step in phases -/

/-- The recording of schedule faults, in CHECKED mode only (R71). -/
def recorded (checked : Bool) (fs : List SchedFault) (T : Tile) : Tile := if checked then recordFaults fs T else T

theorem recorded_none (checked : Bool) (T : Tile) : recorded checked [] T = T := by
  cases checked <;> rfl

theorem recorded_frame (checked : Bool) (fs : List SchedFault) (T : Tile) :
    ∃ fault tqFlags, recorded checked fs T = { T with fault := fault, tqFlags := tqFlags } ∧ ∀ n < 16, bit T.tqFlags n = true → bit tqFlags n = true := by
  cases checked with
  | false => exact ⟨T.fault, T.tqFlags, rfl, fun _ _ => id⟩
  | true =>
    obtain ⟨fault, tqFlags, h, hbits⟩ := recordFaults_frame fs T
    exact ⟨fault, tqFlags, h, fun n hn hb => by rw [hbits n hn, hb, Bool.true_or]⟩

/-- A tile as its step begins: no entry of a queue is the step's own yet (06 R114). -/
def stepStart (T : Tile) : Tile := { T with fresh0 := false, fresh7 := false }

/-- The units start: their effects, and the results that set out (R73, R83). -/
def launch (T0 : Tile) (sw : StepWord) (step stamp : Nat) (ms : List Move) (T : Tile) : Tile :=
  let U := (triggersOf ms).foldl (fun T (u, _, port, d) => unitEffect T.ports stamp u port d T) T
  { U with inflight := U.inflight ++ launched T0 U.ports sw step (triggersOf ms) }

/-- One step of one tile, by its moves (R46). -/
theorem tileStep_eq {cycle step : Nat} {sw : StepWord} (h : readPhase T cycle step sw = ms) (len stamp : Nat) (checked : Bool) :
    tileStep cycle step len stamp checked sw T =
      recorded checked (stepFaults T ms step) (arrive step len (launch T sw step stamp ms
        (flagPhase checked T ms (storagePhase ms (popPhase ms (stepStart T)))))) := by
  subst h
  rfl

/-! ## Storage (R52, R56, R61) -/

theorem delivered_none (old : Word) (h : ∀ m ∈ ms, m.dst ≠ d) : delivered old ms d = none := by
  have hnone : ∀ o : GuardOut, ms.filter (fun m => m.dst == d && m.out == o) = [] := fun o => List.filter_eq_nil_iff.2 fun m hm => by
    rw [beq_eq_false_iff_ne.2 (h m hm), Bool.false_and]
    exact Bool.false_ne_true
  unfold delivered
  rw [hnone, hnone]
  rfl

/-- One write: the datum, the old word merged with it, or nothing, as its guard says (R50, R52). -/
theorem delivered_one (old : Word) (m : Move) : delivered old [m] m.dst =
    match m.out with
    | .execute => some m.data
    | .unknown => some (merge old m.data)
    | .skip => none := by
  cases m with
  | mk slot src dst out data => cases out <;> simp [delivered]

/-- Two executing writes conflict (R52). -/
theorem delivered_two (old : Word) {m n : Move} (hm : m.out = .execute) (hn : n.out = .execute) (hd : n.dst = m.dst) :
    delivered old [m, n] m.dst = some laneX := by
  simp [delivered, hm, hn, hd]

theorem mem_dsts {x : Nat} (h : x ∈ firstSeen (ms.map (·.dst))) : ∃ m ∈ ms, m.dst = x := List.mem_map.1 (mem_firstSeen.1 h)

theorem storagePhase_nf_of_ports (h : ∀ m ∈ ms, 256 ≤ m.dst) : (storagePhase ms T).nf = T.nf :=
  foldl_fixed fun x hx => by
    obtain ⟨m, hm, rfl⟩ := mem_dsts hx
    exact if_neg fun hc => absurd hc.1 (Nat.not_lt.2 (h m hm))

theorem storagePhase_ports_of_others (h : ∀ m ∈ ms, isOperandPort m.dst = false) : (storagePhase ms T).ports = T.ports :=
  foldl_fixed fun x hx => by
    obtain ⟨m, hm, rfl⟩ := mem_dsts hx
    exact if_neg fun hc => Bool.false_ne_true ((h m hm).symm.trans hc)

theorem storagePhase_gd_of_others (h : ∀ m ∈ ms, m.dst ≠ 0x1FC) : (storagePhase ms T).gd = T.gd := by
  unfold storagePhase
  dsimp only
  rw [delivered_none _ h]

/-- The word that all moves of a step write, in the near file (R52, R61). -/
theorem storagePhase_nf_of_word (hds : firstSeen (ms.map (·.dst)) = [d]) (h256 : d < 256) (hwr : d ∈ banked 1 (ms.map (·.dst))) :
    (storagePhase ms T).nf = (delivered (look laneX T.nf d) ms d).elim T.nf (put laneX T.nf d) := by
  unfold storagePhase
  dsimp only
  rw [hds, List.foldl_cons, List.foldl_nil, if_pos ⟨h256, hwr⟩]
  cases delivered (look laneX T.nf d) ms d <;> rfl

/-- One operand that a step's moves write (R52, R55). -/
theorem storagePhase_ports_of_operand {p : Nat} {v : Word} (hds : firstSeen (ms.map (·.dst)) = [p, d] ∨ firstSeen (ms.map (·.dst)) = [d, p])
    (hp : isOperandPort p = true) (hd : isOperandPort d = false) (hv : delivered (look laneX T.ports p) ms p = some v) :
    (storagePhase ms T).ports = put laneX T.ports p v := by
  unfold storagePhase
  dsimp only
  rcases hds with hds | hds <;> simp only [hds, List.foldl_cons, List.foldl_nil, hp, hd, hv, Bool.false_eq_true, if_true, if_false]

/-- Storage, flags and arrival change the near file, the ports, the guards, the results on their way and TILE_STAT. -/
theorem flagged_frame (checked : Bool) (step len : Nat) (ms : List Move) (T X : Tile) :
    ∃ stat ports arrived inflight, arrive step len (flagPhase checked T ms (storagePhase ms X)) =
      { X with nf := (storagePhase ms X).nf, gd := (storagePhase ms X).gd, ports := ports, arrived := arrived, inflight := inflight, stat := stat } ∧
      bit stat 2 = (bit X.stat 2 || !(conflictSlots ms).isEmpty) ∧ bit stat 3 = (bit X.stat 3 || ms.any fun m => m.out == .unknown) ∧
      bit stat 16 = bit X.stat 16 := by
  have hframe : flagPhase checked T ms (storagePhase ms X) = { storagePhase ms X with stat := (flagPhase checked T ms (storagePhase ms X)).stat } :=
    flagPhase_frame checked T ms (storagePhase ms X)
  have hbits := flagPhase_bits checked T ms (storagePhase ms X)
  generalize (flagPhase checked T ms (storagePhase ms X)).stat = stat at hframe hbits
  rw [hframe]
  exact ⟨stat, _, _, _, rfl, hbits⟩

/-! ## Pops (R76, R118) -/

/-- The effect of a pop of queue `n`. -/
def popOne (n : Nat) (T : Tile) : Tile :=
  if (popList T n).isEmpty then flagUnder T n
  else match n with
    | 1 => { T with q1 := T.q1.tail, credits := T.credits + 1 }
    | 2 => { T with q2 := T.q2.tail }
    | 3 => { T with q3 := T.q3.tail }
    | 4 => { T with q4 := T.q4.tail }
    | _ => { T with q5 := T.q5.tail }

theorem popPhase_eq (ms : List Move) (T : Tile) : popPhase ms T = [(0x1C5, 1), (0x1D2, 2), (0x1D3, 3), (0x1D4, 4), (0x1D5, 5)].foldl
    (fun T (p, j) => if ms.any (fun m => m.src == p && m.out != .skip) then popOne j T else T) T := rfl

theorem popPhase_none (h : ∀ m ∈ ms, popQueue m.src = none) : popPhase ms T = T := by
  rw [popPhase_eq]
  refine foldl_fixed fun x hx => if_neg fun hany => ?_
  have hpop : ∀ x ∈ [(0x1C5, 1), (0x1D2, 2), (0x1D3, 3), (0x1D4, 4), (0x1D5, 5)], popQueue x.1 = some x.2 := by decide
  obtain ⟨m, hm, hsrc⟩ := List.any_eq_true.1 hany
  have heq : m.src = x.1 := eq_of_beq (Bool.and_eq_true_iff.1 hsrc).1
  exact absurd ((h m hm).symm.trans ((congrArg popQueue heq).trans (hpop x hx))) (by simp)

theorem popPhase_one {m : Move} {n : Nat} (h : popQueue m.src = some n) (hm : m.out = .execute) (T : Tile) : popPhase [m] T = popOne n T := by
  cases m with
  | mk slot src dst out data =>
    subst hm
    rw [popPhase_eq]
    rcases popQueue_cases h with ⟨rfl, rfl⟩ | ⟨rfl, rfl⟩ | ⟨rfl, rfl⟩ | ⟨rfl, rfl⟩ | ⟨rfl, rfl⟩ <;> rfl

theorem popOne_nf (n : Nat) (T : Tile) : (popOne n T).nf = T.nf := by
  unfold popOne
  split
  · rfl
  · split <;> rfl

/-- A pop takes the queue's head. -/
theorem popList_popOne {n : Nat} (hn : 1 ≤ n ∧ n ≤ 5) (T : Tile) : popList (popOne n T) n = (popList T n).tail := by
  by_cases he : popList T n = []
  · have hflag : popOne n T = flagUnder T n := if_pos (List.isEmpty_iff.2 he)
    have hkeeps : popList (flagUnder T n) n = popList T n := rfl
    rw [hflag, hkeeps, he]
    rfl
  · obtain ⟨h1, h5⟩ := hn
    unfold popOne
    rw [if_neg (by simpa using he)]
    interval_cases n <;> rfl

/-- A pop of an empty queue is an underrun (R118). -/
theorem popOne_underrun {n : Nat} (hn : n ≤ 5) (he : popList T n = []) : bit (popOne n T).stat 16 = true ∧ bit (popOne n T).tqFlags n = true := by
  have hflag : popOne n T = flagUnder T n := if_pos (List.isEmpty_iff.2 he)
  rw [hflag]
  exact ⟨bit_setBit_same _ _ (by omega), bit_setBit_same _ _ (by omega)⟩

/-! ## Triggers (R53, R73) -/

theorem triggerOf_none {u : Nat} (h : ∀ m ∈ ms, unitOf m.dst ≠ some u) : triggerOf ms u = none := by
  have hnone : ∀ f : Move → Bool, ms.filter (fun m => unitOf m.dst == some u && f m) = [] := fun f => List.filter_eq_nil_iff.2 fun m hm => by
    rw [beq_eq_false_iff_ne.2 (h m hm), Bool.false_and]
    exact Bool.false_ne_true
  unfold triggerOf
  rw [hnone, hnone]

theorem triggersOf_none (h : ∀ m ∈ ms, unitOf m.dst = none) : triggersOf ms = [] :=
  filterMap_range_none fun u _ => by
    rw [triggerOf_none fun m hm => by rw [h m hm]; simp]
    rfl

theorem triggersOf_one {u : Nat} {t : Nat × Nat × Word} (hu : u < 22) (ht : triggerOf ms u = some t) (h : ∀ m ∈ ms, ∀ w, unitOf m.dst = some w → w = u) :
    triggersOf ms = [(u, t)] :=
  filterMap_range_one hu (by rw [ht]; rfl) fun w _ hne => by
    rw [triggerOf_none fun m hm hw => hne (h m hm w hw)]
    rfl

/-- An executing move to a trigger port, alone on its unit, starts it with its datum (R53). -/
theorem triggerOf_one {m : Move} {u : Nat} (h : unitOf m.dst = some u) (hm : m.out = .execute) :
    triggerOf [m] u = some (m.slot, m.dst, m.data) := by
  simp [triggerOf, h, hm]

theorem launch_none (T0 : Tile) (sw : StepWord) (step stamp : Nat) (h : triggersOf ms = []) : launch T0 sw step stamp ms T = T := by
  unfold launch
  rw [h]
  exact congrArg (fun l => { T with inflight := l }) (List.append_nil _)

theorem launch_one (T0 : Tile) (sw : StepWord) (step stamp : Nat) {u i port : Nat} {x : Word} (h : triggersOf ms = [(u, i, port, x)]) :
    launch T0 sw step stamp ms T = { unitEffect T.ports stamp u port x T with
      inflight := (unitEffect T.ports stamp u port x T).inflight ++ (unitResults T0 (unitEffect T.ports stamp u port x T).ports sw u port x).map fun r =>
        { port := r.1, value := r.2.1, due := step + r.2.2, trig := step, slot := i } } := by
  unfold launch
  rw [h]
  exact congrArg (fun l => { unitEffect T.ports stamp u port x T with inflight := (unitEffect T.ports stamp u port x T).inflight ++ l }) (List.append_nil _)

/-! ## Arrival (R58, R63, R73) -/

theorem putAll_wf (rs : List InFlight) {m : Sparse Word} (h : Sparse.wf (fun _ => laneX) m = true) :
    Sparse.wf (fun _ => laneX) (rs.foldl (fun ps r => put laneX ps r.port r.value) m) = true := by
  induction rs generalizing m with
  | nil => exact h
  | cons r rs ih => exact ih (put_wf _ _ _ _ h)

/-- The result that set out last arrives in its port at the end of the step before it is due. -/
theorem arrive_shows {step len : Nat} {r : InFlight} {rs : List InFlight} (hrs : T.inflight = rs ++ [r]) (hdue : r.due = step + 1) (hlen : step + 1 < len)
    (hwf : Sparse.wf (fun _ => laneX) T.ports = true) :
    look laneX (arrive step len T).ports r.port = r.value ∧ r.port ∈ (arrive step len T).arrived := by
  have hnow : T.inflight.filter (fun r => r.due == step + 1 && decide (r.due < len)) =
      rs.filter (fun r => r.due == step + 1 && decide (r.due < len)) ++ [r] := by
    rw [hrs, List.filter_append, List.filter_cons_of_pos]
    · rfl
    · rw [hdue, beq_self_eq_true, Bool.true_and, decide_eq_true hlen]
  unfold arrive
  dsimp only
  rw [hnow, List.foldl_append, List.foldl_append]
  refine ⟨look_put_same _ _ _ _ (putAll_wf _ hwf), ?_⟩
  simp only [List.foldl_cons, List.foldl_nil]
  split
  · assumption
  · exact List.mem_append_right _ List.mem_cons_self

/-- A result that is due later stays on its way. -/
theorem arrive_keeps {step len : Nat} {r : InFlight} (hr : r ∈ T.inflight) (hdue : r.due ≠ step + 1) : r ∈ (arrive step len T).inflight :=
  List.mem_filter.2 ⟨hr, by rw [beq_eq_false_iff_ne.2 hdue]; rfl⟩

end Sys2Proof.Machine
end

section
/-! SUPPORT. What the moves of one step do (03 R50-R58, R71, 04 R73-R83): near-file moves and their conflicts, pops, and the triggers of
the units. -/

namespace Sys2Proof.Machine

variable {T : Tile} {sw : StepWord} {ms : List Move} {cycle step len stamp i j a b d : Nat} {checked : Bool}

/-! ## Roles of ports (R55) -/

theorem popQueue_near (h : a < 256) : popQueue a = none := by
  unfold popQueue
  rw [if_neg (by omega), if_neg (by omega)]

theorem unitOf_near (h : d < 256) : unitOf d = none := by
  unfold unitOf
  rw [if_neg (by omega), if_neg (by omega), if_neg (by omega), if_neg (by omega), if_neg (by omega), if_neg (by omega), if_neg (by omega),
    if_neg (by omega), if_neg (by omega), if_neg (by omega)]

theorem isResultPort_near (h : a < 256) : isResultPort a = false := by
  simp [isResultPort]
  omega

theorem isSrcPort_near (h : a < 256) : isSrcPort a = true := by simp [isSrcPort, h]

theorem isDstPort_near (h : d < 256) : isDstPort d = true := by simp [isDstPort, h]

/-- A trigger port is no storage destination. -/
theorem trigger_not_storage {u : Nat} (h : unitOf d = some u) : 256 ≤ d ∧ isOperandPort d = false ∧ d ≠ 0x1FC := by
  have h256 : 256 ≤ d := by
    by_contra hlt
    rw [unitOf_near (Nat.lt_of_not_le hlt)] at h
    exact absurd h (by simp)
  refine ⟨h256, ?_, ?_⟩
  · by_contra hop
    simp [isOperandPort] at hop
    unfold unitOf at h
    split_ifs at h <;> omega
  · rintro rfl
    have hnone : unitOf 0x1FC = none := rfl
    exact absurd (hnone.symm.trans h) (by simp)

/-! ## Near-file moves (R46-R52, R71) -/

/-- Moves from near-file words to near-file words pop nothing and start nothing. -/
theorem tileStep_near (hms : readPhase T cycle step sw = ms) (h : ∀ m ∈ ms, popQueue m.src = none ∧ unitOf m.dst = none) :
    tileStep cycle step len stamp checked sw T = recorded checked (stepFaults T ms step)
      (arrive step len (flagPhase checked T ms (storagePhase ms (stepStart T)))) := by
  rw [tileStep_eq hms, popPhase_none fun m hm => (h m hm).1, launch_none _ _ _ _ (triggersOf_none fun m hm => (h m hm).2)]

theorem queueFaults_near (h : ∀ m ∈ ms, popQueue m.src = none ∧ unitOf m.dst = none) : queueFaults T ms step = [] := by
  have hpop : ∀ x ∈ [(0x1C5, 1), (0x1D2, 2), (0x1D3, 3), (0x1D4, 4), (0x1D5, 5)], popQueue x.1 = some x.2 := by decide
  unfold queueFaults
  refine List.append_eq_nil_iff.2 ⟨List.filterMap_eq_nil_iff.2 fun x hx => ?_, List.filterMap_eq_nil_iff.2 fun x _ => ?_⟩
  · have hnone : ms.filter (fun m => m.src == x.1) = [] := List.filter_eq_nil_iff.2 fun m hm heq => by
      have hx' := hpop x hx
      rw [← eq_of_beq heq, (h m hm).1] at hx'
      exact absurd hx' (by simp)
    dsimp only
    rw [hnone]
    rfl
  · dsimp only
    rw [triggerOf_none fun m hm => by rw [(h m hm).2]; simp]
    split <;> rfl

/-- Near-file words that their banks serve show a conflict at most. -/
theorem stepFaults_near (h : ∀ m ∈ ms, (m.src < 256 ∧ m.src ∈ banked 2 (ms.map (·.src))) ∧ m.dst < 256 ∧ m.dst ∈ banked 1 (ms.map (·.dst))) :
    stepFaults T ms step = (conflictSlots ms).map fun i => { slot := i, kind := 2, step := step, queue := 7 } := by
  have hrsvd : rsvdSlots ms = [] := List.map_eq_nil_iff.2 <| List.filter_eq_nil_iff.2 fun m hm => by
    obtain ⟨⟨hs, -⟩, hd, -⟩ := h m hm
    rw [isSrcPort_near hs, isDstPort_near hd]
    decide
  have hbank : bankSlots ms = [] := List.map_eq_nil_iff.2 <| List.filter_eq_nil_iff.2 fun m hm => by
    obtain ⟨⟨-, hs⟩, -, hd⟩ := h m hm
    simp [hs, hd]
  have hstale : staleSlots T ms = [] := List.map_eq_nil_iff.2 <| List.filter_eq_nil_iff.2 fun m hm => by
    rw [isResultPort_near (h m hm).1.1]
    exact Bool.false_ne_true
  unfold stepFaults
  dsimp only
  rw [hrsvd, hbank, hstale, queueFaults_near fun m hm => ⟨popQueue_near (h m hm).1.1, unitOf_near (h m hm).2.1⟩]
  simp

theorem conflictSlots_one (m : Move) : conflictSlots [m] = [] := by
  cases m with
  | mk slot src dst out data => cases out <;> simp [conflictSlots]

/-- What a move's guard makes of its destination word (R50, R52). -/
def movedWord (m : Move) (nf : Sparse Word) : Sparse Word :=
  match m.out with
  | .execute => put laneX nf m.dst m.data
  | .unknown => put laneX nf m.dst (merge (look laneX nf m.dst) m.data)
  | .skip => nf

theorem storagePhase_nf_one (m : Move) (hd : m.dst < 256) (X : Tile) : (storagePhase [m] X).nf = movedWord m X.nf := by
  rw [storagePhase_nf_of_word (d := m.dst) rfl hd (mem_banked_length List.mem_cons_self hd (by simp)), delivered_one]
  unfold movedWord
  cases m.out <;> rfl

/-- One move from a near-file word to a near-file word changes that word, as its guard says, and no other store, guard or queue. -/
theorem tileStep_near_one {m : Move} (hms : readPhase T cycle step sw = [m]) (ha : m.src < 256) (hd : m.dst < 256) :
    let T' := tileStep cycle step len stamp checked sw T
    T'.nf = movedWord m T.nf ∧ bit T'.stat 3 = (bit T.stat 3 || m.out == .unknown) ∧ T'.fs = T.fs ∧ T'.gd = T.gd ∧ T'.opstat = T.opstat ∧
    T'.tqFlags = T.tqFlags ∧ T'.fault = T.fault ∧ T'.q0 = T.q0 ∧ T'.q1 = T.q1 ∧ T'.q2 = T.q2 ∧ T'.q3 = T.q3 ∧ T'.q4 = T.q4 ∧ T'.q5 = T.q5 ∧
    T'.q6 = T.q6 ∧ T'.q7 = T.q7 := by
  have hserved : m.src ∈ banked 2 [m.src] := mem_banked_length List.mem_cons_self ha (by simp)
  have hwr : m.dst ∈ banked 1 [m.dst] := mem_banked_length List.mem_cons_self hd (by simp)
  have hfaults : stepFaults T [m] step = [] := by
    rw [stepFaults_near (List.forall_mem_singleton.2 ⟨⟨ha, hserved⟩, hd, hwr⟩), conflictSlots_one]
    rfl
  obtain ⟨stat, ports, arrived, inflight, hframe, -, hguard, -⟩ :=
    flagged_frame checked step len [m] T (stepStart T)
  have hgd : (storagePhase [m] (stepStart T)).gd = T.gd :=
    storagePhase_gd_of_others (List.forall_mem_singleton.2 (by omega))
  rw [tileStep_near hms (List.forall_mem_singleton.2 ⟨popQueue_near ha, unitOf_near hd⟩), hfaults, recorded_none, hframe, storagePhase_nf_one m hd]
  refine ⟨rfl, ?_, rfl, hgd, rfl, rfl, rfl, rfl, rfl, rfl, rfl, rfl, rfl, rfl, rfl⟩
  rw [List.any_cons, List.any_nil, Bool.or_false] at hguard
  exact hguard

/-- The guard's word: copied, left or merged as the guard executes, skips or is unknown (R50). -/
theorem movedWord_guard (i a d : Nat) (g : Pos) (inv : Bool) (x : Word) (nf : Sparse Word) :
    movedWord { slot := i, src := a, dst := d, out := guardOut g inv, data := x } nf =
      (if unk g = true then put laneX nf d (merge (look laneX nf d) x) else if g.getLsbD 0 = inv then nf else put laneX nf d x) := by
  unfold movedWord guardOut
  cases unk g <;> cases g.getLsbD 0 <;> cases inv <;> rfl

theorem guardOut_unknown (g : Pos) (inv : Bool) : (guardOut g inv == .unknown) = unk g := by
  unfold guardOut
  cases unk g <;> cases g.getLsbD 0 <;> cases inv <;> rfl

/-! ## Conflicts (R52, R71) -/

theorem conflictSlots_two {m n : Move} (hslot : m.slot < n.slot) (hm : m.out = .execute) (hn : n.out = .execute) (hdst : n.dst = m.dst) (hd : m.dst < 256) :
    conflictSlots [m, n] = [m.slot] := by
  have hwr : m.dst ∈ banked 1 [m.dst, m.dst] := mem_banked_pair hd
  simp [conflictSlots, hm, hn, hdst, hslot, hwr, Nat.lt_asymm hslot]

/-- A schedule fault that is no queue fault changes TILE_FAULT only, while VALID is clear (R71). -/
theorem recorded_one {f : SchedFault} (hk : f.kind ≠ 5) (checked : Bool) (T : Tile) :
    ∃ fault, recorded checked [f] T = { T with fault := fault } ∧ (checked = true → bit T.fault 31 = false → fault = tileFaultWord f) := by
  have hrec : recordFaults [f] T = if bit T.fault 31 then T else { T with fault := tileFaultWord f } := by
    unfold recordFaults
    simp only [leastFault, hk, if_false]
  cases checked with
  | false => exact ⟨T.fault, rfl, fun h => absurd h Bool.false_ne_true⟩
  | true =>
    cases hv : bit T.fault 31 with
    | false => exact ⟨tileFaultWord f, hrec.trans (if_neg (by rw [hv]; exact Bool.false_ne_true)), fun _ _ => rfl⟩
    | true => exact ⟨T.fault, hrec.trans (if_pos hv), fun _ h => absurd h (by decide)⟩

/-- Two executing moves into one near-file word leave lane(X) there, flag a conflict and, in CHECKED mode, record it with the lower slot
(R52, R71). -/
theorem tileStep_conflict {m n : Move} (hms : readPhase T cycle step sw = [m, n]) (hslot : m.slot < n.slot) (hm : m.out = .execute) (hn : n.out = .execute)
    (hdst : n.dst = m.dst) (hd : m.dst < 256) (ha : m.src < 256) (hb : n.src < 256) :
    let T' := tileStep cycle step len stamp checked sw T
    T'.nf = put laneX T.nf m.dst laneX ∧ bit T'.stat 2 = true ∧
    (checked = true → bit T.fault 31 = false → T'.fault = tileFaultWord { slot := m.slot, kind := 2, step := step, queue := 7 }) := by
  have hwr : m.dst ∈ banked 1 [m.dst, n.dst] := by rw [hdst]; exact mem_banked_pair hd
  have hfaults : stepFaults T [m, n] step = [{ slot := m.slot, kind := 2, step := step, queue := 7 }] := by
    rw [stepFaults_near, conflictSlots_two hslot hm hn hdst hd]
    · rfl
    · simp only [List.forall_mem_cons, List.map_cons, List.map_nil, List.not_mem_nil, IsEmpty.forall_iff, implies_true, and_true]
      refine ⟨⟨⟨ha, mem_banked_length (by simp) ha (by simp)⟩, hd, hwr⟩, ⟨hb, mem_banked_length (by simp) hb (by simp)⟩, by omega, ?_⟩
      rw [hdst] at hwr ⊢
      exact hwr
  have hnear : ∀ x ∈ [m, n], popQueue x.src = none ∧ unitOf x.dst = none := by
    simp only [List.forall_mem_cons, List.not_mem_nil, IsEmpty.forall_iff, implies_true, and_true]
    exact ⟨⟨popQueue_near ha, unitOf_near hd⟩, popQueue_near hb, by rw [hdst]; exact unitOf_near hd⟩
  have hnf : ∀ X : Tile, (storagePhase [m, n] X).nf = put laneX X.nf m.dst laneX := fun X => by
    rw [storagePhase_nf_of_word (ms := [m, n]) (d := m.dst) (by simp [firstSeen, hdst]) hd hwr, delivered_two _ hm hn hdst, Option.elim_some]
  obtain ⟨stat, ports, arrived, inflight, hframe, hconflict, -, -⟩ :=
    flagged_frame checked step len [m, n] T (stepStart T)
  rw [conflictSlots_two hslot hm hn hdst hd] at hconflict
  rw [tileStep_near hms hnear, hfaults, hframe, hnf]
  obtain ⟨fault, hrec, hfault⟩ := recorded_one (f := { slot := m.slot, kind := 2, step := step, queue := 7 }) (show (2 : Nat) ≠ 5 by decide) checked _
  rw [hrec]
  exact ⟨rfl, hconflict.trans (Bool.or_true _), hfault⟩

/-! ## Pops (R76, R118) -/

/-- One move from a pop port to a near-file word takes its queue's head and pops it; an empty queue gives lane(X) and the underrun
flags. -/
theorem tileStep_pop {m : Move} {n : Nat} (hms : readPhase T cycle step sw = [m]) (hm : m.out = .execute) (hpop : popQueue m.src = some n) (hd : m.dst < 256) :
    let T' := tileStep cycle step len stamp checked sw T
    T'.nf = put laneX T.nf m.dst m.data ∧ popList T' n = (popList T n).tail ∧
    (popList T n = [] → bit T'.stat 16 = true ∧ bit T'.tqFlags n = true) := by
  have hn : 1 ≤ n ∧ n ≤ 5 := by
    rcases popQueue_cases hpop with ⟨-, rfl⟩ | ⟨-, rfl⟩ | ⟨-, rfl⟩ | ⟨-, rfl⟩ | ⟨-, rfl⟩ <;> decide
  obtain ⟨stat, ports, arrived, inflight, hframe, -, -, hunder⟩ :=
    flagged_frame checked step len [m] T (popOne n (stepStart T))
  have hlaunch := triggersOf_none (List.forall_mem_singleton.2 (unitOf_near hd) : ∀ x ∈ [m], unitOf x.dst = none)
  have hlist := popList_popOne hn (stepStart T)
  rw [tileStep_eq hms, popPhase_one hpop hm, launch_none _ _ _ _ hlaunch, hframe, storagePhase_nf_one m hd, popOne_nf]
  obtain ⟨fault, tqFlags, hrec, hbits⟩ := recorded_frame checked (stepFaults T [m] step) _
  rw [hrec]
  refine ⟨?_, ?_, fun he => ?_⟩
  · unfold movedWord
    rw [hm]
    rfl
  · exact hlist
  · obtain ⟨hstat, hflag⟩ := popOne_underrun (T := stepStart T) hn.2 he
    exact ⟨hunder.trans hstat, hbits n (by omega) hflag⟩

end Sys2Proof.Machine
end

section
/-! SUPPORT. The triggers of the units (03 R53, R58, 04 R73-R83): the results that arrive in their ports, those that are due a step
later, and the far store. -/

namespace Sys2Proof.Machine

variable {T : Tile} {sw : StepWord} {m : Move} {cycle step len stamp u : Nat} {checked : Bool}

/-! ## One executing trigger -/

/-- A unit below the queues' changes the far store and TILE_OPSTAT at most. -/
theorem unitEffect_frame (hu : u ≤ 17) (ops : Sparse Word) (stamp port : Nat) (x : Word) (X : Tile) :
    ∃ fs opstat, unitEffect ops stamp u port x X = { X with fs := fs, opstat := opstat } := by
  unfold unitEffect
  dsimp only
  split
  · unfold setOpstatIf setOpstat
    split
    · exact ⟨_, _, rfl⟩
    · exact ⟨_, _, rfl⟩
  · split
    · unfold fsStore setOpstat
      dsimp only
      split
      · exact ⟨_, _, rfl⟩
      · exact ⟨_, _, rfl⟩
    · rw [if_neg (by omega), if_neg (by omega), if_neg (by omega)]
      exact ⟨_, _, rfl⟩

/-- The results of a trigger, as they set out for their ports. -/
def resultsOf (T : Tile) (ops : Sparse Word) (sw : StepWord) (step u : Nat) (m : Move) : List InFlight :=
  (unitResults T ops sw u m.dst m.data).map fun r => { port := r.1, value := r.2.1, due := step + r.2.2, trig := step, slot := m.slot }

/-- A step whose one executing move from the near file starts a unit (R46, R53). -/
theorem tileStep_trigger (hms : readPhase T cycle step sw = [m]) (hm : m.out = .execute) (ha : m.src < 256) (hu : unitOf m.dst = some u) (hu17 : u ≤ 17) :
    ∃ X fault tqFlags, tileStep cycle step len stamp checked sw T =
        { arrive step len { X with inflight := T.inflight ++ resultsOf T T.ports sw step u m } with fault := fault, tqFlags := tqFlags } ∧
      X.ports = T.ports ∧ ∃ stat, X = unitEffect T.ports stamp u m.dst m.data { stepStart T with stat := stat } := by
  obtain ⟨h256, hop, hgd⟩ := trigger_not_storage hu
  have hstore : storagePhase [m] (stepStart T) = stepStart T := by
    have hports := storagePhase_ports_of_others (T := stepStart T) (List.forall_mem_singleton.2 hop : ∀ x ∈ [m], isOperandPort x.dst = false)
    have hnf := storagePhase_nf_of_ports (T := stepStart T) (List.forall_mem_singleton.2 h256 : ∀ x ∈ [m], 256 ≤ x.dst)
    have hguards := storagePhase_gd_of_others (T := stepStart T) (List.forall_mem_singleton.2 hgd : ∀ x ∈ [m], x.dst ≠ 0x1FC)
    unfold storagePhase at hports hnf hguards ⊢
    dsimp only at hports hnf hguards ⊢
    rw [hports, hnf, hguards]
  have hframe : flagPhase checked T [m] (stepStart T) =
      { stepStart T with stat := (flagPhase checked T [m] (stepStart T)).stat } :=
    flagPhase_frame _ _ _ _
  have htriggers : triggersOf [m] = [(u, m.slot, m.dst, m.data)] :=
    triggersOf_one (by omega) (triggerOf_one hu hm) (List.forall_mem_singleton.2 fun w hw => Option.some.inj (hw.symm.trans hu))
  rw [tileStep_eq hms, popPhase_none (List.forall_mem_singleton.2 (popQueue_near ha)), hstore, hframe]
  generalize (flagPhase checked T [m] (stepStart T)).stat = stat
  have hports : ({ stepStart T with stat := stat } : Tile).ports = T.ports := rfl
  have hinflight : ({ stepStart T with stat := stat } : Tile).inflight = T.inflight := rfl
  generalize hY : ({ stepStart T with stat := stat } : Tile) = Y at hports hinflight
  rw [launch_one T sw step stamp htriggers, hports]
  obtain ⟨fs, opstat, heffect⟩ := unitEffect_frame hu17 T.ports stamp m.dst m.data Y
  obtain ⟨fault, tqFlags, hrec, -⟩ := recorded_frame checked (stepFaults T [m] step) _
  refine ⟨unitEffect T.ports stamp u m.dst m.data Y, fault, tqFlags, ?_, ?_, stat, by rw [hY]⟩
  · rw [hrec, heffect, hports, hinflight]
    rfl
  · rw [heffect, hports]

/-- A result of latency 1 stands in its port after the step, unless it is the cycle's last. -/
theorem tileStep_shows (hms : readPhase T cycle step sw = [m]) (hm : m.out = .execute) (ha : m.src < 256) (hu : unitOf m.dst = some u) (hu17 : u ≤ 17)
    (hwf : Sparse.wf (fun _ => laneX) T.ports = true) {p : Nat} {v : Word} (hr : unitResults T T.ports sw u m.dst m.data = [(p, v, 1)])
    (hlen : step + 1 < len) :
    look laneX (tileStep cycle step len stamp checked sw T).ports p = v ∧ p ∈ (tileStep cycle step len stamp checked sw T).arrived := by
  obtain ⟨X, fault, tqFlags, hT', hports, -⟩ := tileStep_trigger (len := len) (stamp := stamp) (checked := checked) hms hm ha hu hu17
  rw [hT']
  have hone : resultsOf T T.ports sw step u m = [{ port := p, value := v, due := step + 1, trig := step, slot := m.slot }] := by
    unfold resultsOf
    rw [hr]
    rfl
  rw [hone]
  exact arrive_shows (r := { port := p, value := v, due := step + 1, trig := step, slot := m.slot })
    (T := { X with inflight := T.inflight ++ [{ port := p, value := v, due := step + 1, trig := step, slot := m.slot }] }) rfl rfl hlen
    (by rw [← hports] at hwf; exact hwf)

/-- A result of latency 2 is due a step later. -/
theorem tileStep_comes (hms : readPhase T cycle step sw = [m]) (hm : m.out = .execute) (ha : m.src < 256) (hu : unitOf m.dst = some u) (hu17 : u ≤ 17)
    {p : Nat} {v : Word} (hr : (p, v, 2) ∈ unitResults T T.ports sw u m.dst m.data) :
    ({ port := p, value := v, due := step + 2, trig := step, slot := m.slot } : InFlight) ∈ (tileStep cycle step len stamp checked sw T).inflight := by
  obtain ⟨X, fault, tqFlags, hT', -, -⟩ := tileStep_trigger (len := len) (stamp := stamp) (checked := checked) hms hm ha hu hu17
  rw [hT']
  exact arrive_keeps (T := { X with inflight := T.inflight ++ resultsOf T T.ports sw step u m })
    (List.mem_append_right _ (List.mem_map.2 ⟨(p, v, 2), hr, rfl⟩)) (by simp)

/-- The far store and TILE_OPSTAT after a trigger are those of the unit's effect. -/
theorem tileStep_effect (hms : readPhase T cycle step sw = [m]) (hm : m.out = .execute) (ha : m.src < 256) (hu : unitOf m.dst = some u) (hu17 : u ≤ 17) :
    ∃ stat, (tileStep cycle step len stamp checked sw T).fs =
        (unitEffect T.ports stamp u m.dst m.data { stepStart T with stat := stat }).fs ∧
      (tileStep cycle step len stamp checked sw T).opstat =
        (unitEffect T.ports stamp u m.dst m.data { stepStart T with stat := stat }).opstat := by
  obtain ⟨X, fault, tqFlags, hT', -, stat, hX⟩ := tileStep_trigger (len := len) (stamp := stamp) (checked := checked) hms hm ha hu hu17
  have hfs := congrArg Tile.fs hX
  have hopstat := congrArg Tile.opstat hX
  rw [hT']
  exact ⟨stat, hfs, hopstat⟩

/-! ## The units' ports and results (R74, R77-R83) -/

theorem unitOf_gather : ∀ n < 6, unitOf (0x140 + 8 * n) = some (8 + n) := by decide

theorem unitOf_lut : ∀ n < 8, unitOf (0x103 + 8 * n) = some n ∧ unitOf (0x104 + 8 * n) = some n ∧ unitOf (0x105 + 8 * n) = some n := by decide

theorem unitOf_bitwise {d : Nat} (h1 : 0x171 ≤ d) (h2 : d ≤ 0x184) : unitOf d = some 14 := by
  unfold unitOf
  rw [if_neg (by omega), if_neg (by omega), if_pos ⟨h1, h2⟩]

theorem unitOf_arithmetic {d : Nat} (h1 : 0x192 ≤ d) (h2 : d ≤ 0x198) : unitOf d = some 15 := by
  unfold unitOf
  rw [if_neg (by omega), if_neg (by omega), if_neg (by omega), if_pos ⟨h1, h2⟩]

variable (T) (ops : Sparse Word) (sw) (x : Word)

theorem unitResults_gather {n : Nat} (hn : n < 6) (d : Nat) : unitResults T ops sw (8 + n) d x =
    [(0x141 + 8 * n, ofPos fun k => pos (look laneX T.nf (swSelect sw n k / 16)) (swSelect sw n k % 16), 1)] := by
  unfold unitResults
  dsimp only
  rw [if_neg (by omega), if_pos (by omega), Nat.add_sub_cancel_left]

/-- The LUT evaluation that a trigger port of unit `n` asks for (R77). -/
theorem unitResults_lut {n : Nat} (hn : n < 8) (d : Nat) (kind : LutKind)
    (hk : (if d = 0x100 + 8 * n + 3 then LutKind.exactX else if d = 0x100 + 8 * n + 4 then .pessimistic else .twoState) = kind) :
    unitResults T ops sw n d x =
      [(0x106 + 8 * n, lutEval kind (swTable sw n) (look laneX ops (0x100 + 8 * n)) (look laneX ops (0x101 + 8 * n)) (look laneX ops (0x102 + 8 * n)) x, 1)] := by
  unfold unitResults
  dsimp only
  rw [if_pos hn, hk, show 0x100 + 8 * n + 6 = 0x106 + 8 * n by omega, show 0x100 + 8 * n + 1 = 0x101 + 8 * n by omega,
    show 0x100 + 8 * n + 2 = 0x102 + 8 * n by omega]

theorem unitResults_bitwise (d : Nat) : unitResults T ops sw 14 d x = [(0x18F, bwEval d (look laneX ops 0x170) x, 1)] := rfl

theorem unitResults_arithmetic (d : Nat) : unitResults T ops sw 15 d x =
    [(0x199, (arEval d (look laneX ops 0x190) (look laneX ops 0x191) x).1, 2), (0x19A, (arEval d (look laneX ops 0x190) (look laneX ops 0x191) x).2, 2)] := rfl

theorem unitResults_load (d : Nat) : unitResults T ops sw 16 d x = [(0x1A3, if allk x 15 then look laneX T.fs (val x 15) else laneX, 2)] := rfl

/-! ## The far store (R83) -/

variable {T sw}

/-- A far-store load at an unknown address flags it. -/
theorem tileStep_load_flag (hms : readPhase T cycle step sw = [m]) (hm : m.out = .execute) (ha : m.src < 256) (hd : m.dst = 0x1A1)
    (hx : allk m.data 15 = false) : bit (tileStep cycle step len stamp checked sw T).opstat 0 = true := by
  have hu : unitOf m.dst = some 16 := by rw [hd]; rfl
  obtain ⟨stat, -, hopstat⟩ := tileStep_effect (len := len) (stamp := stamp) (checked := checked) hms hm ha hu (by omega)
  rw [hopstat]
  unfold unitEffect setOpstatIf
  rw [if_pos rfl, hx]
  exact bit_setBit_same _ _ (by omega)

/-- A far-store store writes its word, or flags its unknown address. -/
theorem tileStep_store (hms : readPhase T cycle step sw = [m]) (hm : m.out = .execute) (ha : m.src < 256) (hd : m.dst = 0x1A2) :
    (tileStep cycle step len stamp checked sw T).fs =
        (if allk (look laneX T.ports 0x1A0) 15 = true then put laneX T.fs (val (look laneX T.ports 0x1A0) 15) m.data else T.fs) ∧
      (allk (look laneX T.ports 0x1A0) 15 = false → bit (tileStep cycle step len stamp checked sw T).opstat 0 = true) := by
  have hu : unitOf m.dst = some 17 := by rw [hd]; rfl
  obtain ⟨stat, hfs, hopstat⟩ := tileStep_effect (len := len) (stamp := stamp) (checked := checked) hms hm ha hu (by omega)
  rw [hfs, hopstat]
  unfold unitEffect fsStore
  dsimp only
  rw [if_neg (by omega), if_pos rfl]
  cases allk (look laneX T.ports 0x1A0) 15 with
  | true => exact ⟨rfl, fun h => absurd h (by decide)⟩
  | false => exact ⟨rfl, fun _ => bit_setBit_same _ _ (by omega)⟩

/-! ## An operand moved in the same step (R53) -/

/-- An arithmetic trigger uses the operand that another move writes in its step. -/
theorem tileStep_operand {o t : Move} (hms : readPhase T cycle step sw = [o, t] ∨ readPhase T cycle step sw = [t, o]) (ho : o.out = .execute)
    (ht : t.out = .execute) (hosrc : o.src < 256) (htsrc : t.src < 256) (hodst : o.dst = 0x190) (hu : unitOf t.dst = some 15)
    (hwf : Sparse.wf (fun _ => laneX) T.ports = true) :
    ({ port := 0x199, value := (arEval t.dst o.data (look laneX T.ports 0x191) t.data).1, due := step + 2, trig := step, slot := t.slot } : InFlight) ∈
      (tileStep cycle step len stamp checked sw T).inflight := by
  obtain ⟨h256, hop, hgd⟩ := trigger_not_storage hu
  have hne : t.dst ≠ 0x190 := fun he => by
    rw [he] at hop
    exact absurd hop (by decide)
  have hou : unitOf o.dst = none := by rw [hodst]; rfl
  obtain ⟨ms, hread, hlist⟩ : ∃ ms, readPhase T cycle step sw = ms ∧ (ms = [o, t] ∨ ms = [t, o]) := ⟨_, rfl, hms⟩
  have hmem : ∀ x ∈ ms, x = o ∨ x = t := by
    rcases hlist with rfl | rfl <;> simp [or_comm]
  have hnear : ∀ x ∈ ms, popQueue x.src = none := fun x hx => by
    rcases hmem x hx with rfl | rfl
    · exact popQueue_near hosrc
    · exact popQueue_near htsrc
  have hunit : ∀ x ∈ ms, ∀ w, unitOf x.dst = some w → w = 15 := fun x hx w hw => by
    rcases hmem x hx with rfl | rfl
    · exact absurd (hou.symm.trans hw) (by simp)
    · exact Option.some.inj (hw.symm.trans hu)
  have htrigger : triggerOf ms 15 = some (t.slot, t.dst, t.data) := by
    rcases hlist with rfl | rfl <;> simp [triggerOf, hou, hu, ht]
  have hports : ∀ X : Tile, (storagePhase ms X).ports = put laneX X.ports 0x190 o.data := fun X =>
    storagePhase_ports_of_operand (d := t.dst) (by rcases hlist with rfl | rfl <;> simp [firstSeen, hodst, hne, hne.symm]) rfl hop
      (by rcases hlist with rfl | rfl <;> simp [delivered, hodst, hne, ho])
  have hframe : flagPhase checked T ms (storagePhase ms (stepStart T)) =
      { storagePhase ms (stepStart T) with stat := (flagPhase checked T ms (storagePhase ms (stepStart T))).stat } := flagPhase_frame _ _ _ _
  rw [tileStep_eq hread, popPhase_none hnear, hframe, launch_one T sw step stamp (triggersOf_one (by omega) htrigger hunit)]
  generalize (flagPhase checked T ms (storagePhase ms (stepStart T))).stat = stat
  have hY : ({ storagePhase ms (stepStart T) with stat := stat } : Tile).ports = put laneX T.ports 0x190 o.data := hports _
  generalize ({ storagePhase ms (stepStart T) with stat := stat } : Tile) = Y at hY
  obtain ⟨fault, tqFlags, hrec, -⟩ := recorded_frame checked (stepFaults T ms step) _
  rw [hrec]
  have hid : unitEffect Y.ports stamp 15 t.dst t.data Y = Y := rfl
  have hop190 : look laneX Y.ports 0x190 = o.data := by rw [hY]; exact look_put_same _ _ _ _ hwf
  have hop191 : look laneX Y.ports 0x191 = look laneX T.ports 0x191 := by rw [hY]; exact look_put_other _ _ _ _ _ (by decide)
  rw [hid, unitResults_arithmetic, hop190, hop191]
  refine arrive_keeps ?_ (by simp)
  exact List.mem_append_right _ List.mem_cons_self

end Sys2Proof.Machine
end

section
/-! SUPPORT. The routers' latches (05 R98-R102), and the release of a step of a Plain (05 R110, 06 R115, R119). -/

namespace Sys2Proof.Machine

/-! ## Routers (R99, R102) -/

theorem inReg_executeTiles (P : Plain) (t : Fin 64) {o : Nat} (ho : o < 4) : inReg (executeTiles P)[t] o =
    received P.tiles (fun t => stepWord P.ldr.curBank P.tiles[t] P.run.step)
      (fun t => offerOf P.run.cycle P.run.step (stepWord P.ldr.curBank P.tiles[t] P.run.step) P.tiles[t]) t o := by
  unfold executeTiles
  dsimp only
  rw [vall_at]
  interval_cases o <;> rfl

/-- A neighbour's output towards a tile is no edge. -/
theorem neighbour_faces : ∀ (t : Fin 64) (o : Fin 4), (neighbour t o).all (fun n => (neighbour n ((o + 2) % 4)).isSome) = true := by decide +kernel

/-- The word that an inner output of code `code` brings to the neighbour's input register (R100, R102). -/
def carried (T : Tile) (code o : Nat) (offer : Option (Word × Nat)) : Word :=
  if code = 0 ∨ code = 7 then laneX else if code ≤ 4 then inReg T (code - 1)
  else match offer with
    | none => laneX
    | some (w, dir) => if code = 6 ∨ dir = o then w else laneX

theorem routerOut_carried (T : Tile) {n : Fin 64} {o : Nat} (ho : o < 4) (hn : (neighbour n o).isSome = true) (sw : StepWord) (offer : Option (Word × Nat)) :
    (routerOut T n sw offer o).getD laneX = carried T (swColx sw o) o offer := by
  have hin : ¬(o < 4 ∧ neighbour n o = none) := fun h => by
    rw [h.2] at hn
    exact absurd hn (by decide)
  unfold routerOut carried
  dsimp only
  rw [if_neg hin]
  by_cases h07 : swColx sw o = 0 ∨ swColx sw o = 7
  · rw [if_pos h07, if_pos h07]
    rfl
  · rw [if_neg h07, if_neg h07]
    by_cases h4 : swColx sw o ≤ 4
    · rw [if_pos h4, if_pos h4]
      rfl
    · rw [if_neg h4, if_neg h4]
      cases offer with
      | none => rfl
      | some x =>
        have hdir : (swColx sw o = 6 ∨ o = 4 ∨ x.2 = o) ↔ (swColx sw o = 6 ∨ x.2 = o) := by omega
        simp only [hdir]
        split <;> rfl

/-- An input register takes what the neighbour's output towards it carries. -/
theorem inReg_executeTiles_inner (P : Plain) (t n : Fin 64) {o : Nat} (ho : o < 4) (hn : neighbour t o = some n) : inReg (executeTiles P)[t] o =
    carried P.tiles[n] (swColx (stepWord P.ldr.curBank P.tiles[n] P.run.step) ((o + 2) % 4)) ((o + 2) % 4)
      (offerOf P.run.cycle P.run.step (stepWord P.ldr.curBank P.tiles[n] P.run.step) P.tiles[n]) := by
  have hface := neighbour_faces t ⟨o, ho⟩
  rw [hn] at hface
  rw [inReg_executeTiles P t ho, received, hn]
  exact routerOut_carried P.tiles[n] (Nat.mod_lt _ (by omega)) hface _ _

/-- An edge side's input register holds lane(X). -/
theorem inReg_executeTiles_edge (P : Plain) (t : Fin 64) {o : Nat} (ho : o < 4) (hn : neighbour t o = none) : inReg (executeTiles P)[t] o = laneX := by
  rw [inReg_executeTiles P t ho, received, hn]

/-! ## The schedule of a tile (03 R69, 10 R216) -/

/-- What a tile's step words come from: its schedule store with the error marks, and its overlay. -/
def scheduleOf (T : Tile) : Sparse StepWord × Sparse Bool × Sparse Bool × Sparse StepWord := (T.store, T.storeUe, T.storeCe, T.overlay)

theorem foldl_keeps {α β γ : Type} (g : α → γ) {f : α → β → α} (h : ∀ a x, g (f a x) = g a) (l : List β) (a : α) : g (l.foldl f a) = g a := by
  induction l generalizing a with
  | nil => rfl
  | cons x l ih => rw [List.foldl_cons, ih, h]

theorem scheduleOf_popOne (n : Nat) (T : Tile) : scheduleOf (popOne n T) = scheduleOf T := by
  unfold popOne
  split
  · rfl
  · split <;> rfl

theorem scheduleOf_popPhase (ms : List Move) (T : Tile) : scheduleOf (popPhase ms T) = scheduleOf T :=
  foldl_keeps scheduleOf (fun T x => by
    dsimp only
    split
    · exact scheduleOf_popOne x.2 T
    · rfl) _ T

theorem scheduleOf_push0 (T : Tile) (x : MmReq) : scheduleOf (push0 T x) = scheduleOf T := by
  unfold push0
  split <;> rfl

theorem scheduleOf_push6 (T : Tile) (x : PxWord) : scheduleOf (push6 T x) = scheduleOf T := by
  unfold push6
  split <;> rfl

theorem scheduleOf_push7 (T : Tile) (x : CapEntry) : scheduleOf (push7 T x) = scheduleOf T := by
  unfold push7
  split <;> rfl

theorem scheduleOf_unitEffect (ops : Sparse Word) (stamp u port : Nat) (x : Word) (T : Tile) :
    scheduleOf (unitEffect ops stamp u port x T) = scheduleOf T := by
  by_cases hu : u ≤ 17
  · obtain ⟨fs, opstat, h⟩ := unitEffect_frame hu ops stamp port x T
    rw [h]
    rfl
  · unfold unitEffect
    dsimp only
    rw [if_neg (by omega), if_neg (by omega)]
    split
    · exact scheduleOf_push0 T _
    · split
      · split
        · exact scheduleOf_push6 T _
        · rfl
      · split
        · split
          · exact scheduleOf_push7 T _
          · exact scheduleOf_push7 (setOpstat T 5) _
        · rfl

theorem scheduleOf_statOnly {T U : Tile} (h : StatOnly T U) : scheduleOf U = scheduleOf T := by
  unfold StatOnly at h
  rw [h]
  rfl

theorem scheduleOf_recorded (checked : Bool) (fs : List SchedFault) (T : Tile) : scheduleOf (recorded checked fs T) = scheduleOf T := by
  obtain ⟨fault, tqFlags, h, -⟩ := recorded_frame checked fs T
  rw [h]
  rfl

theorem scheduleOf_launch (T0 : Tile) (sw : StepWord) (step stamp : Nat) (ms : List Move) (T : Tile) :
    scheduleOf (launch T0 sw step stamp ms T) = scheduleOf T := by
  change scheduleOf ((triggersOf ms).foldl (fun T (u, _, port, d) => unitEffect T.ports stamp u port d T) T) = _
  exact foldl_keeps scheduleOf (fun T x => scheduleOf_unitEffect T.ports stamp x.1 x.2.2.1 x.2.2.2 T) (triggersOf ms) T

/-- A step leaves a tile's schedule. -/
theorem scheduleOf_tileStep (cycle step len stamp : Nat) (checked : Bool) (sw : StepWord) (T : Tile) :
    scheduleOf (tileStep cycle step len stamp checked sw T) = scheduleOf T := by
  have harrive : ∀ U : Tile, scheduleOf (arrive step len U) = scheduleOf U := fun _ => rfl
  have hstorage : ∀ (ms : List Move) (U : Tile), scheduleOf (storagePhase ms U) = scheduleOf U := fun _ _ => rfl
  rw [tileStep_eq rfl, scheduleOf_recorded, harrive, scheduleOf_launch, scheduleOf_statOnly (flagPhase_frame _ _ _ _), hstorage, scheduleOf_popPhase]
  rfl

theorem scheduleOf_executeTiles (P : Plain) (t : Fin 64) : scheduleOf (executeTiles P)[t] = scheduleOf P.tiles[t] := by
  have hlatch : ∀ old sws offers T, scheduleOf (latchTile old sws offers t T) = scheduleOf T := fun _ _ _ _ => rfl
  unfold executeTiles
  dsimp only
  rw [vall_at, hlatch, scheduleOf_tileStep]

theorem storeCorrects_congr {T U : Tile} (h : scheduleOf U = scheduleOf T) (bank i : Nat) : storeCorrects bank U i = storeCorrects bank T i := by
  simp only [scheduleOf, Prod.mk.injEq] at h
  obtain ⟨-, -, hce, hov⟩ := h
  unfold storeCorrects
  rw [hce, hov]

/-! ## What a step waits for (R69, R115) -/

section statOnly

variable {P Q : Plain}

theorem badTile_statOnly (h : ∀ t : Fin 64, StatOnly P.tiles[t] Q.tiles[t]) (hl : Q.ldr = P.ldr) (hr : Q.run = P.run) : badTile Q = badTile P := by
  unfold badTile
  refine congrArg (fun f => List.find? f (List.finRange 64)) (funext fun t => ?_)
  have ht : Q.tiles[t] = { P.tiles[t] with stat := Q.tiles[t].stat } := h t
  rw [hl, hr, ht]
  rfl

theorem allWaitsMet_statOnly (h : ∀ t : Fin 64, StatOnly P.tiles[t] Q.tiles[t]) (hl : Q.ldr = P.ldr) (hr : Q.run = P.run) : allWaitsMet Q = allWaitsMet P := by
  unfold allWaitsMet
  refine congrArg (fun f => List.all (List.finRange 64) f) (funext fun t => ?_)
  have ht : Q.tiles[t] = { P.tiles[t] with stat := Q.tiles[t].stat } := h t
  rw [hl, hr, ht]
  rfl

end statOnly

theorem flagCorrections_tiles (P : Plain) (t : Fin 64) :
    (flagCorrections P).tiles[t] = setStatIf (storeCorrects P.ldr.curBank P.tiles[t] P.run.step) 7 P.tiles[t] := allTiles_at _ _ _

theorem flagCorrections_statOnly (P : Plain) (t : Fin 64) : StatOnly P.tiles[t] (flagCorrections P).tiles[t] := by
  rw [flagCorrections_tiles]
  exact (StatOnly.refl _).setStatIf _ _

theorem flagCorrections_ldr (P : Plain) : (flagCorrections P).ldr = P.ldr := allTiles_ldr _ _

theorem flagCorrections_run (P : Plain) : (flagCorrections P).run = P.run := allTiles_run _ _

theorem badTile_flagCorrections (P : Plain) : badTile (flagCorrections P) = badTile P :=
  badTile_statOnly (flagCorrections_statOnly P) (flagCorrections_ldr P) (flagCorrections_run P)

theorem allWaitsMet_flagCorrections (P : Plain) : allWaitsMet (flagCorrections P) = allWaitsMet P :=
  allWaitsMet_statOnly (flagCorrections_statOnly P) (flagCorrections_ldr P) (flagCorrections_run P)

/-- The coming step is there and a WAIT condition holds it. -/
def mustWait (P : Plain) : Bool := decide (P.run.step < P.ldr.len) && (badTile P).isNone && !allWaitsMet P

/-- At a join a step that must wait reads its step word, with the flag of a corrected word (R69, R115). -/
theorem startWait_tiles (now : Nat) {P : Plain} (hp : P.run.phase = .stepping) (t : Fin 64) : (startWait now P).tiles[t] =
    setStatIf (mustWait P && storeCorrects P.ldr.curBank P.tiles[t] P.run.step) 7 P.tiles[t] := by
  unfold startWait
  rw [decide_eq_true hp, Bool.true_and]
  change (if mustWait P = true then _ else P).tiles[t] = _
  cases mustWait P with
  | true =>
    rw [if_pos rfl, Bool.true_and]
    exact flagCorrections_tiles P t
  | false =>
    rw [if_neg Bool.false_ne_true, Bool.false_and]
    rfl

theorem startWait_parts (now : Nat) (P : Plain) : (startWait now P).run = P.run ∧ (startWait now P).ldr = P.ldr := by
  obtain ⟨T, since, h⟩ := startWait_frame now P
  rw [h]
  exact ⟨rfl, rfl⟩

theorem mustWait_startWait (now : Nat) {P : Plain} (hp : P.run.phase = .stepping) : mustWait (startWait now P) = mustWait P := by
  have hstat : ∀ t : Fin 64, StatOnly P.tiles[t] (startWait now P).tiles[t] := fun t => by
    rw [startWait_tiles now hp]
    exact (StatOnly.refl _).setStatIf _ _
  obtain ⟨hrun, hldr⟩ := startWait_parts now P
  unfold mustWait
  rw [badTile_statOnly hstat hldr hrun, allWaitsMet_statOnly hstat hldr hrun, hrun, hldr]

/-! ## The executed step (R110, R119) -/

theorem events_frame {α : Type} (f : α → Bool) (unit : α → Nat) (code : Nat) (detail : Plain → α → Nat) (l : List α) (P : Plain) :
    ∃ mgr, l.foldl (fun P x => if f x then event P code (unit x) (detail P x) else P) P = { P with mgr := mgr } := by
  induction l generalizing P with
  | nil => exact ⟨P.mgr, rfl⟩
  | cons x l ih =>
    rw [List.foldl_cons]
    obtain ⟨mgr, h⟩ := ih (if f x then event P code (unit x) (detail P x) else P)
    refine ⟨mgr, h.trans ?_⟩
    split
    · rw [event_frame]
    · rfl

/-- The events of a step go to the Manager, in CHECKED mode only (R71, R103). -/
theorem stepEvents_frame (P0 P : Plain) (drops : List (Fin 64 × Nat)) :
    ∃ mgr, stepEvents P0 P drops = { P with mgr := mgr } ∧ (P0.run.mode ≠ .checked → mgr = P.mgr) := by
  unfold stepEvents
  split
  · rename_i hc
    obtain ⟨m1, h1⟩ := events_frame (fun t : Fin 64 => stepFaulty P0.run.cycle P0.run.step (stepWord P0.ldr.curBank P0.tiles[t] P0.run.step) P0.tiles[t])
      (fun t => t.val) 0x0010 (fun P t => P.tiles[t].fault.toNat) (List.finRange 64) P
    obtain ⟨m2, h2⟩ := events_frame (fun _ : Fin 64 × Nat => true) (fun _ => 0) 0x0011 (fun P _ => P.col.fault.toNat) drops { P with mgr := m1 }
    refine ⟨m2, ?_, fun hn => absurd hc hn⟩
    dsimp only
    rw [h1]
    exact h2
  · exact ⟨P.mgr, rfl, fun _ => rfl⟩

/-- A step that no full queue holds goes on to the next one, which may wait. -/
theorem executeStep_joins {P : Plain} (hheld : (executeTiles P).toList.any heldPush = false) (skip now : Nat) (cols : BitVec 9) :
    ∃ col stall segs mgr, executeStep skip now cols P = startWait now { P with
        tiles := executeTiles P, col := col, stall := stall, health := { P.health with segs := segs }, mgr := mgr,
        run := { P.run with step := P.run.step + 1, stepCount := P.run.stepCount + 1, phase := .stepping } } ∧
      (P.run.mode ≠ .checked → mgr = P.mgr) := by
  unfold executeStep
  dsimp only
  rw [hheld, if_neg Bool.false_ne_true, if_neg Bool.false_ne_true]
  obtain ⟨mgr, h, hm⟩ := stepEvents_frame P _ (dropsOf P)
  rw [h]
  exact ⟨_, _, _, mgr, rfl, hm⟩

variable {p : Fin 8} {s : State}

/-- STEP_RELEASE of a step that can be delivered and that no WAIT holds (R110). -/
theorem exec_stepRelease (cols : BitVec 9) (hcan : canStep s.plains[p] = true) (hready : replayReady s.plains[p] = true)
    (hbad : badTile s.plains[p] = none) (hwaits : allWaitsMet s.plains[p] = true) :
    exec (.stepRelease p cols) s =
      .next (modPlain s p fun P => executeStep (skipCol s.fuses p) s.timeNs cols (flagCorrections P)) := by
  have hsame := modPlain_same s p flagCorrections
  change execStepRelease p cols s = _
  unfold execStepRelease
  rw [hcan, hready, if_neg (by decide)]
  dsimp only
  rw [hsame, badTile_flagCorrections, hbad]
  dsimp only
  rw [allWaitsMet_flagCorrections, if_pos hwaits, modPlain_modPlain]
  rfl

end Sys2Proof.Machine
end

section
/-! SUPPORT. One released step (02 R35-R39, 03 R46-R71, 04 R73-R83, 05 R101-R110, 06 R115-R119): the Plain, its tiles and its routers. -/

namespace Sys2Proof.Machine

variable {p : Fin 8} {s t : State} {T : Tile} {sw : StepWord} {cycle step len stamp i j a b d : Nat} {checked : Bool}

/-! ## The Plain (R69, R110, R119) -/

/-- A tile after a released step: it has executed, and a step that waits at once has read its corrected words. -/
theorem joinedTile (now : Nat) {P J : Plain} (htiles : J.tiles = executeTiles (flagCorrections P)) (hldr : J.ldr = P.ldr)
    (hstep : J.run.step = P.run.step + 1) (hphase : J.run.phase = .stepping) (k : Fin 64) :
    (startWait now J).tiles[k] = setStatIf (mustWait (startWait now J) && storeCorrects P.ldr.curBank P.tiles[k] (P.run.step + 1)) 7
      (executeTiles (flagCorrections P))[k] := by
  have hkept : scheduleOf (executeTiles (flagCorrections P))[k] = scheduleOf P.tiles[k] :=
    (scheduleOf_executeTiles _ k).trans (scheduleOf_statOnly (flagCorrections_statOnly P k))
  rw [startWait_tiles now hphase, mustWait_startWait now hphase, htiles, hldr, hstep, storeCorrects_congr hkept]

theorem flagCorrections_frame (P : Plain) : ∃ tiles, flagCorrections P = { P with tiles := tiles } :=
  ⟨(flagCorrections P).tiles, by simp only [flagCorrections, allTiles]⟩

/-- The parts of a Plain after a released step that no full queue holds. -/
theorem executeStep_parts {P : Plain} (hheld : (executeTiles (flagCorrections P)).toList.any heldPush = false) (skip now : Nat) (cols : BitVec 9) :
    ∃ col stall segs mgr J, executeStep skip now cols (flagCorrections P) = startWait now J ∧
      J = { P with
        tiles := executeTiles (flagCorrections P), col := col, stall := stall, health := { P.health with segs := segs }, mgr := mgr,
        run := { P.run with step := P.run.step + 1, stepCount := P.run.stepCount + 1, phase := .stepping } } ∧
      (P.run.mode ≠ .checked → mgr = P.mgr) := by
  obtain ⟨tiles, hframe⟩ := flagCorrections_frame P
  rw [hframe] at hheld ⊢
  obtain ⟨col, stall, segs, mgr, hjoin, hmgr⟩ := executeStep_joins hheld skip now cols
  exact ⟨col, stall, segs, mgr, _, hjoin, rfl, hmgr⟩

/-- What STEP_RELEASE makes of the module where the step is released (R110). -/
theorem stepRelease_effect (cols : BitVec 9) (hcan : canStep s.plains[p] = true) (hready : replayReady s.plains[p] = true)
    (hbad : badTile s.plains[p] = none) (hwaits : allWaitsMet s.plains[p] = true)
    (hheld : (executeTiles (flagCorrections s.plains[p])).toList.any heldPush = false) :
    ∃ t, exec (.stepRelease p cols) s = .next t ∧ OnlyPlain p s t ∧
      (∀ k : Fin 64, t.plains[p].tiles[k] =
        setStatIf (mustWait t.plains[p] && storeCorrects s.plains[p].ldr.curBank s.plains[p].tiles[k] (s.plains[p].run.step + 1)) 7
          (executeTiles (flagCorrections s.plains[p]))[k]) ∧
      t.plains[p].run = { s.plains[p].run with step := s.plains[p].run.step + 1, stepCount := s.plains[p].run.stepCount + 1, phase := .stepping } ∧
      t.plains[p] = { s.plains[p] with tiles := t.plains[p].tiles, col := t.plains[p].col, stall := t.plains[p].stall,
                                       health := t.plains[p].health, run := t.plains[p].run, mgr := t.plains[p].mgr } ∧
      t.plains[p].health = { s.plains[p].health with segs := t.plains[p].health.segs } ∧
      (s.plains[p].run.mode ≠ .checked → t.plains[p].mgr = s.plains[p].mgr) := by
  refine ⟨_, exec_stepRelease cols hcan hready hbad hwaits, onlyPlain_modPlain s p _, ?_⟩
  rw [modPlain_same]
  obtain ⟨col, stall, segs, mgr, J, hjoin, hJ, hmgr⟩ := executeStep_parts hheld (skipCol s.fuses p) s.timeNs cols
  rw [hjoin]
  refine ⟨joinedTile _ (by rw [hJ]) (by rw [hJ]) (by rw [hJ]) (by rw [hJ]), ?_⟩
  obtain ⟨tiles, since, hwait⟩ := startWait_frame s.timeNs J
  rw [hwait, hJ]
  exact ⟨rfl, rfl, rfl, hmgr⟩

/-! ## The tiles (R50-R83) -/

/-- What one executing trigger gives, by its port (R74, R77-R83). -/
theorem tileStep_triggers (h : SlotIs sw i a d 0 false) (hq : Quiet sw [i]) (ha : a < 256) (hwf : Sparse.wf (fun _ => laneX) T.ports = true) :
    let T' := tileStep cycle step len stamp checked sw T
    let x := look laneX T.nf a
    let op (p : Nat) : Word := look laneX T.ports p
    let shows (p : Nat) (v : Word) : Prop := step + 1 < len → look laneX T'.ports p = v ∧ p ∈ T'.arrived
    let comes (p : Nat) (v : Word) : Prop := ({ port := p, value := v, due := step + 2, trig := step, slot := i } : InFlight) ∈ T'.inflight
    (∀ n, n < 6 → d = 0x140 + 8 * n → shows (0x141 + 8 * n) (ofPos fun k => pos (look laneX T.nf (swSelect sw n k / 16)) (swSelect sw n k % 16))) ∧
    (∀ n, n < 8 → (d = 0x103 + 8 * n → shows (0x106 + 8 * n)
        (lutEval .exactX (swTable sw n) (op (0x100 + 8 * n)) (op (0x101 + 8 * n)) (op (0x102 + 8 * n)) x)) ∧
      (d = 0x104 + 8 * n → shows (0x106 + 8 * n)
        (lutEval .pessimistic (swTable sw n) (op (0x100 + 8 * n)) (op (0x101 + 8 * n)) (op (0x102 + 8 * n)) x)) ∧
      (d = 0x105 + 8 * n → shows (0x106 + 8 * n)
        (lutEval .twoState (swTable sw n) (op (0x100 + 8 * n)) (op (0x101 + 8 * n)) (op (0x102 + 8 * n)) x))) ∧
    (0x171 ≤ d → d ≤ 0x184 → shows 0x18F (bwEval d (op 0x170) x)) ∧
    (0x192 ≤ d → d ≤ 0x198 → comes 0x199 (arEval d (op 0x190) (op 0x191) x).1 ∧ comes 0x19A (arEval d (op 0x190) (op 0x191) x).2) ∧
    (d = 0x1A1 → comes 0x1A3 (if allk x 15 = true then look laneX T.fs (val x 15) else laneX) ∧ (allk x 15 = false → bit T'.opstat 0 = true)) ∧
    (d = 0x1A2 → T'.fs = (if allk (op 0x1A0) 15 = true then put laneX T.fs (val (op 0x1A0) 15) x else T.fs) ∧
      (allk (op 0x1A0) 15 = false → bit T'.opstat 0 = true)) := by
  intro T' x op shows comes
  have hms := readPhase_near (T := T) (cycle := cycle) (step := step) ha h hq
  have hshows : ∀ {u p v}, unitOf d = some u → u ≤ 17 → unitResults T T.ports sw u d x = [(p, v, 1)] → shows p v :=
    fun hu hu17 hr hlen => tileStep_shows hms rfl ha hu hu17 hwf hr hlen
  have hcomes : ∀ {u p v}, unitOf d = some u → u ≤ 17 → (p, v, 2) ∈ unitResults T T.ports sw u d x → comes p v :=
    fun hu hu17 hr => tileStep_comes hms rfl ha hu hu17 hr
  refine ⟨fun n hn hd => ?_, fun n hn => ⟨fun hd => ?_, fun hd => ?_, fun hd => ?_⟩, fun h1 h2 => ?_, fun h1 h2 => ?_, fun hd => ?_, fun hd => ?_⟩
  · exact hshows (by rw [hd]; exact unitOf_gather n hn) (by omega) (unitResults_gather T sw T.ports x hn d)
  · exact hshows (by rw [hd]; exact (unitOf_lut n hn).1) (by omega) (unitResults_lut T sw T.ports x hn d .exactX (if_pos (by omega)))
  · exact hshows (by rw [hd]; exact (unitOf_lut n hn).2.1) (by omega)
      (unitResults_lut T sw T.ports x hn d .pessimistic ((if_neg (by omega)).trans (if_pos (by omega))))
  · exact hshows (by rw [hd]; exact (unitOf_lut n hn).2.2) (by omega)
      (unitResults_lut T sw T.ports x hn d .twoState ((if_neg (by omega)).trans (if_neg (by omega))))
  · exact hshows (unitOf_bitwise h1 h2) (by omega) (unitResults_bitwise T sw T.ports x d)
  · have hu := unitOf_arithmetic h1 h2
    have hr := unitResults_arithmetic T sw T.ports x d
    exact ⟨hcomes hu (by omega) (by rw [hr]; exact List.mem_cons_self),
      hcomes hu (by omega) (by rw [hr]; exact List.mem_cons_of_mem _ List.mem_cons_self)⟩
  · have hu : unitOf d = some 16 := by rw [hd]; rfl
    have hr := unitResults_load T sw T.ports x d
    refine ⟨hcomes hu (by omega) ?_, ?_⟩
    · rw [hr]
      exact List.mem_cons_self
    · intro hx
      exact tileStep_load_flag hms rfl ha hd hx
  · have hstore := tileStep_store (len := len) (stamp := stamp) (checked := checked) hms rfl ha hd
    exact hstore

/-- An arithmetic trigger uses the operand of its own step, whichever slot is the lower. -/
theorem tileStep_operand_slots (hij : i ≠ j) (hi : SlotIs sw i a 0x190 0 false) (hj : SlotIs sw j b d 0 false) (hq : Quiet sw [i, j]) (ha : a < 256)
    (hb : b < 256) (h1 : 0x192 ≤ d) (h2 : d ≤ 0x198) (hwf : Sparse.wf (fun _ => laneX) T.ports = true) :
    ({ port := 0x199, value := (arEval d (look laneX T.nf a) (look laneX T.ports 0x191) (look laneX T.nf b)).1, due := step + 2, trig := step,
       slot := j } : InFlight) ∈
      (tileStep cycle step len stamp checked sw T).inflight := by
  refine tileStep_operand (o := { slot := i, src := a, dst := 0x190, out := .execute, data := look laneX T.nf a })
    (t := { slot := j, src := b, dst := d, out := .execute, data := look laneX T.nf b }) ?_ rfl rfl ha hb rfl (unitOf_arithmetic h1 h2) hwf
  rcases Nat.lt_or_gt_of_ne hij with hlt | hgt
  · exact .inl (readPhase_near_two hlt ha hb hi hj hq)
  · exact .inr (readPhase_near_two hgt hb ha hj hi fun k hk hn => hq k hk (by simpa [or_comm] using hn))

/-- Settles O1: the release by the frame of the executed step, a tile's step by its moves and the units they start, the routers by what
the neighbours' outputs carry, and the units on known words by their numbers. -/
theorem stepReleaseExecutesTheStep : Obligations.StepReleaseExecutesTheStep := by
  unfold Obligations.StepReleaseExecutesTheStep
  intro quiet slotIs
  refine ⟨fun p cols s hcan hready hbad hwaits hheld => stepRelease_effect cols hcan hready hbad hwaits hheld,
    fun T sw cycle step len stamp checked => ?_, fun P t o ho => ⟨inReg_executeTiles_edge P t ho, fun n hn => ?_⟩,
    fun tbl i0 i1 i2 d k hk => ?_, fun a d ci => ⟨fun ha hd => ?_, fun k hk hu => arAdd_unknown ci hk hu, fun k hk hkn => arAdd_below ci hk hkn⟩⟩
  · refine ⟨fun i a d gsel inv h hq ha hd hg => ?_, fun i j a b d hij hi hj hq ha hb hd => ?_, fun i a d n h hq hpop hd => ?_,
      fun i a d h hq ha hwf => tileStep_triggers h hq ha hwf,
      fun i j a b d hij hi hj hq ha hb h1 h2 hwf => tileStep_operand_slots hij hi hj hq ha hb h1 h2 hwf⟩
    · have hms := readPhase_one (T := T) (cycle := cycle) (step := step) h hq hg
      rw [srcVal_near ha (mem_banked_length List.mem_cons_self ha (by simp))] at hms
      have hstep := tileStep_near_one (len := len) (stamp := stamp) (checked := checked) hms ha hd
      rw [movedWord_guard, guardOut_unknown] at hstep
      exact hstep
    · obtain ⟨hnf, hconflict, hfault⟩ := tileStep_conflict (len := len) (stamp := stamp) (checked := checked)
        (readPhase_near_two (T := T) (cycle := cycle) (step := step) hij ha hb hi hj hq) hij rfl rfl rfl hd ha hb
      refine ⟨hnf, hconflict, fun hc hv => (hfault hc hv).trans ?_⟩
      have hi32 : i % 32 = i := Nat.mod_eq_of_lt (Nat.lt_trans hi.1 (by omega))
      simp only [tileFaultWord, hi32]
    · have hms := readPhase_one (T := T) (cycle := cycle) (step := step) h hq (by simp)
      rw [srcVal_pop hpop, guardOut_always] at hms
      exact tileStep_pop hms rfl hpop hd
  · exact inReg_executeTiles_inner P t n ho hn
  · rw [pos_lutEval _ _ _ _ _ _ hk, ← lutIndex_eq]
    rfl
  · obtain ⟨h1, h2, h3, h4, h5, h6, h7, h8⟩ := bwEval_known ha hd
    obtain ⟨heq, hless, hsigned⟩ := arEval_compare_known ci ha hd
    exact ⟨h1, h2, h3, h4, h5, h6, h7, h8, congrArg one (foldPos_and hd), congrArg one (foldPos_or hd), arAdd_sum_known ci ha hd,
      arAdd_difference ci ha hd, heq, hless, hsigned⟩

end Sys2Proof.Machine
end

section
/-! SUPPORT. Back-pressure and stalls (06 R115, R116, R119, R124, 19 R385-R387): a step that waits, the join of a step that back-pressure
held, and the cycle that a stall of more than STALL_US abandons. -/

namespace Sys2Proof.Machine

variable {p : Fin 8} {s : State}

/-! ## A step that waits (R69, R115) -/

theorem setBit_idem {w : Nat} (v : BitVec w) (i : Nat) : setBit (setBit v i true) i true = setBit v i true := by
  simp [setBit, BitVec.or_assoc]

theorem setStatIf_idem (b : Bool) (i : Nat) (T : Tile) : setStatIf b i (setStatIf b i T) = setStatIf b i T := by
  cases b with
  | false => rfl
  | true => exact congrArg (fun v => { T with stat := v }) (setBit_idem T.stat i)

/-- A step word that is read again sets STORE_CE where it is set already. -/
theorem flagCorrections_idem (P : Plain) : flagCorrections (flagCorrections P) = flagCorrections P := by
  have htiles : (flagCorrections (flagCorrections P)).tiles = (flagCorrections P).tiles := by
    refine Vector.ext fun i hi => ?_
    have h : (flagCorrections (flagCorrections P)).tiles[(⟨i, hi⟩ : Fin 64)] = (flagCorrections P).tiles[(⟨i, hi⟩ : Fin 64)] := by
      rw [flagCorrections_tiles (flagCorrections P), flagCorrections_ldr, flagCorrections_run,
        storeCorrects_congr (scheduleOf_statOnly (flagCorrections_statOnly P _)), flagCorrections_tiles, setStatIf_idem]
    exact h
  obtain ⟨T, hframe⟩ := flagCorrections_frame (flagCorrections P)
  rw [hframe] at htiles ⊢
  rw [show T = (flagCorrections P).tiles from htiles]

theorem flagCorrections_stall (P : Plain) : (flagCorrections P).stall = P.stall := allTiles_stall _ _

theorem mustWait_iff (P : Plain) : mustWait P = true ↔ P.run.step < P.ldr.len ∧ badTile P = none ∧ allWaitsMet P = false := by
  simp [mustWait, and_assoc]

/-- A step that must wait stalls from now, or from when it stalls already. -/
theorem startWait_waits (now : Nat) {P : Plain} (hp : P.run.phase = .stepping) (hw : mustWait P = true) :
    startWait now P = { flagCorrections P with stall := { P.stall with since := some (P.stall.since.getD now) } } := by
  unfold startWait
  rw [decide_eq_true hp, Bool.true_and]
  exact if_pos hw

theorem startWait_goes (now : Nat) {P : Plain} (hp : P.run.phase = .stepping) (hw : mustWait P = false) : startWait now P = P := by
  unfold startWait
  rw [decide_eq_true hp, Bool.true_and]
  exact if_neg (fun h => Bool.false_ne_true (hw.symm.trans h))

/-- STEP_RELEASE of a step that can be delivered and that a WAIT holds (R115). -/
theorem exec_stepRelease_waits (cols : BitVec 9) (hcan : canStep s.plains[p] = true) (hready : replayReady s.plains[p] = true)
    (hbad : badTile s.plains[p] = none) (hwaits : allWaitsMet s.plains[p] = false) :
    exec (.stepRelease p cols) s =
      .next (modPlain s p fun P => { flagCorrections P with stall := { P.stall with since := some (P.stall.since.getD s.timeNs) } }) := by
  have hsame := modPlain_same s p flagCorrections
  change execStepRelease p cols s = _
  unfold execStepRelease
  rw [hcan, hready, if_neg (by decide)]
  dsimp only
  rw [hsame, badTile_flagCorrections, hbad]
  dsimp only
  rw [allWaitsMet_flagCorrections, if_neg (by rw [hwaits]; exact Bool.false_ne_true), modPlain_modPlain]
  obtain ⟨⟨-, hphase⟩, hstep⟩ : (modeStepping s.plains[p].run.mode = true ∧ s.plains[p].run.phase = .stepping) ∧
      s.plains[p].run.step < s.plains[p].ldr.len := by simpa [canStep] using hcan
  have hmust : mustWait (flagCorrections s.plains[p]) = true := by
    rw [mustWait_iff, badTile_flagCorrections, allWaitsMet_flagCorrections, flagCorrections_run, flagCorrections_ldr]
    exact ⟨hstep, hbad, hwaits⟩
  have hwait := startWait_waits s.timeNs (P := flagCorrections s.plains[p]) (by rw [flagCorrections_run]; exact hphase) hmust
  rw [flagCorrections_idem, flagCorrections_stall] at hwait
  exact congrArg Host.Outcome.next (modPlain_congr hwait)

/-! ## The join of a step (R110, R119, R124) -/

theorem closeStall_since (S : Stall) (now : Nat) : (closeStall S now).since = none := by
  unfold closeStall
  split
  · rfl
  · assumption

theorem closeStall_acc {S : Stall} {b : Nat} (h : S.since = some b) (now : Nat) : (closeStall S now).acc = S.acc + (now - b) := by
  simp only [closeStall, h]

/-- A Plain whose step joins, before the next step may wait. -/
def atJoin (skip now : Nat) (cols : BitVec 9) (P : Plain) : Plain :=
  { P with
    col := { colLag cols skip P.col with lagPend := 0, lastJoin := cols }
    stall := closeStall P.stall now
    run := { P.run with phase := .stepping, step := P.run.step + 1 } }

section join

variable (skip now : Nat) (cols : BitVec 9) (P : Plain)

theorem joinStep_eq : joinStep skip now cols P = startWait now (atJoin skip now cols P) := rfl

/-- A join changes the tiles' correction flags, the stall, the step and the Col registers. -/
theorem joinStep_frame : ∃ T since, joinStep skip now cols P = { P with
    tiles := T, col := (atJoin skip now cols P).col, run := (atJoin skip now cols P).run,
    stall := { closeStall P.stall now with since := since } } := by
  obtain ⟨T, since, h⟩ := startWait_frame now (atJoin skip now cols P)
  exact ⟨T, since, h⟩

theorem mustWait_joinStep : mustWait (joinStep skip now cols P) = mustWait (atJoin skip now cols P) := mustWait_startWait now rfl

/-- The stall before the join has ended, and one of the next step begins at once where its WAIT does not hold. -/
theorem joinStep_since : (joinStep skip now cols P).stall.since = if mustWait (joinStep skip now cols P) then some now else none := by
  rw [mustWait_joinStep, joinStep_eq]
  have hended : (atJoin skip now cols P).stall.since = none := closeStall_since _ _
  cases hw : mustWait (atJoin skip now cols P) with
  | true =>
    rw [startWait_waits now rfl hw, hended]
    rfl
  | false =>
    rw [startWait_goes now rfl hw, hended]
    rfl

/-- A tile reads the next step's word at the join where that step waits. -/
theorem joinStep_tiles (t : Fin 64) : (joinStep skip now cols P).tiles[t] =
    setStatIf ((joinStep skip now cols P).stall.since.isSome && storeCorrects P.ldr.curBank P.tiles[t] (P.run.step + 1)) 7 P.tiles[t] := by
  have hsome : (joinStep skip now cols P).stall.since.isSome = mustWait (atJoin skip now cols P) := by
    rw [joinStep_since, mustWait_joinStep]
    cases mustWait (atJoin skip now cols P) <;> rfl
  rw [hsome]
  exact startWait_tiles now rfl t

end join

/-! ## The end of back-pressure (R119) -/

theorem allTiles_frame (P : Plain) (f : Fin 64 → Tile → Tile) :
    ∃ V, allTiles P f = { P with tiles := V } ∧ ∀ t : Fin 64, V[t] = f t P.tiles[t] :=
  ⟨vall P.tiles f, rfl, fun t => vall_at P.tiles f t⟩

/-- A push that enters its queue leaves a tile's schedule. -/
theorem scheduleOf_admitHeld (T : Tile) : scheduleOf (admitHeld T) = scheduleOf T := by
  unfold admitHeld
  dsimp only
  repeat' split
  all_goals rfl

/-- BACK_PRESSURE_STALL_END once every held push has room. -/
theorem exec_backPressureStallEnd (hphase : s.plains[p].run.phase = .backPressure) (hroom : s.plains[p].tiles.toList.all heldHasRoom = true) :
    exec (.backPressureStallEnd p) s =
      .next (modPlain s p fun P => joinStep (skipCol s.fuses p) s.timeNs P.col.lagPend (allTiles P fun _ => admitHeld)) :=
  if_pos ⟨hphase, hroom⟩

/-! ## An abandoned cycle (R387) -/

/-- `Q` is `P` but for its HIU and for a STEP and a MODE that no longer wait; no VALLEY has come to wait. -/
def JobsEnded (P Q : Plain) : Prop :=
  ∃ hiu steps pend, Q = { P with hiu := hiu, run := { P.run with stepsLeft := steps, modePend := pend } } ∧
    (pend = some .valley → P.run.modePend = some .valley)

variable {P Q R : Plain}

theorem JobsEnded.refl (P : Plain) : JobsEnded P P := ⟨_, _, _, rfl, id⟩

theorem JobsEnded.trans (h : JobsEnded P Q) (k : JobsEnded Q R) : JobsEnded P R := by
  obtain ⟨_, _, _, rfl, hv⟩ := h
  obtain ⟨_, _, _, rfl, kv⟩ := k
  exact ⟨_, _, _, rfl, fun e => hv (kv e)⟩

theorem jobsEnded_finishJob (P : Plain) (status result : Nat) : JobsEnded P (finishJob P status result) := by
  unfold finishJob
  split
  · exact .refl P
  · exact ⟨_, _, _, rfl, id⟩

theorem jobsEnded_finishJobOf (k : JobKind) (P : Plain) (status result : Nat) : JobsEnded P (finishJobOf k P status result) := by
  unfold finishJobOf
  split
  · split
    · exact jobsEnded_finishJob P status result
    · exact .refl P
  · exact .refl P

theorem jobsEnded_ite {c : Prop} [Decidable c] (h : c → JobsEnded P Q) : JobsEnded P (if c then Q else P) := by
  split
  · exact h ‹_›
  · exact .refl P

/-- An entry to HOLD ends the JOB in progress, a STEP's count and a MODE that waits, but no VALLEY (R269, R270, R381). -/
theorem jobsEnded_holdJobs (P : Plain) : JobsEnded P (holdJobs P) := by
  have hstep (Q : Plain) : JobsEnded Q { finishJobOf .step Q 0 Q.run.cycle with run := { Q.run with stepsLeft := none } } := by
    obtain ⟨_, _, _, h, -⟩ := jobsEnded_finishJobOf .step Q 0 Q.run.cycle
    rw [h]
    exact ⟨_, _, _, rfl, id⟩
  have hmode (Q : Plain) : JobsEnded Q { finishJobOf .mode Q 0x0C 0 with run := { Q.run with modePend := none } } := by
    obtain ⟨_, _, _, h, -⟩ := jobsEnded_finishJobOf .mode Q 0x0C 0
    rw [h]
    exact ⟨_, _, _, rfl, nofun⟩
  exact (((jobsEnded_finishJobOf .hold P 0 P.run.cycle).trans (jobsEnded_ite fun _ => jobsEnded_finishJob _ 0x11 0)).trans
    (jobsEnded_ite fun _ => hstep _)).trans (jobsEnded_ite fun _ => hmode _)

/-- `Q` is `P` stopped in HOLD, in the same cycle, with its tiles and Basin; a VALLEY waits only where it did. -/
structure HeldFrom (P Q : Plain) : Prop where
  mode : Q.run.mode = .hold
  phase : Q.run.phase = .stopped
  cycle : Q.run.cycle = P.run.cycle
  valley : Q.run.modePend = some .valley → P.run.modePend = some .valley
  tiles : Q.tiles = P.tiles
  basin : Q.basin = P.basin

theorem setMode_run (P : Plain) (m : Mode) : ∃ prev, (setMode P m).run = { P.run with mode := m, prev := prev } := by
  unfold setMode
  split
  · rename_i h
    exact ⟨P.run.prev, by rw [← h]⟩
  · exact ⟨P.run.mode, rfl⟩

/-- An entry to HOLD stops the Plain in its cycle and leaves the tiles and the Basin (R21). -/
theorem enterHold_held (P : Plain) : HeldFrom P (enterHold P) ∧ (enterHold P).health = P.health := by
  obtain ⟨hiu, steps, pend, hjobs, hvalley⟩ := jobsEnded_holdJobs P
  obtain ⟨prev, hrun⟩ := setMode_run (holdJobs P) .hold
  unfold enterHold
  dsimp only
  rw [hrun, hjobs]
  refine ⟨⟨rfl, rfl, rfl, fun h => ?_, setMode_tiles _ _, setMode_basin _ _⟩, setMode_health _ _⟩
  dsimp only at h
  split at h
  · exact hvalley ‹_›
  · cases h

/-- A cycle is abandoned by the entry to HOLD of a Plain in which its stall has ended and its CYCLE frame asks the peers to hold (R387). -/
theorem abandonCycle_enterHold (tstep : Nat) (P : Plain) (now : Nat) : ∃ steps stall sync heldAt,
    let H := enterHold { P with run := { P.run with stepCount := steps }, stall := stall, sync := sync }
    abandonCycle tstep P now = recompute tstep { H with
      health := { H.health with incomplete := true }, run := { H.run with heldAt := heldAt, holdNext := false, holdAsks := false } } :=
  ⟨_, _, _, _, rfl⟩

/-- An abandoned cycle takes no boundary: the Plain stops in HOLD in the same cycle, which is INCOMPLETE (R387). -/
theorem abandonCycle_held (tstep : Nat) (P : Plain) (now : Nat) : HeldFrom P (abandonCycle tstep P now) ∧
    (abandonCycle tstep P now).health = { P.health with incomplete := true } := by
  obtain ⟨steps, stall, sync, heldAt, h⟩ := abandonCycle_enterHold tstep P now
  obtain ⟨hheld, hhealth⟩ := enterHold_held { P with run := { P.run with stepCount := steps }, stall := stall, sync := sync }
  rw [h]
  exact ⟨⟨hheld.mode, hheld.phase, hheld.cycle, hheld.valley, hheld.tiles, hheld.basin⟩, congrArg (fun h => { h with incomplete := true }) hhealth⟩

/-- Where no VALLEY waits, none follows. -/
theorem valleyFollows_idle {t : State} (h : t.plains[p].run.modePend ≠ some .valley) : valleyFollows t p = t :=
  if_neg fun e => h e.2

/-- A Plain in which a fault has opened its window (R384). -/
def withWindow (now code unit : Nat) (P : Plain) : Plain :=
  { openWindow P now code unit with run := { (openWindow P now code unit).run with recovered := true } }

theorem withWindow_frame (now code unit : Nat) (P : Plain) : ∃ mgr health, withWindow now code unit P =
    { P with mgr := mgr, health := health, run := { P.run with recovered := true } } ∧
    health.winOpen = true ∧ health.code = BitVec.ofNat 8 code := by
  unfold withWindow openWindow
  dsimp only
  rw [event_frame]
  exact ⟨_, _, rfl, rfl, rfl⟩

/-- A fault with no window open and no VALLEY waiting opens its window and abandons the cycle (R384, R387). -/
theorem abandon_next {code unit : Nat} (hwin : s.plains[p].health.winOpen = false) (hvalley : s.plains[p].run.modePend ≠ some .valley) :
    valleyFollows (raiseFault s p code unit fun v => modPlain v p fun P => abandonCycle v.fuses.tstepPs P v.timeNs) p =
      modPlain s p fun P => abandonCycle s.fuses.tstepPs (withWindow s.timeNs code unit P) s.timeNs := by
  have hraise : raiseFault s p code unit (fun v => modPlain v p fun P => abandonCycle v.fuses.tstepPs P v.timeNs) =
      modPlain s p fun P => abandonCycle s.fuses.tstepPs (withWindow s.timeNs code unit P) s.timeNs := by
    rcases raiseFault_cases s p code unit (fun v => modPlain v p fun P => abandonCycle v.fuses.tstepPs P v.timeNs) with
      ⟨-, h⟩ | ⟨hopen, -⟩ | ⟨hopen, -⟩
    · exact h.trans (modPlain_modPlain s p _ _)
    · exact absurd (hopen.symm.trans hwin) nofun
    · exact absurd (hopen.symm.trans hwin) nofun
  rw [hraise]
  refine valleyFollows_idle ?_
  rw [modPlain_same]
  obtain ⟨mgr, health, hframe, -⟩ := withWindow_frame s.timeNs code unit s.plains[p]
  have hheld := (abandonCycle_held s.fuses.tstepPs (withWindow s.timeNs code unit s.plains[p]) s.timeNs).1.valley
  rw [hframe] at hheld ⊢
  exact fun e => hvalley (hheld e)

/-- What a fault that abandons the cycle makes of the Plain (R384, R387). -/
theorem abandoned_plain (tstep now code unit : Nat) (P : Plain) :
    HeldFrom P (abandonCycle tstep (withWindow now code unit P) now) ∧
    (abandonCycle tstep (withWindow now code unit P) now).health.incomplete = true ∧
    (abandonCycle tstep (withWindow now code unit P) now).health.winOpen = true ∧
    (abandonCycle tstep (withWindow now code unit P) now).health.code = BitVec.ofNat 8 code := by
  obtain ⟨hheld, hhealth⟩ := abandonCycle_held tstep (withWindow now code unit P) now
  obtain ⟨mgr, health, hframe, hopen, hcode⟩ := withWindow_frame now code unit P
  rw [hhealth]
  rw [hframe] at hheld ⊢
  exact ⟨⟨hheld.mode, hheld.phase, hheld.cycle, hheld.valley, hheld.tiles, hheld.basin⟩, rfl, hopen, hcode⟩

/-- STALL_TIMEOUT of a stall of more than STALL_US raises fault 0x0B. -/
theorem exec_stallTimeout {b : Nat} (hmode : modeStepping s.plains[p].run.mode = true)
    (hphase : s.plains[p].run.phase = .stepping ∨ s.plains[p].run.phase = .backPressure) (hsince : s.plains[p].stall.since = some b)
    (hon : s.plains[p].health.stallUs ≠ 0) (hlong : s.plains[p].health.stallUs.toNat * 1000 < s.timeNs - b) :
    exec (.stallTimeout p) s = .next (valleyFollows (raiseFault s p 0x0B (stalledTile s.plains[p]).val
      fun v => modPlain v p fun P => abandonCycle v.fuses.tstepPs P v.timeNs) p) := by
  change execStallTimeout p s = _
  unfold execStallTimeout
  dsimp only
  rw [hsince]
  refine if_pos ?_
  simp only [Bool.and_eq_true, Bool.or_eq_true, decide_eq_true_eq]
  exact ⟨⟨⟨hon, hlong⟩, hmode⟩, hphase⟩

/-- Settles O2: a WAIT that fails starts the stall of its step, a join ends it and may start the next one's, and STALL_TIMEOUT is a fault
that abandons the cycle. -/
theorem stallsHoldAStepAndEnd : Obligations.StallsHoldAStepAndEnd := by
  unfold Obligations.StallsHoldAStepAndEnd
  refine ⟨fun p cols s hcan hready hbad hwaits => exec_stepRelease_waits cols hcan hready hbad hwaits, fun p s hphase hroom => ?_,
    fun p s b hmode hphase hsince hon hlong hwin hvalley => ?_⟩
  · refine ⟨_, exec_backPressureStallEnd hphase hroom, onlyPlain_modPlain s p _, ?_⟩
    rw [modPlain_same]
    generalize s.plains[p] = P
    obtain ⟨V, hV, hadmit⟩ := allTiles_frame P fun _ => admitHeld
    rw [hV]
    have htiles := joinStep_tiles (skipCol s.fuses p) s.timeNs P.col.lagPend { P with tiles := V }
    have hsince := joinStep_since (skipCol s.fuses p) s.timeNs P.col.lagPend { P with tiles := V }
    obtain ⟨T, since, hframe⟩ := joinStep_frame (skipCol s.fuses p) s.timeNs P.col.lagPend { P with tiles := V }
    refine ⟨fun k => (htiles k).trans ?_, ?_, ?_, ?_, ?_, ?_⟩
    · rw [hadmit, storeCorrects_congr (scheduleOf_admitHeld _)]
    · rw [hframe]
      rfl
    · simp only [hsince, mustWait_iff]
    · intro b hb
      rw [hframe]
      exact closeStall_acc hb s.timeNs
    · rw [hframe]
      rfl
    · rw [hframe]
  · obtain ⟨hheld, hincomplete, hopen, hcode⟩ := abandoned_plain s.fuses.tstepPs s.timeNs 0x0B (stalledTile s.plains[p]).val s.plains[p]
    refine ⟨_, (exec_stallTimeout hmode hphase hsince hon hlong).trans (congrArg _ (abandon_next hwin hvalley)),
      (onlyPlain_modPlain s p _).others, ?_⟩
    rw [modPlain_same]
    exact ⟨hheld.mode, hheld.phase, hheld.cycle, hincomplete, hopen, hcode, hheld.tiles, hheld.basin⟩

end Sys2Proof.Machine
end

section
/-! SUPPORT. Delivery of buffered Pass words (06 R121, 08 R163-R166, 09 R186): the queue, the link and the log of a word that is pushed. -/

namespace Sys2Proof.Machine

variable {p l : Fin 8} {c : Fin 64} {s : State} {w : InWord}

/-! ## The word's queue, credit and record -/

theorem inDepth_pushIn (T : Tile) (q : Nat) (x : Word) : inDepth (pushIn T q x) q = inDepth T q + 1 := by
  match q with
  | 0 | 1 | 2 | _ + 3 => exact List.length_append

theorem oweCredit_inbuf (now : Nat) (w : InWord) (L : Link) : (oweCredit now w L).inbuf = L.inbuf := by
  unfold oweCredit
  split <;> rfl

theorem oweCredit_foreign (now : Nat) (w : InWord) (L : Link) : (oweCredit now w L).foreign = L.foreign := by
  unfold oweCredit
  split <;> rfl

/-- A word of the present grants owes its credit (R164). -/
theorem oweCredit_owed (now : Nat) {w : InWord} (L : Link) (h : w.old = false) :
    (oweCredit now w L).owed = put 0 L.owed w.chan (look 0 L.owed w.chan + 1) := by
  simp only [oweCredit, h, Bool.false_eq_true, if_false]

/-- A word of an earlier opening owes none. -/
theorem oweCredit_old (now : Nat) {w : InWord} (L : Link) (h : w.old = true) : (oweCredit now w L).owed = L.owed := by
  simp only [oweCredit, h, if_true]

/-- Logging a word changes the capture engine only. -/
theorem logPassIn_frame (l : Fin 8) (w : InWord) (P : Plain) : ∃ cap, logPassIn l w P = { P with cap := cap } := by
  unfold logPassIn
  split
  · exact ⟨P.cap, rfl⟩
  · dsimp only
    split <;> exact ⟨_, rfl⟩

/-- A Plain in which word `w` of link `l` has entered queue `d`. -/
def withWord (now : Nat) (l : Fin 8) (w : InWord) (d : Fin 64 × Nat) (P : Plain) : Plain :=
  modLink (modTile P d.1 fun T => pushIn T d.2 w.data) l fun L => oweCredit now w { L with inbuf := removeFirst w.chan L.inbuf }

/-- A Plain that has logged the word of a foreign link (R186). -/
def withRecord (l : Fin 8) (w : InWord) (P : Plain) : Plain := if P.links[l].foreign then logPassIn l w P else P

theorem withWord_link (now : Nat) (l : Fin 8) (w : InWord) (d : Fin 64 × Nat) (P : Plain) :
    (withWord now l w d P).links[l] = oweCredit now w { P.links[l] with inbuf := removeFirst w.chan P.links[l].inbuf } := modLink_same _ _ _

theorem withRecord_frame (l : Fin 8) (w : InWord) (P : Plain) :
    ∃ cap, withRecord l w P = { P with cap := cap } ∧ (P.links[l].foreign = false → cap = P.cap) := by
  unfold withRecord
  split
  · rename_i hf
    obtain ⟨cap, h⟩ := logPassIn_frame l w P
    exact ⟨cap, h, fun hn => absurd (hf.symm.trans hn) nofun⟩
  · exact ⟨P.cap, rfl, fun _ => rfl⟩

/-! ## The row (R121) -/

/-- A word's queue is full, the log has no room for it, or the queue's far side is stopped (R121, R177, R184). -/
def heldBack (P : Plain) (l : Fin 8) (d : Fin 64 × Nat) : Prop :=
  8 ≤ inDepth P.tiles[d.1] d.2 ∨ (P.links[l].foreign = true ∧ inputRoom P 8 = false) ∨ farSideRuns P P.links[l] = false

theorem exec_passRxPush (hnext : nextIn s.plains[p].links[l] c = some w) :
    let d := chanDest s.plains[p].links[l] w.chan
    (heldBack s.plains[p] l d → exec (.passRxPush p l c) s = .next s) ∧
    (¬ heldBack s.plains[p] l d → exec (.passRxPush p l c) s = .next (modPlain s p fun P => withRecord l w (withWord s.timeNs l w d P))) := by
  intro d
  have hrow : exec (.passRxPush p l c) s =
      if 8 ≤ inDepth s.plains[p].tiles[d.1] d.2 ∨ (s.plains[p].links[l].foreign ∧ !inputRoom s.plains[p] 8) ∨
        !farSideRuns s.plains[p] s.plains[p].links[l] then .next s
      else .next (modPlain s p fun P => withRecord l w (withWord s.timeNs l w d P)) := by
    change execPassRxPush p l c s = _
    unfold execPassRxPush
    dsimp only
    rw [hnext]
    rfl
  rw [hrow]
  simp only [Bool.not_eq_true']
  exact ⟨fun h => if_pos h, fun h => if_neg h⟩

/-- Settles O18: the word that is next enters its queue and leaves the buffer, its credit is owed, and a foreign word is logged. -/
theorem receivedWordEntersItsQueue : Obligations.ReceivedWordEntersItsQueue := by
  unfold Obligations.ReceivedWordEntersItsQueue
  intro p l c s w hnext L d
  obtain ⟨hheld, hfree⟩ := exec_passRxPush hnext
  split
  · exact hheld ‹_›
  · refine ⟨_, hfree ‹_›, onlyPlain_modPlain s p _, ?_⟩
    rw [modPlain_same]
    have hlink : (withWord s.timeNs l w d s.plains[p]).links[l] = oweCredit s.timeNs w { L with inbuf := removeFirst w.chan L.inbuf } :=
      withWord_link _ _ _ _ _
    have htile : (withWord s.timeNs l w d s.plains[p]).tiles[d.1] = pushIn s.plains[p].tiles[d.1] d.2 w.data := modTile_same _ _ _
    obtain ⟨cap, hframe, hcap⟩ := withRecord_frame l w (withWord s.timeNs l w d s.plains[p])
    rw [hframe]
    dsimp only
    rw [hlink, htile]
    rw [hlink, oweCredit_foreign] at hcap
    exact ⟨rfl, inDepth_pushIn _ _ _, fun k hk => modTile_other _ _ _ _ hk, oweCredit_inbuf _ _ _, fun h => oweCredit_owed _ _ h,
      fun h => oweCredit_old _ _ h, fun m hm => modLink_other _ _ _ _ hm, hcap, rfl⟩

end Sys2Proof.Machine
end

section
/-! SUPPORT. The canonical form of the memories of a Plain (07 R133, 11 R223, R237, 15 R318, R326): of the Basin, of SPAD and NVS, and of
the Manager's register files, and what the operations on each of the three keep of it. -/

namespace Sys2Proof.Machine

-- One proof after the other: the threads of parallel elaboration take their stacks from the check's memory limit.
set_option Elab.async false

/-! ## The forms -/

/-- The Basin's data and written-tags are in canonical form. -/
structure CanonBasin (B : Basin) : Prop where
  data : Memory.wf Config.basinFree B.data = true
  tags : Sparse.wf (fun _ => false) B.tags = true

/-- SPAD and NVS are in canonical form. -/
structure CanonStore (M : Store) : Prop where
  spad : Memory.wf zeroByte M.spad = true
  nvs : Memory.wf zeroByte M.nvs = true

/-- The Manager's general registers, ports and CSRs are in canonical form. -/
structure CanonMgr (M : Manager) : Prop where
  g : Sparse.wf (fun _ => (0 : DWord)) M.g = true
  ports : Sparse.wf (fun _ => (0 : DWord)) M.ports = true
  csr : Sparse.wf (fun _ => (0 : DWord)) M.csr = true

/-- The memories of a Plain are in canonical form. -/
structure CanonPlain (P : Plain) : Prop where
  basin : CanonBasin P.basin
  mem : CanonStore P.mem
  mgr : CanonMgr P.mgr

/-- The memories of every Plain are in canonical form. -/
def Canon (s : State) : Prop := ∀ q : Fin 8, CanonPlain s.plains[q]

theorem memInv_iff (s : State) : MemInv s ↔ Canon s := by
  refine forall_congr' fun q => ⟨fun ⟨hd, ht, hs, hn, hg, hp, hc⟩ => ⟨⟨hd, ht⟩, ⟨hs, hn⟩, ⟨hg, hp, hc⟩⟩, fun h => ?_⟩
  exact ⟨h.basin.data, h.basin.tags, h.mem.spad, h.mem.nvs, h.mgr.g, h.mgr.ports, h.mgr.csr⟩

/-! ## Branches and folds, for any property that is kept -/

section
variable {α β : Type} {C : α → Prop} {c : Prop} [Decidable c]

theorem keep_ite {x y : α} (hx : C x) (hy : C y) : C (if c then x else y) := by
  split
  · exact hx
  · exact hy

theorem keep_ite_fst {x y : α × β} (hx : C x.1) (hy : C y.1) : C (if c then x else y).1 := by
  split
  · exact hx
  · exact hy

theorem keep_foldl {f : α → β → α} {a : α} {l : List β} (h : C a) (hf : ∀ {v x}, C v → C (f v x)) : C (l.foldl f a) :=
  List.foldlRecOn l f h fun _ hv _ _ => hf hv

/-- The first component of a pair that a match has named. -/
theorem keep_of_fst {x : α × β} {a : α} {b : β} (h : C x.1) (e : x = (a, b)) : C a := by rwa [e] at h
end

/-! ## The Basin -/

section
variable {B : Basin}

/-- A change of the Basin outside data and tags. -/
theorem CanonBasin.frame {B' : Basin} (h : CanonBasin B) (hd : B'.data = B.data := by rfl) (ht : B'.tags = B.tags := by rfl) : CanonBasin B' :=
  ⟨hd ▸ h.data, ht ▸ h.tags⟩

theorem CanonBasin.withTags {T : Sparse Bool} (h : CanonBasin B) (ht : Sparse.wf (fun _ => false) T = true) :
    CanonBasin { B with tags := T } := ⟨h.data, ht⟩

theorem canonBasin_empty : CanonBasin {} := ⟨rfl, rfl⟩

theorem canonBasin_noteOverlap {off n : Nat} (h : CanonBasin B) : CanonBasin (noteOverlap off n B) := by
  refine keep_foldl h fun hv => ?_
  split
  · exact hv
  · exact hv.frame

theorem canonBasin_noteCe {k : Nat} (h : CanonBasin B) : CanonBasin (noteCe k B) := keep_ite h h.frame

theorem canonBasin_noteUe {master w : Nat} (h : CanonBasin B) : CanonBasin (noteUe master w B) := keep_ite h.frame h.frame

theorem canonBasin_rawWrite {off : Nat} {bs : List Byte} (h : CanonBasin B) : CanonBasin (rawWrite off bs B) :=
  ⟨writeBytes_wf _ _ _ _ h.data, h.tags⟩

theorem canonBasin_jrnlAppend {k : Nat} {bs : List Byte} (h : CanonBasin B) : CanonBasin (jrnlAppend k bs B) := by
  induction k generalizing bs B with
  | zero => exact h
  | succ k ih => exact ih (canonBasin_rawWrite h).frame

theorem canonBasin_materialise {block : Nat} (h : CanonBasin B) : CanonBasin (materialise B block) := by
  unfold materialise
  split
  · exact h
  · have hw : CanonBasin (rawWrite (512 * block) (basinBytes B (512 * block) 512) B) := canonBasin_rawWrite h
    exact keep_ite h (hw.withTags (put_wf _ _ _ _ h.tags))

theorem canonBasin_storeBytes {off : Nat} {refused : List Nat} {bs : List Byte} (h : CanonBasin B) : CanonBasin (storeBytes off refused bs B) := by
  refine ⟨keep_foldl (C := fun m => Memory.wf Config.basinFree m = true) h.data fun {m x} hm => ?_, h.tags⟩
  dsimp only
  split
  · exact hm
  · exact sset_wf _ _ _ _ hm

theorem canonBasin_ringWrite {base size k off : Nat} {bs : List Byte} (h : CanonBasin B) : CanonBasin (ringWrite base size k off bs B) := by
  induction k generalizing off bs B with
  | zero => exact h
  | succ k ih => exact keep_ite h (ih (canonBasin_rawWrite h))

theorem canonBasin_undoRecord {r : Nat × Nat × List Byte} (h : CanonBasin B) : CanonBasin (undoRecord B r) := by
  have hw : CanonBasin (if r.2.2 = [] then B else rawWrite r.1 r.2.2 B) := keep_ite h (canonBasin_rawWrite h)
  exact ⟨hw.data, keep_foldl (C := fun m => Sparse.wf (fun _ => false) m = true) hw.tags (put_wf _ _ _ _)⟩

theorem canonBasin_rewind {g : Nat} (h : CanonBasin B) : CanonBasin (rewind g B) :=
  (keep_ite h (keep_foldl h canonBasin_undoRecord)).frame

theorem canonBasin_basinCtl {v : Word} (h : CanonBasin B) : CanonBasin (basinCtl v B) := keep_ite h.frame h.frame

theorem canonBasin_rsvWrite {mode : Mode} {k : Fin 5} {v : Word} (h : CanonBasin B) : CanonBasin (rsvWrite mode k v B) :=
  keep_ite h (keep_ite h.frame h.frame)

theorem canonBasin_writeLayout {o : Nat} {v : Word} (h : CanonBasin B) : CanonBasin (writeLayout o v B) :=
  keep_ite h.frame (keep_ite h.frame h.frame)

/-- A load clears the written-tags of the image's regions (10 R208). -/
theorem canonBasin_loadBasin {d region : List Byte} (h : CanonBasin B) : CanonBasin (loadBasin d region B) :=
  have hr : CanonBasin (loadRsv d B) := keep_foldl h.frame canonBasin_rsvWrite
  ⟨hr.data, filter_wf _ _ _ hr.tags⟩
end

/-! ## SPAD and NVS -/

section
variable {M : Store}

/-- A change of SPAD's and NVS's registers and errors. -/
theorem CanonStore.frame {M' : Store} (h : CanonStore M) (hs : M'.spad = M.spad := by rfl) (hn : M'.nvs = M.nvs := by rfl) : CanonStore M' :=
  ⟨hs ▸ h.spad, hn ▸ h.nvs⟩

theorem writeBut_wf {u off : Nat} {bad : List Nat} {d : Nat → Byte} {m : List Host.Cell} {bs : List Byte} (h : Memory.wf d m = true) :
    Memory.wf d (writeBut u bad d m off bs) = true := by
  refine keep_foldl (C := fun m => Memory.wf d m = true) h fun {m x} hm => ?_
  dsimp only
  split
  · exact hm
  · exact sset_wf _ _ _ _ hm

theorem canonStore_startWipe (h : CanonStore M) : CanonStore (startWipe M) := ⟨filter_wf _ _ _ h.spad, h.nvs⟩

theorem canonStore_noteSpadCe {ws : List Nat} (h : CanonStore M) : CanonStore (noteSpadCe ws M) := keep_ite h h.frame

theorem canonStore_noteNvsCe {ls : List Nat} (h : CanonStore M) : CanonStore (noteNvsCe ls M) := keep_ite h h.frame
end

end Sys2Proof.Machine
end

section
/-! SUPPORT. The Manager's register files keep their canonical form (11 R223-R237, 12 R243-R250): the effects of an instruction, of a trap
and of what arrives. -/

namespace Sys2Proof.Machine

-- One proof after the other: the threads of parallel elaboration take their stacks from the check's memory limit.
set_option Elab.async false

variable {M N A : Manager}

/-- A change of the Manager outside its register files. -/
theorem CanonMgr.frame (h : CanonMgr M) (hg : N.g = M.g := by rfl) (hp : N.ports = M.ports := by rfl) (hc : N.csr = M.csr := by rfl) :
    CanonMgr N := ⟨hg ▸ h.g, hp ▸ h.ports, hc ▸ h.csr⟩

theorem canonMgr_managerReset {keepLs : Bool} {now : Nat} : CanonMgr (managerReset keepLs now M) := keep_ite ⟨rfl, rfl, rfl⟩ ⟨rfl, rfl, rfl⟩

/-! ## Writes of a register, a port and a CSR -/

theorem canonMgr_mgrSetG {i : Nat} {v : DWord} (h : CanonMgr M) : CanonMgr (mgrSetG M i v) := keep_ite h ⟨put_wf _ _ _ _ h.g, h.ports, h.csr⟩

theorem canonMgr_mgrMark {i : Nat} (h : CanonMgr M) : CanonMgr (mgrMark M i) := keep_ite h h.frame

theorem canonMgr_mgrResult {i : Nat} {v : DWord} (h : CanonMgr M) : CanonMgr (mgrResult M i v) := (canonMgr_mgrSetG h).frame

theorem canonMgr_port {n : Nat} {v : DWord} (h : CanonMgr M) : CanonMgr { M with ports := put 0 M.ports n v } :=
  ⟨h.g, put_wf _ _ _ _ h.ports, h.csr⟩

theorem canonMgr_mgrSetCsr {n : Nat} {v : DWord} (h : CanonMgr M) : CanonMgr (mgrSetCsr M n v) := ⟨h.g, h.ports, put_wf _ _ _ _ h.csr⟩

theorem canonMgr_mgrCsrWrite {n : Nat} {v : DWord} (h : CanonMgr M) : CanonMgr (mgrCsrWrite M n v) :=
  keep_ite h (keep_ite (canonMgr_mgrSetCsr h) (canonMgr_mgrSetCsr h))

theorem canonMgr_escSet {i : Nat} {b : Bool} (h : CanonMgr M) : CanonMgr (escSet M i b) := canonMgr_mgrSetCsr h

theorem canonMgr_setMachineCs {len : Nat} (h : CanonMgr M) : CanonMgr (setMachineCs M len) :=
  ⟨h.g, h.ports, put_wf _ _ _ _ (put_wf _ _ _ _ h.csr)⟩

/-! ## Traps (12 R243-R247) -/

theorem canonMgr_mgrSaveBlock (h : CanonMgr M) : CanonMgr (mgrSaveBlock M) := by
  unfold mgrSaveBlock
  split
  · exact h
  next b _ =>
    extract_lets M0 M1 M2
    have h0 : CanonMgr M0 := canonMgr_mgrSetCsr h
    have h1 : CanonMgr M1 := canonMgr_mgrSetCsr (canonMgr_mgrSetCsr h0)
    have h2 : CanonMgr M2 := canonMgr_mgrSetCsr (canonMgr_mgrSetCsr h1)
    exact keep_ite h.frame h2.frame

theorem canonMgr_mgrResumeBlock {step : Nat} {n : Fin 3} (h : CanonMgr M) : CanonMgr (mgrResumeBlock step n M) :=
  keep_ite (canonMgr_mgrMark (canonMgr_mgrSetCsr h)).frame h

theorem canonMgr_trapDelay (h : CanonMgr M) : CanonMgr (trapDelay M) := h.frame

theorem canonMgr_mgrEnter {c : Nat} {x epc : DWord} (h : CanonMgr M) : CanonMgr (mgrEnter c x epc M) := by
  unfold mgrEnter
  extract_lets M0 t base status M1 M2 M3 M4 M5
  have h2 : CanonMgr M2 := canonMgr_mgrSetCsr (canonMgr_mgrSetCsr (canonMgr_mgrSaveBlock (canonMgr_trapDelay h)))
  have h5 : CanonMgr M5 := canonMgr_escSet (canonMgr_mgrSetCsr (canonMgr_mgrSetCsr h2))
  exact h5.frame

theorem canonMgr_mgrDouble {c : Nat} {raiser : DWord} (h : CanonMgr M) : CanonMgr (mgrDouble c raiser M) := by
  unfold mgrDouble
  extract_lets M0 first esc count M1 M2 M3
  have h3 : CanonMgr M3 := canonMgr_mgrSetCsr (canonMgr_mgrSetCsr (canonMgr_mgrSetCsr (canonMgr_mgrSaveBlock (canonMgr_trapDelay h))))
  exact h3.frame

/-! ## The effects of an instruction (11 R221-R237) -/

theorem canonMgr_mgrOperands {xs : List (MgrMove × DWord)} (h : CanonMgr M) : CanonMgr (mgrOperands M xs) :=
  keep_foldl h fun hv => keep_ite (canonMgr_port hv) hv

theorem canonMgr_mgrMoves {xs : List (MgrMove × DWord)} (h : CanonMgr M) : CanonMgr (mgrMoves xs M) :=
  keep_foldl h fun hv => keep_ite (canonMgr_mgrSetG hv) (keep_ite hv.frame (keep_ite hv.frame (keep_ite hv.frame hv)))

theorem canonMgr_mgrLong {step unit reg lat : Nat} {v : DWord} (h : CanonMgr M) : CanonMgr (mgrLong step unit reg lat v M) :=
  canonMgr_mgrMark h.frame

theorem canonMgr_mgrIssue {step : Nat} {use : MgrUse} {lvl : Fin 3} {addr size : Nat} {v : DWord} (h : CanonMgr M) :
    CanonMgr (mgrIssue step use lvl addr size v M) := h.frame

theorem canonMgr_mgrLs {step n : Nat} {v : DWord} (h : CanonMgr A) : CanonMgr (mgrLs M N step n v A) :=
  keep_ite h.frame (keep_ite (canonMgr_mgrIssue h) (canonMgr_mgrMark (canonMgr_mgrIssue h)))

theorem canonMgr_mgrCall {step ext : Nat} {target : DWord} (h : CanonMgr A) : CanonMgr (mgrCall M step ext target A) := by
  unfold mgrCall
  extract_lets st A1 low A2
  have h1 : CanonMgr A1 := keep_foldl h canonMgr_mgrIssue
  have h2 : CanonMgr A2 := keep_ite h1.frame h1.frame
  exact h2.frame

theorem canonMgr_mgrTret {step : Nat} (h : CanonMgr A) : CanonMgr (mgrTret M step A) :=
  canonMgr_mgrResumeBlock (keep_ite (canonMgr_escSet (canonMgr_mgrSetCsr h)) (canonMgr_mgrSetCsr h)).frame

theorem canonMgr_mgrBranch {step ext n : Nat} {v : DWord} (h : CanonMgr A) : CanonMgr (mgrBranch M step ext n v A) := by
  unfold mgrBranch
  split
  · exact h.frame
  · exact canonMgr_mgrCall h
  · exact h
  · exact h.frame
  · exact canonMgr_mgrTret h

theorem canonMgr_mgrBlock {step n : Nat} {v : DWord} (h : CanonMgr A) : CanonMgr (mgrBlock M N step n v A) := canonMgr_mgrMark h.frame

theorem canonMgr_mgrTrigger {step ext : Nat} {x : MgrMove × DWord} (h : CanonMgr A) : CanonMgr (mgrTrigger M N step ext x A) := by
  unfold mgrTrigger
  dsimp only
  split
  · exact canonMgr_port h
  · exact canonMgr_port h
  · exact canonMgr_mgrLong h
  · exact canonMgr_mgrLong h
  · exact canonMgr_mgrLs h
  · exact canonMgr_mgrBranch h
  · exact canonMgr_mgrBlock h
  · exact h.frame
  · exact keep_ite (canonMgr_mgrLong h) h
  · exact h

theorem canonMgr_mgrPop (h : CanonMgr M) : CanonMgr (mgrPop M) := keep_ite h.frame h.frame

theorem canonMgr_mgrEffects {step ext : Nat} {xs : List (MgrMove × DWord)} (h : CanonMgr M) : CanonMgr (mgrEffects step ext xs M) := by
  unfold mgrEffects
  extract_lets N A0 A1 A2 A3
  have h0 : CanonMgr A0 := canonMgr_mgrMoves (canonMgr_mgrOperands h)
  have h1 : CanonMgr A1 := keep_ite (canonMgr_mgrPop h0) h0
  have h3 : CanonMgr A3 := keep_foldl h1.frame canonMgr_mgrTrigger
  split
  · exact h3
  · exact keep_ite (canonMgr_mgrCsrWrite h3).frame (canonMgr_mgrCsrWrite h3)

theorem canonMgr_mgrSettle {branch : Bool} (h : CanonMgr M) : CanonMgr (mgrSettle branch M) :=
  have hn : CanonMgr { (if M.envCall.isNone ∧ escEntry M then escSet M 0 false else M) with retired := M.retired + 1 } :=
    (keep_ite (canonMgr_escSet h) h).frame
  keep_ite hn.frame hn

theorem canonMgr_mgrHold {E : MgrDelay} {w : BitVec 128} (h : CanonMgr M) : CanonMgr (mgrHold E w M) :=
  (keep_ite (canonMgr_mgrIssue (canonMgr_mgrIssue h)) (canonMgr_mgrIssue h)).frame

theorem canonMgr_mgrFinish {E : MgrDelay} {r : RetHold} (h : CanonMgr M) : CanonMgr (mgrFinish E r M) := by
  unfold mgrFinish
  extract_lets A0 regs A1 A2
  have h1 : CanonMgr A1 := keep_foldl (canonMgr_mgrEffects h) fun hv => canonMgr_mgrMark (canonMgr_mgrIssue hv)
  have h2 : CanonMgr A2 := keep_ite h1.frame h1.frame
  exact h2.frame

theorem canonMgr_mgrApply {E : MgrDelay} {a : MgrAct} (h : CanonMgr M) : CanonMgr (mgrApply E a M) := by
  unfold mgrApply
  split
  · exact canonMgr_mgrSettle (canonMgr_mgrEffects h)
  · exact canonMgr_mgrHold h
  · split
    · exact canonMgr_mgrSettle (canonMgr_mgrFinish h)
    · exact h
  · exact h.frame
  · exact keep_ite (canonMgr_mgrDouble h.frame) (canonMgr_mgrEnter h.frame)

/-! ## What arrives (11 R226-R231) -/

theorem canonMgr_mgrDeliver {o : MgrOp} {v : DWord} (h : CanonMgr M) : CanonMgr (mgrDeliver o v M) := by
  unfold mgrDeliver
  split
  · exact canonMgr_mgrResult h
  · exact h.frame
  · exact h.frame
  · exact h

theorem canonMgr_mgrArrive {step : Nat} (h : CanonMgr M) : CanonMgr (mgrArrive step M) :=
  keep_foldl h.frame fun hv => keep_ite (canonMgr_mgrResult hv) hv

theorem canonMgr_noteWaiting {now : Nat} (h : CanonMgr M) : CanonMgr (noteWaiting now M) := keep_ite h.frame h

end Sys2Proof.Machine
end

section
/-! SUPPORT. What the operations on one Plain keep of the canonical form of its memories: most change none of them. -/

namespace Sys2Proof.Machine

-- One proof after the other: the threads of parallel elaboration take their stacks from the check's memory limit.
set_option Elab.async false

variable {P Q : Plain}

/-- A change of the Plain outside its memories and the Manager. -/
theorem CanonPlain.frame (h : CanonPlain P) (hb : Q.basin = P.basin := by rfl) (hm : Q.mem = P.mem := by rfl) (hg : Q.mgr = P.mgr := by rfl) :
    CanonPlain Q := ⟨hb ▸ h.basin, hm ▸ h.mem, hg ▸ h.mgr⟩

theorem CanonPlain.withBasin {B : Basin} (h : CanonPlain P) (hB : CanonBasin B) : CanonPlain { P with basin := B } := ⟨hB, h.mem, h.mgr⟩

theorem CanonPlain.withMem {M : Store} (h : CanonPlain P) (hM : CanonStore M) : CanonPlain { P with mem := M } := ⟨h.basin, hM, h.mgr⟩

theorem CanonPlain.withMgr {M : Manager} (h : CanonPlain P) (hM : CanonMgr M) : CanonPlain { P with mgr := M } := ⟨h.basin, h.mem, hM⟩

theorem canonPlain_allTiles {f : Fin 64 → Tile → Tile} (h : CanonPlain P) : CanonPlain (allTiles P f) :=
  h.frame (allTiles_basin P f) (allTiles_mem P f) (allTiles_mgr P f)

theorem canonPlain_allLinks {f : Fin 8 → Link → Link} (h : CanonPlain P) : CanonPlain (allLinks P f) :=
  h.frame (allLinks_basin P f) (allLinks_mem P f) (allLinks_mgr P f)

/-! ## Modes, reports and JOB operations (13 R269, 19 R384, R385) -/

theorem canonPlain_setMode {m : Mode} (h : CanonPlain P) : CanonPlain (setMode P m) := keep_ite h h.frame

theorem canonPlain_event {code unit detail : Nat} (h : CanonPlain P) : CanonPlain (event P code unit detail) :=
  keep_ite (h.withMgr h.mgr.frame) (h.withMgr h.mgr.frame)

theorem canonPlain_openWindow {now code unit : Nat} (h : CanonPlain P) : CanonPlain (openWindow P now code unit) := canonPlain_event h.frame

theorem canonPlain_closeWindow {now : Nat} (h : CanonPlain P) : CanonPlain (closeWindow P now) := keep_ite (canonPlain_event h.frame) h

theorem canonPlain_closeAfterBoot {now : Nat} (h : CanonPlain P) : CanonPlain (closeAfterBoot P now) := keep_ite (canonPlain_closeWindow h) h

theorem canonPlain_flrEvent {due : Bool} (h : CanonPlain P) : CanonPlain (flrEvent due P) := keep_ite (canonPlain_event h) h

theorem canonPlain_outcome {r : Fin 4} {q : Word} {status result : Nat} (h : CanonPlain P) : CanonPlain (outcome P r q status result) := h.frame

theorem canonPlain_finishJob {status result : Nat} (h : CanonPlain P) : CanonPlain (finishJob P status result) := by
  unfold finishJob
  split
  · exact h
  · exact canonPlain_outcome h.frame

theorem canonPlain_finishJobOf {k : JobKind} {status result : Nat} (h : CanonPlain P) : CanonPlain (finishJobOf k P status result) := by
  unfold finishJobOf
  split
  · exact keep_ite (canonPlain_finishJob h) h
  · exact h

theorem canonPlain_recompute {tstep : Nat} (h : CanonPlain P) : CanonPlain (recompute tstep P) := h.frame

theorem canonPlain_holdJobs (h : CanonPlain P) : CanonPlain (holdJobs P) := by
  unfold holdJobs
  extract_lets P0 P1 Q1 _ P2 Q2 _
  have h0 : CanonPlain P0 := canonPlain_finishJobOf h
  have h1 : CanonPlain P1 := keep_ite (canonPlain_finishJob h0) h0
  have hq1 : CanonPlain Q1 := canonPlain_finishJobOf h1
  have h2 : CanonPlain P2 := keep_ite hq1.frame h1
  have hq2 : CanonPlain Q2 := canonPlain_finishJobOf h2
  exact keep_ite hq2.frame h2

theorem canonPlain_enterHold (h : CanonPlain P) : CanonPlain (enterHold P) := by
  unfold enterHold
  extract_lets P0 P1
  have h1 : CanonPlain P1 := canonPlain_setMode (canonPlain_holdJobs h)
  exact h1.frame

theorem canonPlain_abandonCycle {tstep now : Nat} (h : CanonPlain P) : CanonPlain (abandonCycle tstep P now) := by
  unfold abandonCycle
  extract_lets c _ P0 f _ P1 P2
  have h2 : CanonPlain P2 := canonPlain_enterHold h.frame
  exact canonPlain_recompute h2.frame

/-! ## Resets (18 R369-R374, R378) -/

theorem canonPlain_coreReset {quarantine : Bool} {now : Nat} (h : CanonPlain P) : CanonPlain (coreReset quarantine now P) := by
  unfold coreReset
  extract_lets P0
  have h0 : CanonPlain P0 := canonPlain_allTiles h
  clear_value P0
  exact ⟨h0.basin.frame, canonStore_startWipe h0.mem.frame, canonMgr_managerReset⟩

theorem canonPlain_resetManager {now : Nat} (h : CanonPlain P) : CanonPlain (resetManager now P) := 
  ⟨h.basin, h.mem, canonMgr_managerReset (M := P.mgr) (keepLs := true) (now := now)⟩

/-- Only NVS stays of a Plain that loses its memories. -/
theorem canonPlain_lost (h : CanonPlain P) (hb : Q.basin = {} := by rfl) (hs : Q.mem.spad = [] := by rfl) (hn : Q.mem.nvs = P.mem.nvs := by rfl)
    (hg : Q.mgr = {} := by rfl) : CanonPlain Q :=
  ⟨hb ▸ canonBasin_empty, ⟨hs ▸ rfl, hn ▸ h.mem.nvs⟩, hg ▸ ⟨rfl, rfl, rfl⟩⟩

theorem canonPlain_offPlain (h : CanonPlain P) : CanonPlain (offPlain P) := canonPlain_lost h

theorem canonPlain_warmPlain {now : Nat} (h : CanonPlain P) : CanonPlain (warmPlain now P) := canonPlain_lost h

theorem canonPlain_tamperPlain {deployed : Bool} (h : CanonPlain P) : CanonPlain (tamperPlain deployed P) :=
  keep_ite (h.withMem (canonStore_startWipe h.mem)) (keep_ite h.frame h)

theorem canonPlain_columnReset {c : Nat} (h : CanonPlain P) : CanonPlain (columnReset c P) := by
  unfold columnReset
  extract_lets P0
  have h0 : CanonPlain P0 := canonPlain_allTiles h
  clear_value P0
  exact ⟨h0.basin.frame, h0.mem, h0.mgr⟩

theorem canonPlain_bistPlain {sel : BitVec 3} {r : Word} (h : CanonPlain P) : CanonPlain (bistPlain sel r P) := by
  unfold bistPlain
  extract_lets w P0 _ P1
  have h0 : CanonPlain P0 := keep_ite (canonPlain_allTiles h) h
  have h1 : CanonPlain P1 := keep_ite (h0.withMem ⟨rfl, h0.mem.nvs⟩) h0
  exact h1.frame

theorem canonPlain_startFirmware {len entry : Nat} {callMode : Bool} (h : CanonPlain P) : CanonPlain (startFirmware len entry callMode P) :=
  ⟨h.basin, h.mem, (canonMgr_setMachineCs h.mgr).frame⟩

/-! ## SPAD, NVS and the Basin (15 R320, R326, 07 R141-R145) -/

theorem canonPlain_denySecure (h : CanonPlain P) : CanonPlain (denySecure P) := keep_ite h (h.withMem h.mem.frame)

theorem canonPlain_countSpadUe {master w : Nat} (h : CanonPlain P) : CanonPlain (countSpadUe master w P) :=
  canonPlain_event (h.withMem (keep_ite h.mem.frame h.mem.frame))

theorem canonPlain_countNvsUe {line : Nat} (h : CanonPlain P) : CanonPlain (countNvsUe line P) := canonPlain_event (h.withMem h.mem.frame)

theorem canonPlain_countUe {master w : Nat} (h : CanonPlain P) : CanonPlain (countUe master w P) :=
  canonPlain_event (h.withBasin (canonBasin_noteUe h.basin))

theorem canonPlain_journalPage {page : Nat} (h : CanonPlain P) : CanonPlain (journalPage P page) :=
  keep_ite h (keep_ite (h.withBasin (canonBasin_jrnlAppend h.basin).frame) ⟨h.basin.frame, h.mem, h.mgr⟩)

/-! ## Steps (03 R69, 06 R115-R124) -/

theorem canonPlain_stepEvents {P0 : Plain} {drops : List (Fin 64 × Nat)} (h : CanonPlain P) : CanonPlain (stepEvents P0 P drops) :=
  keep_ite (keep_foldl (keep_foldl h fun hv => keep_ite (canonPlain_event hv) hv) canonPlain_event) h

theorem canonPlain_startWait {now : Nat} (h : CanonPlain P) : CanonPlain (startWait now P) := by
  have hf : CanonPlain (flagCorrections P) := canonPlain_allTiles h
  unfold startWait
  generalize flagCorrections P = Q at hf ⊢
  exact keep_ite hf.frame h

theorem canonPlain_joinStep {skip now : Nat} {lastCols : BitVec 9} (h : CanonPlain P) : CanonPlain (joinStep skip now lastCols P) :=
  canonPlain_startWait h.frame

theorem canonPlain_executeStep {skip now : Nat} {lastCols : BitVec 9} (h : CanonPlain P) : CanonPlain (executeStep skip now lastCols P) := by
  unfold executeStep
  extract_lets tiles drops bp segs _ _ _ P0 P1
  have h1 : CanonPlain P1 := canonPlain_stepEvents h.frame
  exact keep_ite h1 (canonPlain_joinStep h1)

/-! ## Capture (09 R180-R193) -/

theorem canonPlain_emit {value : Bool} {bs : List Byte} (h : CanonPlain P) : CanonPlain (emit value P bs) := keep_ite h h.frame

theorem canonPlain_logInput {bs : List Byte} (h : CanonPlain P) : CanonPlain (logInput P bs) :=
  keep_ite h (keep_ite h.frame (keep_ite h.frame (canonPlain_emit h)))

theorem canonPlain_popCapture {t : Fin 64} (h : CanonPlain P) : CanonPlain (popCapture t P) := by
  unfold popCapture
  dsimp only
  split
  · exact h
  · refine keep_ite h.frame ?_
    split
    · exact h.frame
    · exact keep_ite h.frame h.frame

theorem canonPlain_popAll {n : Nat} {t : Fin 64} (h : CanonPlain P) : CanonPlain (popAll n t P) := by
  induction n generalizing P with
  | zero => exact h
  | succ n ih => exact keep_ite h (ih (canonPlain_popCapture h))

theorem canonPlain_consumeRest (h : CanonPlain P) : CanonPlain (consumeRest P) := keep_foldl h canonPlain_popAll

theorem canonPlain_writeSection {c : Nat} (h : CanonPlain P) : CanonPlain (writeSection c P) := by
  unfold writeSection
  extract_lets C P0 P1 P2 P3 P4 P5 P6 P7
  have h1 : CanonPlain P1 := canonPlain_emit h.frame
  have h3 : CanonPlain P3 := keep_foldl (keep_foldl h1 canonPlain_emit) canonPlain_emit
  have h5 : CanonPlain P5 := keep_foldl (keep_foldl h3 fun hv => keep_foldl hv canonPlain_emit) fun hv => keep_foldl hv canonPlain_emit
  have h7 : CanonPlain P7 := canonPlain_allTiles (keep_ite (keep_ite h5 (canonPlain_emit h5)) h)
  clear_value P7
  exact h7.frame

theorem canonPlain_clearRefs (h : CanonPlain P) : CanonPlain (clearRefs P) := keep_ite (canonPlain_allTiles h) h

theorem canonPlain_logTriggers {c : Nat} {ms : List Nat} {w : Option Nat} (h : CanonPlain P) : CanonPlain (logTriggers c ms w P) := by
  unfold logTriggers
  extract_lets P0 ctl
  have h0 : CanonPlain P0 := keep_ite (keep_foldl h canonPlain_emit) h
  exact keep_ite h0 h0.frame

theorem canonPlain_trigAct {c : Nat} {w : Option Nat} (h : CanonPlain P) : CanonPlain (trigAct c w P).1 := by
  unfold trigAct
  split
  · exact h
  next n =>
    extract_lets replaying _ P0
    have h0 : CanonPlain P0 := keep_ite h h.frame
    split
    · exact h0
    · exact h0.frame
    · exact keep_ite h0 h0.frame
    · exact keep_ite h0 h0.frame
    · exact keep_ite h0 h0.frame
    · exact canonPlain_event h0
    · exact h0

theorem canonPlain_row3 {c : Nat} (h : CanonPlain P) : CanonPlain (row3 c P).1 :=
  canonPlain_trigAct (canonPlain_allTiles (canonPlain_logTriggers h.frame))

theorem canonPlain_finishCkptJob {slot : Nat} (h : CanonPlain P) : CanonPlain (finishCkptJob slot P) := keep_ite (canonPlain_finishJobOf h.frame) h

theorem canonPlain_retireOldest (h : CanonPlain P) : CanonPlain (retireOldest P) := by
  unfold retireOldest
  refine keep_ite h ?_
  split
  · exact h
  · exact ⟨h.basin.frame, h.mem, h.mgr⟩

theorem canonPlain_logExt {origin off : Nat} {bs : List Byte} (h : CanonPlain P) : CanonPlain (logExt origin off bs P) :=
  keep_ite (keep_foldl h canonPlain_logInput) h

theorem canonPlain_branch (h : CanonPlain P) : CanonPlain (branch P) := keep_ite h (keep_foldl h.frame canonPlain_emit)

theorem canonPlain_logRuns {origin : Nat} {w : List (Nat × List Byte)} (h : CanonPlain P) : CanonPlain (logRuns origin w P) := by
  refine keep_foldl h fun hv => ?_
  split
  · exact canonPlain_logExt hv
  · exact hv

theorem canonPlain_modCh {c : Fin 16} {f : Channel → Channel} (h : CanonPlain P) : CanonPlain (modCh P c f) := h.frame

theorem canonPlain_flushParts (h : CanonPlain P) : CanonPlain (flushParts P) := by
  unfold flushParts
  extract_lets P0
  have h0 : CanonPlain P0 := by
    refine keep_foldl h fun hv => ?_
    split
    · exact canonPlain_modCh (canonPlain_logRuns hv)
    · exact hv
  clear_value P0
  exact keep_foldl h0.frame canonPlain_logRuns

/-! ## Loads and epochs (10 R206-R218) -/

theorem canonPlain_discardSwitch (h : CanonPlain P) : CanonPlain (discardSwitch P) := by
  unfold discardSwitch
  split
  · exact h
  · exact canonPlain_outcome h.frame

theorem canonPlain_closeLinks {reason : BitVec 3} {failed : Bool} (h : CanonPlain P) : CanonPlain (closeLinks P reason failed) := h.frame

theorem canonPlain_enterLoad {J : LoadJob} {rv : Nat} (h : CanonPlain P) : CanonPlain (enterLoad P J rv) := by
  unfold enterLoad
  extract_lets P0 P1
  have h1 : CanonPlain P1 := canonPlain_closeLinks (canonPlain_discardSwitch (canonPlain_setMode (canonPlain_branch h)))
  exact h1.frame

theorem canonPlain_applyRecord {rec : List Byte} (h : CanonPlain P) : CanonPlain (applyRecord rec P) := h.frame

theorem canonPlain_commitImage {now tstep : Nat} {J : LoadJob} {man : List Byte} {pts : Parts} (h : CanonPlain P) :
    CanonPlain (commitImage now tstep J man pts P) := by
  unfold commitImage
  extract_lets d cfg len digest hd epoch vl P0 P1 P2 P3 _ _ _ _ _ _ P4
  have h3 : CanonPlain P3 := canonPlain_applyRecord (canonPlain_allTiles (canonPlain_allLinks (h.withBasin (canonBasin_loadBasin h.basin))))
  have h4 : CanonPlain P4 := h3.frame
  exact canonPlain_finishJobOf (canonPlain_recompute (canonPlain_setMode h4))

theorem canonPlain_loadFail {code detail : Nat} (h : CanonPlain P) : CanonPlain (loadFail P code detail) := by
  unfold loadFail
  extract_lets P0 P1 _ _ _ P2
  have h1 : CanonPlain P1 := canonPlain_setMode (canonPlain_allLinks h)
  have h2 : CanonPlain P2 := ⟨h1.basin.frame, h1.mem, h1.mgr⟩
  exact canonPlain_finishJobOf h2.frame

theorem canonPlain_row4 {tstep c : Nat} (h : CanonPlain P) : CanonPlain (row4 tstep c P) := by
  unfold row4
  split
  · exact h
  · exact keep_ite h (canonPlain_outcome (canonPlain_recompute h.frame))

theorem canonPlain_paceWrite {tstep : Nat} {v : Word} (h : CanonPlain P) : CanonPlain (paceWrite tstep v P) := by
  unfold paceWrite
  extract_lets _ P0
  have h0 : CanonPlain P0 := keep_ite h.frame h
  exact keep_ite h (keep_ite h0.frame (canonPlain_recompute h0.frame))

/-! ## Restore and replay (09 R194-R197) -/

theorem canonPlain_takeEpoch {tstep epoch : Nat} (h : CanonPlain P) : CanonPlain (takeEpoch tstep epoch P) := by
  unfold takeEpoch
  split
  · exact h
  · exact canonPlain_recompute h.frame

theorem canonPlain_restoreSlot {tstep k : Nat} {e : CkptEntry} (h : CanonPlain P) : CanonPlain (restoreSlot tstep k e P) := by
  unfold restoreSlot
  extract_lets _ _ P0 hd P1 epoch P2
  have h0 : CanonPlain P0 := ⟨(canonBasin_rewind h.basin).frame, h.mem, h.mgr⟩
  have h2 : CanonPlain P2 := canonPlain_takeEpoch (canonPlain_allTiles h0)
  exact h2.frame

theorem canonPlain_rejoinTake {tstep bank : Nat} {hd cfg : List Byte} (h : CanonPlain P) : CanonPlain (rejoinTake tstep bank hd cfg P) := by
  unfold rejoinTake
  extract_lets k H epoch start P0 _ P1 _ _ _ _ _ _ P2
  have h0 : CanonPlain P0 := canonPlain_allTiles h
  clear_value P0
  have h1 : CanonPlain P1 := canonPlain_applyRecord ⟨h0.basin.frame, h0.mem, h0.mgr⟩
  have h2 : CanonPlain P2 := h1.frame
  exact canonPlain_recompute h2

theorem canonPlain_failReplay {err : Nat} (h : CanonPlain P) : CanonPlain (failReplay err P) := canonPlain_finishJobOf h.frame

theorem canonPlain_rebuildEpoch {epoch : Nat} (h : CanonPlain P) : CanonPlain (rebuildEpoch epoch P) := by
  unfold rebuildEpoch
  split
  · extract_lets P0
    have h0 : CanonPlain P0 := canonPlain_allTiles h
    clear_value P0
    exact h0.frame
  · exact h

theorem canonPlain_replayEpoch {tstep c : Nat} (h : CanonPlain P) : CanonPlain (replayEpoch tstep c P) := by
  unfold replayEpoch
  split
  · exact h
  next r _ =>
    extract_lets e P0
    have h0 : CanonPlain P0 := canonPlain_takeEpoch (canonPlain_rebuildEpoch h)
    exact keep_ite h h0.frame

/-! ## The boundary (01 R20) -/

theorem canonPlain_lateEvents (h : CanonPlain P) : CanonPlain (lateEvents P) :=
  keep_ite (keep_foldl h fun hv => keep_ite hv (canonPlain_event hv)) h

theorem canonPlain_endStall (h : CanonPlain P) : CanonPlain (endStall P) := keep_ite (canonPlain_event h.frame) h.frame

theorem canonPlain_row1 {now : Nat} (h : CanonPlain P) : CanonPlain (row1 now P) := by
  unfold row1
  extract_lets checked P0
  have h0 : CanonPlain P0 := canonPlain_allTiles (canonPlain_lateEvents h)
  clear_value P0
  exact canonPlain_endStall h0.frame

theorem canonPlain_askPeers {c : Nat} (h : CanonPlain P) : CanonPlain (askPeers c P) := keep_ite h.frame h

theorem canonPlain_row5 {c now : Nat} (h : CanonPlain P) : CanonPlain (row5 c now P) := by
  unfold row5
  extract_lets P0 f P1
  have h1 : CanonPlain P1 := canonPlain_allLinks (canonPlain_askPeers h).frame
  exact h1.frame

theorem canonPlain_raiseHold {t : Nat} (h : CanonPlain P) : CanonPlain (raiseHold t P) := h.frame

theorem canonPlain_row6 {c : Nat} (h : CanonPlain P) : CanonPlain (row6 c P).1 := by
  unfold row6
  extract_lets mismatch skew bad stat0 stat _ P0
  have h0 : CanonPlain P0 := canonPlain_allLinks h.frame
  exact keep_ite (canonPlain_raiseHold h0) h0

theorem canonPlain_measure {now : Nat} {cert : Word} (h : CanonPlain P) : CanonPlain (measure now cert P) :=
  keep_ite (canonPlain_event h.frame) h.frame

theorem canonPlain_periodic {c : Nat} (h : CanonPlain P) : CanonPlain (periodic c P) := keep_ite h.frame (keep_ite h.frame h)

theorem canonPlain_afterRow7 {c : Nat} (h : CanonPlain P) : CanonPlain (afterRow7 c P) := by
  unfold afterRow7
  extract_lets _ P0 act
  have h0 : CanonPlain P0 := keep_ite h.frame h
  exact h0.frame

theorem canonPlain_abortCkpt (h : CanonPlain P) : CanonPlain (abortCkpt P) := keep_ite (canonPlain_finishJob h) h

theorem canonPlain_replayDone (h : CanonPlain P) : CanonPlain (replayDone P) := canonPlain_finishJobOf h.frame

theorem canonPlain_applyMode {tstep : Nat} (h : CanonPlain P) : CanonPlain (applyMode tstep P) := by
  unfold applyMode
  split
  · exact h
  · exact h
  · extract_lets P0 P1
    have h0 : CanonPlain P0 := canonPlain_finishJobOf (canonPlain_setMode h)
    exact canonPlain_recompute h0.frame

theorem canonPlain_row8 {tstep c now : Nat} {due next : Bool} (h : CanonPlain P) : CanonPlain (row8 tstep c now due next P) := by
  unfold row8
  extract_lets stop left target _ P0 _ P1 P2
  have h0 : CanonPlain P0 := canonPlain_abortCkpt h.frame
  have h2 : CanonPlain P2 := canonPlain_enterHold (keep_ite (canonPlain_replayDone h0) h0.frame)
  have h3 : CanonPlain (applyMode tstep P0) := canonPlain_applyMode h0
  exact keep_ite (canonPlain_recompute h2.frame) h3.frame

theorem canonPlain_beginCycle {now : Nat} (h : CanonPlain P) : CanonPlain (beginCycle now P) := by
  unfold beginCycle
  extract_lets late P0
  have h0 : CanonPlain P0 := canonPlain_allLinks (canonPlain_clearRefs h)
  exact canonPlain_startWait h0.frame

theorem canonPlain_endGateWait {now : Nat} (h : CanonPlain P) : CanonPlain (endGateWait now P) := keep_ite h.frame h

theorem canonPlain_holdCommand {tstep now : Nat} (h : CanonPlain P) : CanonPlain (holdCommand tstep now P) := by
  have hg : CanonPlain (endGateWait now P) := canonPlain_endGateWait h
  exact keep_ite (canonPlain_finishJobOf h) (keep_ite (canonPlain_recompute (canonPlain_enterHold hg.frame)) h.frame)

theorem canonPlain_faultHold {tstep now : Nat} (h : CanonPlain P) : CanonPlain (faultHold tstep now P) :=
  keep_ite (canonPlain_holdCommand (canonPlain_raiseHold h)) (canonPlain_holdCommand h.frame)

theorem canonPlain_leaveHold {tstep now : Nat} {m : Mode} (h : CanonPlain P) : CanonPlain (leaveHold tstep now m P) := by
  unfold leaveHold
  extract_lets P0 _ _ P1
  have h0 : CanonPlain P0 := canonPlain_setMode (canonPlain_branch h)
  exact canonPlain_recompute h0.frame

/-! ## Pass links (08 R153-R179) -/

theorem canonPlain_modLink {l : Fin 8} {f : Link → Link} (h : CanonPlain P) : CanonPlain (modLink P l f) := h.frame

theorem canonPlain_closedEvent {l : Fin 8} (h : CanonPlain P) : CanonPlain (closedEvent l P) := keep_ite (canonPlain_event h) h

theorem canonPlain_noteGate {now : Nat} {before : Bool} (h : CanonPlain P) : CanonPlain (noteGate now before P) := keep_ite h.frame h

theorem canonPlain_leaveActive {l : Fin 8} {now : Nat} {f : Link → Link} (h : CanonPlain P) : CanonPlain (leaveActive l now f P) :=
  have hl : CanonPlain (modLink P l f) := canonPlain_modLink h
  canonPlain_noteGate (keep_ite (canonPlain_closedEvent hl) hl)

theorem canonPlain_sendSequenced {l : Fin 8} {now : Nat} (h : CanonPlain P) : CanonPlain (sendSequenced l now P) := by
  have hl : ∀ {f}, CanonPlain (modLink P l f) := canonPlain_modLink h
  unfold sendSequenced
  dsimp only
  split
  · exact hl
  · refine keep_ite hl ?_
    split
    · exact hl
    · exact hl
    · exact canonPlain_leaveActive h

theorem canonPlain_sendFrame {l : Fin 8} {now : Nat} (h : CanonPlain P) : CanonPlain (sendFrame l now P) :=
  keep_ite (canonPlain_sendSequenced h) (canonPlain_modLink h)

theorem canonPlain_sendCodewords {l : Fin 8} {before : Link} (h : CanonPlain P) : CanonPlain (sendCodewords l before P) :=
  keep_ite (canonPlain_modLink h) h

theorem canonPlain_adoptHold {t : Nat} (h : CanonPlain P) : CanonPlain (adoptHold t P) := by
  unfold adoptHold
  refine keep_ite h (keep_ite h.frame ?_)
  split
  · exact keep_ite h (canonPlain_raiseHold h)
  · exact canonPlain_raiseHold h

theorem canonPlain_takeCycle {l : Fin 8} {f : Frame} {now : Nat} (h : CanonPlain P) : CanonPlain (takeCycle l f now P) := by
  unfold takeCycle
  extract_lets before P0 P1
  have h0 : CanonPlain P0 := canonPlain_modLink h
  have h1 : CanonPlain P1 := canonPlain_modLink h0
  exact keep_ite h0 (canonPlain_noteGate (keep_ite (canonPlain_adoptHold h1) h1))

theorem canonPlain_takeOpen {plainsEn : BitVec 8} {p l : Fin 8} {f : Frame} {now : Nat} (h : CanonPlain P) :
    CanonPlain (takeOpen plainsEn p l f now P) := by
  unfold takeOpen
  extract_lets L P0
  have h0 : CanonPlain P0 := canonPlain_modLink h
  have hl : ∀ {f}, CanonPlain (modLink P0 l f) := canonPlain_modLink h0
  exact keep_ite h (keep_ite h0 (keep_ite hl (keep_ite h0 (keep_ite hl hl))))

theorem canonPlain_refusedReplay (h : CanonPlain P) : CanonPlain (refusedReplay P) := by
  unfold refusedReplay
  extract_lets P0 _ P1 P2
  have h0 : CanonPlain P0 := canonPlain_finishJobOf h
  have h2 : CanonPlain P2 := canonPlain_allLinks h0.frame
  exact keep_ite (canonPlain_enterHold h2) h2

theorem canonPlain_takeRefuse {l : Fin 8} {f : Frame} {now : Nat} (h : CanonPlain P) : CanonPlain (takeRefuse l f now P) := by
  have hl : ∀ {f}, CanonPlain (modLink P l f) := canonPlain_modLink h
  unfold takeRefuse
  dsimp only
  split
  · exact h
  · exact hl
  · exact keep_ite (canonPlain_refusedReplay hl) hl

theorem canonPlain_logPassIn {l : Fin 8} {w : InWord} (h : CanonPlain P) : CanonPlain (logPassIn l w P) := keep_ite h (keep_ite h.frame h.frame)

/-! ## Rings (13 R266, R278-R280) -/

theorem canonPlain_postCompletion {r : Fin 4} {status : Byte} {result : DWord} (h : CanonPlain P) :
    CanonPlain (postCompletion P r status result) := h.frame

theorem canonPlain_autoPost {r : Fin 4} {n : Nat} (h : CanonPlain P) : CanonPlain (autoPost r n P) := by
  induction n generalizing P with
  | zero => exact h
  | succ n ih => exact keep_ite (ih (canonPlain_postCompletion (keep_ite h.frame h))) h

theorem canonPlain_notePrev {r : Fin 4} {d : Nat} (h : CanonPlain P) : CanonPlain (notePrev r d P) := keep_ite h.frame h

theorem canonPlain_startDesc {r : Fin 4} {q : Word} (h : CanonPlain P) : CanonPlain (startDesc r q P) :=
  keep_ite (canonPlain_outcome (canonPlain_notePrev h.frame)) h.frame

theorem canonPlain_rereadOne {r : Fin 4} {q : Word} {bs : List Byte} (h : CanonPlain P) : CanonPlain (rereadOne P r q bs) :=
  keep_ite (canonPlain_autoPost h.frame) (keep_ite (keep_ite (canonPlain_postCompletion h.frame) (canonPlain_postCompletion h.frame))
    (keep_ite h.frame h.frame))

/-! ## DMA and PIO (14 R297-R302, 16 R331-R338) -/

theorem canonPlain_dropStarts {k : Nat} (h : CanonPlain P) : CanonPlain (dropStarts k P) := h.frame

theorem canonPlain_skipStarts {c : Fin 16} (h : CanonPlain P) : CanonPlain (skipStarts c P) := h.frame

theorem canonPlain_dmaStart {c : Fin 16} (h : CanonPlain P) : CanonPlain (dmaStart c P) :=
  keep_ite h (keep_ite (canonPlain_dropStarts h) (keep_ite (canonPlain_modCh h) (canonPlain_modCh h)))

theorem canonPlain_chCtlWrite {c : Fin 16} {v : Word} (h : CanonPlain P) : CanonPlain (chCtlWrite c v P) := by
  unfold chCtlWrite
  extract_lets P0 P1
  have h0 : CanonPlain P0 := canonPlain_modCh h
  have h1 : CanonPlain P1 := canonPlain_modCh (canonPlain_skipStarts h0)
  exact keep_ite h (keep_ite h0 (keep_ite (keep_ite (canonPlain_dropStarts h1) h1) (keep_ite (canonPlain_dmaStart h0) h0)))

theorem canonPlain_chCfgPut {c : Fin 16} {v : Word} (h : CanonPlain P) : CanonPlain (chCfgPut c v P) :=
  keep_ite h (keep_ite h.frame (canonPlain_modCh h))

theorem canonPlain_timerPut {now : Nat} {n : Fin 8} {v : Word} (h : CanonPlain P) : CanonPlain (timerPut now n v P) := keep_ite h h.frame

theorem canonPlain_raiseCompletion {c : Fin 16} (h : CanonPlain P) : CanonPlain (raiseCompletion c P) :=
  keep_ite (canonPlain_dropStarts h.frame) h.frame

theorem canonPlain_countDone {c : Fin 16} {d : BitVec 256} {status index : Nat} (h : CanonPlain P) : CanonPlain (countDone c d status index P) :=
  keep_ite (canonPlain_event (canonPlain_modCh h)) (keep_ite (canonPlain_event (canonPlain_modCh h)) (canonPlain_modCh h))

theorem canonPlain_paceEvent {now : Nat} {e : Fin 4} (h : CanonPlain P) : CanonPlain (paceEvent now e P) := keep_ite h (keep_ite h.frame h.frame)

theorem canonPlain_modEng {e : Fin 4} {f : PioEngine → PioEngine} (h : CanonPlain P) : CanonPlain (modEng P e f) := h.frame

theorem canonPlain_pioTxPut {e : Fin 4} {who : Agent} {v : Word} (h : CanonPlain P) : CanonPlain (pioTxPut e who v P) :=
  keep_ite h (canonPlain_modEng h)

theorem canonPlain_pioMask {f : PioEngine → PioEngine × Bool} {v : Word} (h : CanonPlain P) : CanonPlain (pioMask f v P) := h.frame

theorem canonPlain_pioStartPut {now : Nat} {v : Word} (h : CanonPlain P) : CanonPlain (pioStartPut now v P) := keep_ite h (canonPlain_pioMask h)

theorem canonPlain_pioStopPut {now : Nat} {v : Word} (h : CanonPlain P) : CanonPlain (pioStopPut now v P) := keep_ite h (canonPlain_pioMask h)

theorem canonPlain_pioBankPut {v : Word} (h : CanonPlain P) : CanonPlain (pioBankPut v P) := keep_ite h (keep_ite h.frame h.frame)

theorem canonPlain_pioCfgPut {e : Fin 4} {k : Fin 33} {v : Word} (h : CanonPlain P) : CanonPlain (pioCfgPut e k v P) :=
  keep_ite h (canonPlain_modEng h)

/-! ## Registers of the Plain's window (22 R424) -/

theorem canonPlain_clearCounter {off : Nat} (h : CanonPlain P) : CanonPlain (clearCounter off P) :=
  keep_ite h.frame (keep_ite (canonPlain_modLink h) h)

theorem canonPlain_writeMgrBlock {o : Nat} {v : Word} (h : CanonPlain P) : CanonPlain (writeMgrBlock o v P) := by
  unfold writeMgrBlock
  split
  · exact keep_ite h (h.withMgr h.mgr.frame)
  · exact h.withMgr h.mgr.frame
  · exact h.withMgr h.mgr.frame
  · exact h

theorem canonPlain_writeStopped {c : Fin 16} {f : Channel → Channel} (h : CanonPlain P) : CanonPlain (writeStopped c f P) := h.frame

theorem canonPlain_writeChannel {c : Fin 16} {o : Nat} {v : Word} (h : CanonPlain P) : CanonPlain (writeChannel c o v P) := by
  unfold writeChannel
  split
  · exact canonPlain_chCfgPut h
  · exact canonPlain_writeStopped h
  · exact canonPlain_writeStopped h
  · exact canonPlain_writeStopped h
  · exact canonPlain_chCtlWrite h
  · exact canonPlain_modCh h
  · exact h

theorem canonPlain_writeDmaBlock {now o : Nat} {v : Word} (h : CanonPlain P) : CanonPlain (writeDmaBlock now o v P) :=
  keep_ite (keep_ite (canonPlain_timerPut h) h) (keep_ite (canonPlain_writeChannel h) (keep_ite h.frame h))

theorem canonPlain_bmCtlPut {v : Word} (h : CanonPlain P) : CanonPlain (bmCtlPut v P) := h.frame

theorem canonPlain_pmCtlPut {now : Nat} {v : Word} (h : CanonPlain P) : CanonPlain (pmCtlPut now v P) := by
  unfold pmCtlPut
  extract_lets _ P0
  have h0 : CanonPlain P0 := h.frame
  split
  · exact h0.frame
  · exact ⟨h0.basin, h0.mem, h0.mgr.frame⟩
  · exact h0

theorem canonPlain_writeBusBlock {now o : Nat} {v : Word} (h : CanonPlain P) : CanonPlain (writeBusBlock now o v P) := by
  unfold writeBusBlock
  dsimp only
  split
  · exact canonPlain_bmCtlPut h
  · exact h.frame
  · exact h.frame
  · exact h.frame
  · exact h.frame
  · exact h.frame
  · exact h.frame
  · exact canonPlain_pmCtlPut h
  · exact h

theorem canonPlain_clearMemCounters (h : CanonPlain P) : CanonPlain (clearMemCounters P) := h.withMem h.mem.frame

theorem canonPlain_writeMemBlock {o : Nat} {v : Word} (h : CanonPlain P) : CanonPlain (writeMemBlock o v P) := by
  unfold writeMemBlock
  split
  · exact h.withMem h.mem.frame
  · exact h.withMem h.mem.frame
  · exact keep_ite (canonPlain_clearMemCounters h) h
  · exact h.withMem h.mem.frame
  · exact h

theorem canonPlain_writePioBlock {now : Nat} {who : Agent} {o : Nat} {v : Word} (h : CanonPlain P) : CanonPlain (writePioBlock now who o v P) := by
  unfold writePioBlock
  refine keep_ite (keep_ite (canonPlain_pioCfgPut h) ?_) ?_
  · split
    · exact canonPlain_pioCfgPut h
    · exact canonPlain_modEng h
    · exact canonPlain_pioTxPut h
    · exact h
  · split
    · exact canonPlain_pioBankPut h
    · exact canonPlain_pioStartPut h
    · exact canonPlain_pioStopPut h
    · exact h.frame
    · exact h.frame
    · exact h

theorem canonPlain_writeBasinBlock {o : Nat} {v : Word} (h : CanonPlain P) : CanonPlain (writeBasinBlock o v P) := by
  unfold writeBasinBlock
  refine keep_ite (h.withBasin (canonBasin_rsvWrite h.basin)) (keep_ite (keep_ite (h.withBasin (canonBasin_writeLayout h.basin)) h) ?_)
  split
  · exact h.withBasin (canonBasin_basinCtl h.basin)
  · exact h.withBasin h.basin.frame
  · exact h.withBasin h.basin.frame
  · exact h.withBasin h.basin.frame
  · exact h.withBasin h.basin.frame
  · exact h

theorem canonPlain_writeColRegs {o : Nat} {v : Word} (h : CanonPlain P) : CanonPlain (writeColRegs o v P) := by
  unfold writeColRegs
  split
  · exact h.frame
  · exact h.frame
  · exact h.frame
  · exact h.frame
  · exact h

theorem canonPlain_writeTileRegs {o : Nat} {v : Word} (h : CanonPlain P) : CanonPlain (writeTileRegs o v P) := h.frame

theorem canonPlain_qsCtlPut {v : Word} (h : CanonPlain P) : CanonPlain (qsCtlPut v P) := h.frame

theorem canonPlain_writeTileBlock {tstep o : Nat} {v : Word} (h : CanonPlain P) : CanonPlain (writeTileBlock tstep o v P) := by
  unfold writeTileBlock
  refine keep_ite ?_ (keep_ite (canonPlain_writeTileRegs h) (keep_ite (canonPlain_writeColRegs h)
    (keep_ite (keep_ite h.frame h) (keep_ite (canonPlain_qsCtlPut h) h))))
  split
  · exact canonPlain_paceWrite h
  · exact h.withMem h.mem.frame
  · exact h

/-! ## The bus matrix (15 R310-R321) -/

theorem canonPlain_logAccess {m a : Nat} {bs : List Byte} (h : CanonPlain P) : CanonPlain (logAccess m a bs P) := by
  unfold logAccess
  split
  · exact canonPlain_logExt h
  · exact h

theorem canonPlain_busIssue {own : Bool} {now : Nat} {r : BusReq} (h : CanonPlain P) : CanonPlain (busIssue own now r P) := keep_ite h h.frame

theorem canonPlain_countConflicts {now : Nat} (h : CanonPlain P) : CanonPlain (countConflicts now P) :=
  keep_foldl h fun hv => keep_ite hv (hv.withMem hv.mem.frame)

theorem canonPlain_logPart {e : BusWait} {stop : Nat} (h : CanonPlain P) : CanonPlain (logPart e stop P) := keep_ite (canonPlain_logAccess h) h

theorem canonPlain_afterPiece {now : Nat} {e : BusWait} {n : Nat} {answer : BusAnswer} (h : CanonPlain P) :
    CanonPlain (afterPiece now e n answer P) := keep_ite h.frame (keep_ite h.frame h.frame)

theorem canonPlain_notePort {x : Access} (h : CanonPlain P) : CanonPlain (notePort x P) := by
  unfold notePort
  split
  · exact h.frame
  · exact h

/-! ## The Manager (11 R227-R236, 12 R243-R250) -/

theorem canonPlain_mgrBegin {now : Nat} (h : CanonPlain P) : CanonPlain (mgrBegin now P) := by
  have ha : CanonMgr (mgrArrive P.mgr.steps P.mgr) := canonMgr_mgrArrive h.mgr
  exact ⟨h.basin, h.mem, ha.frame⟩

theorem canonPlain_mgrEnd (h : CanonPlain P) : CanonPlain (mgrEnd P) := by
  unfold mgrEnd
  dsimp only
  split
  · exact h
  · exact keep_ite h.frame h.frame

theorem canonPlain_mgrAct {a : MgrAct} (h : CanonPlain P) : CanonPlain (mgrAct a P) := by
  unfold mgrAct
  split
  · exact h
  · exact ⟨h.basin, h.mem, canonMgr_mgrApply h.mgr⟩

theorem canonPlain_mgrRetire {now : Nat} (h : CanonPlain P) : CanonPlain (mgrRetire now P) := by
  unfold mgrRetire
  extract_lets _ P0 _ P1
  have h0 : CanonPlain P0 := h.withMgr h.mgr.frame
  have h1 : CanonPlain P1 := h0.frame
  exact keep_ite (keep_ite (canonPlain_closeWindow h1) h1) h0

theorem canonPlain_mgrLoaded {o : MgrOp} {v : DWord} (h : CanonPlain P) : CanonPlain (mgrLoaded o v P) :=
  ⟨h.basin, h.mem, canonMgr_mgrDeliver h.mgr⟩

theorem canonPlain_mgrWriteLoads {n : Nat} (h : CanonPlain P) : CanonPlain (mgrWriteLoads n P) := by
  induction n generalizing P with
  | zero => exact h
  | succ n ih =>
    unfold mgrWriteLoads
    split
    · exact h
    · split
      · exact h
      · exact ih (canonPlain_mgrLoaded (h.withMgr h.mgr.frame))

theorem canonPlain_mgrReturned {o : MgrOp} {v : DWord} (h : CanonPlain P) : CanonPlain (mgrReturned o v P) :=
  keep_ite (canonPlain_mgrWriteLoads (h.withMgr h.mgr.frame)) (canonPlain_mgrLoaded (h.withMgr h.mgr.frame))

theorem canonPlain_blkEnd {v : DWord} (h : CanonPlain P) : CanonPlain (blkEnd v P) := by
  unfold blkEnd
  split
  · exact h
  · exact ⟨h.basin, h.mem, canonMgr_mgrResult h.mgr.frame⟩

end Sys2Proof.Machine
end

section
/-! SUPPORT. S. -/

namespace Sys2Proof.Machine

-- One proof after the other: the threads of parallel elaboration take their stacks from the check's memory limit.
set_option Elab.async false

variable {p : Fin 8} {s t u : State}

/-! ## The rules -/

theorem canon_shared (h : Canon t) (e : u.plains = t.plains := by rfl) : Canon u := fun q => by rw [e]; exact h q

theorem Canon.of_fst {α : Type} {x : State × α} {a : α} (h : Canon x.1) (e : x = (t, a)) : Canon t := by rwa [e] at h

/-- A change of one Plain that keeps its memories in canonical form. -/
theorem canon_modPlain {f : Plain → Plain} (h : Canon t)
    (hf : CanonPlain t.plains[p] → CanonPlain (f t.plains[p]) := by exact fun h => ⟨h.basin, h.mem, h.mgr⟩) : Canon (modPlain t p f) := by
  intro q
  by_cases hq : q = p
  · subst hq
    rw [modPlain_same]
    exact hf (h q)
  · rw [modPlain_other _ _ _ _ hq]
    exact h q

theorem CanonPlain.withRun {P : Plain} {R : Run} (h : CanonPlain P) : CanonPlain { P with run := R } := h.frame

theorem canonPlain_modRing {P : Plain} {r : Fin 4} {f : Ring → Ring} (h : CanonPlain P) : CanonPlain (modRing P r f) := h.frame

theorem canon_tap (T : Tap) (h : Canon t) : Canon { t with tap := T } := canon_shared h

theorem canon_power (W : Power) (h : Canon t) : Canon { t with power := W } := canon_shared h

/-! ## Vectors (13 R256-R258) -/

theorem canon_sendMsix (f : Nat) (vs : List Nat) (h : Canon t) : Canon (sendMsix t f vs) := canon_shared h

theorem canon_vector (vec : Nat) (h : Canon t) : Canon (vector t p vec) := by
  rcases vector_cases t p vec with e | e <;> rw [e]
  · exact canon_sendMsix _ _ h
  · exact canon_modPlain h

theorem canon_pf0Vector (vec : Nat) (h : Canon t) : Canon (pf0Vector t vec) :=
  keep_ite (canon_sendMsix _ _ h) (canon_shared h)

/-! ## Faults, QUARANTINE and VALLEY (18 R369, R378, 19 R384-R388) -/

theorem canon_finishQuarantine (boot : Bool) (h : Canon t) : Canon (finishQuarantine t p boot) :=
  canon_modPlain h fun h => (canonPlain_flrEvent (canonPlain_setMode (canonPlain_coreReset h))).frame

theorem canon_enterQuarantine (boot : Bool) (h : Canon t) : Canon (enterQuarantine t p boot) := by
  unfold enterQuarantine
  extract_lets s0
  have h0 : Canon s0 := canon_modPlain h fun h => by
    have hc : CanonPlain (closeLinks t.plains[p] 2 false) := canonPlain_closeLinks h
    exact hc.frame
  exact keep_ite h (keep_ite h0 (canon_finishQuarantine boot h0))

theorem canon_valleyCompletes (h : Canon t) : Canon (valleyCompletes t p) := by
  refine keep_ite h (canon_modPlain h fun h => ?_)
  split
  · exact h
  · exact h.frame

theorem canon_powerOff (h : Canon t) : Canon (powerOff t p) :=
  canon_valleyCompletes (canon_power _ (canon_modPlain h canonPlain_offPlain))

theorem canon_doubleFault (code unit : Nat) (h : Canon t) : Canon (doubleFault t p code unit) :=
  keep_ite (canon_modPlain (canon_powerOff (canon_modPlain h))) (canon_enterQuarantine true (canon_modPlain h))

theorem canon_raiseFault (code unit : Nat) {k : State → State} (hk : ∀ {v}, Canon v → Canon (k v)) (h : Canon t) :
    Canon (raiseFault t p code unit k) := by
  rcases raiseFault_cases t p code unit k with ⟨-, e⟩ | ⟨-, -, e⟩ | ⟨-, -, e⟩ <;> rw [e]
  · exact hk (canon_modPlain h fun h => (canonPlain_openWindow h).frame)
  · exact hk h
  · exact canon_doubleFault code unit h

theorem canon_raiseUe (code unit : Nat) (ws : List Nat) {k : State → State} (hk : ∀ {v}, Canon v → Canon (k v))
    (h : Canon t) : Canon (raiseUe t p code unit ws k) :=
  keep_ite h (keep_ite (hk h) (canon_modPlain (canon_raiseFault code unit hk h) fun h => keep_ite h.frame h))

/-! ## SPAD and NVS (15 R318-R327) -/

theorem canon_tagRead (master a : Nat) {x : State × Option (List Byte)} (h : Canon x.1) : Canon (tagRead p master a x).1 := by
  unfold tagRead
  split
  · exact h
  · exact canon_modPlain h

theorem canon_tagWrite (master a : Nat) {x : State × Bool} (h : Canon x.1) : Canon (tagWrite p master a x).1 :=
  keep_ite_fst h (canon_modPlain h)

theorem canon_reportSpadUes (master : Nat) (ws : List Nat) (h : Canon t) : Canon (reportSpadUes t p master ws) :=
  canon_raiseUe _ _ _ id (keep_foldl h fun hv => canon_modPlain hv canonPlain_countSpadUe)

theorem canon_spadRead (master off n : Nat) (h : Canon t) : Canon (spadRead t p master off n).1 :=
  canon_reportSpadUes _ _ (canon_modPlain h fun h => h.withMem (canonStore_noteSpadCe h.mem))

theorem canon_spadWrite (master off : Nat) (bs : List Byte) (h : Canon t) : Canon (spadWrite t p master off bs).1 :=
  canon_reportSpadUes _ _ (canon_modPlain h fun h =>
    have hm := canonStore_noteSpadCe h.mem
    h.withMem ⟨writeBut_wf hm.spad, hm.nvs⟩)

theorem canon_reportNvsUes (master : Nat) (ls : List Nat) (h : Canon t) : Canon (reportNvsUes t p master ls) :=
  canon_raiseUe _ _ _ id (keep_foldl h fun hv => canon_modPlain hv canonPlain_countNvsUe)

theorem canon_nvsRead (master off n : Nat) (h : Canon t) : Canon (nvsRead t p master off n).1 :=
  canon_reportNvsUes _ _ (canon_modPlain h fun h =>
    have hm := canonStore_noteNvsCe h.mem
    h.withMem (keep_ite hm.frame hm))

theorem canon_nvsWrite (master off : Nat) (bs : List Byte) (h : Canon t) : Canon (nvsWrite t p master off bs).1 :=
  canon_reportNvsUes _ _ (canon_modPlain h fun h =>
    have hm := canonStore_noteNvsCe h.mem
    h.withMem ⟨hm.spad, writeBut_wf hm.nvs⟩)

/-! ## The boot ROM and the resets (18 R369-R378) -/

theorem canon_romRead (off n : Nat) (h : Canon t) : Canon (romRead t p off n).1 := canon_tagRead _ _ (canon_nvsRead _ _ _ h)

theorem canon_romLoad (off n : Nat) (h : Canon t) : Canon (romLoad t p off n).1 := canon_tagRead _ _ (canon_spadRead _ _ _ h)

theorem canon_romStore (off : Nat) (bs : List Byte) (h : Canon t) : Canon (romStore t p off bs) :=
  canon_tagWrite _ _ (canon_spadWrite _ _ _ h)

theorem canon_readSlot (slot : Nat) (h : Canon t) : Canon (readSlot t p slot).1 := by
  have hh := canon_romRead (p := p) slot 4096 h
  unfold readSlot
  split
  next e => exact hh.of_fst e
  next hdr e => exact keep_ite_fst (hh.of_fst e) (canon_romRead _ _ (hh.of_fst e))

theorem canon_unwrapSlots (rec : List Byte) (h : Canon t) : Canon (unwrapSlots rec p t).1 := by
  unfold unwrapSlots
  refine List.foldlRecOn (motive := fun x : State × Bool => Canon x.1) _ _ h fun x hx k _ => ?_
  dsimp only
  split
  · split
    · exact canon_romStore _ _ hx
    · exact hx
  · exact hx

theorem canon_setBootStat (w : Word) (h : Canon t) : Canon (modPlain t p (setBootStat w)) := canon_modPlain h

theorem canon_bootImage (F : Fuses) (rec img : List Byte) (useB fallback : Bool) (h : Canon t) :
    Canon (bootImage F p rec img useB fallback t) :=
  have hb := canon_romStore 0 (sub img 4096 (num img 12 4)) h
  canon_modPlain (canon_romStore _ _ (canon_romStore _ _ (keep_ite_fst (canon_unwrapSlots rec hb) hb)))
    fun h => canonPlain_startFirmware h.withRun.withRun

theorem canon_verifyFirmware (h : Canon t) : Canon (verifyFirmware t p).1 := by
  have hr := canon_romRead (p := p) 0x1000000 1376 h
  unfold verifyFirmware
  refine keep_ite_fst h ?_
  split
  next e => exact canon_setBootStat _ (hr.of_fst e)
  next rec e =>
    have hx := canon_readSlot (p := p) 0 (hr.of_fst e)
    have hy := canon_readSlot (p := p) 0x800000 hx
    exact keep_ite_fst (canon_setBootStat _ (hr.of_fst e))
      (keep_ite_fst hy (keep_ite_fst (canon_setBootStat _ hy) (canon_bootImage _ _ _ _ _ hy)))

theorem canon_verifiedCopy (h : Canon t) : Canon (verifiedCopy t p).1 := by
  have hv := canon_romLoad (p := p) (secureBase + 0x480) 65 h
  unfold verifiedCopy
  split
  next e => exact hv.of_fst e
  next v e => exact keep_ite_fst (hv.of_fst e) (canon_romLoad _ _ (hv.of_fst e))

theorem canon_restartFirmware (h : Canon t) : Canon (restartFirmware t p).1 := by
  have hc := canon_verifiedCopy (p := p) h
  unfold restartFirmware
  split
  next e => exact canon_modPlain (hc.of_fst e) canonPlain_startFirmware
  next e => exact canon_verifyFirmware (hc.of_fst e)

theorem canon_bootFailed (h : Canon t) : Canon (bootFailed t p) :=
  keep_ite (canon_raiseFault _ _ (canon_enterQuarantine false) h)
    (keep_ite (canon_raiseFault _ _ id h) (keep_ite h (canon_modPlain h)))

theorem canon_afterBootRom {x : State × Bool} (h : Canon x.1) : Canon (afterBootRom p x) :=
  keep_ite h (canon_bootFailed h)

theorem canon_runBootRom (h : Canon t) : Canon (runBootRom t p) := by
  unfold runBootRom
  extract_lets P s0
  have h0 : Canon s0 := canon_modPlain h
  exact keep_ite (canon_modPlain h) (keep_ite (canon_setBootStat _ h0) (keep_ite
    (canon_raiseFault _ _ (canon_enterQuarantine true) h0) (canon_afterBootRom (canon_verifyFirmware h0))))

theorem canon_enterBoot (h : Canon t) : Canon (enterBoot t p) :=
  keep_ite h (canon_runBootRom (canon_modPlain h fun h => (canonPlain_setMode h).frame))

theorem canon_finishReset (h : Canon t) : Canon (finishReset t p) :=
  canon_enterBoot (canon_modPlain h fun h => canonPlain_flrEvent (canonPlain_coreReset h.frame))

theorem canon_plainReset (cause : Nat) (h : Canon t) : Canon (plainReset t p cause) := by
  unfold plainReset
  extract_lets c s0
  have h0 : Canon s0 := canon_modPlain h fun h => by
    have hc : CanonPlain (closeLinks t.plains[p] 3 true) := canonPlain_closeLinks h
    exact hc.frame
  exact keep_ite h0 (canon_finishReset h0)

theorem canon_finishValley (h : Canon t) : Canon (finishValley t p) := by
  refine canon_powerOff (canon_modPlain h fun h => ?_)
  split
  · exact h.frame
  · exact h

theorem canon_afterClose (h : Canon t) : Canon (afterClose t p) := by
  unfold afterClose
  refine keep_ite h ?_
  split
  · exact canon_finishReset h
  · exact canon_finishQuarantine _ h
  · exact canon_finishValley h
  · exact h

theorem canon_managerOnlyReset (h : Canon t) : Canon (managerOnlyReset t p) :=
  have hc := canon_modPlain h canonPlain_resetManager
  keep_ite (canon_runBootRom hc) (canon_afterBootRom (canon_restartFirmware hc))

/-! ## The Basin (07 R138-R147) -/

theorem canon_reportUes (master unit : Nat) (ws : List Nat) (h : Canon t) : Canon (reportUes t p master unit ws) :=
  canon_raiseUe _ _ _ (fun hv => canon_modPlain hv fun h => keep_ite h.frame h) (keep_foldl h fun hv => canon_modPlain hv canonPlain_countUe)

theorem canon_basinFetch (master unit off n : Nat) (h : Canon t) : Canon (basinFetch t p master unit off n).1 :=
  canon_reportUes _ _ _ (canon_modPlain h fun h => h.withBasin (canonBasin_noteCe (canonBasin_noteOverlap h.basin)))

theorem canon_journalFor (master unit page : Nat) (h : Canon t) : Canon (journalFor p master unit t page) :=
  have hj := canon_modPlain h canonPlain_journalPage
  keep_ite hj (canon_reportUes _ _ _ (canon_modPlain hj fun h => h.withBasin (canonBasin_noteCe h.basin)))

theorem canon_basinStore (master unit off : Nat) (bs : List Byte) (h : Canon t) : Canon (basinStore t p master unit off bs).1 :=
  have hj := keep_foldl (l := pagesOf off bs.length) (canon_modPlain h fun h => h.withBasin (canonBasin_noteOverlap h.basin))
    (canon_journalFor (p := p) master unit _)
  have hm := canon_modPlain hj fun h => h.withBasin (keep_foldl (l := blocksOf off bs.length) h.basin canonBasin_materialise)
  canon_reportUes _ _ _ (canon_modPlain hm fun h => h.withBasin (canonBasin_storeBytes (canonBasin_noteCe h.basin)))

theorem canon_serveAs (k : Fin 64) (x : Option Word) (h : Canon t) : Canon (serveAs t p k x) := canon_modPlain h

theorem canon_mmServe (k : Fin 64) (r : MmReq) (h : Canon t) : Canon (mmServe t p k r) := by
  unfold mmServe
  dsimp only
  split
  · exact canon_modPlain (canon_serveAs _ _ h)
  · exact keep_ite (canon_serveAs _ _ (canon_basinStore _ _ _ _ (keep_ite (canon_modPlain h) h)))
      (canon_serveAs _ _ (canon_basinFetch _ _ _ _ h))

theorem canon_performUpTo (upTo : Fin 64 → Bool) (rs : List (Fin 64 × MmReq)) (h : Canon t) :
    Canon (performUpTo upTo p rs t) := by
  induction rs generalizing t with
  | nil => exact h
  | cons x rest ih =>
    have hs : Canon (mmServe (modPlain t p fun P => { P with basin := { P.basin with recv := rest } }) p x.1 x.2) :=
      canon_mmServe _ _ (canon_modPlain h fun h => h.withBasin h.basin.frame)
    exact keep_ite hs (ih hs)

theorem canon_settle (h : Canon t) : Canon (settle t p) := canon_performUpTo _ _ h

theorem canon_basinRead (master unit off n : Nat) (h : Canon t) : Canon (basinRead t p master unit off n).1 :=
  canon_basinFetch _ _ _ _ (canon_settle h)

theorem canon_basinWrite (master unit off : Nat) (bs : List Byte) (h : Canon t) : Canon (basinWrite t p master unit off bs).1 :=
  canon_basinStore _ _ _ _ (canon_settle h)

/-! ## Capture and replay (09 R194, R195) -/

theorem canon_engineNote (off n : Nat) (h : Canon t) : Canon (engineNote p off n t) :=
  canon_reportUes _ _ _ (canon_modPlain h fun h => h.withBasin (canonBasin_noteCe h.basin))

theorem canon_logNote (a b : Nat) (h : Canon t) : Canon (logNote p a b t) :=
  keep_ite h (canon_engineNote _ _ (canon_engineNote _ _ h))

theorem canon_noteHold (c : Nat) (h : Canon t) : Canon (noteHold p c t) := by
  unfold noteHold
  split
  · exact canon_logNote _ _ h
  · exact h

theorem canon_applyExtWr (rs : List (List Byte)) (h : Canon t) : Canon (applyExtWr p rs t) :=
  keep_foldl h fun hv => keep_ite (canon_basinWrite _ _ _ _ hv) hv

theorem canon_noteJournal (g : Nat) (h : Canon t) : Canon (noteJournal p g t) :=
  keep_ite (canon_engineNote _ _ (canon_engineNote _ _ h)) (canon_engineNote _ _ h)

theorem canon_restore (tstep k : Nat) (e : CkptEntry) (h : Canon t) : Canon (restore tstep p k e t) :=
  canon_applyExtWr _ (canon_noteHold _ (canon_modPlain (canon_engineNote _ _ (canon_noteJournal _ (canon_settle h))) canonPlain_restoreSlot))

theorem canon_replayBegin (k : Nat) (restoring : Bool) (h : Canon t) : Canon (replayBegin k restoring t p) := by
  unfold replayBegin
  extract_lets s0 s1 P
  have h0 : Canon s0 := canon_modPlain h fun h => by
    have hl : CanonPlain (allLinks (flushParts t.plains[p]) fun _ => emptyIn restoring) := canonPlain_allLinks (canonPlain_flushParts h)
    generalize allLinks (flushParts t.plains[p]) (fun _ => emptyIn restoring) = Q at hl ⊢
    exact hl.frame
  have h1 : Canon s1 := by
    unfold s1
    split
    · exact canon_restore _ _ _ h0
    · exact canon_modPlain h0 canonPlain_failReplay
    · exact h0
  exact keep_ite h1 (canon_modPlain h1 fun h => (canonPlain_setMode h).frame)

theorem canon_replayGo (k : Nat) (fromSlot : Bool) (stop : BitVec 48) (h : Canon t) : Canon (replayGo t p k fromSlot stop) := by
  unfold replayGo
  extract_lets err s0 s1
  have h0 : Canon s0 := canon_modPlain h
  have h1 : Canon s1 := canon_modPlain h0 fun h => by
    have hl : CanonPlain (allLinks s0.plains[p] fun _ => replayLink fromSlot) := canonPlain_allLinks h
    generalize allLinks s0.plains[p] (fun _ => replayLink fromSlot) = Q at hl ⊢
    exact hl.frame
  exact keep_ite (canon_modPlain h0 canonPlain_failReplay) (keep_ite h1 (canon_replayBegin _ _ h1))

theorem canon_linksClosed (h : Canon t) : Canon (linksClosed t p) := by
  unfold linksClosed
  split
  · exact keep_ite h (canon_replayBegin _ _ h)
  · exact canon_afterClose h

theorem canon_rplCtlWrite (v : Word) (h : Canon t) : Canon (rplCtlWrite t p v) :=
  keep_ite (canon_modPlain h) (canon_replayGo _ _ _ h)

/-! ## LINK_CTL (08 R179) -/

theorem canon_ctlEn (l : Fin 8) (v : Word) (h : Canon t) : Canon (ctlEn t p l v) :=
  canon_modPlain h fun h => keep_ite h (canonPlain_modLink h)

theorem canon_ctlRetrain (l : Fin 8) (h : Canon t) : Canon (ctlRetrain t p l) :=
  canon_modPlain h fun h => keep_ite h (canonPlain_leaveActive h)

theorem canon_ctlClose (l : Fin 8) (h : Canon t) : Canon (ctlClose t p l) := canon_linksClosed (canon_modPlain h canonPlain_modLink)

theorem canon_ctlRetRel (l : Fin 8) (h : Canon t) : Canon (ctlRetRel t p l) := canon_modPlain h canonPlain_modLink

theorem canon_ctlOpen (l : Fin 8) (h : Canon t) : Canon (ctlOpen t p l) := canon_modPlain h canonPlain_modLink

theorem canon_linkCtlWrite (l : Fin 8) (v : Word) (h : Canon t) : Canon (linkCtlWrite t p l v) :=
  have h0 := canon_ctlEn l v h
  have h1 := keep_ite (canon_ctlRetrain l h0) h0
  have h2 := keep_ite (canon_ctlClose l h1) h1
  have h3 := keep_ite (canon_ctlRetRel l h2) h2
  keep_ite (canon_ctlOpen l h3) h3

/-! ## Rings, mailboxes and doorbell bits (13 R260-R288) -/

theorem canon_ringFlag (r : Fin 4) (i : Nat) (h : Canon t) : Canon (ringFlag t p r i) :=
  keep_ite h (canon_vector _ (canon_modPlain h))

theorem canon_ringDoorbell (r : Fin 4) (v : Word) (h : Canon t) : Canon (ringDoorbell t p r v) := by
  unfold ringDoorbell
  extract_lets P R s0 _ s1 s2
  have h1 : Canon s1 := canon_tap _ (canon_modPlain h)
  have h2 : Canon s2 := canon_modPlain h1
  exact keep_ite (canon_modPlain h1) (keep_ite (canon_ringFlag _ _ h2) (keep_ite h2 (canon_modPlain h2)))

theorem canon_abortStarted (q : Word) (h : Canon t) : Canon (abortStarted t p q) := by
  refine canon_modPlain h fun h => ?_
  extract_lets P
  have hP : CanonPlain P := canonPlain_event h.frame
  split
  · refine keep_ite hP ?_
    split
    · exact keep_ite (canonPlain_finishJob hP) (canonPlain_holdCommand hP)
    · exact keep_ite (canonPlain_finishJob hP) (canonPlain_holdCommand hP)
    · have hq : CanonPlain { P with cap := { P.cap with dueJob := false } } := hP.frame
      exact keep_ite (keep_ite (canonPlain_finishJob hq) hq) hP
    · exact hP
  · exact hP

theorem canon_ringAbortWrite (q : Word) (h : Canon t) : Canon (ringAbortWrite t p q) :=
  keep_ite h (keep_ite (canon_modPlain h) (keep_ite (canon_abortStarted _ h) (canon_ringFlag _ _ h)))

theorem canon_fwStartWrite (v : Word) (h : Canon t) : Canon (fwStartWrite t p v) := by
  unfold fwStartWrite
  extract_lets r R q note
  have hnote {u} (b : Bool) (hu : Canon u) : Canon (note b u) := canon_modPlain hu
  exact keep_ite h (keep_ite (hnote _ (canon_ringFlag _ _ h))
    (keep_ite (hnote _ (canon_modPlain h fun h => canonPlain_autoPost (canonPlain_postCompletion (canonPlain_modRing h))))
      (hnote _ (canon_modPlain h canonPlain_startDesc))))

theorem canon_fwPostWrite (v : Word) (h : Canon t) : Canon (fwPostWrite t p v) :=
  keep_ite h (keep_ite (canon_ringFlag _ _ h) (canon_modPlain h fun h => canonPlain_autoPost (canonPlain_modRing (canonPlain_postCompletion h))))

theorem canon_ringInitWrite (r : Fin 4) (v : Word) (h : Canon t) : Canon (ringInitWrite t p r v) :=
  canon_modPlain h fun h => keep_ite h h.frame

theorem canon_ringCfgPut (r : Fin 4) (v : Word) (h : Canon t) : Canon (ringCfgPut t p r v) :=
  keep_ite h (keep_ite (canon_ringFlag _ _ h) (keep_ite (canon_ringFlag _ _ (canon_modPlain h)) (canon_modPlain h)))

theorem canon_cqCseqPut (v : Word) (h : Canon t) : Canon (cqCseqPut t p v) :=
  keep_ite h (keep_ite (keep_ite h (canon_vector _ (canon_modPlain h))) (canon_modPlain h))

theorem canon_sbCtlPut (v : Word) (h : Canon t) : Canon (sbCtlPut t p v) :=
  keep_ite (canon_vector _ (canon_modPlain h)) (canon_modPlain h)

theorem canon_mbCtlWrite (m : Fin 4) (who : Agent) (v : Word) (h : Canon t) : Canon (mbCtlWrite t p m who v) := by
  unfold mbCtlWrite
  extract_lets s0 B s1
  have h0 : Canon s0 := canon_modPlain h
  have h1 : Canon s1 := canon_modPlain h0
  exact keep_ite h (keep_ite h0 (keep_ite (canon_modPlain h0) (keep_ite (canon_modPlain h0) (keep_ite h0
    (keep_ite (canon_modPlain h0) (keep_ite (canon_modPlain h1 canonPlain_event) (canon_vector _ h1)))))))

theorem canon_mbAckWrite (m : Fin 4) (v : Word) (h : Canon t) : Canon (mbAckWrite t p m v) :=
  keep_ite h (keep_ite (canon_vector _ (canon_modPlain h)) (canon_modPlain (canon_modPlain h) canonPlain_event))

theorem canon_mbLockGet (m : Fin 4) (who : Agent) (h : Canon t) : Canon (mbLockGet t p m who).1 :=
  keep_ite_fst h (keep_ite_fst h (keep_ite_fst (canon_modPlain h fun h => keep_ite (canonPlain_event h.frame) h.frame) (canon_modPlain h)))

theorem canon_mbLockPut (m : Fin 4) (who : Agent) (v : Word) (h : Canon t) : Canon (mbLockPut t p m who v) :=
  canon_modPlain h fun h => keep_ite h h.frame

theorem canon_dbUpdate (stat mgr host : Word) (h : Canon t) : Canon (dbUpdate t p stat mgr host) :=
  keep_foldl (canon_modPlain (canon_modPlain h) fun h => keep_foldl h fun hv => keep_ite (canonPlain_event hv) hv)
    fun hv => keep_ite (canon_vector _ hv) hv

theorem canon_dbSetBits (v : Word) (h : Canon t) : Canon (dbSetBits t p v) :=
  canon_dbUpdate _ _ _ (canon_tap { t.tap with obsDoorbell := some t.timeNs } h)

/-! ## PLAIN_CTL, REJOIN_CTL and FLT_CTL (18 R370-R379, 19 R393) -/

theorem canon_powerUp (h : Canon t) : Canon (powerUp t p) :=
  canon_power _ (canon_modPlain h)

theorem canon_requestBase (h : Canon t) : Canon (requestBase t p) :=
  keep_ite (canon_powerUp h) (keep_ite h (canon_pf0Vector _ (canon_power _ h)))

theorem canon_refuseCtl (h : Canon t) : Canon (refuseCtl t p) := canon_modPlain h

theorem canon_wake (h : Canon t) : Canon (wake t p) := keep_ite (canon_requestBase h) (canon_refuseCtl h)

theorem canon_colResetCtl (pc : Nat) (h : Canon t) : Canon (colResetCtl t p pc) := by
  unfold colResetCtl
  dsimp only
  split
  · exact canon_refuseCtl h
  · exact keep_ite (canon_modPlain h canonPlain_columnReset) (canon_refuseCtl h)

theorem canon_plainReady (h : Canon t) : Canon (plainReady t p) :=
  keep_ite (canon_modPlain h fun h => canonPlain_closeAfterBoot (canonPlain_setMode h)) (canon_refuseCtl h)

theorem canon_plainCtlWrite (who : Agent) (v : Word) (h : Canon t) : Canon (plainCtlWrite t p who v) := by
  unfold plainCtlWrite
  extract_lets s0 s1 s2 s3
  have h0 : Canon s0 := keep_ite (canon_modPlain h) h
  have h1 : Canon s1 := keep_ite (canon_refuseCtl h0) h0
  have h2 : Canon s2 := keep_ite (keep_ite (canon_plainReady h1) (canon_refuseCtl h1)) h1
  have h3 : Canon s3 := keep_ite (canon_colResetCtl _ h2) h2
  exact keep_ite h (keep_ite (canon_wake h0) (keep_ite (keep_ite (canon_plainReset _ h3) (canon_refuseCtl h3))
    (keep_ite (keep_ite (canon_managerOnlyReset h3) (canon_refuseCtl h3)) h3)))

theorem canon_loaderLoad (off n : Nat) (h : Canon t) : Canon (loaderLoad t p off n).1 :=
  canon_tagRead _ _ (canon_spadRead _ _ _ h)

theorem canon_rejoinRecord (off : Nat) (h : Canon t) : Canon (rejoinRecord t p off).1 := by
  have hl := canon_loaderLoad (p := p) off (64 + 668) h
  unfold rejoinRecord
  refine keep_ite_fst h ?_
  split
  next e => exact hl.of_fst e
  next e => exact keep_ite_fst (hl.of_fst e) (canon_loaderLoad _ _ (hl.of_fst e))

theorem canon_rejoinSlotRead (hd : List Byte) (o n : Nat) (h : Canon t) : Canon (rejoinSlotRead p hd o n t).1 :=
  canon_engineNote _ _ (canon_settle h)

theorem canon_rejoinFail (err code : Nat) (h : Canon t) : Canon (rejoinFail t p err code) := canon_modPlain h

theorem canon_rejoinSlot (bank : Nat) (hd cfg : List Byte) (h : Canon t) : Canon (rejoinSlot t p bank hd cfg) :=
  have h0 := canon_rejoinSlotRead (p := p) hd 0 64 h
  have h1 := canon_rejoinSlotRead (p := p) hd 64 (slotBytes - 64) h0
  keep_ite (canon_rejoinFail _ _ h) (keep_ite h0 (keep_ite (canon_rejoinFail _ _ h0)
    (keep_ite h1 (keep_ite (canon_rejoinFail _ _ h1) (canon_modPlain h1 canonPlain_rejoinTake)))))

theorem canon_rejoinWrite (v : Word) (h : Canon t) : Canon (rejoinWrite t p v) := by
  unfold rejoinWrite
  extract_lets P s0
  have h0 : Canon s0 := canon_modPlain h
  have hr := canon_rejoinRecord (p := p) (fld v 0 24) h0
  refine keep_ite h0 (keep_ite (canon_rejoinFail _ _ h0) ?_)
  split
  next e => exact canon_rejoinFail _ _ (hr.of_fst e)
  next e => exact keep_ite (canon_rejoinFail _ _ (hr.of_fst e)) (canon_rejoinSlot _ _ _ (hr.of_fst e))

theorem canon_fltClose (who : Agent) (h : Canon t) : Canon (fltClose t p who) := keep_ite (canon_modPlain h canonPlain_closeWindow) h

theorem canon_fltCtlWrite (who : Agent) (v : Word) (h : Canon t) : Canon (fltCtlWrite t p who v) :=
  canon_modPlain (keep_ite (canon_fltClose who h) h)

/-! ## Registers of a Plain's window (22 R424) -/

theorem canon_writeModeBlock (who : Agent) (o : Nat) (v : Word) (h : Canon t) : Canon (writeModeBlock t p who o v) := by
  unfold writeModeBlock
  split
  · exact keep_ite (canon_modPlain h) h
  · exact canon_plainCtlWrite _ _ h
  · exact canon_rejoinWrite _ h
  · exact canon_modPlain h
  · exact h

theorem canon_writeRing (r : Fin 4) (o : Nat) (v : Word) (h : Canon t) : Canon (writeRing t p r o v) := by
  unfold writeRing
  dsimp only
  split
  · exact canon_ringCfgPut _ _ h
  · exact canon_modPlain h
  · exact canon_modPlain h
  · exact canon_ringDoorbell _ _ h
  · exact canon_ringInitWrite _ _ h
  · exact keep_ite (canon_ringAbortWrite _ h) h
  · exact canon_modPlain h
  · exact h

theorem canon_writeRingBlock (o : Nat) (v : Word) (h : Canon t) : Canon (writeRingBlock t p o v) := by
  unfold writeRingBlock
  refine keep_ite (canon_writeRing _ _ _ h) ?_
  split
  · exact keep_ite (canon_modPlain h) h
  · exact canon_modPlain h
  · exact canon_modPlain h
  · exact canon_cqCseqPut _ h
  · exact keep_ite (canon_modPlain h) h
  · exact keep_ite (canon_modPlain h) h
  · exact keep_ite (canon_modPlain h) h
  · exact canon_sbCtlPut _ h
  · exact keep_ite (canon_modPlain h) h
  · exact keep_ite (canon_modPlain h) h
  · exact canon_fwStartWrite _ h
  · exact canon_modPlain h
  · exact canon_modPlain h
  · exact canon_fwPostWrite _ h
  · exact h

theorem canon_writeMbBlock (who : Agent) (o : Nat) (v : Word) (h : Canon t) : Canon (writeMbBlock t p who o v) := by
  unfold writeMbBlock
  refine keep_ite (keep_ite (canon_modPlain h) ?_) ?_
  · split
    · exact canon_mbCtlWrite _ _ _ h
    · exact canon_mbAckWrite _ _ h
    · exact canon_mbLockPut _ _ _ h
    · exact canon_modPlain h
    · exact h
  · split
    · exact canon_dbUpdate _ _ _ h
    · exact canon_dbSetBits _ h
    · exact canon_dbUpdate _ _ _ h
    · exact canon_dbUpdate _ _ _ h
    · exact h

theorem canon_writeLink (l : Fin 8) (o : Nat) (v : Word) (h : Canon t) : Canon (writeLink t p l o v) := by
  unfold writeLink
  refine keep_ite (canon_modPlain h fun h => keep_ite (canonPlain_modLink h) h) ?_
  split
  · exact canon_linkCtlWrite _ _ h
  · exact canon_modPlain h canonPlain_modLink
  · exact h

theorem canon_writeLinkBlock (o : Nat) (v : Word) (h : Canon t) : Canon (writeLinkBlock t p o v) := by
  unfold writeLinkBlock
  refine keep_ite (canon_writeLink _ _ _ h) ?_
  split
  · exact canon_modPlain h fun h => keep_ite h.frame h
  · exact canon_modPlain h
  · exact h

theorem canon_writeCapBlock (o : Nat) (v : Word) (h : Canon t) : Canon (writeCapBlock t p o v) := by
  unfold writeCapBlock
  refine keep_ite (keep_ite (canon_modPlain h) h) ?_
  split
  · exact canon_modPlain h
  · exact canon_modPlain h
  · exact canon_modPlain h
  · exact canon_rplCtlWrite _ h
  · exact canon_modPlain h
  · exact canon_modPlain h
  · exact keep_ite (canon_modPlain h) h
  · exact h

theorem canon_writeHealthBlock (who : Agent) (o : Nat) (v : Word) (h : Canon t) : Canon (writeHealthBlock t p who o v) := by
  unfold writeHealthBlock
  split
  · exact keep_ite (canon_modPlain h) h
  · exact canon_fltCtlWrite _ _ h
  · exact h

theorem canon_obsPut (who : Agent) (o : Nat) (v : Word) (h : Canon t) : Canon (obsPut t p who o v) :=
  keep_ite h (keep_ite (canon_modPlain h) (canon_modPlain h))

theorem canon_pokeReg (who : Agent) (off : Nat) (v : Word) (h : Canon t) : Canon (pokeReg t p who off v) := by
  unfold pokeReg
  dsimp only
  split
  · exact canon_writeModeBlock _ _ _ h
  · exact canon_modPlain h canonPlain_writeMgrBlock
  · exact canon_writeRingBlock _ _ h
  · exact canon_writeMbBlock _ _ _ h
  · exact canon_modPlain h canonPlain_writeDmaBlock
  · exact canon_modPlain h canonPlain_writeBusBlock
  · exact canon_modPlain h canonPlain_writeMemBlock
  · exact canon_modPlain h canonPlain_writePioBlock
  · exact canon_writeLinkBlock _ _ h
  · exact canon_modPlain h canonPlain_writeBasinBlock
  · exact canon_writeCapBlock _ _ h
  · exact canon_modPlain h canonPlain_writeTileBlock
  · exact canon_writeHealthBlock _ _ _ h
  · exact canon_obsPut _ _ _ h
  · exact h

theorem canon_writeReg (who : Agent) (off : Nat) (v : Word) (h : Canon t) : Canon (writeReg t p who off v) :=
  have hs := keep_ite (canon_settle h) h
  keep_ite (canon_pokeReg _ _ _ hs) hs

/-- A read of a Plain's register replaces the Plain by what the read leaves of it. -/
theorem canon_setPlain {Q : Plain} (h : Canon t) (hQ : CanonPlain t.plains[p] → CanonPlain Q) : Canon (modPlain t p fun _ => Q) :=
  canon_modPlain h hQ

theorem canonPlain_pioRxGet {P : Plain} {e : Fin 4} {who : Agent} (h : CanonPlain P) : CanonPlain (pioRxGet e who P).1 := by
  unfold pioRxGet
  refine keep_ite_fst h ?_
  split
  · exact canonPlain_logInput (canonPlain_modEng h)
  · exact canonPlain_modEng h

theorem canon_readReg (who : Agent) (off : Nat) (h : Canon t) : Canon (readReg t p who off).1 :=
  keep_ite_fst h (keep_ite_fst (canon_mbLockGet _ _ h) (keep_ite_fst (canon_setPlain h canonPlain_pioRxGet)
    (keep_ite_fst (canon_modPlain h) (keep_ite_fst (canon_modPlain h fun h => h.withMem h.mem.frame) (canon_modPlain h canonPlain_clearCounter)))))

/-! ## The bus matrix (15 R307-R316) -/

theorem canonPlain_noteBusError {P : Plain} {master a kind : Nat} (h : CanonPlain P) : CanonPlain (noteBusError P master a kind) := h.frame

theorem canon_busError (master a kind : Nat) (h : Canon t) : Canon (modPlain t p fun P => noteBusError P master a kind) :=
  canon_modPlain h canonPlain_noteBusError

theorem canon_secureError (master a : Nat) (h : Canon t) : Canon (modPlain t p fun P => noteBusError (denySecure P) master a 2) :=
  canon_modPlain h fun h => canonPlain_noteBusError (canonPlain_denySecure h)

theorem canon_memRead (master a n : Nat) (h : Canon t) : Canon (memRead t p master a n).1 := by
  unfold memRead
  split
  · exact keep_ite_fst (canon_secureError _ _ h) (canon_tagRead _ _ (canon_spadRead _ _ _ h))
  · exact canon_tagRead _ _ (canon_basinRead _ _ _ _ h)
  · exact canon_tagRead _ _ (canon_nvsRead _ _ _ h)
  · exact h
  · exact canon_busError _ _ _ h

theorem canon_memStore {toBasin : State → Nat → List Byte → State × Bool}
    (hb : ∀ {v} off bs, Canon v → Canon (toBasin v off bs).1) (master lvl a : Nat) (bs : List Byte) (h : Canon t) : Canon (memStore toBasin t p master lvl a bs).1 := by
  unfold memStore
  split
  · exact keep_ite_fst (canon_secureError _ _ h) (canon_tagWrite _ _ (canon_spadWrite _ _ _ h))
  · exact canon_tagWrite _ _ (hb _ _ h)
  · exact keep_ite_fst (canon_tagWrite _ _ (canon_nvsWrite _ _ _ h))
      (canon_modPlain h fun h => canonPlain_noteBusError (h.withMem h.mem.frame))
  · exact keep_ite_fst (canon_shared h) h
  · exact canon_busError _ _ _ h

theorem canon_busFault (m a kind : Nat) (h : Canon t) : Canon (busFault t p m a kind).1 :=
  canon_modPlain h fun h => canonPlain_noteBusError (keep_ite (canonPlain_denySecure h) h)

theorem canon_busUnmapped (m a : Nat) (h : Canon t) : Canon (busUnmapped t p m a).1 := canon_modPlain h

theorem canon_busReadRegs (who : Agent) (off k : Nat) (h : Canon t) : Canon (busReadRegs t p who off k).1 := by
  induction k generalizing t off with
  | zero => exact h
  | succ k ih => exact ih _ (canon_readReg _ _ h)

theorem canon_busWriteRegs (who : Agent) (off k : Nat) (bs : List Byte) (h : Canon t) :
    Canon (busWriteRegs t p who off k bs) := by
  induction k generalizing t off bs with
  | zero => exact h
  | succ k ih => exact ih _ _ (canon_writeReg _ _ _ h)

theorem canon_answerOf {x : State × Option (List Byte)} (h : Canon x.1) : Canon (answerOf x).1 := by
  unfold answerOf
  split <;> exact h

theorem canonPlain_tcaRead {P : Plain} {k : Fin 64} {off n : Nat} (h : CanonPlain P) : CanonPlain (tcaRead k off n P).1 :=
  keep_ite_fst h (keep_ite_fst h (keep_ite h.frame h))

theorem canonPlain_tcaWrite {P : Plain} {k : Fin 64} {off : Nat} {bs : List Byte} (h : CanonPlain P) : CanonPlain (tcaWrite k off bs P).1 :=
  keep_ite_fst h.frame h

theorem canon_busReadAt (x : Access) (h : Canon t) : Canon (busReadAt t p x).1 := by
  unfold busReadAt
  split
  · exact canon_answerOf (canon_tagRead _ _ (canon_spadRead _ _ _ h))
  · exact canon_busReadRegs _ _ _ h
  · exact h
  · dsimp only
    split
    · exact canon_setPlain h canonPlain_tcaRead
    · exact canon_busFault _ _ _ h
  · exact canon_answerOf (canon_memRead _ _ _ h)

theorem canon_busWriteAt (x : Access) (bs : List Byte) (h : Canon t) : Canon (busWriteAt t p x bs).1 := by
  unfold busWriteAt
  split
  · exact canon_tagWrite _ _ (canon_spadWrite _ _ _ h)
  · exact canon_busWriteRegs _ _ _ _ h
  · exact keep_ite_fst (canon_setPlain h canonPlain_tcaWrite) (canon_busFault _ _ _ h)
  · exact canon_memStore (fun _ _ => canon_basinWrite _ _ _ _) _ _ _ _ h

theorem canon_serveAccess (x : Access) (data : List Byte) (h : Canon t) : Canon (serveAccess t p x data).1 := by
  unfold serveAccess
  refine keep_ite_fst (canon_busUnmapped _ _ h) ?_
  split
  · exact canon_busFault _ _ _ h
  · exact keep_ite_fst (canon_busWriteAt _ _ h) (canon_busReadAt _ h)

theorem canon_serveOne (e : BusWait) (h : Canon t) : Canon (serveOne p t e) := by
  unfold serveOne
  extract_lets P x r
  refine keep_ite h (canon_modPlain (canon_serveAccess _ _ h) fun h => ?_)
  extract_lets Q0 _ Q1
  have h0 : CanonPlain Q0 := keep_ite h (canonPlain_logPart h)
  have h1 : CanonPlain Q1 := by
    unfold Q1
    split
    · exact h0.frame
    · exact h0
  exact canonPlain_afterPiece h1

theorem canon_matrixStep (ws : List BusWait) (h : Canon t) : Canon (matrixStep p ws t) :=
  canon_modPlain (keep_foldl (canon_modPlain h canonPlain_countConflicts) (canon_serveOne _))

theorem canonPlain_noteStanding {P : Plain} {now : Nat} (h : CanonPlain P) : CanonPlain (noteStanding now P) := h.frame

theorem canon_dropOwn (h : Canon t) : Canon (modPlain t p dropOwn) := canon_modPlain h

theorem canon_awaitTurn (n : Nat) (h : Canon t) : Canon (awaitTurn p n t).1 := by
  induction n generalizing t with
  | zero => exact canon_dropOwn h
  | succ n ih =>
    unfold awaitTurn
    dsimp only
    split
    · exact canon_dropOwn (canon_matrixStep _ h)
    · exact keep_ite_fst (canon_dropOwn h) (ih (canon_matrixStep _ h))

theorem canon_takeTurn (tag : Nat) (x : Access) (h : Canon t) : Canon (takeTurn t p tag x).1 := by
  unfold takeTurn
  extract_lets P req r
  have hr : Canon r.1 := keep_ite_fst h (canon_awaitTurn _ (canon_modPlain h fun h => canonPlain_noteStanding (canonPlain_busIssue h)))
  exact keep_ite_fst (canon_modPlain hr canonPlain_notePort) hr

theorem canon_busPieces (x : Access) (data : List Byte) (n moved : Nat) (got : List Byte) (bad : Bool) (h : Canon t) :
    Canon (busPieces p x data n moved got bad t).1 := by
  induction n generalizing t moved got bad with
  | zero => exact h
  | succ n ih =>
    have hturn := canon_takeTurn (p := p) 0 (pieceOf t.plains[p] x moved) h
    unfold busPieces
    dsimp only
    split
    next e => exact hturn.of_fst e
    next e =>
      have hserve := canon_serveAccess (p := p) (pieceOf t.plains[p] x moved) (sub data moved (pieceOf t.plains[p] x moved).size) (hturn.of_fst e)
      exact keep_ite_fst hserve (keep_ite_fst (ih _ _ _ hserve) hserve)

theorem canon_busAccess (m lvl : Nat) (write : Bool) (a n : Nat) (data : List Byte) (h : Canon t) :
    Canon (busAccess t p m lvl write a n data).1 := by
  unfold busAccess
  extract_lets x r
  have hr : Canon r.1 := canon_busPieces _ _ _ _ _ _ h
  exact keep_ite (canon_modPlain hr canonPlain_logAccess) hr

/-! ## The host's accesses (15 R309, 13 R256-R258) -/

theorem canon_plainFnPut (off : Nat) (v : Word) (h : Canon t) : Canon (plainFnPut t p off v) :=
  canon_sendMsix _ _ (canon_modPlain h)

theorem canon_hostUnmap (h : Canon t) : Canon (hostUnmap t p) := canon_modPlain h fun h => keep_ite h.frame h

theorem canon_hostInValley (off n : Nat) (write : Bool) (data : List Byte) (h : Canon t) :
    Canon (hostInValley t p off n write data).1 :=
  keep_ite_fst (keep_ite_fst (canon_busWriteRegs _ _ _ _ h) (canon_busReadRegs _ _ _ h)) h

theorem canon_hostAccess (off n : Nat) (write : Bool) (data : List Byte) (h : Canon t) :
    Canon (hostAccess t p off n write data).1 := by
  unfold hostAccess
  extract_lets r
  have hr : Canon r.1 := canon_busAccess _ _ _ _ _ _ h
  exact keep_ite_fst (canon_hostInValley _ _ _ _ h) (keep_ite_fst (canon_hostUnmap h) (keep_ite_fst (canon_modPlain hr canonPlain_busIssue) hr))

theorem canon_hostWrite (off : Nat) (v : Word) (h : Canon t) : Canon (hostWrite t p off v) :=
  keep_ite (canon_plainFnPut _ _ h) (keep_ite (canon_writeReg _ _ _ h) (canon_hostAccess _ _ _ _ h))

theorem canon_pf0PlainWrite (off : Nat) (v : Word) (h : Canon t) : Canon (pf0PlainWrite t p off v) :=
  keep_ite (canon_writeReg _ _ _ h) h

end Sys2Proof.Machine
end

section
/-! SUPPORT. What the boundary rows, the links, the JOB operations and the images leave of the canonical form of every Plain's memories. -/

namespace Sys2Proof.Machine

-- One proof after the other: the threads of parallel elaboration take their stacks from the check's memory limit.
set_option Elab.async false

variable {p : Fin 8} {s t u : State}

/-! ## Faults, VALLEY and records (18 R378, 12 R249) -/

theorem canon_closeIn (h : Canon t) : Canon (closeIn t p) := canon_modPlain h canonPlain_closeWindow

theorem canon_writeFaultRecord (kind : Nat) (h : Canon t) : Canon (writeFaultRecord t p kind) := by
  unfold writeFaultRecord
  extract_lets r seq slot s0 s1
  have h0 : Canon s0 := canon_nvsWrite _ _ _ (canon_nvsRead _ _ _ h)
  clear_value s0
  exact canon_nvsWrite _ _ _ (canon_modPlain h0 fun h => h.withMem h.mem.frame)

theorem canon_startValley (h : Canon t) : Canon (startValley t p) := by
  unfold startValley
  extract_lets s0
  have h0 : Canon s0 := canon_modPlain h fun h => CanonPlain.withRun (canonPlain_closeLinks h)
  exact keep_ite h0 (canon_finishValley h0)

theorem canon_valleyFollows (h : Canon t) : Canon (valleyFollows t p) :=
  keep_ite (canon_startValley (canon_modPlain h)) h

/-- A fault of the running cycle: the cycle is abandoned, and a VALLEY that waited for HOLD follows. -/
theorem canon_abandon (code unit : Nat) {g : State → Plain → Plain} (h : Canon t) (hg : ∀ {v P}, CanonPlain P → CanonPlain (g v P)) :
    Canon (valleyFollows (raiseFault t p code unit fun v => modPlain v p (g v)) p) :=
  canon_valleyFollows (canon_raiseFault _ _ (fun hv => canon_modPlain hv hg) h)

/-! ## Tile requests of the Basin (07 R138, R143) -/

theorem canon_receiveRequest (k : Fin 64) (h : Canon t) : Canon (receiveRequest t p k) := by
  unfold receiveRequest
  split
  · exact h
  · exact canon_modPlain h fun h => ⟨h.basin.frame, h.mem, h.mgr⟩

theorem canon_completeRequest (k : Fin 64) (h : Canon t) : Canon (completeRequest t p k) :=
  canon_modPlain (keep_ite (canon_performUpTo _ _ h) h)

theorem canon_drainTile (n : Nat) (k : Fin 64) (h : Canon t) : Canon (drainTile n p k t) := by
  induction n generalizing t with
  | zero => exact h
  | succ n ih => exact ih (canon_completeRequest k (canon_receiveRequest k h))

theorem canon_drainQ0 (h : Canon t) : Canon (drainQ0 p t) :=
  keep_foldl (canon_settle h) (canon_drainTile _ _)

/-! ## Boundaries (01 R20, 09 R180-R195) -/

theorem canon_takeCkpt (c slot : Nat) (h : Canon t) : Canon (takeCkpt p c slot t) := by
  refine canon_modPlain (canon_drainQ0 h) fun h => ?_
  generalize (drainQ0 p t).plains[p] = P at h
  extract_lets P0 P1 P2 C
  have h0 : CanonPlain P0 := h.withBasin h.basin.frame
  have h1 : CanonPlain P1 := canonPlain_allTiles h0
  have h2 : CanonPlain P2 := keep_ite (canonPlain_emit h1) h1
  clear_value P2
  exact canonPlain_finishCkptJob h2.frame

theorem canon_row7 (c : Nat) (ok : Bool) (h : Canon t) : Canon (row7 p c ok t) := by
  refine keep_ite h (keep_ite (canon_takeCkpt _ _ h) (canon_modPlain h fun h => ?_))
  extract_lets P0
  have h0 : CanonPlain P0 := keep_ite (canonPlain_emit h) h
  exact h0.frame

theorem canon_row7Jobs (c : Nat) (ok jobDue : Bool) (h : Canon t) : Canon (row7Jobs p c ok jobDue t) :=
  keep_ite (canon_modPlain (canon_row7 _ _ (canon_modPlain h))) (canon_row7 _ _ h)

theorem canon_noteSection (c : Nat) (h : Canon t) : Canon (noteSection p c t) := by
  unfold noteSection
  split
  · exact canon_logNote _ _ h
  · exact h

theorem canon_finishRows (h : Canon t) : Canon (finishRows t p) := by
  unfold finishRows
  extract_lets P c tstep r1 before s0 r3 P1 r6 s1 s2 s3 s4
  have h0 : Canon s0 := keep_ite (canon_applyExtWr _ h) h
  have hr3 : CanonPlain r3.1 := canonPlain_row3 (h0 p)
  clear_value r3
  have hP1 : CanonPlain P1 := keep_ite (canonPlain_replayEpoch (canonPlain_row4 hr3)) (canonPlain_row4 hr3)
  have hr6 : CanonPlain r6.1 := canonPlain_row6 (canonPlain_row5 hP1)
  clear_value r6
  have h1 : Canon s1 := canon_setPlain h0 fun _ => canonPlain_periodic (canonPlain_measure hr6)
  have h2 : Canon s2 := canon_row7Jobs _ _ _ h1
  have h3 : Canon s3 := canon_modPlain h2 canonPlain_afterRow7
  have h4 : Canon s4 := keep_ite (canon_applyExtWr _ (canon_noteHold _ h3)) h3
  exact keep_ite h4 (canon_valleyFollows (canon_modPlain h4 canonPlain_row8))

theorem canon_row2 (h : Canon t) : Canon (row2 t p) := by
  unfold row2
  extract_lets s0 s1
  have h0 : Canon s0 := canon_modPlain h canonPlain_consumeRest
  have h1 : Canon s1 := canon_modPlain h0 canonPlain_writeSection
  exact keep_ite (canon_modPlain h0) (keep_ite (canon_finishRows h1) (canon_modPlain h1))

/-! ## Writes of memory that are logged (09 R186) -/

theorem canon_extWrite (master origin off : Nat) (bs : List Byte) (h : Canon t) : Canon (extWrite t p master origin off bs).1 :=
  canon_modPlain (canon_basinWrite _ _ _ _ h) canonPlain_logExt

theorem canon_memWrite (master lvl origin a : Nat) (bs : List Byte) (h : Canon t) : Canon (memWrite t p master lvl origin a bs).1 :=
  canon_memStore (fun _ _ => canon_extWrite _ _ _ _) _ _ _ _ h

theorem canon_hostPut (a : Nat) (bs : List Byte) (h : Canon t) : Canon (hostPut t a bs) := canon_shared h

/-! ## Pass links (08 R149-R179) -/

theorem canon_modLink {l : Fin 8} {f : Link → Link} (h : Canon t) : Canon (modPlain t p fun P => modLink P l f) :=
  canon_modPlain h canonPlain_modLink

theorem canon_rxSequenced (l : Fin 8) (f : Frame) {take : State → State} (hk : ∀ {v}, Canon v → Canon (take v))
    (h : Canon t) : Canon (rxSequenced t p l f take) := by
  unfold rxSequenced
  extract_lets L s0
  have h0 : Canon s0 := canon_modLink h
  exact keep_ite (canon_modLink h0) (keep_ite (hk (canon_modLink h0)) (keep_ite h0 (canon_modLink h0)))

theorem canon_linkDown (l : Fin 8) (h : Canon t) : Canon (linkDown t p l) :=
  have hd := canon_modPlain h fun h => canonPlain_event (canonPlain_modLink h)
  canon_linksClosed (canon_abandon _ _ hd fun h => keep_ite (canonPlain_faultHold h) h)

theorem canon_failLane (l : Fin 8) (working : Nat) (h : Canon t) : Canon (failLane t p l working) :=
  have h0 := canon_modPlain h canonPlain_leaveActive
  keep_ite (canon_linkDown l h0) h0

theorem canon_rxCodeword (l : Fin 8) (rx : LaneCodeword) (code : BitVec 4) (h : Canon t) : Canon (rxCodeword p l rx code t) := by
  unfold rxCodeword
  extract_lets L now s0
  have h0 : Canon s0 := canon_modLink h
  exact keep_ite h (keep_ite (keep_ite (canon_failLane _ _ h0) h0) (keep_ite h (canon_linksClosed (canon_modLink h))))

/-! ## JOB operations (13 R269, 18 R368) -/

theorem canon_jobDone (seq : Word) (status result : Nat) (h : Canon t) : Canon (jobDone t p seq status result) := canon_modPlain h

theorem canon_jobModeTo (seq : Word) (m : Mode) (h : Canon t) : Canon (jobModeTo t p seq m) :=
  have refused := canon_jobDone seq 0x0C 0 h
  keep_ite refused (keep_ite
    (keep_ite (canon_startValley (canon_modPlain h)) (keep_ite (canon_modPlain h) refused))
    (keep_ite refused (keep_ite (keep_ite (canon_jobDone _ _ _ (canon_modPlain h canonPlain_leaveHold)) refused)
      (keep_ite (canon_modPlain h) refused))))

theorem canon_jobLink (seq : Word) (code : Nat) (link : Byte) (holdOnly : Bool) {act : State → Fin 8 → Fin 8 → State}
    (ha : ∀ l, Canon (act t p l)) (h : Canon t) : Canon (jobLink t p seq code link holdOnly act) :=
  keep_ite h (keep_ite (canon_jobDone _ _ _ h) (keep_ite (canon_jobDone _ _ _ h) (canon_jobDone _ _ _ (ha _))))

/-! ## Power and health of a Plain (17 R344-R356) -/

theorem canon_throttleSet (cause : Nat) (on : Bool) (h : Canon t) : Canon (throttleSet t p cause on) :=
  canon_pf0Vector _ (canon_power _ (canon_modPlain h fun h => canonPlain_event h.frame))

theorem canon_causeIs (cause : Nat) (present : Bool) (h : Canon t) : Canon (causeIs cause t p present) := by
  unfold causeIs
  extract_lets v s0
  have h0 : Canon s0 := canon_modPlain h
  exact keep_ite h (keep_ite (keep_ite h0 (canon_throttleSet _ _ h0)) (keep_ite (canon_modPlain h) h))

theorem canon_plainUp (h : Canon t) : Canon (plainUp t p) := by
  unfold plainUp
  extract_lets s0 s1
  have h0 : Canon s0 := canon_modPlain h fun h => keep_ite h (canonPlain_offPlain h)
  have h1 : Canon s1 := canon_modPlain h0 fun h => ⟨h.basin, h.mem, h.mgr.frame⟩
  exact keep_ite (canon_modPlain h1) (canon_enterBoot h1)

/-! ## The boot ROM's recovery service (18 R377) -/

theorem canon_stagedImage (off : Nat) (h : Canon t) : Canon (stagedImage t p off).1 := by
  have hh := canon_romLoad (p := p) off 4096 h
  unfold stagedImage
  refine keep_ite_fst h ?_
  split
  next e => exact hh.of_fst e
  next e => exact keep_ite_fst (hh.of_fst e) (canon_romLoad _ _ (hh.of_fst e))

theorem canon_stagedCandidate (off : Nat) (h : Canon t) : Canon (stagedCandidate t p off).1 := by
  have hi := canon_stagedImage (p := p) off h
  unfold stagedCandidate
  split
  next e => exact hi.of_fst e
  next e =>
    have hr := canon_romRead (p := p) 0x1000000 1376 (hi.of_fst e)
    split
    next e' => exact hr.of_fst e'
    next e' => exact hr.of_fst e'

/-! ## Images (10 R200-R216) -/

theorem canon_ldPiece (a n : Nat) (h : Canon t) : Canon (ldPiece t p a n).1 := by
  unfold ldPiece
  split
  · exact canon_modPlain h
  · exact canon_memRead _ _ _ h

theorem canon_ldPieces (k a n : Nat) (h : Canon t) : Canon (ldPieces p k a n t).1 := by
  induction k generalizing t a n with
  | zero => exact h
  | succ k ih =>
    have hr := canon_ldPiece (p := p) a (min n 1024) (canon_takeTurn (p := p) 0 { master := 6, lvl := 0, write := false, addr := a, size := min n 1024, tile := 0 } h)
    exact keep_ite_fst hr (ih _ _ hr)

theorem canon_ldRead (a n : Nat) (h : Canon t) : Canon (ldRead t p a n).1 :=
  keep_ite_fst (canon_ldPiece _ _ h) (canon_ldPieces _ _ _ h)

theorem canon_keyUnitRead (off n : Nat) (h : Canon t) : Canon (keyUnitRead t p off n).1 := keep_ite_fst h (canon_spadRead _ _ _ h)

theorem canon_keySlot (k : Nat) (h : Canon t) : Canon (keySlot t p k).1 := keep_ite_fst h (canon_keyUnitRead _ _ h)

theorem canon_openPart (keyslot : Nat) (e raw : List Byte) (h : Canon t) : Canon (openPart t p keyslot e raw).1 := by
  have hk := canon_keySlot (p := p) keyslot h
  unfold openPart
  refine keep_ite_fst ?_ h
  split
  next e => exact hk.of_fst e
  next e => exact hk.of_fst e

theorem canon_readParts (addr v : Nat) (man : List Byte) (ks : List Nat) (h : Canon t) : Canon (readParts p addr v man ks t).1 := by
  induction ks generalizing t with
  | nil => exact h
  | cons k ks ih =>
    have ho := canon_openPart (p := p) (num man 12 1) (partEntry man (partIndex man v k)) (ldRead t p (addr + num (partEntry man (partIndex man v k)) 8 8) (num (partEntry man (partIndex man v k)) 16 8)).2
      (canon_ldRead (p := p) (addr + num (partEntry man (partIndex man v k)) 8 8) (num (partEntry man (partIndex man v k)) 16 8) h)
    unfold readParts
    dsimp only
    split
    next e => exact ho.of_fst e
    next e =>
      have hrest := ih (ho.of_fst e)
      split
      next e' => exact hrest.of_fst e'
      next => exact hrest

theorem canon_verifyImage (addr len vplain : Nat) (bind : DWord) (h : Canon t) : Canon (verifyImage t p addr len vplain bind).1 := by
  unfold verifyImage
  extract_lets hdr n r man k s0 key
  have hk : Canon s0 := canon_keyUnitRead _ _ (canon_ldRead _ _ (canon_ldRead _ _ h))
  split
  · exact hk
  refine keep_ite_fst hk (keep_ite_fst hk (keep_ite_fst hk ?_))
  split
  · exact hk
  have hp := canon_readParts (p := p) addr vplain man [1, 2, 3, 4, 5, 6] hk
  split
  next e => exact hp.of_fst e
  next e =>
    split
    · exact hp.of_fst e
    · exact keep_ite_fst (hp.of_fst e) (keep_ite_fst (hp.of_fst e) (hp.of_fst e))

end Sys2Proof.Machine
end

section
/-! SUPPORT. What the Manager's steps, the drains, the transfers and the test port's accesses leave of the canonical form of every Plain's
memories. -/

namespace Sys2Proof.Machine

-- One proof after the other: the threads of parallel elaboration take their stacks from the check's memory limit.
set_option Elab.async false

variable {p : Fin 8} {s t u : State}

/-! ## The Manager (11, 12) -/

/-- A change of a Plain's Manager that keeps its register files in canonical form. -/
theorem canon_modMgr {f : Manager → Manager} (h : Canon t)
    (hf : CanonMgr t.plains[p].mgr → CanonMgr (f t.plains[p].mgr) := by exact fun h => ⟨h.g, h.ports, h.csr⟩) : Canon (modMgr t p f) :=
  canon_modPlain h fun h => h.withMgr (hf h.mgr)

theorem canon_thirdFault (h : Canon t) : Canon (thirdFault t p) := by
  unfold thirdFault
  extract_lets s0
  have h0 : Canon s0 := canon_writeFaultRecord _ (canon_modMgr h)
  exact canon_raiseFault _ _ (canon_plainReset _) h0

theorem canon_mgrTrap (c : Nat) (x epc raiser : DWord) (h : Canon t) : Canon (mgrTrap t p c x epc raiser) :=
  keep_ite (canon_thirdFault (canon_modPlain h)) (canon_modPlain (canon_modPlain h) canonPlain_mgrAct)

theorem canon_fetchIssue (pa : Nat) (h : Canon t) : Canon (fetchIssue t p pa).1 := by
  unfold fetchIssue
  dsimp only
  split
  · exact h
  next r _ =>
    refine keep_ite_fst h ?_
    have hb := canon_busAccess (p := p) 0 r.lvl.val false (64 * r.line) 64 [] h
    split
    next e => exact canon_modMgr (hb.of_fst e)
    next e => exact canon_modMgr (hb.of_fst e)
    next e => exact canon_modMgr (hb.of_fst e)
    next e => exact hb.of_fst e

theorem canon_fetchAt (pa : Nat) (h : Canon t) : Canon (fetchAt t p pa).1 := by
  have hi := canon_fetchIssue (p := p) pa h
  unfold fetchAt
  dsimp only
  split
  · exact hi
  · exact keep_ite_fst hi (keep_ite_fst hi (canon_modPlain hi canonPlain_mgrAct))

theorem canon_mgrEnvCall (h : Canon t) : Canon (mgrEnvCall t p) := by
  unfold mgrEnvCall
  split
  · exact h
  · exact canon_mgrTrap _ _ _ _ h

theorem canon_mgrDo (a : Option MgrAct) (h : Canon t) : Canon (mgrDo t p a) := by
  unfold mgrDo
  split
  · exact canon_modMgr h
  · exact canon_mgrTrap _ _ _ _ h
  · exact canon_modPlain h canonPlain_mgrAct
  · exact canon_modPlain h canonPlain_mgrAct
  · exact canon_mgrEnvCall (canon_modPlain h fun h => canonPlain_mgrRetire (canonPlain_mgrAct h))

theorem canon_mgrFetchRun (E : MgrDelay) (h : Canon t) : Canon (mgrFetchRun t p E) := by
  unfold mgrFetchRun
  refine keep_ite (canon_mgrDo _ h) ?_
  split
  · exact canon_mgrDo _ h
  have hf := canon_fetchAt (p := p) (segAddr t.plains[p].mgr t.plains[p].mgr.lvl.val 0 t.plains[p].mgr.pc) h
  split
  next e => exact canon_mgrDo _ (hf.of_fst e)
  next e => exact hf.of_fst e
  next e => exact keep_ite (canon_modMgr (hf.of_fst e)) (canon_mgrDo _ (hf.of_fst e))

theorem canon_mgrNext (E : MgrDelay) (h : Canon t) : Canon (mgrNext t p E) := by
  unfold mgrNext
  extract_lets s0 M
  have h0 : Canon s0 := canon_modMgr h canonMgr_noteWaiting
  refine keep_ite h0 ?_
  split
  · split
    · exact h0
    · exact canon_mgrDo _ h0
  split
  · exact canon_mgrTrap _ _ _ _ (canon_modMgr h0)
  · exact keep_ite (canon_mgrTrap _ _ _ _ h0) (keep_ite h0 (keep_ite h0 (canon_mgrFetchRun _ (canon_modMgr h0))))

theorem canon_mgrServe (o : MgrOp) (h : Canon t) : Canon (mgrServe t p o).1 := canon_modMgr (canon_busAccess _ _ _ _ _ _ h)

theorem canon_lockstepFailure (kind : Nat) (h : Canon t) : Canon (lockstepFailure t p kind) := by
  unfold lockstepFailure
  extract_lets P M policy on stat0 stat pc s0 s1
  have h0 : Canon s0 := canon_modPlain h fun h => ⟨h.basin, h.mem, h.mgr.frame⟩
  have h1 : Canon s1 := canon_writeFaultRecord _ h0
  exact canon_raiseFault _ _
    (fun hv => keep_ite (canon_modPlain hv canonPlain_closeWindow) (keep_ite (canon_plainReset _ hv) (canon_enterQuarantine _ hv))) h1

theorem canon_mgrBusError {a : Nat} (h : Canon t) : Canon (modMgr t p (mgrBusError a)) := canon_modMgr h

theorem canon_blkRead (lvl k a : Nat) (h : Canon t) : Canon (blkRead p lvl k t a).1 := by
  induction k generalizing t a with
  | zero => exact h
  | succ k ih =>
    have hgo : ∀ {v : State} (bs : List Byte), Canon v →
        Canon (match blkRead p lvl k v ((a + 8) % 2 ^ 40) with
          | (v, .inl cs) => (v, .inl (bs ++ cs))
          | r => r : State × (List Byte ⊕ BlkGroup)).1 := by
      intro v bs hv
      have hr := ih ((a + 8) % 2 ^ 40) hv
      split
      next e => exact hr.of_fst e
      next => exact hr
    have hb := canon_busAccess (p := p) 1 lvl false a 8 [] h
    unfold blkRead
    dsimp only
    split
    next e => exact hgo _ (hb.of_fst e)
    next e => exact hgo _ (canon_mgrBusError (hb.of_fst e))
    next e => exact hb.of_fst e
    next e => exact hb.of_fst e

theorem canon_blkWrite (lvl k a : Nat) (bs : List Byte) (h : Canon t) : Canon (blkWrite p lvl k t a bs).1 := by
  induction k generalizing t a bs with
  | zero => exact h
  | succ k ih =>
    have hb := canon_busAccess (p := p) 1 lvl true a 8 (bs.take 8) h
    unfold blkWrite
    split
    next e => exact ih _ _ (hb.of_fst e)
    next e => exact ih _ _ (canon_mgrBusError (hb.of_fst e))
    next e => exact hb.of_fst e
    next e => exact hb.of_fst e

theorem canon_blkGroup (b : BlkOp) (h : Canon t) : Canon (blkGroup t p b).1 := by
  unfold blkGroup
  extract_lets n src dst
  refine keep_ite_fst (canon_blkWrite _ _ _ _ h) ?_
  have hr := canon_blkRead (p := p) b.lvl.val n src h
  split
  next e => exact hr.of_fst e
  next e =>
    refine keep_ite_fst (canon_blkWrite _ _ _ _ (hr.of_fst e)) ?_
    have hd := canon_blkRead (p := p) b.lvl.val n dst (hr.of_fst e)
    split
    next e' => exact hd.of_fst e'
    next e' => exact hd.of_fst e'

theorem canon_blkStep (h : Canon t) : Canon (blkStep t p) := by
  unfold blkStep
  split
  · exact h
  next b _ =>
    refine keep_ite h (keep_ite (canon_modPlain h canonPlain_blkEnd) (keep_ite (canon_lockstepFailure _ h) ?_))
    have hg := canon_blkGroup (p := p) b h
    split
    next e => exact keep_ite (canon_modPlain (hg.of_fst e) canonPlain_blkEnd) (canon_modMgr (hg.of_fst e))
    next e => exact canon_modPlain (hg.of_fst e) canonPlain_blkEnd
    next e => exact hg.of_fst e
    next e => exact canon_modMgr (hg.of_fst e)

theorem canon_blkRun (k : Nat) (h : Canon t) : Canon (blkRun p k t) := by
  induction k generalizing t with
  | zero => exact h
  | succ k ih => exact ih (canon_blkStep h)

theorem canon_mgrStep (h : Canon t) : Canon (mgrStep t p) := by
  unfold mgrStep
  extract_lets s0 s1
  have h0 : Canon s0 := canon_blkStep h
  have h1 : Canon s1 := canon_modPlain h0 canonPlain_mgrBegin
  refine keep_ite h0 ?_
  split
  · exact h1
  · exact canon_modPlain (canon_mgrNext _ h1) canonPlain_mgrEnd

/-! ## Drains and transfers (09 R184, R192, 14 R292-R301) -/

theorem canon_captureTurn (k off n : Nat) (h : Canon t) : Canon (captureTurn t p k off n).1 :=
  keep_ite_fst h (canon_takeTurn _ _ h)

theorem canon_arriveLate (h : Canon t) : Canon (arriveLate t p) :=
  keep_ite h (keep_foldl (canon_modPlain h) (canon_memWrite _ _ _ _ _))

theorem canon_arriveAt (a : Nat) (h : Canon t) : Canon (arriveAt t p a) := keep_ite (canon_arriveLate h) h

theorem canon_storeGroup (V : Mover) (T : Transfer) (a : Nat) (bs : List Byte) (h : Canon t) : Canon (storeGroup V T t p a bs).1 := by
  have hm := canon_memStore (p := p) (toBasin := fun v off bs => basinWrite v p (basinMaster 3) 3 off bs) (fun _ _ => canon_basinWrite _ _ _ _) 3 0 a bs
    (canon_arriveAt (p := p) a h)
  unfold storeGroup
  split
  · exact keep_ite_fst (canon_modPlain h) hm
  · exact hm

theorem canon_moveGroups (V : Mover) (T : Transfer) (n i : Nat) (w : List (Nat × List Byte)) (h : Canon t) :
    Canon (moveGroups V p T n i t w).1 := by
  induction n generalizing t i w with
  | zero => exact h
  | succ n ih =>
    unfold moveGroups
    extract_lets r a
    have hr : Canon r.1 := by
      unfold r
      split
      · exact h
      · exact canon_memRead _ _ _ h
    clear_value r
    split
    next => exact hr
    next bs =>
      refine keep_ite_fst hr ?_
      have hs := canon_storeGroup (p := p) V T a bs hr
      split
      next e' => exact hs.of_fst e'
      next e' => exact keep_ite_fst (ih _ _ (hs.of_fst e')) (hs.of_fst e')

theorem canon_compareGroups (V : Mover) (T : Transfer) (n i : Nat) (h : Canon t) : Canon (compareGroups V p T n i t).1 := by
  induction n generalizing t i with
  | zero => exact h
  | succ n ih =>
    have ha := canon_memRead (p := p) 2 (wrapAt T.wrapSrc T.src (64 * i)) 64 h
    unfold compareGroups
    split
    next e => exact ha.of_fst e
    next e =>
      refine keep_ite_fst (ha.of_fst e) ?_
      have hb := canon_memRead (p := p) 2 (wrapAt T.wrapDst T.dst (64 * i)) 64 (ha.of_fst e)
      split
      next e' => exact hb.of_fst e'
      next e' =>
        split
        · exact hb.of_fst e'
        · exact keep_ite_fst (ih _ (hb.of_fst e')) (hb.of_fst e')

theorem canon_logRuns (origin : Nat) (w : List (Nat × List Byte)) (h : Canon t) : Canon (modPlain t p (logRuns origin w)) :=
  canon_modPlain h canonPlain_logRuns

theorem canon_movePiece (V : Mover) (T : Transfer) (X : Progress) (h : Canon t) : Canon (movePiece V p T X t).1 := by
  have hm := canon_moveGroups (p := p) V T (nextGroups T X) X.moved X.part h
  unfold movePiece
  dsimp only
  split
  · exact canon_compareGroups _ _ _ _ h
  · split
    · exact canon_logRuns _ _ hm
    · exact keep_ite_fst (canon_logRuns _ _ hm) (keep_ite_fst (canon_logRuns _ _ hm) hm)

theorem canon_pieceTurn (V : Mover) (T : Transfer) (X : Progress) (h : Canon t) : Canon (pieceTurn V p T X t).1 := by
  have ht : ∀ (c : Bool) (x : Access) (r : State × Bool), Canon r.1 → Canon (if c then takeTurn r.1 p V.chan x else r).1 :=
    fun c x r hr => keep_ite_fst (canon_takeTurn _ _ hr) hr
  unfold pieceTurn
  dsimp only
  split
  · exact ht _ _ _ h
  · exact ht _ _ _ (ht _ _ _ h)
  · exact ht _ _ _ (ht _ _ _ h)

theorem canon_runPieces (V : Mover) (T : Transfer) (n : Nat) (X : Progress) (h : Canon t) : Canon (runPieces V p T n X t).1 := by
  induction n generalizing t X with
  | zero => exact h
  | succ n ih =>
    have ht := canon_pieceTurn (p := p) V T X h
    have hm := canon_movePiece (p := p) V T X ht
    unfold runPieces
    refine keep_ite_fst h (keep_ite_fst ht (keep_ite_fst hm ?_))
    split
    · exact hm
    · exact ih _ hm

theorem canon_finishRing (c : Fin 16) (d : BitVec 256) (status result : Nat) (h : Canon t) :
    Canon (finishRing t p c d status result) := by
  unfold finishRing
  extract_lets C a s0 s1
  have h0 : Canon s0 := canon_memWrite _ _ _ _ _ (canon_arriveAt _ h)
  have h1 : Canon s1 := canon_memWrite _ _ _ _ _ h0
  exact keep_ite h0 (keep_ite h1 (canon_modPlain h1 fun h =>
    canonPlain_modCh (canonPlain_raiseCompletion (canonPlain_countDone (canonPlain_modCh h)))))

theorem canon_finishBulk (j : DmaJob) (status result : Nat) (h : Canon t) : Canon (finishBulk t p j status result) :=
  canon_modPlain h fun h =>
    have hc := canonPlain_modCh (canonPlain_raiseCompletion (canonPlain_countDone h))
    keep_ite (canonPlain_outcome hc) (keep_ite (canonPlain_outcome hc) (canonPlain_outcome hc))

theorem canon_finishDescriptor (c : Fin 16) (j : DmaJob) (status result : Nat) (h : Canon t) :
    Canon (finishDescriptor t p c j status result) := keep_ite (canon_finishBulk _ _ _ h) (canon_finishRing _ _ _ _ h)

/-- A change of the DMA engine only. -/
theorem canon_modDma {f : Plain → Dma} (h : Canon t) : Canon (modPlain t p fun P => { P with dma := f P }) := canon_modPlain h

theorem canon_runChannel (n : Nat) (c : Fin 16) (h : Canon t) : Canon (runChannel n t p c) := by
  unfold runChannel
  dsimp only
  split
  · exact h
  · refine keep_ite h (keep_ite (canon_finishDescriptor _ _ _ _ (canon_modDma h)) (keep_ite h
      (keep_ite (canon_runPieces _ _ _ _ (canon_modDma h)) ?_)))
    split
    · exact canon_finishDescriptor _ _ _ _ (canon_modDma (canon_runPieces _ _ _ _ (canon_modDma h)))
    · exact canon_modPlain (canon_runPieces _ _ _ _ (canon_modDma h)) canonPlain_modCh

theorem canon_modCh {c : Fin 16} {f : Channel → Channel} (h : Canon t) : Canon (modPlain t p fun P => modCh P c f) :=
  canon_modPlain h canonPlain_modCh

theorem canon_fetchDescriptor (c : Fin 16) (h : Canon t) : Canon (fetchDescriptor t p c) := by
  unfold fetchDescriptor
  extract_lets C a r s1
  have hr : Canon r.1 := keep_ite_fst (canon_memRead _ _ _ h) h
  have h1 : Canon s1 := canon_modCh hr
  refine keep_ite hr ?_
  split
  · exact canon_modPlain h1 fun h => canonPlain_event (canonPlain_modCh h)
  · exact keep_ite (canon_modCh h1) (canon_modCh h1)

theorem canon_bulkRun (seq : Word) (op : Nat) (fs : List (Nat × Nat × Nat)) (T : Transfer) (h : Canon t) :
    Canon (bulkRun t p seq op fs T) := by
  unfold bulkRun
  dsimp only
  split
  · exact keep_ite (canon_runChannel _ _ h) h
  · exact keep_ite h (keep_ite (canon_modPlain h) (canon_runChannel _ _ (canon_modCh h)))

theorem canon_xactDone (seq : Word) (status result : Nat) (h : Canon t) : Canon (xactDone t p seq status result) := canon_modPlain h

theorem canon_startXact (seq : Word) (write : Bool) (cycle haddr woff len : Nat) (h : Canon t) :
    Canon (startXact t p seq write cycle haddr woff len) := by
  unfold startXact
  extract_lets P s0
  have h0 : Canon s0 := canon_modPlain h
  exact keep_ite h (keep_ite (canon_xactDone _ _ _ h0) (keep_ite (canon_xactDone _ _ _ h0) (keep_ite (canon_xactDone _ _ _ h0) (canon_modPlain h0))))

/-! ## Host and test port (13 R255, 20 R396) -/

theorem canon_hostFnAccess (off n : Nat) (write : Bool) (data : List Byte) (h : Canon t) :
    Canon (hostFnAccess t p off n write data).1 :=
  keep_ite_fst h (keep_ite_fst (canon_plainFnPut _ _ h) h)

theorem canon_m7Access (write : Bool) (addr n : Nat) (bs : List Byte) (h : Canon t) : Canon (m7Access t p write addr n bs).1 :=
  keep_ite_fst h (canon_busAccess _ _ _ _ _ _ h)

theorem canon_modTap (f : Tap → Tap) (h : Canon t) : Canon (modTap t f) := canon_tap _ h

theorem canon_testctlAccess (addr : BitVec 40) (sizeCode : BitVec 2) (write : Bool) (data : DWord) (h : Canon t) :
    Canon (testctlAccess t p addr sizeCode write data) := by
  have hc := canon_modTap (fun T => selectInstr 0x11 .normal (testctlWord T) T) h
  have hm := canon_m7Access (p := p) write addr.toNat (2 ^ sizeCode.toNat) (leBytes (2 ^ sizeCode.toNat) data.toNat) hc
  unfold testctlAccess
  refine keep_ite (canon_modTap _ h) (keep_ite (canon_modTap _ hc) ?_)
  dsimp only
  split
  · exact canon_modTap _ hm
  · exact canon_modTap _ hm
  · exact canon_modTap _ hm

end Sys2Proof.Machine
end

section
/-! SUPPORT. What the operations of the device leave of the canonical form of every Plain's memories: resets and starts, the arbiter, the
sensors, PF0's registers and the test port. -/

namespace Sys2Proof.Machine

-- One proof after the other: the threads of parallel elaboration take their stacks from the check's memory limit.
set_option Elab.async false

variable {p : Fin 8} {s t u : State}

/-- A change of every Plain that keeps its memories in canonical form, with whatever becomes of the device. -/
theorem canon_vall {f : Fin 8 → Plain → Plain} {F W T H M N X R K A C Q} (h : Canon t) (hf : ∀ q {P}, CanonPlain P → CanonPlain (f q P)) :
    Canon ⟨vall t.plains f, F, W, T, H, M, N, X, R, K, A, C, Q⟩ := fun q => by
  change CanonPlain (vall t.plains f)[q]
  rw [vall_at]
  exact hf q (h q)

/-! ## Reports and the arbiter (17 R346-R350, R364) -/

theorem canon_eventAll (code unit detail : Nat) (h : Canon t) : Canon (eventAll t code unit detail) :=
  canon_vall h fun _ _ h => keep_ite (canonPlain_event h) h

theorem canon_updateUnder (h : Canon t) : Canon (updateUnder t) :=
  keep_ite h (canon_eventAll _ _ _ (canon_pf0Vector _ (canon_power _ h)))

theorem canon_arbHostPut (v : Word) (h : Canon t) : Canon (arbHostPut v t) :=
  keep_ite (canon_pf0Vector _ (canon_power _ h)) (canon_updateUnder (canon_power _ h))

/-! ## Resets and starts (17 R354, 18 R370-R375) -/

theorem canon_startTest (h : Canon t) : Canon (startTest t) :=
  keep_ite (canon_vall h fun _ _ h => keep_ite (canonPlain_setMode h) h) h

theorem canon_coldReset (cause : BitVec 3) (h : Canon t) : Canon (coldReset t cause) := canon_vall h fun _ _ h => canonPlain_lost h

theorem canon_supplyRecords (h : Canon t) : Canon (supplyRecords t) :=
  keep_ite h (keep_foldl h fun hv => keep_ite (canon_writeFaultRecord 4 hv) hv)

theorem canon_coldStart (h : Canon t) : Canon (coldStart t) :=
  keep_ite (canon_shared h) (keep_foldl (canon_shared h) fun hv => keep_ite (canon_requestBase hv) hv)

theorem canon_releaseReset (h : Canon t) : Canon (releaseReset t) := keep_ite (canon_power _ h) (canon_coldStart h)

theorem canon_warmUp (h : Canon t) : Canon (warmUp t p) :=
  keep_ite h (keep_ite (canon_plainUp h) (keep_ite h (canon_requestBase h)))

theorem canon_warmReset (cause : BitVec 3) (h : Canon t) : Canon (warmReset t cause) := by
  unfold warmReset
  extract_lets _ s0
  have h0 : Canon s0 := canon_vall h fun _ _ h => canonPlain_warmPlain h
  exact keep_ite h0 (canon_startTest (keep_foldl h0 canon_warmUp))

theorem canon_warmIfStarted (cause : BitVec 3) (h : Canon t) : Canon (warmIfStarted t cause) := keep_ite (canon_warmReset cause h) h

/-! ## Supply and sensors (17 R353-R361) -/

theorem canon_aonLoss (h : Canon t) : Canon (aonLoss t) := canon_power _ h

theorem canon_samplePwrWarn (mv : Nat) (h : Canon t) : Canon (samplePwrWarn mv t) :=
  have hs := fun vec W => canon_eventAll 0x0200 0 mv (canon_pf0Vector vec (canon_power W h))
  have hc := fun vec W => canon_eventAll 0x0201 0 mv (canon_pf0Vector vec (canon_power W h))
  keep_ite (hs _ _) (keep_ite (hc _ _) h)

theorem canon_limitFlag (i : Nat) (pairs : List (Nat × Nat)) {tell : State → Nat → Nat → State}
    (ht : ∀ {v} a b, Canon v → Canon (tell v a b)) (h : Canon t) : Canon (limitFlag i pairs tell t) := by
  unfold limitFlag
  split
  · exact h
  · exact keep_ite h (ht _ _ (canon_pf0Vector _ (canon_power _ h)))

theorem canon_sampleLimits (h : Canon t) : Canon (sampleLimits t) := by
  unfold sampleLimits
  exact canon_limitFlag _ _ (fun _ _ => canon_eventAll _ _ _) (keep_foldl h fun hv =>
    canon_limitFlag _ _ (fun _ _ hv => canon_modPlain hv fun h => keep_ite (canonPlain_event h) h) hv)

theorem canon_sampleWarn (h : Canon t) : Canon (sampleWarn t) := by
  unfold sampleWarn
  extract_lets tj W v
  have h0 : Canon v := canon_power _ h
  clear_value tj v
  exact keep_ite (canon_eventAll _ _ _ (canon_pf0Vector _ (canon_power _ h0))) (keep_ite (canon_power _ h0) h0)

theorem canon_sampleThrottle (h : Canon t) : Canon (sampleThrottle t) :=
  keep_foldl h fun hv => keep_ite (canon_causeIs _ _ (canon_causeIs _ _ hv)) hv

/-! ## Registers of PF0 (22 R422) -/

theorem canon_pf0FnPut (off : Nat) (v : Word) (h : Canon t) : Canon (pf0FnPut t off v) := canon_shared h

theorem canon_obsDevPut (who : Agent) (o : Nat) (v : Word) (h : Canon t) : Canon (obsDevPut t who o v) :=
  keep_ite h (keep_ite (canon_tap _ h) (canon_tap _ h))

theorem canon_bistCtlWrite (v : Word) (h : Canon t) : Canon (bistCtlWrite t v) :=
  keep_ite (canon_shared h) (keep_ite (canon_shared h) (canon_vall h fun _ _ h => h.frame))

theorem canon_devTestWrite (v : Word) (h : Canon t) : Canon (devTestWrite t v) := keep_ite (canon_tap _ h) (canon_tap _ h)

theorem canon_devRstWrite (v : Word) (h : Canon t) : Canon (devRstWrite t v) :=
  have h0 := canon_devTestWrite v h
  keep_ite (canon_warmIfStarted _ h0) h0

theorem canon_writePf0 (who : Agent) (off : Nat) (v : Word) (h : Canon t) : Canon (writePf0 t who off v) := by
  unfold writePf0
  dsimp only
  split
  case h_1 => exact keep_ite (canon_tap _ h) h
  case h_2 => exact canon_devRstWrite _ h
  case h_3 => exact canon_arbHostPut _ h
  case h_14 => exact canon_tap _ h
  case h_15 => exact canon_bistCtlWrite _ h
  case h_16 => exact canon_tap _ h
  case h_17 => exact keep_ite (canon_obsDevPut _ _ _ h) h
  all_goals exact canon_power _ h

theorem canon_hostPf0Access (off n : Nat) (write : Bool) (data : List Byte) (h : Canon t) : Canon (hostPf0Access t off n write data) :=
  keep_ite (keep_ite h (canon_shared h)) (keep_ite (keep_ite (canon_pf0FnPut _ _ h) (canon_shared h))
    (keep_ite (canon_writePf0 _ _ _ h) (canon_shared h)))

/-! ## The test port (20 R394-R401) -/

theorem canon_endSession (h : Canon t) : Canon (endSession t) :=
  keep_ite (canon_shared h) (canon_vall h fun _ _ h => h.frame)

theorem canon_drivePins (code : Byte) (pins : PinDrive) (h : Canon t) : Canon (drivePins t code pins) :=
  keep_ite (canon_modTap _ h) (canon_modTap _ h)

theorem canon_lcBurn (b : Nat) (h : Canon t) : Canon (lcBurn t b) :=
  canon_endSession (canon_vall h fun _ _ h => keep_ite (h.withMem (canonStore_startWipe h.mem)) h)

theorem canon_lcRequest (valid : Bool) (b : Nat) (h : Canon t) : Canon (lcRequest t valid b) :=
  keep_ite (canon_lcBurn b h) (canon_modTap _ h)

theorem canon_boundaryScan (h : Canon t) : Canon (boundaryScan t) := canon_modTap _ h

end Sys2Proof.Machine
end

section
/-! SUPPORT. The rows: every command keeps the memories of every Plain in canonical form (07 R133, R144, 11 R223, R237, 15 R318, R326). -/

namespace Sys2Proof.Machine

-- One proof after the other: the threads of parallel elaboration take their stacks from the check's memory limit.
set_option Elab.async false

variable {p : Fin 8} {s t : State}

/-! ## Steps, boundaries, capture and replay -/

theorem stepRelease_canon (cols : BitVec 9) (h : Canon s) : Answers Canon (execStepRelease p cols s) := by
  have h0 : Canon (modPlain s p flagCorrections) := canon_modPlain h canonPlain_allTiles
  refine answers_ite (.next h) ?_
  dsimp only
  split
  · exact .next (canon_abandon _ _ (canon_modPlain h0 canonPlain_allTiles) canonPlain_abandonCycle)
  · exact answers_ite (.next (canon_modPlain h0 canonPlain_executeStep)) (.next (canon_modPlain h0 canonPlain_startWait))

theorem backPressureStallEnd_canon (h : Canon s) : Answers Canon (execBackPressureStallEnd p s) :=
  answers_ite (.next (canon_modPlain h fun h => canonPlain_joinStep (canonPlain_allTiles h))) (.next h)

theorem captureQ7Pop_canon (k : Fin 64) (h : Canon s) : Answers Canon (execCaptureQ7Pop p k s) :=
  .next (canon_modPlain h fun h => keep_ite h (keep_ite h.frame (canonPlain_popCapture h)))

theorem captureRoomFreed_canon (h : Canon s) : Answers Canon (execCaptureRoomFreed p s) := by
  unfold execCaptureRoomFreed
  extract_lets s0
  have h0 : Canon s0 := canon_modPlain h
  exact answers_ite (.next h) (answers_ite (.next (canon_row2 h)) (.next (keep_ite (canon_finishRows h0) h0)))

theorem captureDrain_canon (h : Canon s) : Answers Canon (execCaptureDrain p s) := by
  unfold execCaptureDrain
  dsimp only
  split
  · exact .next h
  · exact answers_ite (.next h) (.next (keep_ite (canon_captureTurn _ _ _ h)
      (canon_modPlain (canon_captureTurn _ _ _ h) fun h => ⟨canonBasin_ringWrite h.basin, h.mem, h.mgr⟩)))

theorem checkpointDrainDone_canon (h : Canon s) : Answers Canon (execCheckpointDrainDone p s) := by
  unfold execCheckpointDrainDone
  split
  · exact .next h
  · exact .next (keep_ite (canon_captureTurn _ _ _ h)
      (canon_modPlain (canon_captureTurn _ _ _ h) fun h => canonPlain_retireOldest ⟨canonBasin_rawWrite h.basin, h.mem, h.mgr⟩))

theorem replayLogInject_canon (h : Canon s) : Answers Canon (execReplayLogInject p s) := by
  unfold execReplayLogInject
  refine answers_ite (.next h) ?_
  split
  · exact .next h
  · exact answers_ite (.next h) (answers_ite (.next h) (.next (canon_modPlain h)))

/-! ## Basin and pass links -/

theorem patrolScrub_canon (word : Nat) (h : Canon s) : Answers Canon (execPatrolScrub p word s) :=
  answers_ite (.next h) (answers_ite (.next (canon_reportUes _ _ _ h)) (answers_ite
    (.next (canon_modPlain h fun h => h.withBasin (canonBasin_noteCe (k := 1) h.basin).frame)) (.next h)))

theorem basinTempSample_canon (temp : Byte) (h : Canon s) : Answers Canon (execBasinTempSample p temp s) :=
  answers_ite (.next h) (.next (canon_causeIs _ _ (canon_modPlain h fun h => h.withBasin h.basin.frame)))

theorem passTxTake_canon (l : Fin 8) (h : Canon s) : Answers Canon (execPassTxTake p l s) := by
  unfold execPassTxTake
  dsimp only
  split
  · exact .next h
  · exact answers_ite (.next (canon_modPlain h)) (answers_ite (.next h) (.next (canon_modPlain h)))

theorem creditReturnTimeout_canon (l : Fin 8) (h : Canon s) : Answers Canon (execCreditReturnTimeout p l s) := by
  unfold execCreditReturnTimeout
  split
  · exact answers_ite (.next (canon_modLink h)) (.next h)
  · exact .next h

theorem passRxPush_canon (l : Fin 8) (chan : Fin 64) (h : Canon s) : Answers Canon (execPassRxPush p l chan s) := by
  unfold execPassRxPush
  dsimp only
  split
  · exact .next h
  · refine answers_ite (.next h) (.next (canon_modPlain h fun h => ?_))
    have hm {P : Plain} {k : Fin 64} {f : Tile → Tile} {g : Link → Link} (h : CanonPlain P) : CanonPlain (modLink (modTile P k f) l g) := h.frame
    exact keep_ite (canonPlain_logPassIn (hm h)) (hm h)

theorem frameSend_canon (l : Fin 8) (h : Canon s) : Answers Canon (execFrameSend p l s) :=
  answers_ite (.next h) (.next (canon_linksClosed (canon_modPlain h fun h =>
    canonPlain_sendCodewords (canonPlain_sendFrame (keep_ite (canonPlain_modLink h) h)))))

theorem canon_arrived {l : Fin 8} {f : Frame} (h : Canon s) (e : arrived s p l f = some t) : Canon t := by
  rcases arrived_cases e with rfl | ⟨q, m, -, rfl⟩
  · exact h
  · exact canon_modLink h

/-- A row that takes a frame of its type. -/
theorem frameRow_canon {l : Fin 8} {f : Frame} {k : State → State} {b : Bool} (h : Canon s) (hk : ∀ {v}, Canon v → Canon (k v)) :
    Answers Canon (if b then .next s else onArrival p l f k s) := by
  refine answers_ite (.next h) ?_
  unfold onArrival
  split
  · exact .next h
  next v hv =>
    have hu := canon_modLink (p := p) (l := l) (f := countArrival) (canon_arrived h hv)
    exact answers_ite (.next (canon_modLink hu)) (.next (hk hu))

theorem frameCheckFail_canon (l : Fin 8) (h : Canon s) : Answers Canon (execFrameCheckFail p l s) := by
  unfold execFrameCheckFail
  refine .next ?_
  split
  · exact canon_modLink h
  · exact canon_modLink (canon_modLink h)

theorem heldRepeat_canon (h : Canon s) : Answers Canon (execHeldRepeat p s) :=
  answers_ite (.next (canon_modPlain h fun h => by
    have hc : CanonPlain (sendCycle false (repeatFrame s.plains[p]) s.plains[p]) := canonPlain_allLinks h
    generalize sendCycle false (repeatFrame s.plains[p]) s.plains[p] = Q at hc ⊢
    exact hc.frame)) (.next h)

theorem retrainDone_canon (trained : TrainedLink) (h : Canon s) : Answers Canon (execRetrainDone p trained s) :=
  answers_ite (.next h) (.next (canon_modPlain h fun h => keep_ite (canonPlain_event (canonPlain_modLink h)) (canonPlain_modLink h)))

theorem retrainAttemptFail_canon (l : Fin 8) (working : Nat) (h : Canon s) : Answers Canon (execRetrainAttemptFail p l working s) :=
  answers_ite (.next h) (answers_ite (.next (canon_linkDown l h)) (.next (canon_modLink h)))

theorem syncLost_canon (l : Fin 8) (h : Canon s) : Answers Canon (execSyncLost p l s) := by
  refine answers_ite (.next (canon_valleyFollows (canon_modPlain h fun h => ?_))) (.next h)
  extract_lets _ P0 P1
  have h0 : CanonPlain P0 := h.frame
  have h1 : CanonPlain P1 := canonPlain_event (canonPlain_modLink h0)
  exact keep_ite (canonPlain_recompute (canonPlain_enterHold (canonPlain_endGateWait h1))) h1

/-! ## JOB and exact-memory operations -/

theorem canonPlain_ldrCode {P : Plain} {code detail : Nat} (h : CanonPlain P) : CanonPlain (ldrCode P code detail) := h.frame

theorem canonPlain_beginJob {P : Plain} {seq : Word} {k : JobKind} (h : CanonPlain P) : CanonPlain (beginJob P seq k) := h.frame

theorem canon_outcome {r : Fin 4} {seq : Word} {status result : Nat} (h : Canon s) :
    Canon (modPlain s p fun P => outcome P r seq status result) := canon_modPlain h canonPlain_outcome

theorem jobLoad_canon (seq : Word) (addr len : DWord) (vplain : BitVec 16) (bind : DWord) (h : Canon s) :
    Answers Canon (execJobLoad p seq addr len vplain bind s) := by
  unfold execJobLoad
  extract_lets P v
  have hv : Canon v.1 := canon_verifyImage _ _ _ _ h
  clear_value v
  refine answers_ite (.next h) (answers_ite (.next (canon_outcome h))
    (answers_ite (.next (canon_modPlain h fun h => canonPlain_outcome (canonPlain_ldrCode h)))
      (answers_ite (.next hv) (.next (canon_modPlain hv fun h => ?_)))))
  split
  · exact canonPlain_outcome (canonPlain_ldrCode h)
  · exact canonPlain_enterLoad (canonPlain_beginJob h)

theorem loadCommit_canon (h : Canon s) : Answers Canon (execLoadCommit p s) := by
  unfold execLoadCommit
  dsimp only
  split
  · exact .next h
  · have hr := fun addr v man ks => canon_readParts (p := p) addr v man ks (canon_settle (p := p) h)
    refine answers_ite (.next h) (answers_ite (.next (hr _ _ _ _)) (.next (canon_modPlain (hr _ _ _ _) fun h => ?_)))
    split
    · exact canonPlain_loadFail h
    · exact canonPlain_commitImage h

theorem jobMode_canon (seq : Word) (code : Byte) (h : Canon s) : Answers Canon (execJobMode p seq code s) := by
  unfold execJobMode
  refine answers_ite (.next h) ?_
  split
  · exact .next (canon_jobDone _ _ _ h)
  · exact .next (canon_jobModeTo _ _ h)

theorem canon_beginJob (seq : Word) (k : JobKind) (h : Canon s) : Canon (modPlain s p fun P => beginJob P seq k) :=
  canon_modPlain h canonPlain_beginJob

theorem jobHold_canon (seq : Word) (h : Canon s) : Answers Canon (execJobHold p seq s) :=
  answers_ite (.next h) (answers_ite (.next (canon_valleyFollows (canon_modPlain h fun h => canonPlain_holdCommand (canonPlain_beginJob h))))
    (.next (canon_jobDone _ _ _ h)))

theorem jobStep_canon (seq n : Word) (h : Canon s) : Answers Canon (execJobStep p seq n s) :=
  have hd := fun status => canon_jobDone (p := p) seq status 0 h
  answers_ite (.next h) (answers_ite (.next (hd _)) (answers_ite (.next (hd _)) (answers_ite (.next (hd _))
    (.next (canon_modPlain h fun h => CanonPlain.withRun (canonPlain_leaveHold (canonPlain_beginJob h)))))))

theorem jobCheckpoint_canon (seq : Word) (h : Canon s) : Answers Canon (execJobCheckpoint p seq s) :=
  have hd := fun status => canon_jobDone (p := p) seq status 0 h
  answers_ite (.next h) (answers_ite (.next (hd _)) (answers_ite (.next (canon_modPlain h)) (.next (hd _))))

theorem jobReplay_canon (seq : Word) (slot : BitVec 4) (restore : Bool) (stop : BitVec 48) (h : Canon s) :
    Answers Canon (execJobReplay p seq slot restore stop s) :=
  have hd := fun status => canon_jobDone (p := p) seq status 0 h
  answers_ite (.next h) (answers_ite (.next (hd _)) (answers_ite (.next (hd _)) (.next (canon_replayGo _ _ _ (canon_beginJob _ _ h)))))

theorem epochSwitch_canon (seq : Word) (target : BitVec 48) (addr : DWord) (len : Word) (h : Canon s) :
    Answers Canon (execEpochSwitch p seq target addr len s) := by
  unfold execEpochSwitch
  extract_lets P done x v r before P1 code
  have hx : Canon v := canon_ldRead addr.toNat len.toNat h
  have hdone {u : State} (c : Nat) (late : Bool) (hu : Canon u) : Answers Canon (done u c late) := .next (canon_modPlain hu)
  clear_value done v
  refine answers_ite (.next h) (answers_ite (hdone _ _ h) (answers_ite (hdone _ _ h) (answers_ite (hdone _ _ h)
    (answers_ite (.next hx) (answers_ite (hdone _ _ hx) (answers_ite (hdone _ _ hx) (answers_ite (hdone _ _ hx) (answers_ite (hdone _ _ hx) ?_))))))))
  split
  · exact hdone _ _ hx
  · refine answers_ite (hdone _ _ hx) (.next (canon_modPlain hx fun h => ?_))
    extract_lets H epoch tag Q
    have hq : CanonPlain Q := canonPlain_allTiles h
    clear_value Q
    exact hq.frame

theorem regWrite_canon (seq : Word) (pairs : List (Word × Word)) (h : Canon s) : Answers Canon (execRegWrite p seq pairs s) :=
  answers_ite (.next h) (answers_ite (.next (canon_modPlain h)) (.next (canon_modPlain (keep_foldl h fun hv => canon_hostWrite _ _ hv))))

theorem xactTransferDone_canon (h : Canon s) : Answers Canon (execXactTransferDone p s) := by
  unfold execXactTransferDone
  dsimp only
  split
  · exact .next h
  · have hput {v : State} (xs : List Xact) (hv : Canon v) : Canon (modPlain v p fun P => { P with hiu := { P.hiu with xacts := xs } }) := canon_modPlain hv
    have hr := fun V T n X => canon_runPieces (p := p) V T n X h
    refine answers_ite (.next (canon_xactDone _ _ _ (hput _ h))) (.next (keep_ite (hr _ _ _ _) ?_))
    split
    · exact hput _ (hr _ _ _ _)
    · exact canon_xactDone _ _ _ (hput _ (hr _ _ _ _))
    · exact canon_xactDone _ _ _ (hput _ (hr _ _ _ _))

/-! ## Rings, records and the function -/

theorem descriptorAccept_canon (r : Fin 4) (h : Canon s) : Answers Canon (execDescriptorAccept p r s) :=
  answers_ite (.next h) (answers_ite (.next (canon_ringFlag _ _ (canon_modPlain h)))
    (.next (canon_modPlain h fun h => canonPlain_event (keep_ite h.frame h.frame))))

theorem completionRecordWrite_canon (h : Canon s) : Answers Canon (execCompletionRecordWrite p s) := by
  unfold execCompletionRecordWrite
  extract_lets H m n
  split
  · exact .next h
  · extract_lets s0 s1
    have h1 : Canon s1 := canon_modPlain (canon_hostPut _ _ h)
    exact answers_ite (.next (keep_ite h (canon_vector _ (canon_modPlain h)))) (answers_ite (.next h) (.next (keep_ite (canon_vector _ h1) h1)))

theorem statusBlockWrite_canon (h : Canon s) : Answers Canon (execStatusBlockWrite p s) := by
  unfold execStatusBlockWrite
  extract_lets P H body waited gen g s0 s1 s2
  have h1 : Canon s1 := canon_modPlain (canon_hostPut _ _ h)
  have h2 : Canon s2 := keep_ite (canon_vector 0 h1) h1
  exact answers_ite (.next (keep_ite (canon_vector 1 h2) h2)) (.next h)

theorem descriptorReread_canon (r : Fin 4) (h : Canon s) : Answers Canon (execDescriptorReread p r s) := by
  unfold execDescriptorReread
  dsimp only
  split
  · exact .next h
  · exact answers_ite (.next h) (.next (canon_modPlain h fun h =>
      have hr {q : Word} {bs : List Byte} {f : Ring → Ring} := canonPlain_modRing (r := r) (f := f) (canonPlain_rereadOne (r := r) (q := q) (bs := bs) h)
      keep_ite (canonPlain_closeAfterBoot (canonPlain_event hr)) hr))

theorem functionLevelReset_canon (h : Canon s) : Answers Canon (execFunctionLevelReset p s) := by
  unfold execFunctionLevelReset
  extract_lets s0
  have h0 : Canon s0 := canon_modPlain h
  refine .next ?_
  split
  · exact h0
  · exact canon_modPlain h0 canonPlain_event
  · exact canon_plainReset _ (canon_modPlain h0)

/-! ## The Manager, DMA and the bus -/

theorem managerInstruction_canon (lockstep : BitVec 2) (h : Canon s) : Answers Canon (execManagerInstruction p lockstep s) :=
  answers_ite (.next h) (answers_ite (.next (canon_mgrStep h)) (answers_ite (.next (canon_lockstepFailure _ h))
    (answers_ite (.next (canon_lockstepFailure _ h)) (.next (canon_mgrStep (canon_modPlain h))))))

theorem longResult_canon (h : Canon s) : Answers Canon (execLongResult p s) := by
  unfold execLongResult
  dsimp only
  split
  · exact .next h
  · exact .next (canon_modMgr h fun h => canonMgr_mgrResult h.frame)

theorem loadDataReturn_canon (h : Canon s) : Answers Canon (execLoadDataReturn p s) := by
  unfold execLoadDataReturn
  dsimp only
  split
  · exact .next h
  next o _ =>
    have hs := canon_mgrServe (p := p) o h
    refine answers_ite (.next h) (answers_ite (.next hs) ?_)
    split
    · exact .next (canon_modPlain hs canonPlain_mgrReturned)
    · exact .next (canon_mgrBusError (canon_modPlain hs canonPlain_mgrReturned))
    · exact .next hs

theorem managerStoreAccept_canon (h : Canon s) : Answers Canon (execManagerStoreAccept p s) := by
  unfold execManagerStoreAccept
  dsimp only
  split
  · exact .next h
  next o _ =>
    have hs := canon_mgrServe (p := p) o h
    exact answers_ite (.next h) (answers_ite (.next (canon_mgrBusError hs)) (.next hs))

theorem blockOpDone_canon (h : Canon s) : Answers Canon (execBlockOpDone p s) := by
  unfold execBlockOpDone
  split
  · exact .next h
  · exact .next (canon_blkRun _ h)

theorem lockstepSelfTest_canon (detected realMismatch : Bool) (h : Canon s) : Answers Canon (execLockstepSelfTest p detected realMismatch s) := by
  unfold execLockstepSelfTest
  extract_lets M s0 tests
  have h0 : Canon s0 := canon_modPlain h fun h => ⟨h.basin, h.mem, h.mgr.frame⟩
  exact answers_ite (.next h) (answers_ite (.next (canon_lockstepFailure _ h0)) (answers_ite (.next (canon_modMgr h0))
    (.next (canon_lockstepFailure _ h0))))

theorem dmaStartEvent_canon (h : Canon s) : Answers Canon (execDmaStartEvent p s) := by
  unfold execDmaStartEvent
  split
  · exact .next h
  · refine .next (canon_modPlain h fun h => ?_)
    have h0 {D : Dma} : CanonPlain { s.plains[p] with dma := D } := h.frame
    exact keep_foldl h0 fun hv => keep_ite (canonPlain_dmaStart hv) hv

theorem dmaDescriptorFetch_canon (c : Fin 16) (h : Canon s) : Answers Canon (execDmaDescriptorFetch p c s) :=
  answers_ite (.next h) (answers_ite (.next (canon_runChannel _ c h)) (answers_ite (.next h) (.next (canon_fetchDescriptor c h))))

theorem dmaDescriptorComplete_canon (c : Fin 16) (h : Canon s) : Answers Canon (execDmaDescriptorComplete p c s) := by
  unfold execDmaDescriptorComplete
  split
  · exact .next h
  · exact .next (canon_runChannel _ _ h)

theorem busAccessServed_canon (waiting : List BusReq) (h : Canon s) : Answers Canon (execBusAccessServed p waiting s) := by
  refine answers_ite (.next h) (.next (canon_matrixStep _ (canon_modPlain h fun h => canonPlain_noteStanding ?_)))
  have h0 {B : Bus} : CanonPlain { s.plains[p] with bus := B } := h.frame
  exact keep_foldl h0 canonPlain_busIssue

/-! ## PIO -/

theorem canon_pioTick (k : PioKind) (e : Fin 4) (act : BitVec 16 → PioEngine → PioEngine) (h : Canon s) : Canon (pioTick k s p e act) :=
  canon_modPlain h canonPlain_modEng

theorem canon_notePads (pads : BitVec 48) (h : Canon s) : Canon (notePads s p pads) := canon_modPlain h

theorem canon_pioSignal (k : PioKind) (e : Fin 4) {report : Nat → Plain → Plain} (h : Canon s) (hr : ∀ {i P}, CanonPlain P → CanonPlain (report i P)) :
    Canon (pioSignal k s p e report) :=
  keep_ite (canon_modPlain h fun h => canonPlain_modEng (hr h)) h

/-! ## Power, modes and the test port -/

theorem powerMeasure_canon (qw : Word) (h : Canon s) : Answers Canon (execPowerMeasure p qw s) := by
  unfold execPowerMeasure
  extract_lets P grant s0
  have h0 : Canon s0 := canon_modPlain h
  clear_value s0
  refine answers_ite (.next h) ?_
  split
  · exact .next h0
  · exact answers_ite (.next (canon_pf0Vector _ (canon_modPlain h0 fun h => canonPlain_event h.frame))) (.next h0)

theorem railFault_canon (q : Fin 9) (h : Canon s) : Answers Canon (execRailFault q s) := by
  unfold execRailFault
  split
  · exact answers_ite (.next h)
      (.next (canon_raiseFault _ _ (fun hv => canon_powerOff (canon_closeIn hv)) (canon_pf0Vector _ (canon_power _ h))))
  · exact answers_ite (.next h) (.next (canon_coldReset _ h))

theorem domainSwitchDone_canon (d : Fin 10) (h : Canon s) : Answers Canon (execDomainSwitchDone p d s) := by
  unfold execDomainSwitchDone
  extract_lets _ _ s0
  have h0 : Canon s0 := canon_power _ h
  exact answers_ite (.next (canon_valleyCompletes (canon_power _ h)))
    (answers_ite (.next (keep_ite h0 (canon_startTest (canon_plainUp h0)))) (.next h))

theorem bootRomInstall_canon (h : Canon s) : Answers Canon (execBootRomInstall p s) := by
  unfold execBootRomInstall
  split
  · exact .next h
  next off slot _ =>
    refine answers_ite (.next (canon_mbAckWrite _ _ h)) ?_
    have hc := canon_stagedCandidate (p := p) off h
    split
    next e => exact .next (canon_mbAckWrite _ _ (hc.of_fst e))
    next e => exact .next (canon_mbAckWrite _ _ (canon_tagWrite _ _ (canon_nvsWrite _ _ _ (hc.of_fst e))))

theorem secureWipeDone_canon (h : Canon s) : Answers Canon (execSecureWipeDone p s) := by
  unfold execSecureWipeDone
  extract_lets P s0
  have h0 : Canon s0 := canon_modPlain h fun h => h.withMem h.mem.frame
  exact answers_ite (.next h) (.next (keep_ite (canon_runBootRom h0) h0))

theorem spadCeWriteback_canon (h : Canon s) : Answers Canon (execSpadCeWriteback p s) := by
  refine .next (canon_modPlain h fun h => ?_)
  split
  · exact h
  · exact h.withMem h.mem.frame

theorem progressWarn_canon (h : Canon s) : Answers Canon (execProgressWarn p s) :=
  answers_ite (.next (canon_raiseFault _ _ id (canon_modPlain h))) (.next h)

theorem obsWrite_canon (q : Fin 9) (who : Agent) (off : BitVec 28) (v : Word) (h : Canon s) : Answers Canon (execObsWrite q who off v s) := by
  unfold execObsWrite
  refine answers_ite (.next h) ?_
  split
  · exact .next (keep_ite (canon_obsPut _ _ _ h) h)
  · exact .next (keep_ite (canon_obsDevPut _ _ _ h) h)

theorem registerWrite_canon (q : Fin 9) (who : Agent) (off : BitVec 28) (v : Word) (h : Canon s) : Answers Canon (execRegisterWrite q who off v s) := by
  unfold execRegisterWrite
  refine answers_ite (.next h) ?_
  split
  · refine .next ?_
    split
    · exact canon_hostWrite _ _ h
    · exact canon_pf0PlainWrite _ _ h
    · exact keep_ite (canon_writeReg _ _ _ h) h
  · exact .next (keep_ite (keep_ite (canon_pf0FnPut _ _ h) (canon_writePf0 _ _ _ h)) h)

theorem hostBar0Access_canon (q : Fin 9) (off : BitVec 28) (size : Nat) (write : Bool) (data : List Byte) (h : Canon s) :
    Answers Canon (execHostBar0Access q off size write data s) := by
  unfold execHostBar0Access
  split
  · refine .next (canon_modPlain ?_)
    exact keep_ite_fst (canon_hostFnAccess _ _ _ _ h) (canon_hostAccess _ _ _ _ h)
  · exact .next (canon_hostPf0Access _ _ _ _ h)

/-! ## Commands of the device -/

theorem scanned_canon {f : State → State} (h : Canon s) (hf : ∀ {v}, Canon v → Canon (f v)) : Answers Canon (scanned s f) :=
  .next (keep_ite h (hf (canon_modTap _ h)))

theorem vinSample_canon (mv iinMa : Nat) (h : Canon s) : Answers Canon (execVinSample mv iinMa s) :=
  have h0 := fun W => canon_power W h
  answers_ite (.next (keep_ite (canon_aonLoss (h0 _)) (h0 _)))
    (.next (canon_updateUnder (keep_foldl (canon_samplePwrWarn _ (h0 _)) fun hv => keep_ite (canon_causeIs _ _ hv) hv)))

theorem supplyReset_canon (h : Canon s) : Answers Canon (execSupplyReset s) := by
  unfold execSupplyReset
  split
  · exact .next h
  · exact answers_ite (.next h) (.next (canon_power _ (canon_coldReset _ (canon_supplyRecords h))))

theorem thermalSample_canon (temps : List Nat) (h : Canon s) : Answers Canon (execThermalSample temps s) := by
  unfold execThermalSample
  extract_lets old temp hot W v u
  have h0 : Canon v := canon_power _ h
  clear_value temp hot W v u
  refine answers_ite (answers_ite ?_ (.next h0)) (answers_ite ?_ (answers_ite (.next h0) ?_))
  · exact .next (keep_ite (canon_releaseReset h0) (canon_power _ h0))
  · exact .next (canon_power _ (canon_coldReset 3 (canon_supplyRecords h0)))
  · exact .next (canon_sampleLimits (canon_sampleThrottle (canon_sampleWarn h0)))

theorem tamperDetect_canon (sensor : Fin 5) (h : Canon s) : Answers Canon (execTamperDetect sensor s) := by
  unfold execTamperDetect
  extract_lets W v w u
  have hv : Canon v := canon_power _ h
  have hw : Canon w := canon_vall hv fun _ _ h => canonPlain_tamperPlain h
  have hu : Canon u := canon_eventAll _ _ _ (canon_pf0Vector _ hw)
  exact answers_ite (.next hu) (.next (keep_foldl hu fun hv => keep_ite (canon_raiseFault _ _ (canon_enterQuarantine true) hv) hv))

theorem tapReset_canon (h : Canon s) : Answers Canon (execTapReset s) :=
  .next (canon_vall (canon_endSession h) fun _ _ h => h.frame)

theorem authVerifyDone_canon (h : Canon s) : Answers Canon (execAuthVerifyDone s) := by
  unfold execAuthVerifyDone
  split
  · exact .next h
  · extract_lets ok scope s0 s1
    have h1 : Canon s1 := keep_ite (canon_modTap _ (canon_modTap _ h)) (canon_modTap _ (canon_modTap _ h))
    exact .next (keep_ite (canon_lcRequest _ _ h1) h1)

theorem authLockoutEnd_canon (h : Canon s) : Answers Canon (execAuthLockoutEnd s) := by
  unfold execAuthLockoutEnd
  split
  · exact answers_ite (.next (canon_modTap _ h)) (.next h)
  · exact .next h

theorem bistDone_canon (results : List Word) (h : Canon s) : Answers Canon (execBistDone results s) :=
  answers_ite (.next h) (.next (canon_vall h fun _ _ h => keep_ite (canonPlain_bistPlain h) h))

theorem i2cWrite_canon (off : BitVec 24) (v : Word) (h : Canon s) : Answers Canon (execI2cWrite off v s) := by
  unfold execI2cWrite
  refine answers_ite (.next (canon_shared h)) ?_
  split
  · exact .next (canon_writePf0 _ _ _ (canon_shared h))
  · exact .next (canon_shared h)

theorem testctl_canon (addr : BitVec 40) (sizeCode : BitVec 2) (write : Bool) (data : DWord) (h : Canon s) :
    Answers Canon (scanned s fun v => testctlAccess v p addr sizeCode write data) :=
  scanned_canon h (canon_testctlAccess _ _ _ _)

end Sys2Proof.Machine
end

section
/-! PROOF. Every command, row by row, keeps the memories of every Plain in canonical form, and so does every step (07 R133, R144, 11 R223,
R237, 15 R318, R326). -/

namespace Sys2Proof.Machine

-- One proof after the other: the threads of parallel elaboration take their stacks from the check's memory limit.
set_option Elab.async false

variable {s t : State}

/-- What a command answers keeps the canonical form, by a case for every row. -/
theorem exec_canon (c : Instr) (h : Canon s) : Answers Canon (exec c s) := by
  cases c with
  -- steps and boundaries
  | stepRelease p cols => exact stepRelease_canon cols h
  | boundarySequence p => exact answers_ite (.next (canon_row2 (canon_modPlain h canonPlain_row1))) (.next h)
  | backPressureStallEnd p => exact backPressureStallEnd_canon h
  | stallTimeout p => exact answers_ite (.next (canon_abandon _ _ h canonPlain_abandonCycle)) (.next h)
  | cycleRelease p =>
    have h0 := canon_modPlain (p := p) h (canonPlain_beginCycle (now := s.timeNs))
    exact answers_ite (.next (keep_ite (canon_noteSection _ h0) h0)) (.next h)
  | captureQ7Pop p k => exact captureQ7Pop_canon k h
  | captureRoomFreed p => exact captureRoomFreed_canon h
  | captureDrain p => exact captureDrain_canon h
  | checkpointDrainDone p => exact checkpointDrainDone_canon h
  | replayLogInject p => exact replayLogInject_canon h
  | rplCtlGo p => exact .next (keep_ite (canon_rplCtlWrite _ h) h)
  | capCtlStart p | capCtlStop p | ckptCtlNow p | colCtlClr p | colHopsRead p => exact .next (keep_ite (canon_modPlain h) h)
  | qsCtlClr p => exact .next (keep_ite (canon_modPlain h canonPlain_qsCtlPut) h)
  | paceCtlWrite p => exact .next (canon_modPlain h canonPlain_paceWrite)
  -- the Basin
  | mmRequestTake p k => exact .next (canon_receiveRequest k h)
  | mmRequestComplete p k => exact .next (canon_completeRequest k h)
  | patrolScrub p word => exact patrolScrub_canon word h
  | basinTempSample p temp => exact basinTempSample_canon temp h
  | basinCtlClr p => exact .next (keep_ite (canon_modPlain h fun h => h.withBasin (canonBasin_basinCtl h.basin)) h)
  | basinRsvWrite p => exact .next (keep_ite (canon_modPlain h fun h => h.withBasin (canonBasin_rsvWrite h.basin)) h)
  -- Pass links
  | passTxTake p l => exact passTxTake_canon l h
  | passRxPush p l chan => exact passRxPush_canon l chan h
  | frameSend p l => exact frameSend_canon l h
  | dataFrameRx p l f => exact frameRow_canon h (canon_rxSequenced l f canon_modLink)
  | cycleFrameRx p l f => exact frameRow_canon h (canon_rxSequenced l f fun hv => canon_modPlain hv canonPlain_takeCycle)
  | creditFrameRx p l f | closingFrameRx p l f | returnFrameRx p l f =>
    exact frameRow_canon h fun hv => canon_linksClosed (canon_rxSequenced l f canon_modLink hv)
  | openFrameRx p l f => exact frameRow_canon h fun hv => canon_modPlain hv canonPlain_takeOpen
  | refuseFrameRx p l f => exact frameRow_canon h fun hv => canon_modPlain hv canonPlain_takeRefuse
  | trainFrameRx p l f => exact frameRow_canon h canon_modLink
  | reservedFrameRx p l f => exact frameRow_canon h fun hv => keep_ite (canon_modLink hv) (canon_rxSequenced l f canon_modLink hv)
  | frameCheckFail p l => exact frameCheckFail_canon l h
  | ackRx p l | nakRx p l => exact .next (canon_rxCodeword l _ _ h)
  | creditReturnTimeout p l => exact creditReturnTimeout_canon l h
  | openResend p | linkTrained p | replayTimeout p => exact answers_ite (.next (canon_modLink h)) (.next h)
  | laneFail p l => exact answers_ite (.next (canon_failLane l _ h)) (.next h)
  | retrainDone p trained => exact retrainDone_canon trained h
  | retrainAttemptFail p l working => exact retrainAttemptFail_canon l working h
  | heldRepeat p => exact heldRepeat_canon h
  | syncLost p l => exact syncLost_canon l h
  | closeDeliveryEnd p | closeTimeout p => exact answers_ite (.next (canon_linksClosed (canon_modLink h))) (.next h)
  | linkCtlEn p l => exact .next (canon_ctlEn l _ h)
  | linkCtlRetrain p l => exact .next (canon_ctlRetrain l h)
  | linkCtlClose p l => exact .next (canon_ctlClose l h)
  | linkCtlRetRel p l => exact .next (canon_ctlRetRel l h)
  | linkCtlOpen p l => exact .next (canon_ctlOpen l h)
  -- descriptors
  | jobLoad p seq addr len vplain bind => exact jobLoad_canon seq addr len vplain bind h
  | loadCommit p => exact loadCommit_canon h
  | jobMode p seq code => exact jobMode_canon seq code h
  | jobHold p seq => exact jobHold_canon seq h
  | jobStep p seq n => exact jobStep_canon seq n h
  | jobCheckpoint p seq => exact jobCheckpoint_canon seq h
  | jobReplay p seq slot restore stop => exact jobReplay_canon seq slot restore stop h
  | jobReset p => exact answers_ite (.next h) (.next (canon_plainReset _ (canon_beginJob _ _ h)))
  | jobLinkOpen p seq link => exact .next (canon_jobLink _ _ _ _ (fun l => canon_ctlOpen l h) h)
  | jobLinkClose p seq link => exact .next (canon_jobLink _ _ _ _ (fun l => canon_ctlClose l h) h)
  | jobLinkRetrain p seq link => exact .next (canon_jobLink _ _ _ _ (fun l => canon_ctlRetrain l h) h)
  | jobLinkRetRel p seq link => exact .next (canon_jobLink _ _ _ _ (fun l => canon_ctlRetRel l h) h)
  | epochSwitch p seq target addr len => exact epochSwitch_canon seq target addr len h
  | regWrite p seq pairs => exact regWrite_canon seq pairs h
  | xactAdvance p => exact answers_ite (.next h) (.next (canon_xactDone _ _ _ (canon_modPlain h)))
  | xactWrite p | xactRead p => exact .next (canon_startXact _ _ _ _ _ _ h)
  | xactTransferDone p => exact xactTransferDone_canon h
  | bulkCopy p | bulkFill p | bulkCompare p => exact .next (canon_bulkRun _ _ _ _ h)
  -- rings, mailboxes and doorbell bits
  | ringDb p r v => exact .next (canon_ringDoorbell r v h)
  | descriptorAccept p r => exact descriptorAccept_canon r h
  | ringAbort p q => exact .next (canon_ringAbortWrite q h)
  | ringInit p r v => exact .next (canon_ringInitWrite r v h)
  | fwStart p v => exact .next (canon_fwStartWrite v h)
  | fwPost p v => exact .next (canon_fwPostWrite v h)
  | ringCfgWrite p r v => exact .next (canon_ringCfgPut r v h)
  | cqCseqWrite p v => exact .next (canon_cqCseqPut v h)
  | completionRecordWrite p => exact completionRecordWrite_canon h
  | statusBlockWrite p => exact statusBlockWrite_canon h
  | descriptorReread p r => exact descriptorReread_canon r h
  | functionLevelReset p => exact functionLevelReset_canon h
  | mbGo p m who => exact .next (canon_mbCtlWrite m who _ h)
  | mbAck p m v => exact .next (canon_mbAckWrite m v h)
  | mbLockRead p m who => exact .next (canon_mbLockGet m who h)
  | mbLockRelease p m who => exact .next (canon_mbLockPut m who _ h)
  | dbSet p v => exact .next (keep_ite (canon_dbSetBits v h) h)
  | dbStatClear p => exact .next (keep_ite (canon_dbUpdate _ _ _ h) h)
  | dbMaskWrite p => exact .next (keep_ite (keep_ite (canon_dbUpdate _ _ _ h) (canon_dbUpdate _ _ _ h)) h)
  -- the Manager
  | managerInstruction p lockstep => exact managerInstruction_canon lockstep h
  | longResult p => exact longResult_canon h
  | loadDataReturn p => exact loadDataReturn_canon h
  | managerStoreAccept p => exact managerStoreAccept_canon h
  | blockOpDone p => exact blockOpDone_canon h
  | lockstepSelfTest p detected realMismatch => exact lockstepSelfTest_canon detected realMismatch h
  | progressWarn p => exact progressWarn_canon h
  | progressTimeout p => exact answers_ite (.next (canon_plainReset _ h)) (.next h)
  -- DMA and PIO
  | dmaStartEvent p => exact dmaStartEvent_canon h
  | dmaDescriptorFetch p c => exact dmaDescriptorFetch_canon c h
  | dmaDescriptorComplete p c => exact dmaDescriptorComplete_canon c h
  | chCtlGo p | chCtlCancel p => exact .next (canon_modPlain h canonPlain_chCtlWrite)
  | chCfgWrite p => exact .next (canon_modPlain h canonPlain_chCfgPut)
  | timerPeriodWrite p => exact .next (canon_modPlain h canonPlain_timerPut)
  | timerFire p => exact answers_ite (.next (canon_modPlain h)) (.next h)
  | pioDrv p | pioLdsh p | pioStsh p | pioCtr p | pioSigHalt p | pioSigDelay p => exact .next (canon_pioTick _ _ _ h)
  | pioBr p | pioXfer p | pioAwait p => exact .next (canon_pioTick _ _ _ (canon_notePads _ h))
  | pioSigEvt p => exact .next (canon_pioSignal _ _ h canonPlain_event)
  | pioSigPace p => exact .next (canon_pioSignal _ _ h canonPlain_paceEvent)
  | pioSigDma p => exact .next (canon_pioSignal _ _ h fun h => h.frame)
  | pioReservedInstr p => exact answers_ite (.next (canon_modPlain h fun h => canonPlain_event (canonPlain_modEng h))) (.next h)
  | pioTxWrite p => exact .next (canon_modPlain h canonPlain_pioTxPut)
  | pioRxRead p => exact .next (keep_ite h (canon_modPlain h canonPlain_pioRxGet))
  | pioStart p => exact .next (canon_modPlain h canonPlain_pioStartPut)
  | pioStop p => exact .next (canon_modPlain h canonPlain_pioStopPut)
  | pioBankWrite p => exact .next (canon_modPlain h canonPlain_pioBankPut)
  | pioCfgWrite p => exact .next (canon_modPlain h canonPlain_pioCfgPut)
  -- the bus matrix and its memories
  | busAccessServed p waiting => exact busAccessServed_canon waiting h
  | hostBar0Access q off size write data => exact hostBar0Access_canon q off size write data h
  | spadCeWriteback p => exact spadCeWriteback_canon h
  | spadCtlClr p => exact .next (keep_ite (canon_modPlain h canonPlain_clearMemCounters) h)
  | nvsLineWriteDone p => exact .next (canon_modPlain h fun h => h.withMem h.mem.frame)
  | nvsWrRead p => exact .next (keep_ite (canon_modPlain h fun h => h.withMem h.mem.frame) h)
  | secureWipeDone p => exact secureWipeDone_canon h
  | bmCtlRecovery p => exact .next (keep_ite (canon_modPlain h canonPlain_bmCtlPut) h)
  | rcCounterRead p => exact .next (keep_ite (canon_shared (canon_modPlain h canonPlain_clearCounter)) h)
  | obsWrite q who off v => exact obsWrite_canon q who off v h
  | registerWrite q who off v => exact registerWrite_canon q who off v h
  -- power and health of a Plain
  | powerMeasure p qw => exact powerMeasure_canon qw h
  | throttleEnd p => exact answers_ite (.next (canon_throttleSet _ _ h)) (.next h)
  | railFault q => exact railFault_canon q h
  | baseReservationGrant p => exact answers_ite (.next (canon_powerUp h)) (.next h)
  | domainSwitchDone p d => exact domainSwitchDone_canon d h
  -- modes and resets of a Plain
  | plainCtlWake p who | plainCtlReset p who | plainCtlMgrReset p who | plainCtlColReset p who | plainCtlReady p who
  | plainCtlFaultAck p who => exact .next (canon_plainCtlWrite who _ h)
  | rejoinGo p => exact .next (canon_rejoinWrite _ h)
  | bootRomInstall p => exact bootRomInstall_canon h
  | fltCtlClose p who => exact .next (canon_fltClose who h)
  | fltCtlClr p => exact .next (canon_modPlain h)
  | testctlRead p addr sizeCode => exact testctl_canon addr sizeCode false 0 h
  | testctlWrite p addr sizeCode data => exact testctl_canon addr sizeCode true data h
  -- commands of the device
  | grantInterval => exact .next (canon_shared (canon_updateUnder h))
  | vinSample mv iinMa => exact vinSample_canon mv iinMa h
  | supplyReset => exact supplyReset_canon h
  | supplyResetRelease => exact answers_ite (.next (keep_ite (canon_power _ h) (canon_releaseReset h))) (.next h)
  | thermalSample temps => exact thermalSample_canon temps h
  | tamperDetect sensor => exact tamperDetect_canon sensor h
  | arbHostWrite v => exact .next (canon_arbHostPut v h)
  | coldStart => exact answers_ite (.next (canon_power _ h)) (.next (canon_coldStart (canon_power _ h)))
  | rstNAssert => exact answers_ite (.next (canon_power _ h)) (.next (canon_coldReset _ (canon_power _ h)))
  | devRstWarm | pcieHotReset => exact .next (canon_warmIfStarted _ h)
  | tapReset => exact tapReset_canon h
  | tapIdcode | tapBypass => exact scanned_canon h (canon_modTap _)
  | tapSamplePreload => exact scanned_canon h fun hv => canon_boundaryScan (canon_modTap _ hv)
  | tapExtest => exact scanned_canon h fun hv => keep_ite (canon_boundaryScan (canon_drivePins _ _ hv)) (canon_modTap _ hv)
  | tapClamp | tapHighz => exact scanned_canon h (canon_drivePins _ _)
  | tapAuth | testctlPoll => exact scanned_canon h fun hv => keep_ite (canon_modTap _ hv) (canon_modTap _ hv)
  | authVerifyDone => exact authVerifyDone_canon h
  | authLockoutEnd => exact authLockoutEnd_canon h
  | bistGo v => exact .next (canon_bistCtlWrite _ h)
  | bistDone results => exact bistDone_canon results h
  | devRstTestWrite v => exact .next (canon_devTestWrite v h)
  | i2cWrite off v => exact i2cWrite_canon off v h
  | i2cRead => exact answers_ite (.next (canon_shared h)) (.next (canon_shared h))

/-- A nanosecond in which no command waits: late writes of DMA arrive. -/
theorem canon_tick (h : Canon s) : Canon (tick s) := by
  unfold tick
  have hl : Canon ((List.finRange 8).foldl arriveLate s) := keep_foldl h canon_arriveLate
  generalize (List.finRange 8).foldl arriveLate s = v at hl ⊢
  exact canon_shared hl

theorem step_canon (h : Canon s) : Answers Canon (step s) := by
  unfold step
  split
  · exact .next (canon_tick h)
  · exact exec_canon _ (canon_shared h)

/-- Settles O59, by `step_canon`: each row's operations change the listed memories only by writes, and a write leaves a list in rising order
with nothing listed that reads as unlisted. -/
theorem everyStepKeepsTheMemoryInvariant : Obligations.EveryStepKeepsTheMemoryInvariant :=
  fun s t h e => (memInv_iff t).mpr (step_canon ((memInv_iff s).mp h) t e)

end Sys2Proof.Machine
end

section
/-! PROOF. CAP_CTL, CKPT_CTL and the drain of a checkpoint (09 R190-R193, R199, 07 R145). -/

namespace Sys2Proof.Machine

-- One proof after the other: the threads of parallel elaboration take their stacks from the check's memory limit.
set_option Elab.async false

variable {p : Fin 8} {s : State}

/-! ## Fields of a word -/

/-- A field of a word, as a number of its own width. -/
theorem ofNat_fld {w : Nat} (v : BitVec w) (lo n : Nat) : BitVec.ofNat n (fld v lo n) = v.extractLsb' lo n := by
  apply BitVec.eq_of_toNat_eq
  simp [fld, fldN, Nat.shiftRight_eq_div_pow]

/-- Setting a bit outside a field leaves the field. -/
theorem extractLsb'_setBit {w : Nat} (v : BitVec w) {i lo n : Nat} (b : Bool) (h : i < lo ∨ lo + n ≤ i) :
    (setBit v i b).extractLsb' lo n = v.extractLsb' lo n := by
  ext j hj
  simp only [BitVec.getElem_extractLsb']
  exact bit_setBit_other v i (lo + j) b (by omega)

/-! ## CAP_CTL and CKPT_CTL -/

/-- A START makes START pending unless STOP is written with it (R190). -/
theorem capCtlWrite_start (v : Word) (P : Plain) : capCtlWrite (setBit v 0 true) P = { P with cap := { P.cap with
    noDelta := v.getLsbD 2, lossy := v.getLsbD 3, depth := v.extractLsb' 4 4,
    pendStart := if v.getLsbD 1 then P.cap.pendStart else some true } } := by
  have h0 : bit (setBit v 0 true) 0 = true := bit_setBit_same v 0 (by decide)
  have hb (j : Nat) (h : j ≠ 0) : bit (setBit v 0 true) j = v.getLsbD j := bit_setBit_other v 0 j true h
  simp only [capCtlWrite, h0, hb 1 (by decide), hb 2 (by decide), hb 3 (by decide), ofNat_fld, extractLsb'_setBit v true (.inl (by decide : 0 < 4))]
  cases v.getLsbD 1 <;> rfl

/-- A STOP makes STOP pending unless START is written with it (R190). -/
theorem capCtlWrite_stop (v : Word) (P : Plain) : capCtlWrite (setBit v 1 true) P = { P with cap := { P.cap with
    noDelta := v.getLsbD 2, lossy := v.getLsbD 3, depth := v.extractLsb' 4 4,
    pendStart := if v.getLsbD 0 then P.cap.pendStart else some false } } := by
  have h1 : bit (setBit v 1 true) 1 = true := bit_setBit_same v 1 (by decide)
  have hb (j : Nat) (h : j ≠ 1) : bit (setBit v 1 true) j = v.getLsbD j := bit_setBit_other v 1 j true h
  simp only [capCtlWrite, h1, hb 0 (by decide), hb 2 (by decide), hb 3 (by decide), ofNat_fld, extractLsb'_setBit v true (.inl (by decide : 1 < 4))]
  cases v.getLsbD 0 <;> rfl

theorem ckptCtlWrite_now (v : Word) (P : Plain) : ckptCtlWrite (setBit v 28 true) P = { P with cap := { P.cap with
    period := v.extractLsb' 0 24, keep := v.extractLsb' 24 4, due := true } } := by
  have h : bit (setBit v 28 true) 28 = true := bit_setBit_same v 28 (by decide)
  simp only [ckptCtlWrite, h, ofNat_fld, Bool.or_true, extractLsb'_setBit v true (.inr (by decide : 0 + 24 ≤ 28)),
    extractLsb'_setBit v true (.inr (by decide : 24 + 4 ≤ 28))]

/-! ## The drain of a checkpoint -/

/-- A Plain with its draining checkpoint at its slot, and in the directory unless it was spoilt (R192, 07 R145). -/
def checkpointWritten (d : CkptDrain) (P : Plain) : Plain :=
  { P with basin := rawWrite (slotBase P.basin d.slot) (ckptBytes d.header P.tiles) P.basin
           cap := { P.cap with draining := none,
                               dir := if d.spoiled then P.cap.dir else ins P.cap.dir d.slot { gen := d.gen, start := d.start, epoch := d.epoch } } }

theorem execCheckpointDrainDone_eq {d : CkptDrain} (hd : s.plains[p].cap.draining = some d) :
    execCheckpointDrainDone p s =
      let t := captureTurn s p 2 (slotBase s.plains[p].basin d.slot) 64
      .next (if !t.2 then t.1 else modPlain t.1 p fun P => retireOldest (checkpointWritten d P)) := by
  unfold execCheckpointDrainDone
  rw [hd]
  rfl

/-- A port of the bus matrix that is noted: only the round robin changes (15 R311). -/
theorem notePort_eq (x : Access) (P : Plain) : notePort x P = { P with bus := { P.bus with last := (notePort x P).bus.last } } := by
  unfold notePort
  split <;> rfl

/-- The engine's turn comes at once with a reservation, or where no access is outstanding. -/
theorem captureTurn_eq {k off n : Nat} (h : look 0 s.plains[p].basin.rsv k ≠ 0 ∨ s.plains[p].bus.queue = []) :
    ∃ f : Plain → Plain, captureTurn s p k off n = (modPlain s p f, true) ∧
      ∀ P, f P = { P with bus := { P.bus with last := (f P).bus.last } } := by
  by_cases hr : look 0 s.plains[p].basin.rsv k ≠ 0
  · exact ⟨id, by rw [captureTurn, if_pos hr, modPlain_eq_self rfl], fun _ => rfl⟩
  · refine ⟨notePort { master := 5, lvl := 0, write := true, addr := 0x1000000000 + off, size := n, tile := 0 }, ?_, notePort_eq _⟩
    rw [captureTurn, if_neg hr, takeTurn]
    simp only [h.resolve_left hr, if_true]

section
variable {P : Plain}

/-- Where no more checkpoints than KEEP are valid, none is retired. -/
theorem retireOldest_eq_self (h : P.cap.dir.length ≤ max 1 P.cap.keep.toNat) : retireOldest P = P := if_pos h

theorem retireOldest_frame : (retireOldest P).basin.data = P.basin.data ∧ (retireOldest P).cap.draining = P.cap.draining ∧
    retireOldest P = { P with basin := (retireOldest P).basin, cap := (retireOldest P).cap } := by
  unfold retireOldest
  dsimp only
  split
  · exact ⟨rfl, rfl, rfl⟩
  split
  · exact ⟨rfl, rfl, rfl⟩
  · exact ⟨rfl, rfl, rfl⟩
end

/-- An entry more, or another one in its place. -/
theorem ins_length_le {α : Type} (m : Sparse α) (i : Nat) (v : α) : (ins m i v).length ≤ m.length + 1 := by
  induction m with
  | nil => exact Nat.le_refl 1
  | cons x r ih =>
    unfold ins
    split
    · exact Nat.le_refl _
    split
    · exact Nat.le_succ _
    · exact Nat.succ_le_succ ih

/-- With room in the directory a sound checkpoint becomes valid, and none is retired (R193). -/
theorem dir_of_soundCheckpoint {d : CkptDrain} {P : Plain} (hd : d.spoiled = false) (h : P.cap.dir.length < max 1 P.cap.keep.toNat) :
    (retireOldest (checkpointWritten d P)).cap.dir = ins P.cap.dir d.slot { gen := d.gen, start := d.start, epoch := d.epoch } := by
  have hdir : (checkpointWritten d P).cap.dir = ins P.cap.dir d.slot { gen := d.gen, start := d.start, epoch := d.epoch } :=
    if_neg (by rw [hd]; exact Bool.false_ne_true)
  rw [retireOldest_eq_self (by rw [hdir]; exact (ins_length_le _ _ _).trans h), hdir]

/-- A checkpoint that a journal overflow spoilt never becomes valid (07 R145). -/
theorem dir_of_spoiledCheckpoint {d : CkptDrain} {P : Plain} (hd : d.spoiled = true) (h : P.cap.dir.length ≤ max 1 P.cap.keep.toNat) :
    (retireOldest (checkpointWritten d P)).cap.dir = P.cap.dir := by
  have hdir : (checkpointWritten d P).cap.dir = P.cap.dir := if_pos hd
  rw [retireOldest_eq_self (by rw [hdir]; exact h), hdir]

/-- Settles O6, field by field for the writes; the drain writes the slot and enters its checkpoint in the directory, whose length decides
whether one is retired. -/
theorem captureControlAndDrainedCheckpoint : Obligations.CaptureControlAndDrainedCheckpoint := by
  refine ⟨fun p v s => ?_, fun p s d hd hturn => ?_⟩
  · split
    next h =>
      have hrow (f : Plain → Plain) : (if awake s.plains[p] then modPlain s p f else s) = s := if_neg (by rw [awake_eq_false h]; exact Bool.false_ne_true)
      exact ⟨congrArg _ (hrow _), congrArg _ (hrow _), congrArg _ (hrow _)⟩
    next h =>
      have hrow {f g : Plain → Plain} (e : ∀ P, f P = g P) : (if awake s.plains[p] then modPlain s p f else s) = modPlain s p g :=
        (if_pos (awake_eq_true h)).trans (congrArg _ (funext e))
      exact ⟨congrArg _ (hrow (capCtlWrite_start v)), congrArg _ (hrow (capCtlWrite_stop v)), congrArg _ (hrow (ckptCtlWrite_now v))⟩
  · obtain ⟨f, hf, hbus⟩ := captureTurn_eq (off := slotBase s.plains[p].basin d.slot) (n := 64) hturn
    have hexec : exec (.checkpointDrainDone p) s = .next (modPlain (modPlain s p f) p fun P => retireOldest (checkpointWritten d P)) := by
      change execCheckpointDrainDone p s = _
      rw [execCheckpointDrainDone_eq hd, hf]
      rfl
    let Q : Plain := { s.plains[p] with bus := { s.plains[p].bus with last := (f s.plains[p]).bus.last } }
    have hat : (modPlain (modPlain s p f) p fun P => retireOldest (checkpointWritten d P)).plains[p] = retireOldest (checkpointWritten d Q) := by
      rw [modPlain_same, modPlain_same, show f s.plains[p] = Q from hbus _]
    refine ⟨_, hexec, (onlyPlain_modPlain s p f).trans (onlyPlain_modPlain _ p _), ?_⟩
    rw [hat]
    obtain ⟨hdata, hdrain, hframe⟩ := retireOldest_frame (P := checkpointWritten d Q)
    exact ⟨hdrain, hdata, dir_of_soundCheckpoint (P := Q), dir_of_spoiledCheckpoint (P := Q), hframe.trans (by rw [hframe]; rfl)⟩

end Sys2Proof.Machine
end

section
/-! PROOF. The Basin's scrub, temperature, control and reservations (07 R140-R148, 17 R352). -/

namespace Sys2Proof.Machine

-- One proof after the other: the threads of parallel elaboration take their stacks from the check's memory limit.
set_option Elab.async false

variable {p : Fin 8} {s t : State}

/-! ## An uncorrectable word (07 R146, R148) -/

/-- The Basin of the Plain has the given data and the given count of uncorrectable words. -/
def Counted (p : Fin 8) (D : List Host.Cell) (n : Word) (t : State) : Prop := t.plains[p].basin.data = D ∧ t.plains[p].basin.ueCnt = n

section
variable {D : List Host.Cell} {n : Word}

theorem counted_modPlain {f : Plain → Plain} (h : Counted p D n t)
    (hf : ∀ P, (f P).basin.data = P.basin.data ∧ (f P).basin.ueCnt = P.basin.ueCnt := by exact fun _ => ⟨rfl, rfl⟩) :
    Counted p D n (modPlain t p f) := by
  rw [Counted, modPlain_same]
  exact ⟨(hf _).1.trans h.1, (hf _).2.trans h.2⟩

theorem flrEvent_basin (due : Bool) (P : Plain) : (flrEvent due P).basin = P.basin := by
  unfold flrEvent
  split
  · exact event_basin _ _ _ _
  · rfl

/-- A QUARANTINE clears registers of the Basin, not its data or its error counts (18 R369). -/
theorem finishQuarantine_basin (t : State) (boot : Bool) : (finishQuarantine t p boot).plains[p].basin = basinReset t.plains[p].basin := by
  rw [finishQuarantine, modPlain_same]
  exact (flrEvent_basin _ _).trans (setMode_basin _ _)

theorem counted_enterQuarantine (boot : Bool) (h : Counted p D n t) : Counted p D n (enterQuarantine t p boot) := by
  unfold enterQuarantine
  extract_lets s0
  have h0 : Counted p D n s0 := counted_modPlain h
  have hq : Counted p D n (finishQuarantine s0 p boot) := by
    rw [Counted, finishQuarantine_basin]
    exact h0
  exact keep_ite h (keep_ite h0 hq)

/-- Code 0x02 never takes the Plain's power (19 R384). -/
theorem counted_raiseFault_ue {unit : Nat} {k : State → State} (hk : ∀ {v}, Counted p D n v → Counted p D n (k v)) (h : Counted p D n t) :
    Counted p D n (raiseFault t p 0x02 unit k) := by
  rcases raiseFault_cases t p 0x02 unit k with ⟨-, e⟩ | ⟨-, -, e⟩ | ⟨-, -, e⟩ <;> rw [e]
  · exact hk (counted_modPlain h fun P => by
      have hb : (openWindow P t.timeNs 2 unit).basin = P.basin := event_basin _ _ _ _
      exact ⟨congrArg (·.data) hb, congrArg (·.ueCnt) hb⟩)
  · exact hk h
  · rw [doubleFault, if_neg (by decide)]
    exact counted_enterQuarantine true (counted_modPlain h)

theorem counted_raiseUe {unit : Nat} {ws : List Nat} {k : State → State} (hk : ∀ {v}, Counted p D n v → Counted p D n (k v)) (h : Counted p D n t) :
    Counted p D n (raiseUe t p 0x02 unit ws k) :=
  keep_ite h (keep_ite (hk h) (counted_modPlain (counted_raiseFault_ue hk h) fun P => by split <;> exact ⟨rfl, rfl⟩))
end

theorem countUe_basin (master w : Nat) (P : Plain) : (countUe master w P).basin = noteUe master w P.basin := event_basin _ _ _ _

theorem noteUe_counted (master w : Nat) (B : Basin) : (noteUe master w B).data = B.data ∧ (noteUe master w B).ueCnt = satInc B.ueCnt := by
  unfold noteUe
  dsimp only
  split <;> exact ⟨rfl, rfl⟩

/-- One uncorrectable word that is reported is counted, and the Basin's data stays. -/
theorem reportUes_counted (s : State) (p : Fin 8) (master unit w : Nat) :
    Counted p s.plains[p].basin.data (satInc s.plains[p].basin.ueCnt) (reportUes s p master unit [w]) := by
  have h : Counted p s.plains[p].basin.data (satInc s.plains[p].basin.ueCnt) (modPlain s p (countUe master w)) := by
    rw [Counted, modPlain_same, countUe_basin]
    exact noteUe_counted master w _
  exact counted_raiseUe (fun hv => counted_modPlain hv fun P => by split <;> exact ⟨rfl, rfl⟩) h

/-! ## The temperature (07 R142, 17 R352) -/

/-- Only the Plain's health and what is reported to its Manager change. -/
def HealthOnly (P Q : Plain) : Prop := Q = { P with health := Q.health, mgr := Q.mgr }

theorem HealthOnly.trans {P Q R : Plain} (h : HealthOnly P Q) (k : HealthOnly Q R) : HealthOnly P R := by
  unfold HealthOnly at *
  rw [k, h]

theorem HealthOnly.withBasin {P Q : Plain} {B : Basin} (h : HealthOnly { P with basin := B } Q) :
    Q.basin = B ∧ Q = { P with basin := Q.basin, health := Q.health, mgr := Q.mgr } := by
  unfold HealthOnly at h
  rw [h]
  exact ⟨rfl, rfl⟩

theorem healthOnly_event (P : Plain) (code unit detail : Nat) : HealthOnly P (event P code unit detail) := by
  unfold HealthOnly event
  split <;> rfl

theorem pf0Vector_plains (t : State) (vec : Nat) : (pf0Vector t vec).plains = t.plains := by
  unfold pf0Vector
  dsimp only
  split <;> rfl

theorem healthOnly_throttleSet (t : State) (p : Fin 8) (cause : Nat) (on : Bool) : HealthOnly t.plains[p] (throttleSet t p cause on).plains[p] := by
  unfold throttleSet
  extract_lets v
  rw [pf0Vector_plains]
  change HealthOnly _ (modPlain t p _).plains[p]
  rw [modPlain_same]
  exact HealthOnly.trans (Q := { t.plains[p] with health := { t.plains[p].health with throttle := setBit t.plains[p].health.throttle cause on } })
    rfl (healthOnly_event _ _ _ _)

theorem healthOnly_causeIs (t : State) (p : Fin 8) (cause : Nat) (present : Bool) : HealthOnly t.plains[p] (causeIs cause t p present).plains[p] := by
  unfold causeIs
  extract_lets h v
  have hmod {f : Plain → Health} : HealthOnly t.plains[p] (modPlain t p fun P => { P with health := f P }).plains[p] := by
    rw [modPlain_same]
    rfl
  have hv : HealthOnly t.plains[p] v.plains[p] := hmod
  split
  · rfl
  split
  · split
    · exact hv
    · exact hv.trans (healthOnly_throttleSet v p cause true)
  · split
    · exact hmod
    · rfl

/-- The Basin after a temperature sample (07 R142). -/
def tempSampled (temp : Byte) (B : Basin) : Basin :=
  { B with temp := temp, refresh := if 85 < temp.toNat then 1 else 0, stat := if 105 < temp.toNat then setBit B.stat 5 true else B.stat }

theorem execBasinTempSample_eq (temp : Byte) (h : s.plains[p].run.mode ≠ .valley) :
    exec (.basinTempSample p temp) s = .next (causeIs 3 (modPlain s p fun P => { P with basin := tempSampled temp P.basin }) p
      (decide (105 < temp.toNat) || (bit s.plains[p].health.cause 3 && decide (100 ≤ temp.toNat)))) := by
  change execBasinTempSample p temp s = _
  unfold execBasinTempSample
  simp only [awake_eq_true h, Bool.not_true, Bool.false_eq_true, if_false, decide_eq_true_eq]
  rfl

/-! ## BASIN_CTL and BASIN_RSV (07 R140, R146) -/

theorem basinCtl_clr (v : Word) (B : Basin) : basinCtl (setBit v 1 true) B = { B with scrubEn := v.getLsbD 0, ceCnt := 0, ueCnt := 0 } := by
  have h0 : bit (setBit v 1 true) 0 = v.getLsbD 0 := bit_setBit_other v 1 0 true (by decide)
  have h1 : bit (setBit v 1 true) 1 = true := bit_setBit_same v 1 (by decide)
  simp only [basinCtl, h0, h1, if_true]

theorem fld_eq_extractLsb' {w : Nat} (v : BitVec w) (lo n : Nat) : fld v lo n = (v.extractLsb' lo n).toNat := by
  simp [fld, fldN, Nat.shiftRight_eq_div_pow]

/-- Settles O10, row by row: a scrubbed uncorrectable word is counted once whatever its fault leads to. -/
theorem basinCareCommands : Obligations.BasinCareCommands := by
  intro p s
  refine ⟨fun w hst hen => ⟨fun hue hce => ?_, fun hue _ => ?_⟩, fun w hoff => ?_, fun hm => ⟨fun temp => ?_, fun v => ?_, fun k v => ?_⟩⟩
  · change execPatrolScrub p w s = _
    unfold execPatrolScrub
    simp only [hst, hen, hue, hce, Bool.not_true, Bool.or_self, Bool.false_eq_true, if_false, if_true]
    rfl
  · have hrow : exec (.patrolScrub p w) s = .next (reportUes s p 6 6 [w]) := by
      change execPatrolScrub p w s = _
      unfold execPatrolScrub
      simp only [hst, hen, hue, Bool.not_true, Bool.or_self, Bool.false_eq_true, if_false, if_true]
    obtain ⟨hdata, hcnt⟩ := reportUes_counted s p 6 6 w
    exact ⟨_, hrow, (within_reportUes _ _ _ (.refl p s)).others, hcnt, hdata⟩
  · refine if_pos ?_
    rcases hoff with h | h
    · rw [h, Bool.not_false, Bool.or_true]
    · rw [h]
      rfl
  · refine ⟨_, execBasinTempSample_eq temp hm, (within_causeIs _ _ (within_modPlain _ (.refl p s))).others, ?_⟩
    have hh := healthOnly_causeIs (modPlain s p fun P => { P with basin := tempSampled temp P.basin }) p 3
      (decide (105 < temp.toNat) || (bit s.plains[p].health.cause 3 && decide (100 ≤ temp.toNat)))
    rw [modPlain_same] at hh
    exact hh.withBasin
  · refine congrArg _ ((if_pos (awake_eq_true hm)).trans (congrArg _ (funext fun P => ?_)))
    rw [basinCtl_clr]
  · change Host.Outcome.next (if awake s.plains[p] then modPlain s p fun P => { P with basin := rsvWrite P.run.mode k v P.basin } else s) = _
    rw [if_pos (awake_eq_true hm), ← fld_eq_extractLsb']
    split
    next hk => exact congrArg _ (modPlain_eq_self (by rw [rsvWrite, if_pos hk]))
    next hk =>
      split
      next hsum => exact congrArg _ (modPlain_congr (by rw [rsvWrite, if_neg hk, if_pos hsum]))
      next hsum => exact congrArg _ (modPlain_congr (by rw [rsvWrite, if_neg hk, if_neg hsum]))

end Sys2Proof.Machine
end

section
/-! SUPPORT. What the loader makes of a Plain (10 R206, R208): entry to LOAD, the image taken, and a load that fails. -/

namespace Sys2Proof.Machine

-- One proof after the other: the threads of parallel elaboration take their stacks from the check's memory limit.
set_option Elab.async false

/-! ## Sparse stores that are written entry by entry -/

section
variable {α : Type} [DecidableEq α]

/-- A store that lists what differs from what an unlisted entry reads as. -/
theorem look_listed (d : α) (f : Nat → α) (l : List Nat) (i : Nat) :
    look d (l.filterMap fun j => if f j = d then none else some (j, f j)) i = if i ∈ l then f i else d := by
  induction l with
  | nil => rfl
  | cons j l ih =>
    by_cases hj : f j = d
    · rw [List.filterMap_cons_none (f := fun j => if f j = d then none else some (j, f j)) (if_pos hj), ih]
      by_cases hi : i = j
      · subst hi
        simp [hj]
      · simp [hi]
    · rw [List.filterMap_cons_some (f := fun j => if f j = d then none else some (j, f j)) (if_neg hj)]
      by_cases hi : j = i
      · subst hi
        simp [look, sget]
      · simpa [look, sget, hi, Ne.symm hi] using ih

theorem look_listed_range (d : α) (f : Nat → α) {n i : Nat} (h : i < n) :
    look d ((List.range n).filterMap fun j => if f j = d then none else some (j, f j)) i = f i := by
  rw [look_listed, if_pos (List.mem_range.2 h)]

theorem look_puts (d : α) (f : Nat → α) (l : List Nat) (m : Sparse α) (i : Nat) (h : Sparse.wf (fun _ => d) m = true) :
    Sparse.wf (fun _ => d) (l.foldl (fun m j => put d m j (f j)) m) = true ∧
    look d (l.foldl (fun m j => put d m j (f j)) m) i = if i ∈ l then f i else look d m i := by
  induction l generalizing m with
  | nil => exact ⟨h, rfl⟩
  | cons j l ih =>
    obtain ⟨hwf, hlook⟩ := ih (put d m j (f j)) (put_wf d m j (f j) h)
    refine ⟨hwf, hlook.trans ?_⟩
    by_cases hi : i = j
    · subst hi
      simp [look_put_same d m i (f i) h]
    · simp [hi, look_put_other d m j i (f j) hi]

theorem look_puts_range (d : α) (f : Nat → α) {n i : Nat} (h : i < n) :
    look d ((List.range n).foldl (fun m j => put d m j (f j)) []) i = f i := by
  rw [(look_puts d f _ [] i rfl).2, if_pos (List.mem_range.2 h)]
end

/-! ## Parts of a part -/

theorem sub_sub (bs : List Byte) {o n o' n' : Nat} (h : o' + n' ≤ n) : sub (sub bs o n) o' n' = sub bs (o + o') n' := by
  unfold sub
  rw [List.drop_take, List.drop_drop, List.take_take, Nat.min_eq_left (by omega)]

theorem num_sub (bs : List Byte) {o n o' n' : Nat} (h : o' + n' ≤ n) : num (sub bs o n) o' n' = num bs (o + o') n' := by
  rw [num, sub_sub bs h, num]

/-! ## JOBs that end and switches that are discarded -/

section
variable {P : Plain}

/-- The JOB that ends leaves its outcome only. -/
theorem finishJobOf_eq (k : JobKind) (P : Plain) (status result : Nat) :
    finishJobOf k P status result = { P with hiu := (finishJobOf k P status result).hiu } := by
  unfold finishJobOf finishJob
  split
  · split
    · split <;> rfl
    · rfl
  · rfl

theorem emit_frame (value : Bool) (bs : List Byte) : (emit value P bs).tiles = P.tiles ∧ (emit value P bs).hiu = P.hiu := by
  unfold emit
  split <;> exact ⟨rfl, rfl⟩

theorem branch_frame : (branch P).tiles = P.tiles ∧ (branch P).hiu = P.hiu := by
  unfold branch
  split
  · exact ⟨rfl, rfl⟩
  · refine keep_foldl (C := fun Q : Plain => Q.tiles = P.tiles ∧ Q.hiu = P.hiu) ⟨rfl, rfl⟩ fun {Q bs} hQ => ?_
    exact ⟨(emit_frame false bs).1.trans hQ.1, (emit_frame false bs).2.trans hQ.2⟩

theorem discardSwitch_frame : (discardSwitch P).tiles = P.tiles ∧ (discardSwitch P).run = P.run ∧ (discardSwitch P).hiu.job = P.hiu.job ∧
    (discardSwitch P).ldr.switch = none := by
  unfold discardSwitch
  split
  next h => exact ⟨rfl, rfl, rfl, h⟩
  · exact ⟨rfl, rfl, rfl, rfl⟩

/-- Entry to LOAD (R208): the reservation is stored, no checkpoint is valid, nothing is admitted and no switch pends; the tiles stay. -/
theorem enterLoad_frame (P : Plain) (J : LoadJob) (rv : Nat) :
    (enterLoad P J rv).run.mode = .load ∧ (enterLoad P J rv).run.admitted = false ∧ (enterLoad P J rv).ldr.pwrRsv = rv ∧
    (enterLoad P J rv).ldr.load = some J ∧ (enterLoad P J rv).ldr.phase = 2 ∧ (enterLoad P J rv).hiu.job = P.hiu.job ∧
    (enterLoad P J rv).cap.dir = [] ∧ (enterLoad P J rv).ldr.switch = none ∧ (enterLoad P J rv).tiles = P.tiles := by
  obtain ⟨htiles, hrun, hjob, hswitch⟩ := discardSwitch_frame (P := setMode (branch P) .load)
  refine ⟨(congrArg (·.mode) hrun).trans (setMode_mode _ _), rfl, rfl, rfl, rfl, hjob.trans ?_, rfl, hswitch, htiles.trans ?_⟩
  · rw [setMode_hiu, branch_frame.2]
  · rw [setMode_tiles, branch_frame.1]

/-! ## The image taken (R208) -/

/-- A reservation within the sum is stored (07 R140). -/
theorem rsvWrite_load {k : Fin 5} {n : Nat} {B : Basin} (hz : look 0 B.rsv k.val = 0) (h : rsvSum B + n ≤ 960) :
    rsvWrite .load k (w32 n) B = { B with rsv := put 0 B.rsv k.val n } := by
  have hn : fld (w32 n) 0 10 = n := by
    simp [fld, fldN]
    omega
  unfold rsvWrite
  rw [if_neg (fun h => h.2 rfl), hn, if_pos (by omega)]

theorem rsvSum_put {B : Basin} {k : Fin 5} (n : Nat) (hwf : Sparse.wf (fun _ => 0) B.rsv = true) (hz : look 0 B.rsv k.val = 0) :
    rsvSum { B with rsv := put 0 B.rsv k.val n } = rsvSum B + n := by
  fin_cases k <;> simp [rsvSum, List.range_succ, hwf] at hz ⊢ <;> omega

/-- Reservations of different ports that fit are stored, each at its port (07 R140). -/
theorem rsvWrites_look (n : Fin 5 → Nat) (ks : List (Fin 5)) (hks : ks.Nodup) {B : Basin} (hwf : Sparse.wf (fun _ => 0) B.rsv = true)
    (hz : ∀ k ∈ ks, look 0 B.rsv k.val = 0) (hsum : rsvSum B + (ks.map n).sum ≤ 960) :
    ∀ j : Fin 5, look 0 (ks.foldl (fun B k => rsvWrite .load k (w32 (n k)) B) B).rsv j.val = if j ∈ ks then n j else look 0 B.rsv j.val := by
  induction ks generalizing B with
  | nil => exact fun _ => rfl
  | cons k ks ih =>
    obtain ⟨hk, hks⟩ := List.nodup_cons.1 hks
    have hk0 := hz k List.mem_cons_self
    rw [List.map_cons, List.sum_cons] at hsum
    intro j
    rw [List.foldl_cons, rsvWrite_load hk0 (by omega), ih hks (put_wf _ _ _ _ hwf) (fun i hi => ?_) (by rw [rsvSum_put _ hwf hk0]; omega)]
    · by_cases hj : j = k
      · subst hj
        simp [hk, hwf]
      · have hv : j.val ≠ k.val := fun e => hj (Fin.ext e)
        simp [hj, hv]
    · have hv : i.val ≠ k.val := fun e => hk (Fin.ext e ▸ hi)
      rw [look_put_other _ _ _ _ _ hv]
      exact hz i (List.mem_cons_of_mem _ hi)

/-- Reservations 0 to 3 are the image's where they fit beside reservation 4 (R208). -/
theorem loadRsv_look {d : List Byte} {B : Basin} (hwf : Sparse.wf (fun _ => 0) B.rsv = true)
    (hsum : descRsv d 0 + descRsv d 1 + descRsv d 2 + descRsv d 3 + look 0 B.rsv 4 ≤ 960) {k : Nat} (hk : k < 4) :
    look 0 (loadRsv d B).rsv k = descRsv d k := by
  have hclear := look_puts (0 : Nat) (fun _ => 0) [0, 1, 2, 3] B.rsv
  have hz (j : Nat) (h : j ∈ [0, 1, 2, 3]) : look 0 ([0, 1, 2, 3].foldl (fun m k => put 0 m k 0) B.rsv) j = 0 := by
    rw [(hclear j hwf).2, if_pos h]
  have h4 : look 0 ([0, 1, 2, 3].foldl (fun m k => put 0 m k 0) B.rsv) 4 = look 0 B.rsv 4 := by
    rw [(hclear 4 hwf).2, if_neg (by decide)]
  have hs : rsvSum { B with rsv := [0, 1, 2, 3].foldl (fun m k => put 0 m k 0) B.rsv } = look 0 B.rsv 4 := by
    simp only [rsvSum, List.range_succ, List.range_zero, List.nil_append, List.cons_append, List.map_cons, List.map_nil, List.sum_cons, List.sum_nil,
      hz 0 (by decide), hz 1 (by decide), hz 2 (by decide), hz 3 (by decide), h4]
    omega
  have hw := rsvWrites_look (fun k => descRsv d k.val) [0, 1, 2, 3] (by decide) (hclear 0 hwf).1 (fun k hk => hz k.val (by fin_cases hk <;> decide))
    (by rw [hs]; simp; omega) ⟨k, by omega⟩
  have hmem : (⟨k, by omega⟩ : Fin 5) ∈ ([0, 1, 2, 3] : List (Fin 5)) := by
    interval_cases k <;> simp
  rwa [if_pos hmem] at hw

theorem loadBasin_areas (d region : List Byte) (B : Basin) {a : Nat} (h : a < 5) :
    look 0 (loadBasin d region B).areaBase a = num d (16 + 8 * a) 4 % 2 ^ 23 ∧
    look 0 (loadBasin d region B).areaSize a = num d (20 + 8 * a) 4 % 2 ^ 23 :=
  ⟨look_puts_range 0 (fun a => (areaOf d a).1 % 2 ^ 23) h, look_puts_range 0 (fun a => (areaOf d a).2 % 2 ^ 23) h⟩

theorem loadBasin_rgn (d region : List Byte) (B : Basin) {i : Nat} (h : i < 256) :
    look 0 (loadBasin d region B).rgn i = BitVec.ofNat 128 (num region (16 * i) 16) := look_listed_range 0 (imageRegion region) h

/-- The near file of a loaded tile (R208). -/
theorem loadTile_nf (len : Nat) (sched state : List Byte) (k : Fin 64) (T : Tile) {a : Nat} (h : a < 256) :
    look laneX (loadTile len sched state k T).nf a = w32 (num state (132096 * k.val + 4 * a) 4) := by
  refine (look_listed_range laneX (fun i => w32 (num (sub (sub state (132096 * k.val) 132096) 0 1024) (4 * i) 4)) h).trans ?_
  rw [num_sub _ (by omega), num_sub _ (by omega), Nat.zero_add]

/-- A link to which the image binds a virtual link trains with its channels (08 R163, R208); the others are OFF. -/
theorem loadLink_bound {now : Nat} {bind : DWord} {d c : List Byte} {l : Fin 8} {L : Link} {j : Nat} (hj : j < 8)
    (hu : vlinkUsed d j = true) (hb : bound bind j = some l.val)
    (hfirst : ∀ i, i < j → ¬(vlinkUsed d i = true ∧ bound bind i = some l.val)) :
    (loadLink now bind d c l L).state = .train ∧ (loadLink now bind d c l L).en = true ∧
    (loadLink now bind d c l L).foreign = (vlink d j).getLsbD 2 ∧
    ∀ n, n < 64 → look 0 (loadLink now bind d c l L).chan n = w32 (num c (256 * j + 4 * n) 4) := by
  have hfind : (List.range 8).find? (fun j => vlinkUsed d j && bound bind j == some l.val) = some j := by
    rw [List.find?_range_eq_some]
    refine ⟨by simp [hu, hb], List.mem_range.2 hj, fun i hi => ?_⟩
    by_cases hv : vlinkUsed d i = true
    · have hne : bound bind i ≠ some l.val := fun e => hfirst i hi ⟨hv, e⟩
      simp [hne]
    · simp [hv]
  unfold loadLink
  rw [hfind]
  refine ⟨rfl, rfl, rfl, fun n hn => ?_⟩
  dsimp only
  exact look_puts_range 0 (imageChan c j) hn

theorem loadLink_unbound {now : Nat} {bind : DWord} {d c : List Byte} {l : Fin 8} {L : Link}
    (h : ∀ j, j < 8 → ¬(vlinkUsed d j = true ∧ bound bind j = some l.val)) :
    (loadLink now bind d c l L).state = .off ∧ (loadLink now bind d c l L).en = false := by
  have hfind : (List.range 8).find? (fun j => vlinkUsed d j && bound bind j == some l.val) = none := by
    rw [List.find?_eq_none]
    intro j hj
    simpa [Bool.and_eq_true, beq_iff_eq] using h j (List.mem_range.1 hj)
  unfold loadLink
  rw [hfind]
  exact ⟨rfl, rfl⟩

end

end Sys2Proof.Machine
end

section
/-! SUPPORT. The Plain after LOAD_COMMIT (10 R204, R208, R218). -/

namespace Sys2Proof.Machine

-- One proof after the other: the threads of parallel elaboration take their stacks from the check's memory limit.
set_option Elab.async false

variable {P : Plain} {now tstep : Nat} {J : LoadJob} {man : List Byte} {pts : Parts}

/-! ## A load that fails -/

/-- The Plain of a load that fails, before its JOB ends (R204). -/
def loadRefused (P : Plain) (code detail : Nat) : Plain :=
  let P := setMode (allLinks P fun _ => loadOff) .hold
  ldrCode { P with run := { P.run with admitted := false }
                   basin := { P.basin with rsv := [0, 1, 2, 3].foldl (fun m k => put 0 m k 0) P.basin.rsv }
                   ldr := { P.ldr with phase := 0, load := none, pwrRsv := 0x30 } } code detail

theorem loadFail_eq (P : Plain) (code detail : Nat) : loadFail P code detail =
    { loadRefused P code detail with hiu := (loadFail P code detail).hiu } := finishJobOf_eq _ _ _ _

theorem loadFail_frame (P : Plain) (code detail : Nat) :
    (loadFail P code detail).run.mode = .hold ∧ (loadFail P code detail).run.admitted = false ∧
    (loadFail P code detail).ldr.code = BitVec.ofNat 4 code ∧ (loadFail P code detail).ldr.detail = BitVec.ofNat 16 detail ∧
    (loadFail P code detail).ldr.pwrRsv = 0x30 ∧ ∀ l : Fin 8, (loadFail P code detail).links[l].state = .off := by
  rw [loadFail_eq]
  refine ⟨setMode_mode _ _, rfl, rfl, rfl, rfl, fun l => ?_⟩
  change (setMode (allLinks P fun _ => loadOff) .hold).links[l].state = .off
  rw [setMode_links, allLinks_at]
  rfl

/-! ## The image taken -/

/-- The Plain with the image's links, tiles, Basin regions and configuration record (R208). -/
def imageTaken (now : Nat) (J : LoadJob) (pts : Parts) (P : Plain) : Plain :=
  let P := { P with basin := loadBasin (pts.getD 0 []) (pts.getD 3 []) P.basin }
  let P := allLinks P (loadLink now J.bind (pts.getD 0 []) (pts.getD 4 []))
  let P := allTiles P (loadTile (descLen (pts.getD 0 [])) (pts.getD 1 []) (pts.getD 2 []))
  applyRecord (pts.getD 5 []) P

theorem applyRecord_frame (r : List Byte) (P : Plain) :
    (applyRecord r P).tiles = P.tiles ∧ (applyRecord r P).links = P.links ∧ (applyRecord r P).basin = P.basin := ⟨rfl, rfl, rfl⟩

theorem imageTaken_tiles (k : Fin 64) : (imageTaken now J pts P).tiles[k] =
    loadTile (descLen (pts.getD 0 [])) (pts.getD 1 []) (pts.getD 2 []) k P.tiles[k] := allTiles_at _ _ _

theorem imageTaken_links (l : Fin 8) : (imageTaken now J pts P).links[l] =
    loadLink now J.bind (pts.getD 0 []) (pts.getD 4 []) l P.links[l] := by
  unfold imageTaken
  extract_lets P0 P1 P2
  have h : (applyRecord (pts.getD 5 []) P2).links = P1.links := (applyRecord_frame _ P2).2.1.trans (allTiles_links _ _)
  rw [h]
  exact allLinks_at P0 _ l

theorem imageTaken_basin : (imageTaken now J pts P).basin = loadBasin (pts.getD 0 []) (pts.getD 3 []) P.basin := by
  unfold imageTaken
  extract_lets P0 P1 P2
  exact (applyRecord_frame _ P2).2.2.trans ((allTiles_basin _ _).trans (allLinks_basin _ _))

/-- LOAD_COMMIT's Plain is in HOLD at cycle 0 with the image admitted (R208, R218). -/
theorem commitImage_frame {Q : Plain} (hQ : commitImage now tstep J man pts P = Q) :
    Q.tiles = (imageTaken now J pts P).tiles ∧ Q.links = (imageTaken now J pts P).links ∧ Q.basin = (imageTaken now J pts P).basin ∧
    Q.run.mode = .hold ∧ Q.run.admitted = true ∧ Q.run.cycle = 0 ∧ Q.run.colDirty = false ∧ Q.health.incomplete = false ∧
    Q.ldr.len = descLen (pts.getD 0 []) ∧ Q.ldr.phase = 0 ∧ Q.ldr.code = 0 ∧
    Q.sync.cur = { epoch := w32 (num (pts.getD 5 []) 0 4), first := 0
                   tag := tagOf (Config.sha384 (sub man 0 (64 + 128 * num man 8 4))) (Config.sha384 (pts.getD 5 [])) } := by
  unfold commitImage at hQ
  extract_lets d cfg len digest h epoch vl P0 P1 P2 P3 _ _ _ _ _ _ P4 at hQ
  have hset : setMode P4 .hold = { P4 with run := (setMode P4 .hold).run } ∧ (setMode P4 .hold).run.admitted = P4.run.admitted ∧
      (setMode P4 .hold).run.cycle = P4.run.cycle ∧ (setMode P4 .hold).run.colDirty = P4.run.colDirty := by
    unfold setMode
    split <;> exact ⟨rfl, rfl, rfl, rfl⟩
  obtain ⟨hset, hadm, hcycle, hdirty⟩ := hset
  have hP3 : imageTaken now J pts P = P3 := rfl
  rw [finishJobOf_eq, hset] at hQ
  rw [hP3]
  clear_value P3
  subst hQ
  exact ⟨rfl, rfl, rfl, setMode_mode _ _, hadm, hcycle, hdirty, rfl, rfl, rfl, rfl, rfl⟩

theorem commitImage_tiles (k : Fin 64) : (commitImage now tstep J man pts P).tiles[k] =
    loadTile (descLen (pts.getD 0 [])) (pts.getD 1 []) (pts.getD 2 []) k P.tiles[k] :=
  (congrArg (·[k]) (commitImage_frame rfl).1).trans (imageTaken_tiles k)

theorem commitImage_links (l : Fin 8) : (commitImage now tstep J man pts P).links[l] =
    loadLink now J.bind (pts.getD 0 []) (pts.getD 4 []) l P.links[l] :=
  (congrArg (·[l]) (commitImage_frame rfl).2.1).trans (imageTaken_links l)

theorem commitImage_basin : (commitImage now tstep J man pts P).basin = loadBasin (pts.getD 0 []) (pts.getD 3 []) P.basin :=
  (commitImage_frame rfl).2.2.1.trans imageTaken_basin

end Sys2Proof.Machine
end

section
/-! SUPPORT. What VERIFY has checked of an image that it accepts (10 R200 to R204). -/

namespace Sys2Proof.Machine

-- One proof after the other: the threads of parallel elaboration take their stacks from the check's memory limit.
set_option Elab.async false

variable {s t u : State} {p : Fin 8}

/-! ## The manifest -/

theorem manifestBad_none {man : List Byte} {len : Nat} (h : manifestBad man len = none) :
    num man 0 4 = 0x4D495856 ∧ num man 4 2 = 1 ∧ num man 8 4 = 6 * num man 6 2 ∧ 64 + 128 * num man 8 4 + 96 ≤ len := by
  unfold manifestBad at h
  extract_lets nvp npart es at h
  split at h
  · cases h
  next hok =>
    simp only [not_or, not_not, Nat.not_lt] at hok
    obtain ⟨hmagic, hformat, _, _, hparts, _, _, hlen⟩ := hok
    exact ⟨hmagic, hformat, hparts, hlen⟩

/-! ## The parts -/

/-- The part's plaintext has the digest of its entry in the manifest (R202). -/
def DigestKept (man : List Byte) (v k : Nat) (pt : List Byte) : Prop :=
  leBytes 48 (Config.sha384 pt).toNat = sub (partEntry man (partIndex man v k)) 64 48

theorem digestOk_inl {e bs pt : List Byte} (h : digestOk e bs = .inl pt) : leBytes 48 (Config.sha384 pt).toNat = sub e 64 48 := by
  unfold digestOk at h
  split at h
  next hd => exact Sum.inl.inj h ▸ hd
  · cases h

/-- A part that opens, encrypted or not, has its entry's digest. -/
theorem openPart_inl {keyslot : Nat} {e raw pt : List Byte} (h : openPart s p keyslot e raw = (t, .inl pt)) :
    leBytes 48 (Config.sha384 pt).toNat = sub e 64 48 := by
  unfold openPart at h
  split at h
  · split at h
    · cases h
    · obtain ⟨-, h⟩ := Prod.mk.inj h
      split at h
      · cases h
      · exact digestOk_inl h
  · obtain ⟨-, h⟩ := Prod.mk.inj h
    split at h
    · cases h
    · exact digestOk_inl h

theorem readParts_inl {addr v : Nat} {man : List Byte} {ks : List Nat} {pts : Parts} (h : readParts p addr v man ks s = (t, .inl pts)) :
    List.Forall₂ (DigestKept man v) ks pts := by
  induction ks generalizing s pts with
  | nil =>
    cases h
    exact .nil
  | cons k ks ih =>
    unfold readParts at h
    extract_lets i e r at h
    split at h
    · cases h
    next pt ho =>
      split at h
      next hr =>
        cases h
        exact .cons (openPart_inl ho) (ih hr)
      next x hx =>
        exact (hx _ _ h).elim

/-! ## The contents -/

/-- The last step word of every tile, and no other, ends its column (10 R203). -/
theorem badTileOf_none {sched : List Byte} {len : Nat} (h : badTileOf sched len = none) (i k : Nat) (hi : i < 64) (hk : k < len) :
    swCend (imageStep sched len i k) = decide (k + 1 = len) := by
  unfold badTileOf at h
  rw [Option.map_eq_none_iff, List.find?_eq_none] at h
  have hstep := h ⟨i, hi⟩ (List.mem_finRange _)
  rw [List.any_eq_true] at hstep
  by_contra hne
  refine hstep ⟨k, List.mem_range.2 hk, ?_⟩
  simp [badStepWord, bne_iff_ne.2 hne]

/-- A valid region of a checked image is not empty and lies within the Basin (07 R142). -/
theorem badRegion_false {d : List Byte} {e : BitVec 128} (h : badRegion d e = false) (hv : rgnValid e = true) :
    fld e 32 23 ≠ 0 ∧ fld e 0 23 + fld e 32 23 ≤ 0x600000 := by
  simp only [badRegion, hv, Bool.true_and, Bool.or_eq_false_iff, beq_eq_false_iff_ne, decide_eq_false_iff_not, Nat.not_lt] at h
  obtain ⟨⟨⟨hsize, hend⟩, -⟩, -⟩ := h
  exact ⟨hsize, hend⟩

/-- A virtual link that a checked image uses is bound to a link to which no lower one is bound (08 R163). -/
theorem badBinding_false {en : BitVec 8} {bind : DWord} {d : List Byte} {j : Nat} (h : badBinding en p bind d j = false) (hu : vlinkUsed d j = true) :
    ∃ l, bound bind j = some l ∧ ∀ i, i < j → vlinkUsed d i = true → bound bind i ≠ some l := by
  unfold badBinding at h
  rw [hu, Bool.true_and] at h
  cases hb : bound bind j with
  | none => simp [hb] at h
  | some l =>
    simp only [hb, Bool.or_eq_false_iff, List.any_eq_false, List.mem_range] at h
    refine ⟨l, rfl, fun i hi hv he => h.2 i hi ?_⟩
    simp [hv, he]

/-- A check that refuses nothing has passed, and so have the checks after it. -/
theorem refusal_eq_none {α : Type} {c : Prop} [Decidable c] {a : α} {rest : Option α} :
    (if c then some a else rest) = none ↔ ¬c ∧ rest = none := by
  split <;> simp [*]

theorem contentsBad_none {F : Fuses} {epoch0 : Nat} {bind : DWord} {part : Nat → Nat} {d sched st region chan cfg : List Byte}
    (h : contentsBad F p epoch0 bind part [d, sched, st, region, chan, cfg] = none) :
    1 ≤ descLen d ∧ descLen d ≤ 8192 ∧ sched.length = 32768 * descLen d ∧ num cfg 0 4 = epoch0 ∧ badTileOf sched (descLen d) = none ∧
    (∀ i, i < 256 → badRegion d (imageRegion region i) = false) ∧ ∀ j, j < 8 → badBinding F.plainsEn p bind d j = false := by
  unfold contentsBad at h
  simp only [List.getD_cons_zero, List.getD_cons_succ] at h
  simp only [refusal_eq_none, not_or, not_not, Nat.not_lt] at h
  obtain ⟨-, -, -, -, ⟨hpos, hmax⟩, hsched, -, -, -, hepoch, h⟩ := h
  split at h
  · cases h
  next htile =>
    split at h
    · cases h
    next hregion =>
      obtain ⟨-, h⟩ := refusal_eq_none.1 h
      split at h
      · cases h
      next hbind =>
        rw [List.find?_eq_none] at hregion hbind
        exact ⟨Nat.pos_of_ne_zero hpos, hmax, hsched, hepoch, htile,
          fun i hi => Bool.eq_false_iff.2 (hregion i (List.mem_range.2 hi)), fun j hj => Bool.eq_false_iff.2 (hbind j (List.mem_range.2 hj))⟩

/-! ## VERIFY as a whole -/

/-- An accepted image has passed the checks of its manifest, its signature, its parts and their contents; the reservation is its envelope (R203). -/
theorem verifyImage_inl {addr len v rv : Nat} {bind : DWord} {man : List Byte} (h : verifyImage s p addr len v bind = (u, .inl (man, rv))) :
    manifestBad man len = none ∧ v < num man 6 2 ∧
    (∃ key, Config.ecdsaVerify key (Config.sha384 (sub man 0 (64 + 128 * num man 8 4))) (sub man (64 + 128 * num man 8 4) 96) = true) ∧
    ∃ pts, List.Forall₂ (DigestKept man v) [1, 2, 3, 4, 5, 6] pts ∧
      (∃ F part, contentsBad F p (num man 16 4) bind part pts = none) ∧ rv = envelopeOf (pts.getD 0 []) (pts.getD 1 []) := by
  unfold verifyImage at h
  extract_lets hdr n r man' k s0 key signed at h
  clear_value s0 key man'
  split at h
  · cases h
  next hman =>
  split at h
  · cases h
  split at h
  · cases h
  next hsig =>
  split at h
  · cases h
  next hv =>
  split at h
  · cases h
  split at h
  · cases h
  next pts hread =>
  split at h
  · cases h
  next hcontents =>
  extract_lets d env at h
  split at h
  · cases h
  split at h
  · cases h
  obtain ⟨rfl, hfound⟩ := Prod.mk.inj h
  obtain ⟨rfl, hrv⟩ := Prod.mk.inj (Sum.inl.inj hfound)
  exact ⟨hman, by omega, ⟨_, by simpa using hsig⟩, pts, readParts_inl hread, ⟨_, _, hcontents⟩, hrv.symm⟩

/-- The parts of an image by their kinds (R200). -/
theorem six_parts {R : Nat → List Byte → Prop} {pts : Parts} (h : List.Forall₂ R [1, 2, 3, 4, 5, 6] pts) :
    ∃ d sched st region chan cfg, pts = [d, sched, st, region, chan, cfg] ∧ R 1 d ∧ R 2 sched ∧ R 4 region ∧ R 6 cfg := by
  simp only [List.forall₂_cons_left_iff, List.forall₂_nil_left_iff] at h
  obtain ⟨d, _, h1, ⟨sched, _, h2, ⟨st, _, -, ⟨region, _, h4, ⟨chan, _, -, ⟨cfg, _, h6, rfl, rfl⟩, rfl⟩, rfl⟩, rfl⟩, rfl⟩, rfl⟩ := h
  exact ⟨d, sched, st, region, chan, cfg, rfl, h1, h2, h4, h6⟩

end Sys2Proof.Machine
end

section
/-! PROOF. O19, `Obligations.LoadVerifiesThenCommits`: JOB LOAD verifies and enters LOAD or refuses; LOAD_COMMIT installs the image. -/

namespace Sys2Proof.Machine

-- One proof after the other: the threads of parallel elaboration take their stacks from the check's memory limit.
set_option Elab.async false

variable {s u : State} {p : Fin 8} {seq : Word} {addr len bind : DWord} {vplain : BitVec 16}

theorem stillIn_eq_false {m : Mode} {P : Plain} : stillIn m P = false ↔ P.run.mode ≠ m ∨ P.run.after ≠ none := by
  simp [stillIn, imp_iff_not_or, Option.ne_none_iff_isSome]

/-! ## What VERIFY accepts -/

theorem verifyImage_accepts {a n v rv : Nat} {man : List Byte} (h : verifyImage s p a n v bind = (u, .inl (man, rv))) :
    num man 0 4 = 0x4D495856 ∧ num man 4 2 = 1 ∧ num man 8 4 = 6 * num man 6 2 ∧ 64 + 128 * num man 8 4 + 96 ≤ n ∧ v < num man 6 2 ∧
    (∃ key, Config.ecdsaVerify key (Config.sha384 (sub man 0 (64 + 128 * num man 8 4))) (sub man (64 + 128 * num man 8 4) 96) = true) ∧
    ∃ d sched region cfg : List Byte,
      (∀ kp ∈ [(1, d), (2, sched), (4, region), (6, cfg)], DigestKept man v kp.1 kp.2) ∧
      1 ≤ num d 0 2 ∧ num d 0 2 ≤ 8192 ∧ sched.length = 32768 * num d 0 2 ∧ num cfg 0 4 = num man 16 4 ∧ rv = envelopeOf d sched ∧
      (∀ i k, i < 64 → k < num d 0 2 → swCend (imageStep sched (num d 0 2) i k) = decide (k + 1 = num d 0 2)) ∧
      (∀ j, j < 8 → vlinkUsed d j = true → ∃ l, bound bind j = some l ∧ ∀ i, i < j → vlinkUsed d i = true → bound bind i ≠ some l) ∧
      (∀ i, i < 256 → rgnValid (imageRegion region i) = true →
        fld (imageRegion region i) 32 23 ≠ 0 ∧ fld (imageRegion region i) 0 23 + fld (imageRegion region i) 32 23 ≤ 0x600000) := by
  obtain ⟨hman, hv, hsig, pts, hparts, ⟨F, part, hcontents⟩, hrv⟩ := verifyImage_inl h
  obtain ⟨hmagic, hformat, hcount, hlen⟩ := manifestBad_none hman
  obtain ⟨d, sched, st, region, chan, cfg, rfl, h1, h2, h4, h6⟩ := six_parts hparts
  obtain ⟨hpos, hmax, hsched, hepoch, htile, hregion, hbind⟩ := contentsBad_none hcontents
  refine ⟨hmagic, hformat, hcount, hlen, hv, hsig, d, sched, region, cfg, ?_, hpos, hmax, hsched, hepoch, hrv, badTileOf_none htile,
    fun j hj => badBinding_false (hbind j hj), fun i hi => badRegion_false (hregion i hi)⟩
  simp [h1, h2, h4, h6]

/-! ## JOB LOAD -/

/-- The Plain once VERIFY has answered: a refusal completes the JOB, an accepted image enters LOAD. -/
def afterVerify (seq : Word) (addr len : DWord) (vplain : BitVec 16) (bind : DWord) (found : (List Byte × Nat) ⊕ (Nat × Nat)) (P : Plain) : Plain :=
  match found with
  | .inr (code, detail) => outcome (ldrCode P code detail) 0 seq code detail
  | .inl (man, rv) => enterLoad (beginJob P seq .load) { seq := seq, man := man, addr := addr, len := len, vplain := vplain.toNat, bind := bind } rv

section
variable (hstart : startedNow s.plains[p] 0 seq 1 [(16, 8, addr.toNat), (24, 8, len.toNat), (32, 2, vplain.toNat), (40, 8, bind.toNat)] = true)
include hstart

theorem execJobLoad_aborted (habort : seq ∈ s.plains[p].hiu.rings[(0 : Fin 4)].abortSeen) :
    execJobLoad p seq addr len vplain bind s = .next (modPlain s p fun P => outcome P 0 seq 0x11 0) := by
  unfold execJobLoad
  rw [if_neg (by rw [hstart]; decide), if_pos habort]

variable (habort : seq ∉ s.plains[p].hiu.rings[(0 : Fin 4)].abortSeen)
include habort

theorem execJobLoad_notPermitted (h : s.plains[p].run.mode ≠ .hold ∨ s.plains[p].run.after ≠ none ∨ (s.fuses.lc ≠ 2 ∧ s.fuses.lc ≠ 3)) :
    execJobLoad p seq addr len vplain bind s = .next (modPlain s p fun P => outcome (ldrCode P 0xC 0xFFFF) 0 seq 0x0C 0xFFFF) := by
  rw [← Option.isSome_iff_ne_none] at h
  unfold execJobLoad
  rw [if_neg (by rw [hstart]; decide), if_neg habort, if_pos h]

variable (hmode : s.plains[p].run.mode = .hold) (hafter : s.plains[p].run.after = none) (hlc : s.fuses.lc = 2 ∨ s.fuses.lc = 3)
include hmode hafter hlc

theorem execJobLoad_verified : execJobLoad p seq addr len vplain bind s =
    if !stillIn .hold (verifyImage s p addr.toNat len.toNat vplain.toNat bind).1.plains[p] then
      .next (verifyImage s p addr.toNat len.toNat vplain.toNat bind).1
    else .next (modPlain (verifyImage s p addr.toNat len.toNat vplain.toNat bind).1 p
      (afterVerify seq addr len vplain bind (verifyImage s p addr.toNat len.toNat vplain.toNat bind).2)) := by
  have hgo : ¬(s.plains[p].run.mode ≠ .hold ∨ s.plains[p].run.after.isSome = true ∨ (s.fuses.lc ≠ 2 ∧ s.fuses.lc ≠ 3)) := by
    rintro (h | h | ⟨h2, h3⟩)
    · exact h hmode
    · rw [hafter] at h
      cases h
    · exact hlc.elim h2 h3
  unfold execJobLoad
  rw [if_neg (by rw [hstart]; decide), if_neg habort, if_neg hgo]
  rfl
end

/-! ## LOAD_COMMIT -/

/-- The Plain once every part is read again, or one does not open. -/
def afterParts (now tstep : Nat) (J : LoadJob) (found : Parts ⊕ (Nat × Nat)) (P : Plain) : Plain :=
  match found with
  | .inr (code, i) => loadFail P (if code = 4 then 4 else 0xD) i
  | .inl pts => commitImage now tstep J J.man pts P

theorem afterParts_inl (now tstep : Nat) (J : LoadJob) (pts : Parts) (P : Plain) :
    afterParts now tstep J (.inl pts) P = commitImage now tstep J J.man pts P := rfl

theorem execLoadCommit_read {J : LoadJob} (hload : s.plains[p].ldr.load = some J) (hmode : s.plains[p].run.mode = .load)
    (hlinks : s.plains[p].links.toList.any closingLink = false) :
    execLoadCommit p s = if !stillIn .load (readParts p J.addr.toNat J.vplain J.man [1, 2, 3, 4, 5, 6] (settle s p)).1.plains[p] then
      .next (readParts p J.addr.toNat J.vplain J.man [1, 2, 3, 4, 5, 6] (settle s p)).1
    else .next (modPlain (readParts p J.addr.toNat J.vplain J.man [1, 2, 3, 4, 5, 6] (settle s p)).1 p
      (afterParts s.timeNs s.fuses.tstepPs J (readParts p J.addr.toNat J.vplain J.man [1, 2, 3, 4, 5, 6] (settle s p)).2)) := by
  have hgo : ¬(s.plains[p].run.mode ≠ .load ∨ s.plains[p].links.toList.any closingLink = true) := by
    rw [hlinks]
    exact fun h => h.elim (absurd hmode) (by decide)
  unfold execLoadCommit
  simp only [hload]
  rw [if_neg hgo]
  rfl

/-- Settles O19: JOB LOAD and LOAD_COMMIT taken case by case, and VERIFY's checks read off an accepted image. -/
theorem loadVerifiesThenCommits : Obligations.LoadVerifiesThenCommits := by
  unfold Obligations.LoadVerifiesThenCommits
  refine fun p s => ⟨fun seq addr len vplain bind hstart => ⟨execJobLoad_aborted hstart, fun habort =>
    ⟨execJobLoad_notPermitted hstart habort, fun hmode hafter hlc => ?_⟩⟩, fun J hload hmode hlinks => ?_, fun _ _ _ _ _ _ _ => verifyImage_accepts⟩
  · obtain ⟨⟨u, found⟩, hv⟩ : ∃ r, verifyImage s p addr.toNat len.toNat vplain.toNat bind = r := ⟨_, rfl⟩
    have hexec := execJobLoad_verified hstart habort hmode hafter hlc
    rw [hv] at hexec ⊢
    dsimp only
    by_cases hleft : u.plains[p].run.mode ≠ .hold ∨ u.plains[p].run.after ≠ none
    · rw [stillIn_eq_false.2 hleft] at hexec
      exact ⟨u, hexec, by rw [if_pos hleft]⟩
    · rw [Bool.not_eq_false _ |>.mp (mt stillIn_eq_false.1 hleft)] at hexec
      refine ⟨_, hexec, ?_⟩
      rw [if_neg hleft]
      match found with
      | .inr (code, detail) => rfl
      | .inl (man, rv) =>
        refine ⟨onlyPlain_modPlain _ _ _, ?_⟩
        rw [modPlain_same]
        exact enterLoad_frame _ _ _
  · obtain ⟨⟨u, found⟩, hr⟩ : ∃ r, readParts p J.addr.toNat J.vplain J.man [1, 2, 3, 4, 5, 6] (settle s p) = r := ⟨_, rfl⟩
    have hexec := execLoadCommit_read hload hmode hlinks
    rw [hr] at hexec ⊢
    dsimp only
    by_cases hleft : u.plains[p].run.mode ≠ .load ∨ u.plains[p].run.after ≠ none
    · rw [stillIn_eq_false.2 hleft] at hexec
      exact ⟨u, hexec, by rw [if_pos hleft]⟩
    · rw [Bool.not_eq_false _ |>.mp (mt stillIn_eq_false.1 hleft)] at hexec
      refine ⟨_, hexec, ?_⟩
      rw [if_neg hleft]
      match found with
      | .inr (c, i) =>
        refine ⟨onlyPlain_modPlain _ _ _, ?_⟩
        rw [modPlain_same]
        obtain ⟨hhold, hadm, hcode, hrest⟩ := loadFail_frame u.plains[p] (if c = 4 then 4 else 0xD) i
        exact ⟨hhold, hadm, hcode.trans (apply_ite _ _ _ _), hrest⟩
      | .inl pts =>
        refine ⟨onlyPlain_modPlain _ _ _, ?_⟩
        rw [modPlain_same, afterParts_inl]
        obtain ⟨-, -, -, hhold, hadm, hcycle, hdirty, hinc, hlen, hphase, hcode, hcur⟩ :=
          commitImage_frame (now := s.timeNs) (tstep := s.fuses.tstepPs) (J := J) (man := J.man) (pts := pts) (P := u.plains[p]) rfl
        refine ⟨hhold, hadm, hcycle, hlen, hphase, hcode, commitImage_tiles, fun k a ha => ?_, hdirty, hinc, congrArg (·.recv) commitImage_basin,
          fun i hi => ?_, fun a ha => ?_, fun hwf hsum k hk => ?_, fun j l hj hu hb hfirst => ?_, fun l hnone => ?_,
          congrArg (·.epoch) hcur, congrArg (·.first) hcur, congrArg (·.tag) hcur⟩
        · rw [commitImage_tiles]
          exact loadTile_nf _ _ _ _ _ ha
        · rw [commitImage_basin]
          exact loadBasin_rgn _ _ _ hi
        · rw [commitImage_basin]
          exact loadBasin_areas _ _ _ ha
        · rw [commitImage_basin]
          exact loadRsv_look hwf hsum hk
        · rw [commitImage_links]
          exact loadLink_bound hj hu hb hfirst
        · rw [commitImage_links]
          exact loadLink_unbound hnone

end Sys2Proof.Machine
end

section
/-! SUPPORT. The JOB LINK operations (08 R162, R167, R175, R176, 13 R269): the LINK_CTL operation of the same name, and its completion. -/

namespace Sys2Proof.Machine

variable {p : Fin 8} {seq : Word} {code : Nat} {link : Byte} {holdOnly : Bool} {act : State → Fin 8 → Fin 8 → State} {s : State}

/-- The Plain's mode allows JOB LINK when no link of it waits for a close. -/
theorem jobMode_eq_true {P : Plain} (hafter : P.run.after = none) (hmay : P.run.mode = .hold ∨ modeStepping P.run.mode = true) :
    jobMode P = true := by
  simpa only [jobMode, hafter, Option.isNone_none, Bool.and_true, Bool.or_eq_true, decide_eq_true_eq] using hmay

theorem jobMode_eq_false {P : Plain} (hmay : ¬(P.run.mode = .hold ∨ modeStepping P.run.mode = true)) : jobMode P = false := by
  simp only [not_or, Bool.not_eq_true] at hmay
  simp only [jobMode, hmay, decide_false, Bool.or_self, Bool.false_and]

section
variable (hstart : startedNow s.plains[p] 0 seq 8 [(16, 1, link.toNat), (17, 1, code)] = true)
include hstart

/-- A started JOB LINK goes by the mode, then by the operand. -/
theorem jobLink_started : jobLink s p seq code link holdOnly act =
    if jobMode s.plains[p] = false ∨ (holdOnly = true ∧ s.plains[p].run.mode ≠ .hold) then jobDone s p seq 0x0C 0
    else if 7 < link.toNat then jobDone s p seq 0x13 0
    else jobDone (act s p (Fin.ofNat 8 link.toNat)) p seq 0 0 := by
  simp only [jobLink, hstart, Bool.not_true, Bool.false_eq_true, if_false, Bool.or_eq_true, Bool.and_eq_true, Bool.not_eq_true',
    decide_eq_true_eq]

/-- Refused for its mode: HOLD where the operation needs it, else HOLD or a stepping mode. -/
theorem jobLink_notPermitted (h : jobMode s.plains[p] = false ∨ (holdOnly = true ∧ s.plains[p].run.mode ≠ .hold)) :
    jobLink s p seq code link holdOnly act = jobDone s p seq 0x0C 0 :=
  (jobLink_started hstart).trans (if_pos h)

section
variable (hafter : s.plains[p].run.after = none) (hmay : s.plains[p].run.mode = .hold ∨ modeStepping s.plains[p].run.mode = true)
  (hhold : holdOnly = true → s.plains[p].run.mode = .hold)
include hafter hmay hhold

theorem jobLink_permitted : jobLink s p seq code link holdOnly act =
    if 7 < link.toNat then jobDone s p seq 0x13 0 else jobDone (act s p (Fin.ofNat 8 link.toNat)) p seq 0 0 := by
  refine (jobLink_started hstart).trans (if_neg ?_)
  rintro (hmode | ⟨hh, hne⟩)
  · exact Bool.false_ne_true (hmode.symm.trans (jobMode_eq_true hafter hmay))
  · exact hne (hhold hh)

theorem jobLink_badLink (hlink : 7 < link.toNat) : jobLink s p seq code link holdOnly act = jobDone s p seq 0x13 0 :=
  (jobLink_permitted hstart hafter hmay hhold).trans (if_pos hlink)

theorem jobLink_acts (hlink : link.toNat ≤ 7) :
    jobLink s p seq code link holdOnly act = jobDone (act s p (Fin.ofNat 8 link.toNat)) p seq 0 0 :=
  (jobLink_permitted hstart hafter hmay hhold).trans (if_neg (Nat.not_lt.2 hlink))

end

end

/-- Settles O22: each operation is the LINK_CTL operation of its name with an outcome behind it, and is refused first for the mode, then
for the operand. -/
theorem jobLinkOperationsActAsLinkCtl : Obligations.JobLinkOperationsActAsLinkCtl := by
  unfold Obligations.JobLinkOperationsActAsLinkCtl
  intro p seq link s hafter l ends started may
  have next {t u : State} (h : t = u) : (Host.Outcome.next t : Out) = .next u := congrArg _ h
  refine ⟨fun hmay hlink => ⟨fun h0 => ?_, fun h1 => ?_, fun h2 hhold => ?_, fun h3 => ?_⟩,
    fun hmay hlink => ⟨fun h0 => ⟨_, rfl, ?_⟩, fun h1 => ⟨_, rfl, ?_⟩, fun h3 => ⟨_, rfl, ?_⟩, fun h2 hhold => ⟨_, rfl, ?_⟩⟩,
    fun h2 hhold => ?_, fun hmay => ⟨fun h0 => ?_, fun h1 => ?_, fun h3 => ?_⟩⟩
  · exact next (jobLink_badLink h0 hafter hmay nofun hlink)
  · exact next (jobLink_badLink h1 hafter hmay nofun hlink)
  · exact next (jobLink_badLink h2 hafter hmay (fun _ => hhold) hlink)
  · exact next (jobLink_badLink h3 hafter hmay nofun hlink)
  · exact next (jobLink_acts h0 hafter hmay nofun hlink)
  · exact next (jobLink_acts h1 hafter hmay nofun hlink)
  · exact next (jobLink_acts h3 hafter hmay nofun hlink)
  · exact next (jobLink_acts h2 hafter hmay (fun _ => hhold) hlink)
  · exact next (jobLink_notPermitted h2 (.inr ⟨rfl, hhold⟩))
  · exact next (jobLink_notPermitted h0 (.inl (jobMode_eq_false hmay)))
  · exact next (jobLink_notPermitted h1 (.inl (jobMode_eq_false hmay)))
  · exact next (jobLink_notPermitted h3 (.inl (jobMode_eq_false hmay)))

end Sys2Proof.Machine
end

section
/-! SUPPORT. How a link closes (08 R175, R176): LINK_CTL CLOSE and RET_REL, the closing end's returns, and the end of a close. -/

namespace Sys2Proof.Machine

variable {p l : Fin 8} {s : State}

/-- A link operation after which nothing waits for the links to close. -/
theorem linkUpdate_closed (h : s.plains[p].run.after = none) (g : Link → Link) :
    linksClosed (modPlain s p fun P => modLink P l g) p = modPlain s p fun P => modLink P l g :=
  linksClosed_idle ((linkUpdate_after s p l g).trans h)

/-! ## A link becomes CLOSED (R167, R176) -/

theorem dropTaken_frame (L : Link) : ∃ disc words flags, dropTaken L = { L with txDisc := disc, txWords := words, flags := flags } := by
  unfold dropTaken
  split
  · exact ⟨L.txDisc, L.txWords, L.flags, rfl⟩
  · exact ⟨_, _, _, rfl⟩

/-- What a link that becomes CLOSED keeps, and the state that it takes. -/
theorem linkClosed_frame (L : Link) :
    (linkClosed L).state = (if L.thenReplay && !L.thenOff && released L then .openWait else .closed) ∧
    (linkClosed L).closeReason = L.closeReason ∧ (linkClosed L).replay = L.replay ∧ (linkClosed L).returnsMade = L.returnsMade ∧
    (linkClosed L).discarded = L.discarded ∧ (linkClosed L).inbuf = L.inbuf := by
  obtain ⟨disc, words, flags, h⟩ := dropTaken_frame L
  unfold linkClosed
  rw [h]
  exact ⟨rfl, rfl, rfl, rfl, rfl, rfl⟩

/-- No returned or unconfirmed frame is held where the held frames have left and none stays. -/
theorem released_filter (L : Link) : released { L with replay := L.replay.filter fun h => decide (h.mark ≠ .held) } = released L := by
  rw [Bool.eq_iff_iff]
  simp only [released, List.all_eq_true, List.mem_filter, decide_eq_true_eq]
  exact ⟨fun h x hx => by_contra fun hne => hne (h x ⟨hx, hne⟩), fun h x hx => h x hx.1⟩

/-- Frames left unacknowledged are kept as unconfirmed (R176). -/
theorem markUnconfirmed_keeps {L : Link} {h : HeldFrame} (hh : h ∈ L.replay) (hack : h.acked = false) (hmark : h.mark = .held) :
    ({ h with mark := .unconfirmed } : HeldFrame) ∈ (markUnconfirmed L).replay := by
  refine List.mem_map.2 ⟨h, List.mem_filter.2 ⟨hh, ?_⟩, if_pos hmark⟩
  rw [hack]
  rfl

/-! ## LINK_CTL CLOSE (R175) -/

/-- CLOSE leaves a link that is off, drains or is closed. -/
theorem startClose_idle {L : Link} {reason : BitVec 3} (h : L.state = .off ∨ L.state = .drain ∨ L.state = .closed) :
    startClose reason false L = L := by
  rcases h with h | h | h
  · simp only [startClose, h]
  · simp only [startClose, h, Bool.or_false]
    rw [← h]
  · simp only [startClose, h, Bool.or_false, Bool.not_false, Bool.and_true]
    rw [← h]

theorem startClose_active {L : Link} {reason : BitVec 3} {off : Bool} (h : L.state = .active) (hd : L.dueClosing = none) :
    startClose reason off L = { L with
      dueClosing := some (reason, false), closeMine := true, closeReason := reason, closePeer := false, closeTaken := false, closeBoth := false,
      returnsMade := false, thenOff := off } := by
  simp only [startClose, h, hd, Option.isSome_none, Bool.false_eq_true, if_false]

theorem startClose_opening {L : Link} {reason : BitVec 3} {off : Bool} (h : L.state = .train ∨ L.state = .openWait) :
    startClose reason off L = linkClosed { L with closeReason := reason, closePeer := false, thenOff := off } := by
  unfold startClose
  rcases h with h | h
  · rw [h]
  · rw [h]

theorem exec_linkCtlClose (hafter : s.plains[p].run.after = none) :
    exec (.linkCtlClose p l) s = .next (modPlain s p fun P => modLink P l (startClose 4 false)) :=
  congrArg Host.Outcome.next (linkUpdate_closed hafter _)

/-! ## The closing end's returns (R175 step 3) -/

/-- A link that has made its returns. -/
def withReturns (L : Link) : Link :=
  { L with returnsMade := true, dueReturn := L.dueReturn ++ returnsDue L, discarded := [], inbuf := L.inbuf.filter (·.old) }

/-- A RETURN entry enters the list at one place. -/
theorem mem_insertBySeq {next : BitVec 12} {x y : BitVec 12 × Nat} {ys : List (BitVec 12 × Nat)} :
    y ∈ insertBySeq next x ys ↔ y = x ∨ y ∈ ys := by
  induction ys with
  | nil => exact List.mem_cons
  | cons z zs ih =>
    unfold insertBySeq
    split
    · exact List.mem_cons
    · rw [List.mem_cons, ih, List.mem_cons, or_left_comm]

theorem mem_foldr_insertBySeq {next : BitVec 12} {y : BitVec 12 × Nat} {xs ys : List (BitVec 12 × Nat)} :
    y ∈ xs.foldr (insertBySeq next) ys ↔ y ∈ xs ∨ y ∈ ys := by
  induction xs with
  | nil => simp only [List.foldr_nil, List.not_mem_nil, false_or]
  | cons x xs ih => rw [List.foldr_cons, mem_insertBySeq, ih, List.mem_cons, or_assoc]

/-- What is not wholly delivered and what was discarded is returned. -/
theorem returnEntry_due {L : Link} {x : BitVec 12 × Nat} (h : x ∈ L.discarded.map (fun q => (q, 0)) ∨ x ∈ undelivered L.inbuf) :
    returnEntry x.1 x.2 ∈ returnsDue L :=
  List.mem_map.2 ⟨x, mem_foldr_insertBySeq.2 h, rfl⟩

theorem exec_closeDeliveryEnd {c : Nat} (hafter : s.plains[p].run.after = none) (hd : s.plains[p].links[l].state = .drain)
    (hc : s.plains[p].links[l].closeSent = some c) (ht : c + 10000 ≤ s.timeNs) (hm : s.plains[p].links[l].closeMine = true)
    (hr : s.plains[p].links[l].returnsMade = false) :
    exec (.closeDeliveryEnd p l) s = .next (modPlain s p fun P => modLink P l fun L => tryClosed (withReturns L)) := by
  change execCloseDeliveryEnd p l s = _
  unfold execCloseDeliveryEnd
  simp only [hd, hc, ht, hm, hr, decide_true, Bool.not_false, and_self, if_true]
  exact congrArg Host.Outcome.next (linkUpdate_closed hafter _)

/-- The close can end once the closing end has made its returns (R175 steps 4 and 5). -/
theorem closeDone_withReturns {L : Link} (hd : L.state = .drain) (hm : L.closeMine = true) (ht : L.closeTaken = true) :
    closeDone (withReturns L) = true ↔ unacked L = [] ∧ L.dueReturn ++ returnsDue L = [] ∧ L.dueClosing = none ∧ ackSent L = true ∧
      (L.closeBoth = false ∨ (L.replay.all fun h => decide (h.mark ≠ .held)) = true) := by
  simp only [closeDone, withReturns, hd, hm, ht, decide_true, Bool.and_true, Bool.true_and, Bool.not_true, Bool.false_or, Bool.and_eq_true,
    Bool.or_eq_true, Bool.not_eq_true', List.isEmpty_iff, Option.isNone_iff_eq_none, and_assoc]
  rfl

/-- Before the peer's CLOSING the returns are all that happens. -/
theorem tryClosed_untaken {L : Link} (h : L.closeTaken = false) : tryClosed L = L := by
  simp only [tryClosed, closeDone, h, Bool.and_false, Bool.false_and, Bool.false_eq_true, if_false]

/-- A link that can end its close does, and keeps the returned and unconfirmed frames. -/
theorem tryClosed_done {L : Link} (h : closeDone L = true) :
    tryClosed L = linkClosed { L with replay := L.replay.filter fun h => decide (h.mark ≠ .held) } := if_pos h

theorem tryClosed_waits {L : Link} (h : ¬closeDone L = true) : tryClosed L = L := if_neg h

/-- The end of the delivery time makes the returns and, where the close can end, ends it. -/
theorem deliveryEnd_frame (L : Link) :
    let M := tryClosed (withReturns L)
    M.returnsMade = true ∧ M.discarded = [] ∧ M.inbuf = L.inbuf.filter (·.old) ∧
    if closeDone (withReturns L) = true then
      M.state = (if L.thenReplay && !L.thenOff && released L then .openWait else .closed) ∧
      M.replay = L.replay.filter fun h => decide (h.mark ≠ .held)
    else M = withReturns L := by
  intro M
  by_cases h : closeDone (withReturns L) = true
  · have hM : M = _ := tryClosed_done h
    obtain ⟨hstate, -, hreplay, hmade, hdisc, hbuf⟩ :=
      linkClosed_frame { withReturns L with replay := (withReturns L).replay.filter fun h => decide (h.mark ≠ .held) }
    rw [released_filter] at hstate
    rw [hM, if_pos h]
    exact ⟨hmade, hdisc, hbuf, hstate, hreplay⟩
  · have hM : M = _ := tryClosed_waits h
    rw [hM, if_neg h]
    exact ⟨rfl, rfl, rfl, rfl⟩

/-! ## The limit of 100 µs (R176) -/

theorem exec_closeTimeout {c : Nat} (hafter : s.plains[p].run.after = none)
    (hd : s.plains[p].links[l].state = .drain ∨ s.plains[p].links[l].state = .retrain)
    (hc : s.plains[p].links[l].closeSent = some c) (ht : c + 100000 ≤ s.timeNs) :
    exec (.closeTimeout p l) s =
      .next (modPlain s p fun P => modLink P l fun L => linkClosed (markUnconfirmed { L with closeReason := 6 })) := by
  change execCloseTimeout p l s = _
  unfold execCloseTimeout
  simp only [hd, hc, ht, decide_true, and_self, if_true]
  exact congrArg Host.Outcome.next (linkUpdate_closed hafter _)

/-- Settles O15: CLOSE by the state of the link, then RET_REL, the delivery end and the timeout, each as one update of the link. -/
theorem linksCloseInOrder : Obligations.LinksCloseInOrder := by
  unfold Obligations.LinksCloseInOrder
  intro p l s hafter L
  refine ⟨fun ha hd => ?_, fun ht => ?_, fun hi => ?_, rfl, fun c hd hc ht hm hr hn => ⟨?_, fun x hx => ?_, fun q hq => ?_⟩,
    fun c hd hc ht hm hr hn => ?_, fun c hd hc ht hoff hre => ?_⟩
  · rw [exec_linkCtlClose hafter]
    exact congrArg Host.Outcome.next (modPlain_congr (modLink_congr (startClose_active ha hd)))
  · obtain ⟨honly, -, hlink, hothers⟩ := linkUpdate_frame s p l (startClose 4 false)
    obtain ⟨hstate, hreason, -⟩ := linkClosed_frame { L with closeReason := 4, closePeer := false, thenOff := false }
    rw [← startClose_opening ht, ← hlink] at hstate hreason
    refine ⟨_, exec_linkCtlClose hafter, honly, hreason, hstate.trans ?_, hothers⟩
    rw [Bool.not_false, Bool.and_true]
    rfl
  · rw [exec_linkCtlClose hafter]
    exact congrArg Host.Outcome.next (modPlain_eq_self (modLink_eq_self (startClose_idle hi)))
  · rw [exec_closeDeliveryEnd hafter hd hc ht hm hr]
    exact congrArg Host.Outcome.next (modPlain_congr (modLink_congr (tryClosed_untaken hn)))
  · exact returnEntry_due (.inr hx)
  · exact returnEntry_due (x := (q, 0)) (.inl (List.mem_map_of_mem hq))
  · obtain ⟨honly, -, hlink, hothers⟩ := linkUpdate_frame s p l fun L => tryClosed (withReturns L)
    have hend := deliveryEnd_frame L
    simp only [closeDone_withReturns hd hm hn] at hend
    refine ⟨_, exec_closeDeliveryEnd hafter hd hc ht hm hr, honly, hothers, ?_⟩
    rw [hlink]
    exact hend
  · obtain ⟨honly, hplain, hlink, hothers⟩ := linkUpdate_frame s p l fun L => linkClosed (markUnconfirmed { L with closeReason := 6 })
    obtain ⟨hstate, hreason, hreplay, -, -, hbuf⟩ := linkClosed_frame (markUnconfirmed { L with closeReason := 6 })
    rw [← hlink] at hstate hreason hreplay hbuf
    refine ⟨_, exec_closeTimeout hafter hd hc ht, honly, hplain, hstate.trans ?_, hreason, hbuf, fun h hh hack hmark => ?_, hothers⟩
    · rw [show (markUnconfirmed { L with closeReason := 6 }).thenReplay = false from hre]
      rfl
    · rw [hreplay]
      exact markUnconfirmed_keeps hh hack hmark

end Sys2Proof.Machine
end

section
/-! SUPPORT. Holds and silence (08 R169, R172): the HELD repeat, a silent link, and what an entry to HOLD keeps of a Plain. -/

namespace Sys2Proof.Machine

variable {p l : Fin 8} {s : State}

/-! ## Entry to HOLD (01 R21) -/

/-- An entry to HOLD changes what runs, the HIU's JOB, the capture engine and the hold target; what waits for the links stays. -/
theorem enterHold_frame (P : Plain) : ∃ run hiu cap,
    enterHold P = { P with run := run, hiu := hiu, cap := cap, sync := { P.sync with target := none } } ∧ run.after = P.run.after := by
  obtain ⟨hiu, steps, pend, hjobs, -⟩ := jobsEnded_holdJobs P
  have hmode : setMode (holdJobs P) .hold = { holdJobs P with run := (setMode (holdJobs P) .hold).run } := by
    unfold setMode
    split <;> rfl
  obtain ⟨prev, hrun⟩ := setMode_run (holdJobs P) .hold
  unfold enterHold
  dsimp only
  rw [hmode, hrun, hjobs]
  exact ⟨_, _, _, rfl, rfl⟩

/-! ## Events and the sync gate (11 R236, 08 R172) -/

/-- An event changes the Manager as it would that of any Plain with the same one. -/
theorem event_of_mgr {P Q : Plain} (h : Q.mgr = P.mgr) (code unit detail : Nat) :
    event Q code unit detail = { Q with mgr := (event P code unit detail).mgr } := by
  unfold event
  rw [h]
  split <;> rfl

/-- A test of every element goes on as it does where the one that changes tests the same. -/
theorem all_vmod {α : Type} {n : Nat} {v : Vector α n} {i : Fin n} {f : α → α} {q : α → Bool} (h : q (f v[i]) = q v[i]) :
    (vmod v i f).toList.all q = v.toList.all q := by
  have hat (j : Fin n) : q (vmod v i f)[j] = q v[j] := by
    by_cases hj : j = i
    · rw [hj, vmod_same, h]
    · rw [vmod_other _ _ _ _ hj]
  rw [Vector.all_toList, Vector.all_toList, Bool.eq_iff_iff, Vector.all_eq_true, Vector.all_eq_true]
  exact forall₂_congr fun j hj => Bool.eq_iff_iff.1 (hat ⟨j, hj⟩)

/-! ## HELD_REPEAT (R169) -/

theorem exec_heldRepeat (hm : s.plains[p].run.mode = .hold) (ha : s.plains[p].run.admitted = true)
    (ht : s.plains[p].sync.heldAt + 10000 ≤ s.timeNs) :
    exec (.heldRepeat p) s = .next (modPlain s p fun P => { P with
      links := vall P.links fun _ L => if L.state = .active then { L with dueCycle := L.dueCycle ++ [repeatFrame s.plains[p]] } else L
      sync := { P.sync with heldAt := s.timeNs } }) := by
  refine (if_pos ⟨hm, ha, ht⟩).trans (congrArg Host.Outcome.next (modPlain_congr ?_))
  simp only [sendCycle, allLinks, Bool.false_and, Bool.not_false, and_true]

/-- In HOLD the last CYCLE frame is repeated as it was, with REPEAT and HELD. -/
theorem repeatFrame_held {P : Plain} {f : Frame} (hm : P.run.mode = .hold) (hf : P.sync.lastCycle = some f) :
    repeatFrame P = { f with flags := f.flags ||| 66 } := by
  have hmode : withMode P f = f := if_neg (by simp only [hm, reduceCtorEq, or_self, not_false_eq_true])
  have hlatest : latestCycle P = f := by
    unfold latestCycle
    rw [hf]
    exact hmode
  simp only [repeatFrame, hlatest, hm, if_true, asRepeat, BitVec.or_assoc]
  rfl

/-! ## SYNC_LOST (R172) -/

/-- A Plain that has reported that link `l` is silent. -/
def reportSilence (now : Nat) (l : Fin 8) (P : Plain) : Plain :=
  event (modLink { P with sync := { P.sync with stat := setBit P.sync.stat 2 true } } l fun L => linkFlag { L with lastRx := now } 2) 0x0023 l.val 0

/-- A Plain that no longer waits at a closed gate: it holds. -/
def holdAtGate (tstep now : Nat) (P : Plain) : Plain :=
  if P.run.phase = .row9 ∧ !gateOk P then recompute tstep (enterHold (endGateWait now P)) else P

theorem exec_syncLost (ha : s.plains[p].links[l].state = .active) (h0 : s.plains[p].sync.tmo ≠ 0)
    (ht : s.plains[p].links[l].lastRx + s.plains[p].sync.tmo.toNat * 1000 ≤ s.timeNs) :
    exec (.syncLost p l) s =
      .next (valleyFollows (modPlain s p fun P => holdAtGate s.fuses.tstepPs s.timeNs (reportSilence s.timeNs l P)) p) :=
  if_pos ⟨ha, h0, ht⟩

theorem reportSilence_frame (now : Nat) (l : Fin 8) (P : Plain) : reportSilence now l P =
    { P with
      links := (modLink P l fun L => linkFlag { L with lastRx := now } 2).links
      mgr := (event P 0x0023 l.val 0).mgr
      sync := { P.sync with stat := setBit P.sync.stat 2 true } } := by
  unfold reportSilence
  exact event_of_mgr (by rfl) _ _ _

/-- The report does not open or close the gate. -/
theorem gateOk_reportSilence (now : Nat) (l : Fin 8) (P : Plain) : gateOk (reportSilence now l P) = gateOk P := by
  rw [reportSilence_frame]
  exact all_vmod rfl

theorem holdAtGate_open {tstep now : Nat} {P : Plain} (h : ¬(P.run.phase = .row9 ∧ gateOk P = false)) : holdAtGate tstep now P = P :=
  if_neg (by simpa only [Bool.not_eq_true'] using h)

/-- A Plain that waits at a closed gate holds, and keeps the length of its wait. -/
theorem holdAtGate_closed {tstep now : Nat} {P : Plain} (h : P.run.phase = .row9 ∧ gateOk P = false) :
    holdAtGate tstep now P = recompute tstep (enterHold { P with
      sync := { P.sync with gateNs := w32 (min (now - P.run.row9At) (2 ^ 32 - 1)) } }) := by
  have h : P.run.phase = .row9 ∧ (!gateOk P) = true := by simpa only [Bool.not_eq_true'] using h
  unfold holdAtGate endGateWait
  rw [if_pos h, if_pos h]

/-- What a hold at the gate keeps, whether or not there is one. -/
theorem holdAtGate_frame (tstep now : Nat) (P : Plain) : ∃ run hiu cap ldr gateNs target,
    holdAtGate tstep now P = { P with run := run, hiu := hiu, cap := cap, ldr := ldr, sync := { P.sync with gateNs := gateNs, target := target } } ∧
    (run.modePend = some .valley → P.run.modePend = some .valley) := by
  by_cases h : P.run.phase = .row9 ∧ gateOk P = false
  · rw [holdAtGate_closed h]
    generalize w32 (min (now - P.run.row9At) (2 ^ 32 - 1)) = n
    obtain ⟨run, hiu, cap, hframe, -⟩ := enterHold_frame { P with sync := { P.sync with gateNs := n } }
    have hvalley := (enterHold_held { P with sync := { P.sync with gateNs := n } }).1.valley
    rw [hframe] at hvalley ⊢
    exact ⟨_, _, _, _, _, _, rfl, hvalley⟩
  · rw [holdAtGate_open h]
    exact ⟨_, _, _, _, _, _, rfl, id⟩

/-- The hold itself: the Plain is stopped in HOLD in its cycle, and SYNC_GATE_NS has the length of the wait. -/
theorem holdAtGate_held {tstep now : Nat} {P : Plain} (h : P.run.phase = .row9 ∧ gateOk P = false) :
    (holdAtGate tstep now P).run.mode = .hold ∧ (holdAtGate tstep now P).run.phase = .stopped ∧
    (holdAtGate tstep now P).run.cycle = P.run.cycle ∧ (holdAtGate tstep now P).sync.gateNs = w32 (min (now - P.run.row9At) (2 ^ 32 - 1)) := by
  rw [holdAtGate_closed h]
  generalize w32 (min (now - P.run.row9At) (2 ^ 32 - 1)) = n
  obtain ⟨run, hiu, cap, hframe, -⟩ := enterHold_frame { P with sync := { P.sync with gateNs := n } }
  have hheld := (enterHold_held { P with sync := { P.sync with gateNs := n } }).1
  exact ⟨hheld.mode, hheld.phase, hheld.cycle, by rw [hframe]; rfl⟩

/-- What SYNC_LOST makes of its Plain. -/
theorem syncLost_plain {tstep now : Nat} {P Q : Plain} (hQ : holdAtGate tstep now (reportSilence now l P) = Q) :
    (Q.run.modePend = some .valley → P.run.modePend = some .valley) ∧ Q.sync.stat = setBit P.sync.stat 2 true ∧
    Q.links = (modLink P l fun L => linkFlag { L with lastRx := now } 2).links ∧ Q.mgr = (event P 0x0023 l.val 0).mgr ∧
    Q.tiles = P.tiles ∧ Q.basin = P.basin ∧
    if P.run.phase = .row9 ∧ gateOk P = false then
      Q.run.mode = .hold ∧ Q.run.phase = .stopped ∧ Q.run.cycle = P.run.cycle ∧
      Q.sync.gateNs = w32 (min (now - P.run.row9At) (2 ^ 32 - 1))
    else Q = { P with links := Q.links, mgr := Q.mgr, sync := { P.sync with stat := Q.sync.stat } } := by
  have hgate := gateOk_reportSilence now l P
  obtain ⟨run, hiu, cap, ldr, gateNs, target, hframe, hvalley⟩ := holdAtGate_frame tstep now (reportSilence now l P)
  have hheld := holdAtGate_held (tstep := tstep) (now := now) (P := reportSilence now l P)
  have hopen := holdAtGate_open (tstep := tstep) (now := now) (P := reportSilence now l P)
  rw [hQ, hgate] at hheld hopen
  rw [hQ] at hframe
  rw [reportSilence_frame] at hframe hvalley hheld hopen
  refine ⟨fun h => hvalley (by rwa [hframe] at h), by rw [hframe], by rw [hframe], by rw [hframe], by rw [hframe], by rw [hframe], ?_⟩
  split
  next h => exact hheld h
  next h => rw [hopen h]

/-- Settles O17: the HELD repeat is one update of the Plain; SYNC_LOST is its report, and a hold where the Plain waits at a closed gate. -/
theorem silentLinkAndHeldRepeat : Obligations.SilentLinkAndHeldRepeat := by
  unfold Obligations.SilentLinkAndHeldRepeat
  refine fun p s => ⟨fun hm ha ht => ⟨exec_heldRepeat hm ha ht, fun f hf => repeatFrame_held hm hf⟩, fun l ha h0 ht hvalley => ?_⟩
  obtain ⟨hpend, hstat, hlinks, hmgr, htiles, hbasin, hend⟩ :=
    syncLost_plain (l := l) (tstep := s.fuses.tstepPs) (now := s.timeNs) (P := s.plains[p]) rfl
  refine ⟨_, (exec_syncLost ha h0 ht).trans (congrArg Host.Outcome.next (valleyFollows_idle ?_)), onlyPlain_modPlain s p _, ?_⟩
  · rw [modPlain_same]
    exact fun h => hvalley (hpend h)
  · rw [modPlain_same]
    refine ⟨hstat, ?_, fun m hm => ?_, hmgr, htiles, hbasin, hend⟩
    · rw [hlinks, modLink_same]
      rfl
    · rw [hlinks, modLink_other _ _ _ _ hm]

end Sys2Proof.Machine
end

section
/-! SUPPORT. Codewords, acknowledgement and replay (08 R149, R150, R156, R157), failing lanes and retraining (08 R160-R162). -/

namespace Sys2Proof.Machine

variable {p l : Fin 8} {s : State}

/-! ## Acknowledgement (R156) -/

theorem applyAck_state (L : Link) (now : Nat) (ack : BitVec 12) : (applyAck L now ack).state = L.state := by
  unfold applyAck
  split <;> rfl

/-- An ACK inside the window moves TX_ACK to it, and of the held frames it leaves those after it and the acknowledged ones. -/
theorem applyAck_window {L : Link} {ack : BitVec 12} (now : Nat) (h0 : 0 < (ack - L.txAck).toNat)
    (h1 : (ack - L.txAck).toNat ≤ (L.txNext - 1 - L.txAck).toNat) :
    (applyAck L now ack).txAck = ack ∧ (applyAck L now ack).fecCe = L.fecCe ∧
    ∀ h ∈ (applyAck L now ack).replay, h.acked = true ∨ seqBefore ack h.frame.seq = true := by
  unfold applyAck
  rw [if_pos ⟨h0, h1⟩]
  refine ⟨rfl, rfl, fun h hh => ?_⟩
  obtain ⟨g, -, rfl⟩ := List.mem_map.1 (List.mem_filter.1 hh).1
  by_cases hb : seqBefore ack g.frame.seq = true
  · exact .inr (by rwa [if_pos hb])
  · exact .inl (by rw [if_neg hb])

/-- On an ACTIVE link the control bytes acknowledge, and CODE 1 starts a replay. -/
theorem takeControl_active {L : Link} (now : Nat) (ack : BitVec 12) (code : BitVec 4) (h : L.state = .active) :
    takeControl now ack code L = if code = 1 then startReplay (applyAck L now ack) else applyAck L now ack := by
  unfold takeControl
  rw [tryClosed_active ((applyAck_state L now ack).trans h), h]
  rfl

/-- A replay starts at the frame after TX_ACK (R157). -/
theorem startReplay_unacked {L : Link} (h : unacked L ≠ []) : startReplay L =
    { L with replayFrom := some (L.txAck + 1), replayCnt := satInc L.replayCnt, recoverTo := some (L.txNext - 1), recovered := true } :=
  if_neg h

theorem startReplay_frame (L : Link) : ∃ first cnt last rec,
    startReplay L = { L with replayFrom := first, replayCnt := cnt, recoverTo := last, recovered := rec } := by
  unfold startReplay
  split
  · exact ⟨_, _, _, _, rfl⟩
  · exact ⟨_, _, _, _, rfl⟩

/-! ## Codewords (R149, R150) -/

/-- A link that has taken a codeword with at most one bad byte, which is counted. -/
def withCodeword (rx : LaneCodeword) (L : Link) : Link := { countCodeword rx.lane false L with fecCe := satAdd L.fecCe rx.bad }

/-- A codeword with at most one bad byte brings the control bytes of an ACTIVE link. -/
theorem rxCodeword_corrected {rx : LaneCodeword} {code : BitVec 4} (hafter : s.plains[p].run.after = none)
    (ha : s.plains[p].links[l].state = .active) (hlane : rx.lane < s.plains[p].links[l].width) (hbad : rx.bad ≤ 1)
    (hc : controlArrives s p l rx.ack code = true) :
    rxCodeword p l rx code s = modPlain s p fun P => modLink P l fun L => takeControl s.timeNs rx.ack code (withCodeword rx L) := by
  have h1 : ¬((!lanesUp s.plains[p].links[l].state) = true ∨ s.plains[p].links[l].width ≤ rx.lane) := by
    rw [ha]
    exact not_or.2 ⟨Bool.false_ne_true, Nat.not_le.2 hlane⟩
  have h2 : ¬(!controlArrives s p l rx.ack code) = true := by
    rw [hc]
    exact Bool.false_ne_true
  exact (if_neg h1).trans ((if_neg (by omega)).trans ((if_neg h2).trans (linkUpdate_closed hafter _)))

/-- What an ACK inside the window makes of its link. -/
theorem takeControl_acknowledges {rx : LaneCodeword} {code : BitVec 4} {L M : Link} (now : Nat) (hM : M = takeControl now rx.ack code (withCodeword rx L))
    (ha : L.state = .active) (hcode : code ≠ 1) (h0 : 0 < (rx.ack - L.txAck).toNat)
    (h1 : (rx.ack - L.txAck).toNat ≤ (L.txNext - 1 - L.txAck).toNat) :
    M.txAck = rx.ack ∧ M.state = .active ∧ M.fecCe = satAdd L.fecCe rx.bad ∧
    ∀ h ∈ M.replay, h.acked = true ∨ seqBefore rx.ack h.frame.seq = true := by
  rw [takeControl_active now rx.ack code (show (withCodeword rx L).state = .active from ha), if_neg hcode] at hM
  obtain ⟨htx, hce, hheld⟩ := applyAck_window (L := withCodeword rx L) now h0 h1
  rw [hM]
  exact ⟨htx, (applyAck_state _ now rx.ack).trans ha, hce, hheld⟩

/-- One that cannot be corrected is counted and keeps its place on the lane; a lane that is not worn goes on. -/
theorem rxCodeword_uncorrectable {rx : LaneCodeword} {code : BitVec 4} (hup : lanesUp s.plains[p].links[l].state = true)
    (hlane : rx.lane < s.plains[p].links[l].width) (hbad : 2 ≤ rx.bad) (hworn : laneWorn rx.lane (logUe s.timeNs rx.lane s.plains[p].links[l]) = false) :
    rxCodeword p l rx code s = modPlain s p fun P => modLink P l fun L => logUe s.timeNs rx.lane (countCodeword rx.lane true L) := by
  have h1 : ¬((!lanesUp s.plains[p].links[l].state) = true ∨ s.plains[p].links[l].width ≤ rx.lane) := by
    rw [hup]
    exact not_or.2 ⟨Bool.false_ne_true, Nat.not_le.2 hlane⟩
  refine (if_neg h1).trans ((if_pos hbad).trans (if_neg ?_))
  rw [modPlain_same, modLink_same, Bool.and_eq_true]
  exact fun h => Bool.false_ne_true (hworn.symm.trans h.2)

/-! ## Timeouts (R157, R164) -/

theorem exec_replayTimeout (hs : linkSending s.plains[p].links[l].state = true) (hu : unacked s.plains[p].links[l] ≠ [])
    (hr : s.plains[p].links[l].replayFrom = none) (ht : s.plains[p].links[l].ackAt + 1000 ≤ s.timeNs) :
    exec (.replayTimeout p l) s = .next (modPlain s p fun P => modLink P l fun L =>
      { L with ackAt := s.timeNs, replayFrom := some (L.txAck + 1), replayCnt := satInc L.replayCnt, recoverTo := some (L.txNext - 1), recovered := true }) := by
  refine (if_pos ⟨hs, hu, hr, ht⟩).trans (congrArg Host.Outcome.next (modPlain_congr (modLink_congr ?_)))
  exact startReplay_unacked hu

theorem exec_creditReturnTimeout {c : Nat} (hc : s.plains[p].links[l].owedAt = some c) (ht : c + 50 ≤ s.timeNs) :
    exec (.creditReturnTimeout p l) s = .next (modPlain s p fun P => modLink P l fun L => { L with dueCredit := true }) := by
  change execCreditReturnTimeout p l s = _
  unfold execCreditReturnTimeout
  rw [hc]
  exact if_pos ht

/-! ## A link leaves ACTIVE (R160, R162, R165, R172) -/

theorem noteGate_frame (now : Nat) (before : Bool) (P : Plain) : ∃ ns, noteGate now before P = { P with sync := { P.sync with gateNs := ns } } := by
  unfold noteGate
  split
  · exact ⟨_, rfl⟩
  · exact ⟨P.sync.gateNs, rfl⟩

/-- The event of a link that leaves ACTIVE, where the image uses it. -/
theorem closedEvent_eq (l : Fin 8) (P : Plain) :
    closedEvent l P = { P with mgr := if P.links[l].en = true then (event P 0x0022 l.val P.links[l].closeReason.toNat).mgr else P.mgr } := by
  unfold closedEvent
  split
  · exact event_of_mgr (by rfl) _ _ _
  · rfl

/-- A link that leaves ACTIVE by `f`: LINK_CLOSED where the image uses it, and at most SYNC_GATE_NS beside it. -/
theorem leaveActive_frame {f : Link → Link} {P : Plain} (now : Nat) (hen : (f P.links[l]).en = P.links[l].en)
    (hreason : (f P.links[l]).closeReason = P.links[l].closeReason) : ∃ ns, leaveActive l now f P = { P with
      links := (modLink P l f).links
      mgr := if P.links[l].state = .active ∧ P.links[l].en = true then (event P 0x0022 l.val P.links[l].closeReason.toNat).mgr else P.mgr
      sync := { P.sync with gateNs := ns } } := by
  unfold leaveActive
  extract_lets leaves Q
  obtain ⟨ns, hns⟩ := noteGate_frame now (gateOk P) (if leaves then closedEvent l Q else Q)
  have hQ : (if leaves then closedEvent l Q else Q) = { Q with
      mgr := if P.links[l].state = .active ∧ P.links[l].en = true then (event P 0x0022 l.val P.links[l].closeReason.toNat).mgr else P.mgr } := by
    by_cases ha : P.links[l].state = .active
    · have hmgr : (event Q 0x0022 l.val P.links[l].closeReason.toNat).mgr = (event P 0x0022 l.val P.links[l].closeReason.toNat).mgr := by
        rw [event_of_mgr (P := P) (Q := Q) rfl]
      rw [if_pos (decide_eq_true ha), closedEvent_eq, modLink_same, hen, hreason, hmgr]
      simp only [ha, true_and]
      rfl
    · rw [if_neg (by simpa only [leaves, decide_eq_true_eq] using ha), if_neg fun h => ha h.1]
      rfl
  rw [hns, hQ]
  exact ⟨ns, rfl⟩

/-- A Plain whose link leaves ACTIVE. -/
theorem leaveActive_plain {f : Link → Link} (hen : (f s.plains[p].links[l]).en = s.plains[p].links[l].en)
    (hreason : (f s.plains[p].links[l]).closeReason = s.plains[p].links[l].closeReason) :
    let L := s.plains[p].links[l]
    let t := modPlain s p (leaveActive l s.timeNs f)
    OnlyPlain p s t ∧ t.plains[p].links[l] = f L ∧ (∀ m : Fin 8, m ≠ l → t.plains[p].links[m] = s.plains[p].links[m]) ∧
    t.plains[p].mgr = (if L.state = .active ∧ L.en = true then (event s.plains[p] 0x0022 l.val L.closeReason.toNat).mgr else s.plains[p].mgr) ∧
    t.plains[p].sync = { s.plains[p].sync with gateNs := t.plains[p].sync.gateNs } ∧
    t.plains[p] = { s.plains[p] with links := t.plains[p].links, mgr := t.plains[p].mgr, sync := t.plains[p].sync } := by
  intro L t
  obtain ⟨ns, h⟩ := leaveActive_frame s.timeNs hen hreason
  have ht : t.plains[p] = _ := (modPlain_same s p _).trans h
  refine ⟨onlyPlain_modPlain s p _, ?_⟩
  rw [ht]
  exact ⟨modLink_same _ _ _, fun m hm => modLink_other _ _ _ _ hm, rfl, rfl, rfl⟩

theorem exec_laneFail {w : Nat} (hs : linkSending s.plains[p].links[l].state = true) (h0 : w ≠ 0) (hw : w < s.plains[p].links[l].width) :
    exec (.laneFail p l w) s = .next (modPlain s p (leaveActive l s.timeNs (startRetrain s.timeNs w))) := by
  refine (if_pos ?_).trans (congrArg Host.Outcome.next (if_neg h0))
  rw [hs, decide_eq_true hw]
  rfl

/-- LINK_CTL.RETRAIN in HOLD: every lane is tested again (R162). -/
theorem exec_linkCtlRetrain (hm : s.plains[p].run.mode = .hold) (ha : s.plains[p].links[l].state = .active) :
    exec (.linkCtlRetrain p l) s =
      .next (modPlain s p (leaveActive l s.timeNs fun L => { startRetrain s.timeNs (lanesOf l) L with retest := true })) := by
  have hlink : modLink s.plains[p] l (fun L => if L.state = .active then { startRetrain s.timeNs (lanesOf l) L with retest := true } else L) =
      modLink s.plains[p] l fun L => { startRetrain s.timeNs (lanesOf l) L with retest := true } := modLink_congr (if_pos ha)
  refine congrArg Host.Outcome.next (modPlain_congr ((if_neg (not_not_intro hm)).trans ?_))
  simp only [leaveActive, hlink]

/-! ## The end of a retrain (R160-R162) -/

/-- The lanes that the link goes on with. -/
def trainedLanes (n : Nat) (L : Link) : Nat := if L.retest then min n L.working else L.working

theorem exec_retrainDone {n : Nat} (hr : s.plains[p].links[l].state = .retrain) (hw : trainedLanes n s.plains[p].links[l] ≠ 0)
    (ht : s.timeNs ≤ s.plains[p].links[l].retrainAt + retrainLimit l) :
    exec (.retrainDone p { link := l, width := n }) s = .next (modPlain s p fun P =>
      let Q := modLink P l fun L => endRetrain P l s.timeNs { L with working := trainedLanes n s.plains[p].links[l], retest := false }
      if Q.links[l].width < lanesOf l then event Q 0x0021 l.val Q.links[l].width else Q) :=
  if_neg (not_or.2 ⟨not_not_intro hr, not_or.2 ⟨hw, Nat.not_lt.2 ht⟩⟩)

/-- A link that is ACTIVE again with fresh lanes. -/
def resumed (now : Nat) (L : Link) : Link :=
  { freshLanes L with width := L.working, attempts := 0, lastRx := now, ackAt := now, state := .active }

/-- A REPEAT CYCLE frame is due on a link that is ACTIVE again (R169, R172). -/
def withRepeat (P : Plain) (L : Link) : Link :=
  { L with dueCycle := L.dueCycle ++ [repeatFrame P], joinLate := L.joinLate || decide (P.run.phase = .row9) }

theorem endRetrain_open {P : Plain} (now : Nat) {L : Link} (hp : L.closePend = none) (hs : L.closeSent = none) : endRetrain P l now L =
    if L.working < lanesOf l then linkFlag (withRepeat P (startReplay (resumed now L))) 3 else withRepeat P (startReplay (resumed now L)) := by
  obtain ⟨first, cnt, last, rec, hR⟩ := startReplay_frame (resumed now L)
  unfold endRetrain
  extract_lets F L1 L2 L3 L4
  have h1 : L1 = resumed now L := by
    simp only [L1, hs, Option.isSome_none, Bool.false_eq_true, if_false]
    rfl
  have h2 : L2 = startReplay (resumed now L) := congrArg startReplay h1
  have h3 : L3 = withRepeat P (startReplay (resumed now L)) := by
    rw [← h2]
    exact if_pos (by rw [h2, hR]; rfl)
  have hwidth : L3.width = L.working := by
    rw [h3, hR]
    rfl
  have h4 : L4 = if L.working < lanesOf l then linkFlag L3 3 else L3 := by rw [← hwidth]
  have hpend : L4.closePend = none := by
    rw [h4, h3, hR]
    split <;> exact hp
  rw [hpend, h4, h3]

theorem endRetrain_frame {P : Plain} (now : Nat) {L : Link} (hp : L.closePend = none) (hs : L.closeSent = none) :
    (endRetrain P l now L).state = .active ∧ (endRetrain P l now L).width = L.working ∧
    (unacked L ≠ [] → (endRetrain P l now L).replayFrom = some (L.txAck + 1)) ∧
    (L.working < lanesOf l → (endRetrain P l now L).flags = setBit L.flags 3 true) := by
  obtain ⟨first, cnt, last, rec, hR⟩ := startReplay_frame (resumed now L)
  have hfirst : unacked L ≠ [] → first = some (L.txAck + 1) := fun h =>
    (congrArg (·.replayFrom) hR).symm.trans (congrArg (·.replayFrom) (startReplay_unacked (L := resumed now L) h))
  rw [endRetrain_open now hp hs, hR]
  split
  · exact ⟨rfl, rfl, hfirst, fun _ => rfl⟩
  next h => exact ⟨rfl, rfl, hfirst, fun hw => absurd hw h⟩

/-- A Plain whose link `l` goes on as `R`, and is reported where lanes are missing (R161). -/
theorem degraded_plain {P : Plain} {g : Link → Link} {w : Nat} (hw : (g P.links[l]).width = w) :
    let Q := modLink P l g
    let t := if Q.links[l].width < lanesOf l then event Q 0x0021 l.val Q.links[l].width else Q
    t.links[l] = g P.links[l] ∧ (w < lanesOf l → t.mgr = (event P 0x0021 l.val w).mgr) ∧ t = { P with links := t.links, mgr := t.mgr } := by
  intro Q t
  have hQ : Q.links[l] = g P.links[l] := modLink_same _ _ _
  have ht : t = if w < lanesOf l then event Q 0x0021 l.val w else Q := by rw [← hw, ← hQ]
  rw [event_of_mgr (P := P) (Q := Q) rfl] at ht
  rw [ht]
  split
  · exact ⟨hQ, fun _ => rfl, rfl⟩
  next h => exact ⟨hQ, fun hlt => absurd hlt h, rfl⟩

/-! ## A retrain that fails (R161) -/

theorem exec_retrainAttemptFail_again {n : Nat} (hr : s.plains[p].links[l].state = .retrain) (h0 : min n s.plains[p].links[l].working ≠ 0)
    (hf : n < s.plains[p].links[l].working ∨ s.plains[p].links[l].retrainAt + retrainLimit l < s.timeNs) (ha : s.plains[p].links[l].attempts + 1 < 3) :
    exec (.retrainAttemptFail p l n) s = .next (modPlain s p fun P => modLink P l fun L =>
      { L with attempts := L.attempts + 1, working := min n L.working, retrainAt := s.timeNs }) := by
  refine (if_neg (not_or.2 ⟨not_not_intro hr, ?_⟩)).trans (if_neg (not_or.2 ⟨h0, Nat.not_le.2 ha⟩))
  omega

theorem exec_retrainAttemptFail_down {n : Nat} (hr : s.plains[p].links[l].state = .retrain)
    (hf : n < s.plains[p].links[l].working ∨ s.plains[p].links[l].retrainAt + retrainLimit l < s.timeNs)
    (hd : min n s.plains[p].links[l].working = 0 ∨ 3 ≤ s.plains[p].links[l].attempts + 1) :
    exec (.retrainAttemptFail p l n) s = .next (linkDown s p l) := by
  refine (if_neg (not_or.2 ⟨not_not_intro hr, ?_⟩)).trans (if_pos hd)
  omega

/-- A link that cannot retrain is CLOSED with reason FAILED, also one that closed for a restore. -/
theorem linkFailed_closed (L : Link) : (linkFailed L).state = .closed ∧ (linkFailed L).closeReason = 5 := by
  obtain ⟨hstate, hreason, -⟩ := linkClosed_frame { markUnconfirmed { L with closeReason := 5, closePeer := false, thenReplay := false } with attempts := 0 }
  exact ⟨hstate, hreason⟩

/-- From `P` to `Q` a hold may have become due or been entered: tiles and windows stay, of the links only the CYCLE frames that are due
change, and what waits for the links, or as a VALLEY, waits on. -/
structure HoldFollows (P Q : Plain) : Prop where
  tiles : Q.tiles = P.tiles
  health : Q.health = P.health
  link : ∀ m : Fin 8, Q.links[m] = { P.links[m] with dueCycle := Q.links[m].dueCycle }
  after : Q.run.after = P.run.after
  valley : Q.run.modePend = some .valley → P.run.modePend = some .valley

theorem HoldFollows.trans {P Q R : Plain} (h : HoldFollows P Q) (k : HoldFollows Q R) : HoldFollows P R :=
  ⟨k.tiles.trans h.tiles, k.health.trans h.health, fun m => by rw [k.link m, h.link m], k.after.trans h.after, fun e => h.valley (k.valley e)⟩

/-- An entry to HOLD out of a Plain that agrees with `P` in all of this. -/
theorem HoldFollows.enterHold {P Q : Plain} (h : HoldFollows P Q) : HoldFollows P (enterHold Q) := by
  obtain ⟨run, hiu, cap, hframe, hafter⟩ := enterHold_frame Q
  have hvalley := (enterHold_held Q).1.valley
  rw [hframe] at hvalley ⊢
  exact h.trans ⟨rfl, rfl, fun _ => rfl, hafter, hvalley⟩

theorem HoldFollows.recompute {P Q : Plain} (h : HoldFollows P Q) (tstep : Nat) : HoldFollows P (recompute tstep Q) :=
  ⟨h.tiles, h.health, h.link, h.after, h.valley⟩

theorem holdFollows_holdCommand (tstep now : Nat) (P : Plain) : HoldFollows P (holdCommand tstep now P) := by
  unfold holdCommand
  split
  · rw [finishJobOf_eq]
    exact ⟨rfl, rfl, fun _ => rfl, rfl, id⟩
  split
  · have hwait : HoldFollows P { endGateWait now P with cap := { P.cap with rplActive := false } } := by
      unfold endGateWait
      split <;> exact ⟨rfl, rfl, fun _ => rfl, rfl, id⟩
    exact hwait.enterHold.recompute tstep
  · exact ⟨rfl, rfl, fun _ => rfl, rfl, id⟩

/-- The hold command of a fault (19 R386, R391). -/
theorem holdFollows_faultHold (tstep now : Nat) (P : Plain) : HoldFollows P (faultHold tstep now P) := by
  unfold faultHold
  split
  · have hraise := holdTaken_raiseHold (holdTarget P (P.run.cycle - 1)) P
    have hdue : HoldFollows P (raiseHold (holdTarget P (P.run.cycle - 1)) P) := ⟨rfl, rfl, hraise.link, rfl, id⟩
    exact hdue.trans (holdFollows_holdCommand tstep now _)
  · have hdue : HoldFollows P { P with run := { P.run with holdAsks := true } } := ⟨rfl, rfl, fun _ => rfl, rfl, id⟩
    exact hdue.trans (holdFollows_holdCommand tstep now _)

/-- A fault with no window open opens its window, and its recovery follows. -/
theorem raiseFault_opens {code unit : Nat} {k : State → State} (h : s.plains[p].health.winOpen = false) :
    raiseFault s p code unit k = k (modPlain s p (withWindow s.timeNs code unit)) :=
  if_neg (by rw [h]; exact Bool.false_ne_true)

/-- A Plain whose link has gone down: the window of fault 0x05, and a hold command where it steps (19 R386). -/
def downPlain (tstep now : Nat) (l : Fin 8) (P : Plain) : Plain :=
  let Q := withWindow now 0x05 l.val (event (modLink P l linkFailed) 0x0020 l.val 0)
  if modeStepping Q.run.mode then faultHold tstep now Q else Q

theorem downPlain_frame (tstep now : Nat) (P : Plain) : (downPlain tstep now l P).links[l].state = .closed ∧
    (downPlain tstep now l P).links[l].closeReason = 5 ∧ (downPlain tstep now l P).health.winOpen = true ∧
    (downPlain tstep now l P).health.code = 5 ∧ (downPlain tstep now l P).tiles = P.tiles ∧
    (downPlain tstep now l P).run.after = P.run.after ∧
    ((downPlain tstep now l P).run.modePend = some .valley → P.run.modePend = some .valley) := by
  obtain ⟨mgr, health, hframe, hopen, hcode⟩ := withWindow_frame now 0x05 l.val (event (modLink P l linkFailed) 0x0020 l.val 0)
  rw [event_of_mgr (P := P) (Q := modLink P l linkFailed) rfl] at hframe
  have hfollows : HoldFollows (withWindow now 0x05 l.val (event (modLink P l linkFailed) 0x0020 l.val 0)) (downPlain tstep now l P) := by
    unfold downPlain
    dsimp only
    split
    · exact holdFollows_faultHold tstep now _
    · exact ⟨rfl, rfl, fun _ => rfl, rfl, id⟩
  obtain ⟨hclosed, hreason⟩ := linkFailed_closed P.links[l]
  rw [event_of_mgr (P := P) (Q := modLink P l linkFailed) rfl, hframe] at hfollows
  have hlink := hfollows.link l
  rw [show (modLink P l linkFailed).links[l] = linkFailed P.links[l] from modLink_same _ _ _] at hlink
  rw [hlink, hfollows.health]
  exact ⟨hclosed, hreason, hopen, hcode, hfollows.tiles, hfollows.after, hfollows.valley⟩

/-- A link goes down with no window open, no VALLEY waiting, and nothing that waits for the links (R161, R386). -/
theorem linkDown_eq (hwin : s.plains[p].health.winOpen = false) (hvalley : s.plains[p].run.modePend ≠ some .valley)
    (hafter : s.plains[p].run.after = none) : linkDown s p l = modPlain s p (downPlain s.fuses.tstepPs s.timeNs l) := by
  obtain ⟨-, -, -, -, -, hkept, hpend⟩ := downPlain_frame (l := l) s.fuses.tstepPs s.timeNs s.plains[p]
  have hraise := raiseFault_opens (s := modPlain s p fun P => event (modLink P l linkFailed) 0x0020 l.val 0) (p := p) (code := 0x05) (unit := l.val)
    (k := fun v => modPlain v p fun P => if modeStepping P.run.mode then faultHold s.fuses.tstepPs v.timeNs P else P)
    (by rw [modPlain_same, event_health]; exact hwin)
  rw [modPlain_modPlain, modPlain_modPlain] at hraise
  have hdown : (modPlain s p (downPlain s.fuses.tstepPs s.timeNs l)).plains[p] = _ := modPlain_same _ _ _
  have hvf := valleyFollows_idle (t := modPlain s p (downPlain s.fuses.tstepPs s.timeNs l)) (p := p) (by rw [hdown]; exact fun h => hvalley (hpend h))
  exact (congrArg (fun v => linksClosed (valleyFollows v p) p) hraise).trans
    ((congrArg (linksClosed · p) hvf).trans (linksClosed_idle (by rw [hdown]; exact hkept.trans hafter)))

/-- Settles O16: codewords by what they can bring, the two timeouts, and the retrain from the lane that fails to its end. -/
theorem linksAcknowledgeAndReplay : Obligations.LinksAcknowledgeAndReplay := by
  unfold Obligations.LinksAcknowledgeAndReplay
  intro p l s hafter L
  refine ⟨fun a code lane bad ha hlane hbad hcode hc h0 h1 => ?_, fun a lane bad ha hlane hbad hc => ?_,
    fun a code lane bad hup hlane hbad hworn => ⟨?_, ?_, rfl⟩, exec_replayTimeout, fun c => exec_creditReturnTimeout, ?_,
    fun n => ?_, fun n => exec_retrainAttemptFail_again, fun n hr hf hd hwin hvalley _ => ?_⟩
  · let rx : LaneCodeword := { ack := a, lane := lane, bad := bad }
    have hrow := rxCodeword_corrected (rx := rx) hafter ha hlane hbad hc
    obtain ⟨honly, hplain, hlink, hothers⟩ := linkUpdate_frame s p l fun L => takeControl s.timeNs a code (withCodeword rx L)
    obtain ⟨htx, hstate, hce, hheld⟩ := takeControl_acknowledges s.timeNs hlink ha hcode h0 h1
    exact ⟨_, congrArg Host.Outcome.next hrow, honly, hplain, htx, hstate, hce, hheld, hothers⟩
  · refine congrArg Host.Outcome.next ((rxCodeword_corrected (rx := { ack := a, lane := lane, bad := bad }) hafter ha hlane hbad hc).trans
      (modPlain_congr (modLink_congr ?_)))
    exact takeControl_active s.timeNs a 1 ha
  · exact congrArg Host.Outcome.next (rxCodeword_uncorrectable (rx := { ack := a, lane := lane, bad := bad }) hup hlane hbad hworn)
  · exact congrArg Host.Outcome.next (rxCodeword_uncorrectable (rx := { ack := a, lane := lane, bad := bad }) hup hlane hbad hworn)
  · exact ⟨fun w hs h0 hw => ⟨_, exec_laneFail hs h0 hw, leaveActive_plain rfl rfl⟩, fun hm ha => ⟨_, exec_linkCtlRetrain hm ha, leaveActive_plain rfl rfl⟩⟩
  · intro w hr hw ht hp hs
    obtain ⟨hstate, hwidth, hreplay, hflags⟩ := endRetrain_frame (P := s.plains[p]) (l := l) s.timeNs (L := { L with working := w, retest := false }) hp hs
    obtain ⟨hlink, hevent, hplain⟩ := degraded_plain (P := s.plains[p]) (l := l)
      (g := fun L => endRetrain s.plains[p] l s.timeNs { L with working := w, retest := false }) hwidth
    refine ⟨_, exec_retrainDone hr hw ht, onlyPlain_modPlain s p _, ?_⟩
    rw [modPlain_same]
    exact ⟨(congrArg (·.state) hlink).trans hstate, (congrArg (·.width) hlink).trans hwidth, fun hu => (congrArg (·.replayFrom) hlink).trans (hreplay hu),
      fun hlt => ⟨(congrArg (·.flags) hlink).trans (hflags hlt), hevent hlt⟩, hplain⟩
  · obtain ⟨hclosed, hreason, hopen, hcode, htiles, -⟩ := downPlain_frame (l := l) s.fuses.tstepPs s.timeNs s.plains[p]
    refine ⟨_, (exec_retrainAttemptFail_down hr hf hd).trans (congrArg Host.Outcome.next (linkDown_eq hwin hvalley hafter)),
      (onlyPlain_modPlain s p _).others, ?_⟩
    rw [modPlain_same]
    exact ⟨hclosed, hreason, hopen, hcode, htiles⟩

end Sys2Proof.Machine
end

section
/-! SUPPORT. Sending on a Pass link (08 R149-R159, R164, R165): words from q6, the order of new frames, and the codewords that they fill. -/

namespace Sys2Proof.Machine

variable {p l : Fin 8} {s : State}

/-! ## PASS_TX_TAKE (R165) -/

theorem exec_passTxTake {k : Fin 64} {x : PxWord} (h : waitingPx s.plains[p] l = some (k, x)) :
    exec (.passTxTake p l) s =
      if discards s.plains[p].links[l] x.chan then
        .next (modPlain s p fun P => modLink (modTile P k fun T => admitHeld { T with q6 := T.q6.tail }) l fun L =>
          { L with txDisc := satInc L.txDisc, flags := setBit L.flags 4 true })
      else if s.plains[p].links[l].dueClosing.isSome ∨ look 0 s.plains[p].links[l].cred x.chan.val = 0 then .next s
      else .next (modPlain s p fun P => modLink (modTile P k fun T => admitHeld { T with q6 := T.q6.tail }) l fun L =>
        { L with cred := put 0 L.cred x.chan.val (look 0 L.cred x.chan.val - 1), txWords := L.txWords ++ [(x.chan, x.data)] }) := by
  change execPassTxTake p l s = _
  unfold execPassTxTake
  dsimp only
  rw [h]
  rfl

/-! ## Codewords (R149, R150) -/

theorem frameBytes_length (f : Frame) : (frameBytes f).length = 32 := by
  simp only [frameBytes, List.length_append, leBytes_length]

/-- Codewords take bytes of the frame stream, and nothing else of the link changes. -/
theorem fillCodewords_frame (k w : Nat) (L : Link) : ∃ S C, fillCodewords k w L = { L with stream := S, codewords := C } := by
  induction k generalizing L with
  | zero => exact ⟨L.stream, L.codewords, rfl⟩
  | succ k ih =>
    unfold fillCodewords
    split
    · exact ⟨L.stream, L.codewords, rfl⟩
    · exact ih _

theorem sendStream_frame (fs : List Frame) (L : Link) : ∃ S C, sendStream fs L = { L with stream := S, codewords := C } := by
  unfold sendStream
  extract_lets w S S'
  obtain ⟨T, C, h⟩ := fillCodewords_frame (S'.length / 124 + 1) w { L with stream := S' }
  exact ⟨T, C, h⟩

theorem fillCodewords_short {k w : Nat} {L : Link} (h : L.stream.length < 124 * w) : fillCodewords k w L = L := by
  cases k with
  | zero => rfl
  | succ k => exact if_pos (.inr h)

/-- Bytes for one codeword of every lane go out once. -/
theorem fillCodewords_once {k w : Nat} {L : Link} (hfull : 124 * w ≤ L.stream.length) (hrest : L.stream.length < 124 * w + 124 * w) :
    fillCodewords (k + 1) w L = { L with
      stream := L.stream.drop (124 * w)
      codewords := (List.range w).map fun i => codeword (laneStream w i (L.stream.take (124 * w))) L.ctlOut } := by
  refine (if_neg (by omega)).trans (fillCodewords_short ?_)
  rw [List.length_drop]
  omega

/-- One frame's bytes join the stream, and fill no codeword or one for each lane. -/
theorem sendStream_one (f : Frame) (L : Link) :
    (L.width ≠ 0 → L.stream.length + 32 < 124 * L.width → sendStream [f] L = { L with stream := L.stream ++ frameBytes f }) ∧
    (L.stream.length < 124 * L.width → 124 * L.width ≤ L.stream.length + 32 →
      let S := L.stream ++ frameBytes f
      sendStream [f] L = { L with
        stream := S.drop (124 * L.width)
        codewords := (List.range L.width).map fun i => codeword (laneStream L.width i (S.take (124 * L.width))) L.ctlOut }) := by
  have hlen : (L.stream ++ frameBytes f).length = L.stream.length + 32 := by rw [List.length_append, frameBytes_length]
  have hsend : sendStream [f] L = fillCodewords ((L.stream ++ frameBytes f).length / 124 + 1) L.width { L with stream := L.stream ++ frameBytes f } := by
    simp only [sendStream, List.flatMap_singleton, List.cons_ne_self, false_and, if_false]
  refine ⟨fun _ hshort => hsend.trans (fillCodewords_short ?_), fun hlt hfull => hsend.trans (fillCodewords_once ?_ ?_)⟩
  · exact hlen.trans_lt hshort
  · exact hfull.trans_eq hlen.symm
  · refine hlen.trans_lt ?_
    omega

/-! ## A close that can end with the frame (R175) -/

/-- A close does not end while a frame is unacknowledged. -/
theorem tryClosed_unacked {L : Link} (h : unacked L ≠ []) : tryClosed L = L := by
  have hu : (unacked L).isEmpty = false := by
    rw [Bool.eq_false_iff]
    exact fun he => h (List.isEmpty_iff.1 he)
  refine tryClosed_waits ?_
  simp only [closeDone, hu, Bool.and_false, Bool.false_and, Bool.false_eq_true, not_false_eq_true]

/-- What a link that may have closed keeps of its link-control bytes. -/
theorem tryClosed_control (L : Link) : (tryClosed L).ctlOut = L.ctlOut ∧ (tryClosed L).nakDue = L.nakDue := by
  unfold tryClosed
  split
  · obtain ⟨disc, words, flags, h⟩ := dropTaken_frame { L with replay := L.replay.filter fun h => decide (h.mark ≠ .held) }
    unfold linkClosed
    rw [h]
    exact ⟨rfl, rfl⟩
  · exact ⟨rfl, rfl⟩

/-! ## The next frame (R157, R159) -/

/-- What the link is once its next frame is on the wire, and whether it has begun to drain. -/
def nextSent (P : Plain) (l : Fin 8) (now : Nat) (L : Link) : Link × Bool :=
  match nextReplay L with
  | some f => (sendAgain f L, false)
  | none =>
    if 256 ≤ L.replay.length then ({ L with replayFrom := none }, false)
    else (sendNew P l now { L with replayFrom := none }).getD ({ L with replayFrom := none }, false)

theorem nextSent_again {P : Plain} {now : Nat} {L : Link} {f : Frame} (h : nextReplay L = some f) : nextSent P l now L = (sendAgain f L, false) := by
  simp only [nextSent, h]

theorem nextSent_full {P : Plain} {now : Nat} {L : Link} (h : nextReplay L = none) (hfull : 256 ≤ L.replay.length) :
    nextSent P l now L = ({ L with replayFrom := none }, false) := by
  simp only [nextSent, h, hfull, if_true]

theorem nextSent_new {P : Plain} {now : Nat} {L : Link} (h : nextReplay L = none) (hroom : L.replay.length < 256) :
    nextSent P l now L = (sendNew P l now { L with replayFrom := none }).getD ({ L with replayFrom := none }, false) := by
  simp only [nextSent, h, Nat.not_le.2 hroom, if_false]

/-- A sequenced frame is the next one; only CLOSING takes the link out of ACTIVE. -/
theorem sendSequenced_eq (l : Fin 8) (now : Nat) (P : Plain) : sendSequenced l now P =
    if (nextSent P l now P.links[l]).2 = true then leaveActive l now (fun _ => (nextSent P l now P.links[l]).1) P
    else modLink P l fun _ => (nextSent P l now P.links[l]).1 := by
  unfold sendSequenced
  extract_lets L
  split
  next f h =>
    rw [nextSent_again h]
    exact modLink_congr rfl
  next h =>
    split
    next hfull =>
      rw [nextSent_full h hfull]
      rfl
    next hroom =>
      rw [nextSent_new h (Nat.lt_of_not_le hroom)]
      split
      next hn =>
        rw [hn]
        rfl
      next N hn =>
        rw [hn]
        rfl
      next N hn =>
        rw [hn]
        rfl

theorem sendAgain_frame (f : Frame) (L : Link) : ∃ first, sendAgain f L = { L with wire := L.wire ++ [f], replayFrom := first } := by
  unfold sendAgain
  dsimp only
  split
  · exact ⟨_, rfl⟩
  · exact ⟨_, rfl⟩

/-- The order of R159 after CYCLE and CLOSING: RETURN, the initial grants, CREDIT, DATA. -/
def sendRest (P : Plain) (l : Fin 8) (now : Nat) (L : Link) : Option (Link × Bool) :=
  if L.dueReturn ≠ [] then
    some (accept { L with dueReturn := L.dueReturn.drop 12 } now (entryFrame 7 0 ((L.dueReturn.take 12).map BitVec.toNat)), false)
  else if L.dueInit ≠ [] then
    some (accept { L with dueInit := L.dueInit.drop 12 } now (entryFrame 3 1 ((L.dueInit.take 12).map creditEntry)), false)
  else if L.dueCredit = true ∧ L.owed ≠ [] then some (sendOwed now L, false)
  else if L.txWords ≠ [] ∧ dataClosed P l L = true then
    some (accept { L with txWords := L.txWords.drop (leadWords L.txWords).length } now (dataFrame (leadWords L.txWords)), false)
  else none

section
variable {P : Plain} {now : Nat} {L : Link}

theorem sendNew_cycle {f : Frame} {rest : List Frame} (h : L.dueCycle = f :: rest) :
    sendNew P l now L = some (accept { L with dueCycle := rest } now f, false) := by
  simp only [sendNew, h]

theorem sendNew_closing {reason : BitVec 3} {reply : Bool} (h : L.dueCycle = []) (hw : L.txWords = []) (hd : L.dueClosing = some (reason, reply)) :
    sendNew P l now L = some ({ accept { L with dueClosing := none } now
      (mkFrame 6 2 (b2n reply) (leBytes 6 (nextCycle P) ++ [reason.setWidth 8])) with state := .drain, closeSent := some now }, true) := by
  simp only [sendNew, h, hd, hw]

theorem sendNew_rest (h : L.dueCycle = []) (hr : L.dueClosing = none ∨ L.txWords ≠ []) : sendNew P l now L = sendRest P l now L := by
  unfold sendNew
  split
  next f rest hc => exact absurd (h.symm.trans hc) nofun
  next =>
    split
    next reason reply hd hw =>
      rcases hr with hr | hr
      · exact absurd (hr.symm.trans hd) nofun
      · exact absurd hw hr
    next => rfl

/-- What no new frame changes of its link. -/
structure FrameKeeps (L N : Link) : Prop where
  en : N.en = L.en
  closeReason : N.closeReason = L.closeReason
  ctlOut : N.ctlOut = L.ctlOut
  nakDue : N.nakDue = L.nakDue

/-- The rest of R159's order leaves the link's state. -/
theorem sendRest_keeps {r : Link × Bool} (h : sendRest P l now L = some r) : FrameKeeps L r.1 ∧ r.1.state = L.state ∧ r.2 = false := by
  unfold sendRest at h
  split at h
  · cases h
    exact ⟨⟨rfl, rfl, rfl, rfl⟩, rfl, rfl⟩
  split at h
  · cases h
    exact ⟨⟨rfl, rfl, rfl, rfl⟩, rfl, rfl⟩
  split at h
  · cases h
    exact ⟨⟨rfl, rfl, rfl, rfl⟩, rfl, rfl⟩
  split at h
  · cases h
    exact ⟨⟨rfl, rfl, rfl, rfl⟩, rfl, rfl⟩
  · cases h

theorem sendNew_keeps {r : Link × Bool} (h : sendNew P l now L = some r) : FrameKeeps L r.1 := by
  cases hc : L.dueCycle with
  | cons f rest =>
    cases (sendNew_cycle hc).symm.trans h
    exact ⟨rfl, rfl, rfl, rfl⟩
  | nil =>
    by_cases hr : L.dueClosing = none ∨ L.txWords ≠ []
    · exact (sendRest_keeps ((sendNew_rest hc hr).symm.trans h)).1
    · obtain ⟨hd, hw⟩ := not_or.1 hr
      obtain ⟨⟨reason, reply⟩, hd⟩ := Option.ne_none_iff_exists'.1 hd
      cases (sendNew_closing hc (not_not.1 hw) hd).symm.trans h
      exact ⟨rfl, rfl, rfl, rfl⟩

theorem nextSent_keeps (P : Plain) (l : Fin 8) (now : Nat) (L : Link) : FrameKeeps L (nextSent P l now L).1 := by
  cases h : nextReplay L with
  | some f =>
    obtain ⟨first, hf⟩ := sendAgain_frame f L
    rw [nextSent_again h, hf]
    exact ⟨rfl, rfl, rfl, rfl⟩
  | none =>
    rcases Nat.lt_or_ge L.replay.length 256 with hroom | hfull
    · rw [nextSent_new h hroom]
      cases hn : sendNew P l now { L with replayFrom := none } with
      | none => exact ⟨rfl, rfl, rfl, rfl⟩
      | some r =>
        have hk := sendNew_keeps hn
        exact ⟨hk.en, hk.closeReason, hk.ctlOut, hk.nakDue⟩
    · rw [nextSent_full h hfull]
      exact ⟨rfl, rfl, rfl, rfl⟩

end

/-! ## FRAME_SEND (R149, R150, R159) -/

/-- The frame's bytes enter the codewords of a link that was `L`, and a close may end. -/
def onLanes (L N : Link) : Link := tryClosed (sendStream (N.wire.drop L.wire.length) N)

/-- What link `l` of a Plain, which is `L`, is with its control bytes gone out and its next sequenced frame on the wire, and whether it has
begun to drain. -/
def sentLink (P : Plain) (l : Fin 8) (now : Nat) (L : Link) : Link × Bool := nextSent (modLink P l sendControl) l now (sendControl L)

/-- A link with its control bytes gone out and nothing to replay: it may take its next new frame. -/
def readyLink (L : Link) : Link := { sendControl L with replayFrom := none }

/-- A Plain with its control bytes gone out and its next sequenced frame on the wire. -/
def sentPlain (l : Fin 8) (now : Nat) (P : Plain) : Plain :=
  sendCodewords l P.links[l] (sendSequenced l now (modLink P l sendControl))

theorem lanesUp_of_sending {st : LinkState} (h : linkSending st = true) : lanesUp st = true := by
  cases st with
  | active | drain => rfl
  | off | train | openWait | retrain | closed => exact absurd h Bool.false_ne_true

/-- The frame goes onto the wire: of the Plain its link changes, and LINK_CLOSED and SYNC_GATE_NS as it leaves ACTIVE. -/
theorem sendSequenced_frame (l : Fin 8) (now : Nat) (P : Plain) :
    let L := P.links[l]
    let r := nextSent P l now L
    ∃ ns, sendSequenced l now P = { P with
      links := (modLink P l fun _ => r.1).links
      mgr := if r.2 = true ∧ L.state = .active ∧ L.en = true then (event P 0x0022 l.val L.closeReason.toNat).mgr else P.mgr
      sync := { P.sync with gateNs := ns } } := by
  intro L r
  have hkeeps := nextSent_keeps P l now L
  rw [sendSequenced_eq]
  split
  next h =>
    have h : r.2 = true := h
    simp only [h, true_and]
    exact leaveActive_frame now hkeeps.en hkeeps.closeReason
  next h => exact ⟨P.sync.gateNs, by rw [if_neg fun e => h e.1]; rfl⟩

/-- What FRAME_SEND of a link that sends sequenced frames makes of its Plain. -/
theorem sentPlain_frame (l : Fin 8) (now : Nat) {P Q : Plain} (hQ : Q = sentPlain l now P) (hs : linkSending P.links[l].state = true) :
    let L := P.links[l]
    let r := sentLink P l now L
    Q = { P with links := Q.links, mgr := Q.mgr, sync := Q.sync } ∧ Q.sync = { P.sync with gateNs := Q.sync.gateNs } ∧
    Q.links[l] = onLanes L r.1 ∧ (∀ m : Fin 8, m ≠ l → Q.links[m] = P.links[m]) ∧
    Q.mgr = if r.2 = true ∧ L.state = .active ∧ L.en = true then (event P 0x0022 l.val L.closeReason.toNat).mgr else P.mgr := by
  intro L r
  obtain ⟨ns, hseq⟩ := sendSequenced_frame l now (modLink P l sendControl)
  rw [modLink_same, event_of_mgr (P := P) (Q := modLink P l sendControl) rfl, modLink_modLink] at hseq
  have hQ : Q = modLink (sendSequenced l now (modLink P l sendControl)) l (onLanes L) := hQ.trans (if_pos (lanesUp_of_sending hs))
  rw [hQ, hseq]
  refine ⟨rfl, rfl, ?_, fun m hm => ?_, rfl⟩
  · exact (modLink_same _ _ _).trans (congrArg (onLanes L) (modLink_same _ _ _))
  · exact (modLink_other _ _ _ _ hm).trans (modLink_other _ _ _ _ hm)

theorem exec_frameSend_sending (hs : linkSending s.plains[p].links[l].state = true) (hafter : s.plains[p].run.after = none) :
    exec (.frameSend p l) s = .next (modPlain s p (sentPlain l s.timeNs)) := by
  have hretrain : s.plains[p].links[l].state ≠ .retrain := fun h => by rw [h] at hs; exact Bool.false_ne_true hs
  have hplain := (sentPlain_frame l s.timeNs rfl hs).1
  have hsent : sendCodewords l s.plains[p].links[l] (sendFrame l s.timeNs (modLink s.plains[p] l sendControl)) = sentPlain l s.timeNs s.plains[p] := by
    unfold sendFrame
    rw [modLink_same, if_pos (show linkSending (sendControl s.plains[p].links[l]).state = true from hs)]
    rfl
  refine (if_neg hretrain).trans (congrArg Host.Outcome.next ?_)
  simp only [lanesUp_of_sending hs, if_true]
  rw [modPlain_congr (g := sentPlain l s.timeNs) hsent]
  refine linksClosed_idle ?_
  rw [modPlain_same, hplain]
  exact hafter

/-- A TRAIN frame is on the wire (R153). -/
def withTrain (L : Link) : Link := { L with wire := L.wire ++ [{ typ := 8, len := 6, payload := Config.trainPattern L.wire.length }] }

theorem sendUnsequenced_train {P : Plain} {now : Nat} {L : Link} (ht : L.state = .train) (hd : L.dueOpen = []) :
    sendUnsequenced P now L = withTrain L := by
  unfold sendUnsequenced
  split
  next f rest h => exact absurd (hd.symm.trans h) nofun
  next => exact if_pos ht

/-- In TRAIN without a frame due the lanes carry a TRAIN frame. -/
theorem exec_frameSend_train (ht : s.plains[p].links[l].state = .train) (hd : s.plains[p].links[l].dueOpen = []) (hafter : s.plains[p].run.after = none) :
    exec (.frameSend p l) s = .next (modPlain s p fun P => modLink P l withTrain) := by
  have hframe : sendFrame l s.timeNs s.plains[p] = modLink s.plains[p] l withTrain := by
    unfold sendFrame
    rw [ht]
    exact (if_neg Bool.false_ne_true).trans (modLink_congr (sendUnsequenced_train ht hd))
  change execFrameSend p l s = _
  unfold execFrameSend
  simp only [ht, reduceCtorEq, if_false, lanesUp, Bool.false_eq_true, sendCodewords]
  rw [modPlain_congr (g := fun P => modLink P l withTrain) hframe, linkUpdate_closed hafter]

/-! ## What a new frame makes of its link -/

/-- From `L` to `N` the new frame `f` has gone onto the wire and into the replay buffer, with the control bytes of `L` gone out. -/
structure Accepted (L N : Link) (f : Frame) : Prop where
  wire : N.wire = L.wire ++ [{ f with seq := L.txNext }]
  txNext : N.txNext = L.txNext + 1
  replay : ∃ n, N.replay = L.replay ++ [{ frame := { f with seq := L.txNext }, acked := false, unconf := n, mark := .held }]
  width : N.width = L.width
  stream : N.stream = L.stream
  codewords : N.codewords = L.codewords
  ctlOut : N.ctlOut = linkControl L

/-- What FRAME_SEND of a new frame shows at the link (R149, R156). -/
def ShowsFrame (L M : Link) (f : Frame) : Prop :=
  M.wire = L.wire ++ [{ f with seq := L.txNext }] ∧ M.txNext = L.txNext + 1 ∧
  M.replay.map (·.frame) = L.replay.map (·.frame) ++ [{ f with seq := L.txNext }] ∧
  (L.width ≠ 0 → L.stream.length + 32 < 124 * L.width → M.stream = L.stream ++ frameBytes { f with seq := L.txNext } ∧ M.codewords = L.codewords) ∧
  (L.stream.length < 124 * L.width → 124 * L.width ≤ L.stream.length + 32 →
    let S := L.stream ++ frameBytes { f with seq := L.txNext }
    M.stream = S.drop (124 * L.width) ∧
    M.codewords = (List.range L.width).map fun i => codeword (laneStream L.width i (S.take (124 * L.width))) (linkControl L))

/-- While a frame is unacknowledged only the stream and the codewords change on the lanes. -/
theorem onLanes_unacked {L N : Link} {fs : List Frame} (hw : N.wire = L.wire ++ fs) (hu : unacked N ≠ []) : onLanes L N = sendStream fs N := by
  obtain ⟨S, C, h⟩ := sendStream_frame fs N
  have hdrop : N.wire.drop L.wire.length = fs := by rw [hw, List.drop_left]
  unfold onLanes
  rw [hdrop]
  refine tryClosed_unacked ?_
  rw [h]
  exact hu

theorem Accepted.unacked {L N : Link} {f : Frame} (h : Accepted L N f) : unacked N ≠ [] := by
  obtain ⟨n, hr⟩ := h.replay
  refine List.ne_nil_of_mem (a := { frame := { f with seq := L.txNext }, acked := false, unconf := n, mark := .held }) (List.mem_filter.2 ⟨?_, rfl⟩)
  rw [hr]
  exact List.mem_append_right _ List.mem_cons_self

/-- A new frame shows at the link, and only the stream and the codewords are what the lanes make of it. -/
theorem Accepted.shows {L N : Link} {f : Frame} (h : Accepted L N f) :
    ShowsFrame L (onLanes L N) f ∧ ∃ S C, onLanes L N = { N with stream := S, codewords := C } := by
  obtain ⟨n, hreplay⟩ := h.replay
  have hM : onLanes L N = _ := onLanes_unacked h.wire h.unacked
  have hone := sendStream_one { f with seq := L.txNext } N
  obtain ⟨S, C, hframe⟩ := sendStream_frame [{ f with seq := L.txNext }] N
  rw [h.width, h.stream, h.ctlOut] at hone
  refine ⟨⟨?_, ?_, ?_, fun h0 hlt => ?_, fun hlt hfull => ?_⟩, S, C, hM.trans hframe⟩
  · rw [hM, hframe]
    exact h.wire
  · rw [hM, hframe]
    exact h.txNext
  · rw [hM, hframe]
    simp only [hreplay, List.map_append, List.map_cons, List.map_nil]
  · rw [hM, hone.1 h0 hlt]
    exact ⟨rfl, h.codewords⟩
  · rw [hM, hone.2 hlt hfull]
    exact ⟨rfl, rfl⟩

/-- On a link that stays ACTIVE no close ends. -/
theorem onLanes_active {N : Link} (L : Link) (h : N.state = .active) : ∃ S C, onLanes L N = { N with stream := S, codewords := C } := by
  obtain ⟨S, C, hS⟩ := sendStream_frame (N.wire.drop L.wire.length) N
  refine ⟨S, C, (tryClosed_active ?_).trans hS⟩
  rw [hS]
  exact h

/-! ## The frame that goes out (R157, R159) -/

section
variable {P : Plain} {now : Nat} {L : Link} {r : Link × Bool}

theorem sentLink_control (P : Plain) (l : Fin 8) (now : Nat) (L : Link) :
    (onLanes L (sentLink P l now L).1).nakDue = false ∧ (onLanes L (sentLink P l now L).1).ctlOut = linkControl L := by
  have hkeeps := nextSent_keeps (modLink P l sendControl) l now (sendControl L)
  obtain ⟨S, C, hS⟩ := sendStream_frame ((sentLink P l now L).1.wire.drop L.wire.length) (sentLink P l now L).1
  obtain ⟨hctl, hnak⟩ := tryClosed_control (sendStream ((sentLink P l now L).1.wire.drop L.wire.length) (sentLink P l now L).1)
  rw [hS] at hctl hnak
  unfold onLanes
  rw [hS]
  exact ⟨hnak.trans hkeeps.nakDue, hctl.trans hkeeps.ctlOut⟩

/-- A frame to be replayed goes first, and neither the replay buffer nor TX_NEXT changes. -/
theorem sentLink_replays {f : Frame} (h : nextReplay L = some f) :
    let M := onLanes L (sentLink P l now L).1
    M.wire = L.wire ++ [f] ∧ M.replay = L.replay ∧ M.txNext = L.txNext ∧ (sentLink P l now L).2 = false := by
  intro M
  have hr : sentLink P l now L = (sendAgain f (sendControl L), false) := nextSent_again h
  obtain ⟨first, hagain⟩ := sendAgain_frame f (sendControl L)
  have hu : unacked L ≠ [] := fun e => by
    unfold nextReplay at h
    split at h
    · cases h
    · rw [e] at h
      cases h
  have hM : M = sendStream [f] (sendAgain f (sendControl L)) := by
    unfold M
    rw [hr, hagain]
    exact onLanes_unacked rfl hu
  obtain ⟨S, C, hS⟩ := sendStream_frame [f] (sendAgain f (sendControl L))
  rw [hM, hS, hagain, hr]
  exact ⟨rfl, rfl, rfl, rfl⟩

variable (hn : nextReplay L = none)
include hn

/-- With a full replay buffer an ACTIVE link sends nothing. -/
theorem sentLink_full (hfull : 256 ≤ L.replay.length) (ha : L.state = .active) :
    let M := onLanes L (sentLink P l now L).1
    M = { L with nakDue := false, ctlOut := linkControl L, replayFrom := none, stream := M.stream, codewords := M.codewords } ∧
    (sentLink P l now L).2 = false := by
  intro M
  have hr : sentLink P l now L = (readyLink L, false) := nextSent_full (L := sendControl L) hn hfull
  obtain ⟨S, C, hS⟩ := onLanes_active (N := readyLink L) L ha
  have hM : M = { readyLink L with stream := S, codewords := C } := by
    unfold M
    rw [hr]
    exact hS
  rw [hM, hr]
  exact ⟨rfl, rfl⟩

variable (hroom : L.replay.length < 256)
include hroom

theorem sentLink_eq_new : sentLink P l now L =
    (sendNew (modLink P l sendControl) l now (readyLink L)).getD (readyLink L, false) :=
  nextSent_new (L := sendControl L) hn hroom

theorem sentLink_new (h : sendNew (modLink P l sendControl) l now (readyLink L) = some r) :
    sentLink P l now L = r :=
  (sentLink_eq_new hn hroom).trans (by rw [h]; rfl)

theorem sentLink_cycle {f : Frame} {rest : List Frame} (h : L.dueCycle = f :: rest) :
    let M := onLanes L (sentLink P l now L).1
    ShowsFrame L M f ∧ M.dueCycle = rest ∧ M.state = L.state ∧ (sentLink P l now L).2 = false := by
  have hr := sentLink_new hn hroom (sendNew_cycle (now := now) (P := modLink P l sendControl) (l := l) (L := readyLink L) h)
  rw [hr]
  have hacc : Accepted L (accept { readyLink L with dueCycle := rest } now f) f :=
    ⟨rfl, rfl, ⟨_, rfl⟩, rfl, rfl, rfl, rfl⟩
  obtain ⟨hshow, S, C, hM⟩ := hacc.shows
  exact ⟨hshow, congrArg (·.dueCycle) hM, congrArg (·.state) hM, rfl⟩

/-- CLOSING goes out once no taken word is left, and the end drains (R175). -/
theorem sentLink_closing {reason : BitVec 3} {reply : Bool} (hc : L.dueCycle = []) (hw : L.txWords = [])
    (hd : L.dueClosing = some (reason, reply)) :
    let M := onLanes L (sentLink P l now L).1
    ShowsFrame L M (mkFrame 6 2 (b2n reply) (leBytes 6 (nextCycle P) ++ [reason.setWidth 8])) ∧
    M.state = .drain ∧ M.closeSent = some now ∧ M.dueClosing = none ∧ (sentLink P l now L).2 = true := by
  let f := mkFrame 6 2 (b2n reply) (leBytes 6 (nextCycle P) ++ [reason.setWidth 8])
  have hr := sentLink_new hn hroom
    (sendNew_closing (now := now) (P := modLink P l sendControl) (l := l) (L := readyLink L) hc hw hd)
  rw [hr]
  have hacc : Accepted L { accept { readyLink L with dueClosing := none } now f with
      state := .drain, closeSent := some now } f := ⟨rfl, rfl, ⟨_, rfl⟩, rfl, rfl, rfl, rfl⟩
  obtain ⟨hshow, S, C, hM⟩ := hacc.shows
  exact ⟨hshow, congrArg (·.state) hM, congrArg (·.closeSent) hM, congrArg (·.dueClosing) hM, rfl⟩

variable (hc : L.dueCycle = []) (hd : L.dueClosing = none ∨ L.txWords ≠ [])
include hc hd

theorem sentLink_rest (h : sendRest (modLink P l sendControl) l now (readyLink L) = some r) :
    sentLink P l now L = r :=
  sentLink_new hn hroom ((sendNew_rest (L := readyLink L) hc hd).trans h)

/-- Without a CLOSING an ACTIVE link stays ACTIVE. -/
theorem sentLink_stays (ha : L.state = .active) : (onLanes L (sentLink P l now L).1).state = .active := by
  have hstate : (sentLink P l now L).1.state = .active := by
    have hr := sentLink_eq_new (P := P) (l := l) (now := now) hn hroom
    rw [sendNew_rest (L := readyLink L) hc hd] at hr
    cases h : sendRest (modLink P l sendControl) l now (readyLink L) with
    | none =>
      rw [hr, h]
      exact ha
    | some r =>
      rw [hr, h]
      exact (sendRest_keeps h).2.1.trans ha
  obtain ⟨S, C, hM⟩ := onLanes_active L hstate
  rw [hM]
  exact hstate

theorem sentLink_return (hret : L.dueReturn ≠ []) :
    let M := onLanes L (sentLink P l now L).1
    ShowsFrame L M (entryFrame 7 0 ((L.dueReturn.take 12).map BitVec.toNat)) ∧ M.dueReturn = L.dueReturn.drop 12 := by
  have hr := sentLink_rest (P := P) (l := l) (now := now) hn hroom hc hd (if_pos hret)
  rw [hr]
  have hacc : Accepted L (accept { readyLink L with dueReturn := L.dueReturn.drop 12 } now
      (entryFrame 7 0 ((L.dueReturn.take 12).map BitVec.toNat))) _ := ⟨rfl, rfl, ⟨_, rfl⟩, rfl, rfl, rfl, rfl⟩
  obtain ⟨hshow, S, C, hM⟩ := hacc.shows
  exact ⟨hshow, congrArg (·.dueReturn) hM⟩

variable (hret : L.dueReturn = [])
include hret

theorem sentLink_grants (hi : L.dueInit ≠ []) :
    let M := onLanes L (sentLink P l now L).1
    ShowsFrame L M (entryFrame 3 1 ((L.dueInit.take 12).map creditEntry)) ∧ M.dueInit = L.dueInit.drop 12 := by
  have hr := sentLink_rest (P := P) (l := l) (now := now) hn hroom hc hd ((if_neg (not_not_intro hret)).trans (if_pos hi))
  rw [hr]
  have hacc : Accepted L (accept { readyLink L with dueInit := L.dueInit.drop 12 } now
      (entryFrame 3 1 ((L.dueInit.take 12).map creditEntry))) _ := ⟨rfl, rfl, ⟨_, rfl⟩, rfl, rfl, rfl, rfl⟩
  obtain ⟨hshow, S, C, hM⟩ := hacc.shows
  exact ⟨hshow, congrArg (·.dueInit) hM⟩

variable (hi : L.dueInit = [])
include hi

theorem sentLink_credit (hcr : L.dueCredit = true) (ho : L.owed ≠ []) :
    let M := onLanes L (sentLink P l now L).1
    ShowsFrame L M (entryFrame 3 0 ((owedEntries L).map creditEntry)) ∧
    M.owed = (owedEntries L).foldl (fun m x => put 0 m x.1 (look 0 m x.1 - x.2)) L.owed := by
  have hr := sentLink_rest (P := P) (l := l) (now := now) hn hroom hc hd
    ((if_neg (not_not_intro hret)).trans ((if_neg (not_not_intro hi)).trans (if_pos ⟨hcr, ho⟩)))
  rw [hr]
  have hacc : Accepted L (sendOwed now (readyLink L)) (entryFrame 3 0 ((owedEntries L).map creditEntry)) :=
    ⟨rfl, rfl, ⟨_, rfl⟩, rfl, rfl, rfl, rfl⟩
  obtain ⟨hshow, S, C, hM⟩ := hacc.shows
  exact ⟨hshow, congrArg (·.owed) hM⟩

theorem sentLink_data (hcr : L.dueCredit = false ∨ L.owed = []) (hw : L.txWords ≠ [])
    (hclosed : dataClosed P l L = true) :
    let M := onLanes L (sentLink P l now L).1
    ShowsFrame L M (dataFrame (leadWords L.txWords)) ∧
    M.txWords = L.txWords.drop (leadWords L.txWords).length := by
  have hno : ¬(L.dueCredit = true ∧ L.owed ≠ []) := fun h =>
    hcr.elim (fun e => Bool.false_ne_true (e.symm.trans h.1)) h.2
  have hr := sentLink_rest (P := P) (l := l) (now := now) hn hroom hc hd
    ((if_neg (not_not_intro hret)).trans ((if_neg (not_not_intro hi)).trans ((if_neg hno).trans (if_pos ⟨hw, hclosed⟩))))
  rw [hr]
  have hacc : Accepted L (accept { readyLink L with txWords := L.txWords.drop (leadWords L.txWords).length } now
      (dataFrame (leadWords L.txWords))) _ := ⟨rfl, rfl, ⟨_, rfl⟩, rfl, rfl, rfl, rfl⟩
  obtain ⟨hshow, S, C, hM⟩ := hacc.shows
  exact ⟨hshow, congrArg (·.txWords) hM⟩

end

/-- Settles O11: a word by what its link may take; FRAME_SEND by R159's order, each frame with what it makes of its link. -/
theorem passWordsAreTakenAndSent : Obligations.PassWordsAreTakenAndSent := by
  unfold Obligations.PassWordsAreTakenAndSent
  intro p l s L
  refine ⟨fun k x hx => exec_passTxTake hx, fun hs hafter => ?_, fun hr => if_pos hr, exec_frameSend_train⟩
  obtain ⟨hplain, hsync, hlink, hothers, hmgr⟩ := sentPlain_frame l s.timeNs (Q := (modPlain s p (sentPlain l s.timeNs)).plains[p]) (modPlain_same _ _ _) hs
  have hquiet : (sentLink s.plains[p] l s.timeNs L).2 = false → (modPlain s p (sentPlain l s.timeNs)).plains[p].mgr = s.plains[p].mgr :=
    fun h => hmgr.trans (if_neg fun e => Bool.false_ne_true (h.symm.trans e.1))
  obtain ⟨hnak, hctl⟩ := sentLink_control s.plains[p] l s.timeNs L
  refine ⟨_, exec_frameSend_sending hs hafter, onlyPlain_modPlain s p _, hothers, ?_⟩
  rw [hlink]
  intro M sends
  refine ⟨hplain, hsync, hnak, hctl, fun f hf => ?_, fun hn hfull ha => ?_, fun hn hroom => ⟨fun f rest hc => ?_, fun reason reply hc hw hd => ?_,
    fun hc hd => ?_, fun hc hd => ⟨sentLink_return hn hroom hc hd, sentLink_grants hn hroom hc hd, sentLink_credit hn hroom hc hd,
      sentLink_data hn hroom hc hd⟩⟩⟩
  · obtain ⟨hwire, hreplay, hnext, hstay⟩ := sentLink_replays (now := s.timeNs) hf
    exact ⟨hwire, hreplay, hnext, hquiet hstay⟩
  · obtain ⟨hM, hstay⟩ := sentLink_full (now := s.timeNs) hn hfull ha
    exact ⟨hM, hquiet hstay⟩
  · obtain ⟨hshow, hrest, hstate, hstay⟩ := sentLink_cycle (now := s.timeNs) hn hroom hc
    exact ⟨hshow, hrest, hstate, hquiet hstay⟩
  · obtain ⟨hshow, hstate, hsent, hdue, hleaves⟩ := sentLink_closing (now := s.timeNs) hn hroom hc hw hd
    exact ⟨hshow, hstate, hsent, hdue, fun ha hen => hmgr.trans (if_pos ⟨hleaves, ha, hen⟩)⟩
  · cases ha : L.state with
    | active => exact .inl (sentLink_stays hn hroom hc hd ha)
    | drain => exact .inr rfl
    | off | train | openWait | retrain | closed =>
      rw [ha] at hs
      exact absurd hs Bool.false_ne_true

end Sys2Proof.Machine
end

section
/-! PROOF. CAPTURE_Q7_POP and CAPTURE_DRAIN (09 R180-R185): what the consumption of one q7 entry leaves, and the drain of a staged record. -/

namespace Sys2Proof.Machine

-- One proof after the other: the threads of parallel elaboration take their stacks from the check's memory limit.
set_option Elab.async false

variable {p : Fin 8} {s : State} {P : Plain} {k : Fin 64} {e : CapEntry} {rest : List CapEntry}

/-! ## Held pushes (06 R119) -/

section
variable (seen : List CapEntry) (refs : Sparse (BitVec 16 × Word)) (recs : List DWord) (T : Tile)

/-- A tile with what the capture engine has gathered of it: the entries seen, the reference table and the records. -/
def withCapture : Tile := { T with capSeen := seen, capRef := refs, capRecs := recs }

/-- The held push to q0 enters it where there is room. -/
def admitHeld0 : Tile :=
  match T.held0 with
  | some x => if T.q0.length < 16 then { T with q0 := T.q0 ++ [x], held0 := none, fresh0 := true } else T
  | none => T

/-- The held push to q6 enters it where there is room. -/
def admitHeld6 : Tile :=
  match T.held6 with
  | some x => if T.q6.length < 16 then { T with q6 := T.q6 ++ [x], held6 := none } else T
  | none => T

/-- The held push to q7 enters it where there is room. -/
def admitHeld7 : Tile :=
  match T.held7 with
  | some x => if T.q7.length < 32 then { T with q7 := T.q7 ++ [x], held7 := none, fresh7 := true } else T
  | none => T

theorem admitHeld_eq : admitHeld T = admitHeld7 (admitHeld6 (admitHeld0 T)) := rfl

theorem admitHeld0_withCapture : admitHeld0 (withCapture seen refs recs T) = withCapture seen refs recs (admitHeld0 T) := by
  unfold admitHeld0
  rw [show (withCapture seen refs recs T).held0 = T.held0 from rfl]
  cases T.held0 with
  | none => rfl
  | some x =>
    dsimp only
    rw [apply_ite (withCapture seen refs recs)]
    rfl

theorem admitHeld6_withCapture : admitHeld6 (withCapture seen refs recs T) = withCapture seen refs recs (admitHeld6 T) := by
  unfold admitHeld6
  rw [show (withCapture seen refs recs T).held6 = T.held6 from rfl]
  cases T.held6 with
  | none => rfl
  | some x =>
    dsimp only
    rw [apply_ite (withCapture seen refs recs)]
    rfl

theorem admitHeld7_withCapture : admitHeld7 (withCapture seen refs recs T) = withCapture seen refs recs (admitHeld7 T) := by
  unfold admitHeld7
  rw [show (withCapture seen refs recs T).held7 = T.held7 from rfl]
  cases T.held7 with
  | none => rfl
  | some x =>
    dsimp only
    rw [apply_ite (withCapture seen refs recs)]
    rfl

/-- Held pushes enter their queues whatever the capture engine has gathered of the tile. -/
theorem admitHeld_withCapture : admitHeld (withCapture seen refs recs T) = withCapture seen refs recs (admitHeld T) := by
  simp only [admitHeld_eq, admitHeld0_withCapture, admitHeld6_withCapture, admitHeld7_withCapture]

theorem admitHeld0_frame : (admitHeld0 T).q7 = T.q7 ∧ (admitHeld0 T).held7 = T.held7 := by
  unfold admitHeld0
  split
  · split <;> exact ⟨rfl, rfl⟩
  · exact ⟨rfl, rfl⟩

theorem admitHeld6_frame : (admitHeld6 T).q7 = T.q7 ∧ (admitHeld6 T).held7 = T.held7 := by
  unfold admitHeld6
  split
  · split <;> exact ⟨rfl, rfl⟩
  · exact ⟨rfl, rfl⟩

/-- With no push held for q7 nothing enters it. -/
theorem admitHeld_q7 {T : Tile} (h : T.held7 = none) : (admitHeld T).q7 = T.q7 := by
  obtain ⟨hq0, hh0⟩ := admitHeld0_frame T
  obtain ⟨hq6, hh6⟩ := admitHeld6_frame (admitHeld0 T)
  rw [admitHeld_eq, admitHeld7, hh6, hh0, h]
  exact hq6.trans hq0
end

/-! ## The record of an entry (R182) -/

/-- The record is FULL unless the reference table holds the entry's tag and no key cycle or NODELTA asks for it; else it is the XOR with
the reference value, none where that is 0. -/
theorem valueRecord_eq (T : Tile) : valueRecord (P.cap.noDelta || keyCycle P.cap P.run.cycle) T k e =
    let ref := find T.capRef (e.tag.toNat % 1024)
    let old := (ref.map (·.2)).getD 0
    if P.cap.noDelta = true ∨ P.run.cycle % 2 ^ (P.cap.depth.toNat + 8) = 0 ∨ ref.map (·.1) ≠ some e.tag then some (recValue 2 k e.tag e.data)
    else if e.data = old then none else some (recValue 3 k e.tag (e.data ^^^ old)) := by
  have hfull : (P.cap.noDelta || keyCycle P.cap P.run.cycle) = true ↔ P.cap.noDelta = true ∨ P.run.cycle % 2 ^ (P.cap.depth.toNat + 8) = 0 := by
    simp [keyCycle]
  unfold valueRecord
  cases find T.capRef (e.tag.toNat % 1024) with
  | none => simp
  | some r =>
    simp only [hfull, Option.map_some, Option.getD_some, ne_eq, Option.some.injEq, or_assoc, eq_comm (a := e.data), BitVec.xor_comm e.data]

/-! ## The value share (R184) -/

/-- Where a tile keeps its records, as many are gathered as before. -/
theorem gathered_modTile {f : Tile → Tile} (hf : (f P.tiles[k]).capRecs = P.tiles[k].capRecs) :
    (modTile P k f).tiles.toList.map (·.capRecs.length) = P.tiles.toList.map (·.capRecs.length) := by
  have hk : (f P.tiles[k]).capRecs.length = (P.tiles.toList.map (·.capRecs.length))[k.val]'(by simp) := by
    simpa using congrArg List.length hf
  rw [modTile, vmod, Vector.toList_set, List.map_set, hk, List.set_getElem_self]

/-- What fills the value share is the records, not what else a tile holds. -/
theorem valueFull_modTile {f : Tile → Tile} (hf : (f P.tiles[k]).capRecs = P.tiles[k].capRecs) : valueFull (modTile P k f) = valueFull P := by
  simp only [valueFull, shareUsed, gathered_modTile hf]
  rfl

/-! ## CAPTURE_Q7_POP (R180-R184) -/

/-- A tile whose entry `e` the capture engine has consumed: trigger matching has seen it, and a held push may enter. -/
def popped (e : CapEntry) (rest : List CapEntry) (refs : Sparse (BitVec 16 × Word)) (recs : List DWord) (T : Tile) : Tile :=
  { admitHeld { T with q7 := rest } with capSeen := T.capSeen ++ [e], capRef := refs, capRecs := recs }

/-- The Plain with an entry of tile `k` consumed. -/
def consumed (k : Fin 64) (e : CapEntry) (rest : List CapEntry) (refs : Sparse (BitVec 16 × Word)) (recs : List DWord) (C : Capture) (P : Plain) : Plain :=
  { modTile P k (popped e rest refs recs) with cap := C }

/-- What the reference table, the tile's records and the capture registers become when entry `e` is consumed (R181-R184). -/
def ConsumedAs (k : Fin 64) (e : CapEntry) (P : Plain) (refs : Sparse (BitVec 16 × Word)) (recs : List DWord) (C : Capture) : Prop :=
  let T := P.tiles[k]
  let taken := ins T.capRef (e.tag.toNat % 1024) (e.tag, e.data)
  if logging P = true ∧ selected P.cap k e = true then
    match valueRecord (P.cap.noDelta || keyCycle P.cap P.run.cycle) T k e with
    | none => recs = T.capRecs ∧ refs = taken ∧ C = P.cap
    | some r =>
      if P.cap.lossy = true ∧ (0 < P.cap.discarded ∨ valueFull P = true) then
        recs = T.capRecs ∧ refs = T.capRef ∧ C = { P.cap with discarded := P.cap.discarded + 1, gapCnt := satInc P.cap.gapCnt, gap := true }
      else recs = T.capRecs ++ [r] ∧ refs = taken ∧ C = { P.cap with records := satInc P.cap.records }
  else recs = T.capRecs ∧ refs = T.capRef ∧ C = P.cap

theorem admitHeld_popped (T : Tile) : admitHeld { T with q7 := rest, capSeen := T.capSeen ++ [e] } = popped e rest T.capRef T.capRecs T :=
  admitHeld_withCapture (T.capSeen ++ [e]) T.capRef T.capRecs { T with q7 := rest }

/-- The engine consumes the head of q7: the tile and the capture registers change, and nothing else of the Plain. -/
theorem popCapture_consumed (h : P.tiles[k].q7 = e :: rest) :
    ∃ refs recs C, popCapture k P = consumed k e rest refs recs C P ∧ ConsumedAs k e P refs recs C := by
  have hpop : modTile P k (fun T => admitHeld { T with q7 := rest, capSeen := T.capSeen ++ [e] }) =
      modTile P k (popped e rest P.tiles[k].capRef P.tiles[k].capRecs) := modTile_congr (admitHeld_popped _)
  have hfull : valueFull (modTile P k (popped e rest P.tiles[k].capRef P.tiles[k].capRecs)) = valueFull P := valueFull_modTile rfl
  unfold popCapture ConsumedAs
  simp only [h, hpop, modTile_modTile, modTile_cap, modTile_run, hfull]
  by_cases hsel : logging P = true ∧ selected P.cap k e = true
  · rw [if_neg (by rw [show logging (modTile P k _) = logging P from rfl, hsel.1, hsel.2]; decide)]
    simp only [if_pos hsel]
    cases valueRecord (P.cap.noDelta || keyCycle P.cap P.run.cycle) P.tiles[k] k e with
    | none => exact ⟨_, _, _, rfl, rfl, rfl, rfl⟩
    | some r =>
      by_cases hlost : P.cap.lossy = true ∧ (0 < P.cap.discarded ∨ valueFull P = true)
      · simp only [if_pos hlost]
        rw [if_pos (by simpa using hlost)]
        exact ⟨_, _, _, rfl, rfl, rfl, rfl⟩
      · simp only [if_neg hlost]
        rw [if_neg (by simpa using hlost)]
        exact ⟨_, _, _, rfl, rfl, rfl, rfl⟩
  · rw [if_pos (by rw [show logging (modTile P k _) = logging P from rfl]; simpa [imp_iff_not_or] using hsel)]
    simp only [if_neg hsel]
    exact ⟨_, _, _, rfl, rfl, rfl, rfl⟩

theorem consumed_tiles (refs : Sparse (BitVec 16 × Word)) (recs : List DWord) (C : Capture) :
    (consumed k e rest refs recs C P).tiles[k] = popped e rest refs recs P.tiles[k] := modTile_same _ _ _

/-- An entry of a step whose window is open stays (06 R114). -/
theorem execCaptureQ7Pop_stays (h : q7Pops s.plains[p].run.phase s.plains[p].tiles[k] = false) : execCaptureQ7Pop p k s = .next s :=
  congrArg Host.Outcome.next (modPlain_eq_self (if_pos (.inr (by rw [h]; rfl))))

section
variable (h7 : s.plains[p].tiles[k].q7 = e :: rest) (hpops : q7Pops s.plains[p].run.phase s.plains[p].tiles[k] = true)
include h7 hpops

theorem q7_pops : ¬(s.plains[p].tiles[k].q7 = [] ∨ (!q7Pops s.plains[p].run.phase s.plains[p].tiles[k]) = true) := by
  rw [h7, hpops]
  rintro (h | h)
  · exact List.cons_ne_nil _ _ h
  · exact Bool.false_ne_true h

/-- A full value share that can drain holds the engine (R184). -/
theorem execCaptureQ7Pop_stalls (h : popStops s.plains[p] = true) :
    execCaptureQ7Pop p k s = .next (modPlain s p fun P => { P with cap := { P.cap with stall := true } }) :=
  congrArg Host.Outcome.next (modPlain_congr ((if_neg (q7_pops h7 hpops)).trans (if_pos h)))

theorem execCaptureQ7Pop_consumes (h : popStops s.plains[p] = false) : execCaptureQ7Pop p k s = .next (modPlain s p (popCapture k)) :=
  congrArg Host.Outcome.next (modPlain_congr ((if_neg (q7_pops h7 hpops)).trans (if_neg (by rw [h]; exact Bool.false_ne_true))))
end

/-! ## CAPTURE_DRAIN (R180, R184, R185) -/

/-- The Plain whose oldest staged record `r` has drained into the capture area. -/
def drainedRecord (r : StageRec) (rest : List StageRec) (size : Nat) (P : Plain) : Plain :=
  let stop := P.cap.drained + r.bytes.length
  let C := { P.cap with staging := rest, drained := stop, head := stop % size }
  { P with basin := ringWrite (look 0 P.basin.areaBase 0 * 4096) size (r.bytes.length / size + 2) P.cap.drained r.bytes P.basin
           cap := if size < stop then overwrite (stop - size) C else C }

/-- Staging drains with a reservation or with a power grant. -/
theorem drains_iff : drains s p = true ↔ look 0 s.plains[p].basin.rsv 1 ≠ 0 ∨ granted s p = true := by
  simp only [drains, Bool.or_eq_true, decide_eq_true_eq]

section
variable {r : StageRec} {rest : List StageRec} (hst : s.plains[p].cap.staging = r :: rest)
include hst

/-- With neither a reservation nor a grant nothing drains. -/
theorem execCaptureDrain_waits (h : drains s p = false) : execCaptureDrain p s = .next s := by
  unfold execCaptureDrain
  simp only [hst]
  exact if_pos (.inr (by rw [h]; rfl))

/-- Where the engine may drain and no access goes first, the record drains and the round robin of the port turns. -/
theorem execCaptureDrain_drains (hsize : capSize s.plains[p] ≠ 0) (hdrains : drains s p = true)
    (hturn : look 0 s.plains[p].basin.rsv 1 ≠ 0 ∨ s.plains[p].bus.queue = []) :
    ∃ f : Plain → Plain, execCaptureDrain p s = .next (modPlain s p fun P => drainedRecord r rest (capSize s.plains[p]) (f P)) ∧
      ∀ P, f P = { P with bus := { P.bus with last := (f P).bus.last } } := by
  obtain ⟨f, hf, hbus⟩ := captureTurn_eq (p := p) (s := s) (k := 1)
    (off := look 0 s.plains[p].basin.areaBase 0 * 4096 + s.plains[p].cap.drained % capSize s.plains[p]) (n := r.bytes.length) hturn
  refine ⟨f, ?_, hbus⟩
  unfold execCaptureDrain
  simp only [hst, hf]
  rw [if_neg (by rw [hdrains]; simpa using hsize)]
  exact congrArg Host.Outcome.next (modPlain_modPlain s p f _)
end

theorem overwrite_frame (limit : Nat) (C : Capture) : (overwrite limit C).staging = C.staging ∧ (overwrite limit C).drained = C.drained ∧
    (overwrite limit C).head = C.head ∧ (overwrite limit C).wrapped = true := ⟨rfl, rfl, rfl, rfl⟩

/-- The capture registers after a drain: where nothing is overwritten only the staging buffer and the two positions change, else the
ring has wrapped (R185). -/
theorem drainedRecord_cap (r : StageRec) (rest : List StageRec) (size : Nat) (P : Plain) :
    let C := (drainedRecord r rest size P).cap
    let stop := P.cap.drained + r.bytes.length
    C.staging = rest ∧ C.drained = stop ∧ C.head = stop % size ∧
      if stop ≤ size then C = { P.cap with staging := C.staging, drained := C.drained, head := C.head } else C.wrapped = true := by
  unfold drainedRecord
  dsimp only
  by_cases h : size < P.cap.drained + r.bytes.length
  · rw [if_pos h, if_neg (Nat.not_le.2 h)]
    exact overwrite_frame _ _
  · rw [if_neg h, if_pos (Nat.not_lt.1 h)]
    exact ⟨rfl, rfl, rfl, rfl⟩

/-! ## O5 -/

/-- Settles O5: a consumed entry by what its value record is and where it goes, a drain by the turn that the engine gets. -/
theorem captureConsumesAndDrains : Obligations.CaptureConsumesAndDrains := by
  refine ⟨fun p k s e rest h7 => ⟨execCaptureQ7Pop_stays, execCaptureQ7Pop_stalls h7, fun hpops hgoes => ?_⟩, fun p s r rest hst hsize => ⟨fun hr hg => ?_, fun hturn => ?_⟩⟩
  · obtain ⟨refs, recs, C, hQ, hspec⟩ := popCapture_consumed h7
    refine ⟨_, execCaptureQ7Pop_consumes h7 hpops hgoes, onlyPlain_modPlain s p _, ?_⟩
    rw [modPlain_same, hQ, consumed_tiles]
    refine ⟨fun j hj => modTile_other _ _ _ _ hj, rfl, fun hheld => admitHeld_q7 hheld, ?_, rfl⟩
    rw [ConsumedAs, valueRecord_eq] at hspec
    exact hspec
  · exact execCaptureDrain_waits hst (Bool.eq_false_iff.2 fun h => (drains_iff.1 h).elim (absurd hr) (by rw [hg]; exact Bool.false_ne_true))
  · obtain ⟨f, hrow, hbus⟩ := execCaptureDrain_drains hst hsize (drains_iff.2 (hturn.imp_right And.left)) (hturn.imp_right And.right)
    refine ⟨_, hrow, onlyPlain_modPlain s p _, ?_⟩
    rw [modPlain_same, hbus]
    obtain ⟨hstaging, hdrained, hhead, hcap⟩ := drainedRecord_cap r rest (capSize s.plains[p]) (f s.plains[p])
    rw [hbus] at hstaging hdrained hhead hcap
    exact ⟨hstaging, hdrained, hhead, rfl, hcap, rfl⟩

end Sys2Proof.Machine
end

section
/-! PROOF. A replay that starts while a transfer is in execution (09 R194, R195, 14 R300): what the transfer has written is not logged. -/

namespace Sys2Proof.Machine

-- One proof after the other: the threads of parallel elaboration take their stacks from the check's memory limit.
set_option Elab.async false

/-- A replay without RESTORE may begin at once: the Plain is in HOLD, the log reaches RPL_STOP, and no link closes. -/
def startsReplay (P : Plain) : Prop :=
  P.run.mode = .hold ∧ P.run.after = none ∧ P.run.colDirty = false ∧ P.health.incomplete = false ∧ capSize P ≠ 0 ∧
  P.run.cycle ≤ P.cap.rplStop.toNat ∧ logReaches P P.run.cycle P.cap.rplStop.toNat = true ∧
  (P.links.map (replayLink false)).toList.any closingLink = false

/-- The Plain that a replay without RESTORE waits in while its links close. -/
def replayAsked (k : Nat) (P : Plain) : Plain :=
  { P with links := P.links.map (replayLink false), run := { P.run with after := some (.replay k false) }
           cap := { P.cap with rplSlot := BitVec.ofNat 4 k, rplRestore := false, rplErr := 0, rplActive := true } }

/-- The Plain in REPLAY, before row 9 of its present cycle, as O50 has it of one that has logged its transfers. -/
def inReplay (now : Nat) (F : Plain) : Plain :=
  { F with
    links := F.links.map (emptyIn false)
    run := { F.run with after := none, mode := .replay, prev := .hold, phase := .row9, row9At := now, replayed := true, paceRef := none, late := false }
    cap := { F.cap with rplNext := 0, holdNew := [] } }

/-- How long the log is once what the Plain's transfers have written is logged. -/
def flushedLength (P : Plain) : Nat := (flushParts P).cap.written

theorem inReplay_written (now : Nat) (F : Plain) : (inReplay now F).cap.written = F.cap.written := rfl

theorem inReplay_flushParts_written (now : Nat) (P : Plain) : (inReplay now (flushParts P)).cap.written = flushedLength P := by
  rw [inReplay_written, flushedLength]

/-- O50 on a replay that begins at once: the Plain logs what its transfers have written, and is in REPLAY. -/
theorem replay_of_statement {p : Fin 8} {v : Word} {s : State} (h : Obligations.ReplayRunsFromHoldWithItsLog) (hP : startsReplay s.plains[p])
    (hv : v.getLsbD 4 = false) :
    exec (.rplCtlGo p v) s = .next (modPlain s p fun P => inReplay s.timeNs (flushParts (replayAsked (v.extractLsb' 0 4).toNat P))) := by
  obtain ⟨hmode, hafter, hdirty, hcomplete, hsize, hstop, hlog, hlinks⟩ := hP
  obtain ⟨-, -, -, hgo, -⟩ := (h p s).1 v (by rw [hmode]; decide)
  rw [hv] at hgo
  unfold inReplay replayAsked
  refine hgo ?_ ?_ (by rw [hlinks]; exact Bool.false_ne_true) rfl
  · rw [hmode, hafter, hdirty, hcomplete]
    decide
  · simp only [if_neg hsize, Bool.false_eq_true, if_false, if_neg (Nat.not_lt.2 hstop), hlog, Bool.true_eq_false]

/-- Plain 0 in HOLD before cycle 5, which the log holds, while DMA channel 0 fills 128 bytes of the transaction area with zeros: the
first 64 have been written and are not yet logged. -/
def holdWithTransfer : State :=
  modPlain State.reset 0 fun P => modCh { P with
      run := { P.run with mode := .hold, cycle := 5 }
      basin := { P.basin with areaBase := [(3, 1)], areaSize := [(0, 1), (3, 1)] }
      cap := { P.cap with sections := [(5, 0)], holdParts := [(6, 16)], written := 16, drained := 16, head := 16, rplStop := 5 } } 0 fun C =>
    { C with en := true, running := true, cur := some {
        desc := BitVec.ofNat 256 (0x1000001000 * 2 ^ 64 + 128 * 2 ^ 128 + 2 ^ 160)
        done := { moved := 1, part := [(0x1000001000, List.replicate 64 0)] } } }

theorem startsReplay_holdWithTransfer : startsReplay holdWithTransfer.plains[(0 : Fin 8)] := by
  unfold startsReplay
  decide +kernel

/-- How many bytes have been put into the log of Plain 0 after a command. -/
def writtenAfter (o : Out) : Option Nat :=
  match o with
  | .next t => some t.plains[(0 : Fin 8)].cap.written
  | _ => none

/-- As the replay begins the log stays as long as it was. -/
theorem holdWithTransfer_written : writtenAfter (exec (.rplCtlGo 0 0) holdWithTransfer) = some 16 := by decide +kernel

/-- The EXT_WR record of the transfer would take 80 bytes more. -/
theorem holdWithTransfer_flushed : flushedLength (replayAsked 0 holdWithTransfer.plains[(0 : Fin 8)]) = 96 := by decide +kernel

/-- Refutes O50: its clause on a start without RESTORE keeps what `flushParts` has logged of the transfers in progress (14 R300, log entry
33), while `replayBegin` takes the capture registers from before that, so that the record is lost. The two differ in a HOLD that follows no
replay; in one that does, the record would join those of that HOLD, which both discard. -/
theorem not_replayRunsFromHoldWithItsLog : ¬ Obligations.ReplayRunsFromHoldWithItsLog := by
  intro h
  have hread := holdWithTransfer_written
  rw [replay_of_statement h startsReplay_holdWithTransfer (by decide), writtenAfter, modPlain_same, inReplay_flushParts_written,
    show ((0 : Word).extractLsb' 0 4).toNat = 0 by decide, holdWithTransfer_flushed] at hread
  exact absurd hread (by decide)

end Sys2Proof.Machine
end

section
/-! PROOF. O20, `Obligations.EpochSwitchAndPaceWrites`: EPOCH_SWITCH checks a record and makes it pending or refuses it (10 R214-R216);
PACE_CTL (10 R212, R218). -/

namespace Sys2Proof.Machine

-- One proof after the other: the threads of parallel elaboration take their stacks from the check's memory limit.
set_option Elab.async false

/-! ## PACE_CTL (R218) -/

/-- The Plain after a PACE_CTL write whose STEP_PS the grade allows: a 1 in REFUSED clears that bit, EN and STEP_PS are stored, and
PACE_PERIOD follows. -/
def paceStored (tstep : Nat) (v : Word) (P : Plain) : Plain :=
  recompute tstep { P with ldr := { P.ldr with
    paceRefused := P.ldr.paceRefused && !v.getLsbD 1, paceEn := v.getLsbD 0, stepPs := (v.extractLsb' 16 16).toNat } }

section
variable {tstep : Nat} {v : Word} {P : Plain}

theorem paceWrite_elsewhere (hload : P.run.mode ≠ .load) (hhold : P.run.mode ≠ .hold) : paceWrite tstep v P = P := if_pos ⟨hload, hhold⟩

theorem paceStored_period (hadm : P.run.admitted = true) :
    (paceStored tstep v P).ldr.period = periodOf (v.extractLsb' 16 16).toNat P.ldr.len P.ldr.waitNs := if_pos hadm

variable (hmode : P.run.mode = .load ∨ P.run.mode = .hold)
include hmode

theorem paceWrite_refused (hfast : (v.extractLsb' 16 16).toNat < tstep) :
    paceWrite tstep v P = { P with ldr := { P.ldr with paceRefused := true } } := by
  rw [← fld_eq_extractLsb'] at hfast
  rw [paceWrite, if_neg (fun ⟨hload, hhold⟩ => hmode.elim hload hhold), if_pos hfast]
  split <;> rfl

theorem paceWrite_stored (hallowed : tstep ≤ (v.extractLsb' 16 16).toNat) : paceWrite tstep v P = paceStored tstep v P := by
  rw [← fld_eq_extractLsb'] at hallowed
  rw [paceStored, ← fld_eq_extractLsb', paceWrite, if_neg (fun ⟨hload, hhold⟩ => hmode.elim hload hhold), if_neg (Nat.not_lt.2 hallowed), ← bit, ← bit]
  cases bit v 1
  · rw [if_neg Bool.false_ne_true, Bool.not_false, Bool.and_true]
  · rw [if_pos rfl, Bool.not_true, Bool.and_false]
end

/-! ## EPOCH_SWITCH (R214-R216) -/

/-- A switch may be taken in HOLD or a stepping mode with an image. -/
def switchMode (P : Plain) : Prop := (modeStepping P.run.mode = true ∨ P.run.mode = .hold) ∧ P.run.admitted = true

theorem switchMode_iff {P : Plain} :
    switchMode P ↔ (!(modeStepping P.run.mode || decide (P.run.mode = .hold)) || !P.run.admitted) = false := by
  simp [switchMode, or_iff_not_imp_left]

theorem switchMode.not_load {P : Plain} (h : switchMode P) : P.run.mode ≠ .load := by
  intro hload
  rw [switchMode, hload] at h
  exact absurd h.1 (by decide)

/-- The row's test after the read of the record: the Plain is no longer where the switch may be taken. -/
theorem leftSwitchMode_iff {P : Plain} {before : Option AfterClose} :
    (!(modeStepping P.run.mode || decide (P.run.mode = .hold)) || !P.run.admitted || decide (P.run.after ≠ before)) = true ↔
      ¬((modeStepping P.run.mode = true ∨ P.run.mode = .hold) ∧ P.run.admitted = true ∧ P.run.after = before) := by
  rw [← and_assoc, ← switchMode, switchMode_iff, Bool.or_eq_true, decide_eq_true_eq, not_and_or, Bool.not_eq_false]

theorem noBankOverflow {count : Fin 64 → Nat} (h : ∀ k, count k ≤ 64) : ¬((List.finRange 64).any fun k => decide (64 < count k)) = true := by
  simpa using h

/-- The switch that record `r` makes pending for cycle `target` (R203, R214). -/
def switchOf (seq : Word) (target : Nat) (r : List Byte) (bank : Nat) (P : Plain) : Switch :=
  let h := Config.sha384 (leBytes 48 P.ldr.h.toNat ++ r)
  { seq := seq, target := target, epoch := P.sync.cur.epoch + 1, record := r, h := h, tag := tagOf P.ldr.digest h, bank := bank }

/-- The Plain with switch `w` pending: its bank holds the current one's entries and the record's patches (R216). -/
def withSwitch (w : Switch) (P : Plain) : Plain :=
  { allTiles P (fun k T => { T with overlay := mergedBank T P.ldr.curBank w.bank k.val (patchesOf w.record) }) with
    ldr := { P.ldr with lastRef := 0, switch := some w }
    sync := { P.sync with pend := some { epoch := w.epoch, tag := w.tag, first := w.target } } }

theorem withSwitch_frame (w : Switch) (P : Plain) :
    (withSwitch w P).ldr.switch = some w ∧ (withSwitch w P).sync.pend = some { epoch := w.epoch, tag := w.tag, first := w.target } ∧
    (withSwitch w P).sync.cur = P.sync.cur ∧ (withSwitch w P).ldr.curBank = P.ldr.curBank ∧ (withSwitch w P).hiu = P.hiu ∧
    ∀ k : Fin 64, (withSwitch w P).tiles[k] =
      { P.tiles[k] with overlay := mergedBank P.tiles[k] P.ldr.curBank w.bank k.val (patchesOf w.record) } := by
  simp only [withSwitch, allTiles_hiu, allTiles_at, implies_true, and_self]

/-- Settles O20: EPOCH_SWITCH branch by branch after the read of the record, and PACE_CTL by what a write makes of the Plain. -/
theorem epochSwitchAndPaceWrites : Obligations.EpochSwitchAndPaceWrites := by
  intro p s
  refine ⟨fun seq target addr len hstart hmode hadm hload hswitch => ?_, fun v => ⟨fun hmode hfast => ?_, fun hmode hallowed => ?_,
    fun hload hhold => ?_⟩⟩
  · have hmay : switchMode s.plains[p] := ⟨hmode, hadm⟩
    intro u r code stays ended
    -- What the row answers once it has read the record; each further check that passes leaves the rest of the row.
    have hread : exec (.epochSwitch p seq target addr len) s = _ :=
      (if_neg (by rw [hstart]; decide)).trans <| (if_neg (by rw [hload]; exact fun h => h.elim hmay.not_load (by decide))).trans <|
        (if_neg (by rw [switchMode_iff.1 hmay]; decide)).trans (if_neg (by rw [hswitch]; decide))
    have hstayed (hstays : stays) := hread.trans (if_neg (mt leftSwitchMode_iff.1 (not_not_intro hstays)))
    refine ⟨fun hleft => hread.trans (if_pos (leftSwitchMode_iff.2 hleft)), fun hstays hbad => (hstayed hstays).trans (if_pos hbad),
      fun hstays hform horder => (hstayed hstays).trans ((if_neg hform).trans (if_pos horder)), fun hstays hform horder => ?_⟩
    have hordered := (hstayed hstays).trans ((if_neg hform).trans (if_neg (not_not_intro horder)))
    have hpassed (hcode : code = 0) := hordered.trans (if_neg (not_not_intro hcode))
    refine ⟨fun hcode => hordered.trans (if_pos hcode), fun hcode hlate => (hpassed hcode).trans (if_pos (decide_eq_true hlate)),
      fun hcode hearly => ?_⟩
    have htimely := (hpassed hcode).trans (if_neg (mt of_decide_eq_true (Nat.not_le.2 hearly)))
    refine ⟨fun hnone => ?_, fun bank hbank hfits => ?_⟩
    · rw [htimely, hnone]
      rfl
    · rw [hbank] at htimely
      refine ⟨modPlain u p fun P => withSwitch (switchOf seq target.toNat r bank P) P, switchOf seq target.toNat r bank u.plains[p],
        htimely.trans (if_neg (noBankOverflow hfits)), onlyPlain_modPlain _ _ _, ?_⟩
      rw [modPlain_same]
      obtain ⟨hpending, hrest⟩ := withSwitch_frame (switchOf seq target.toNat r bank u.plains[p]) u.plains[p]
      exact ⟨hpending, rfl, rfl, rfl, rfl, rfl, hrest⟩
  · exact congrArg Host.Outcome.next (modPlain_congr (paceWrite_refused hmode hfast))
  · refine ⟨modPlain s p (paceStored s.fuses.tstepPs v), congrArg Host.Outcome.next (modPlain_congr (paceWrite_stored hmode hallowed)),
      onlyPlain_modPlain _ _ _, ?_⟩
    rw [modPlain_same]
    exact ⟨rfl, rfl, rfl, paceStored_period, rfl⟩
  · exact congrArg Host.Outcome.next (modPlain_eq_self (paceWrite_elsewhere hload hhold))

end Sys2Proof.Machine
end
